-- ==== Sys2Proof/Word.lean ====
section
/-! DEFINITION. The word types of the N4 and the closed sets of names that every other file uses:
streams and engines (R151), cause codes (R454) and status codes (R373). -/
namespace Sys2Proof

/-- A 64-bit strand register (R168). -/
abbrev Word := BitVec 64
/-- One byte of memory. -/
abbrev Byte := BitVec 8
/-- A 32-bit instruction word or vector lane (R146, R245). -/
abbrev W32 := BitVec 32

/-- The three engine streams of a cell (R152), numbered as FORK's mask bits (R153). -/
inductive Engine where
  | vector | matrix | copy
  deriving DecidableEq, Repr

/-- The four streams of a team (R151), numbered as STRM of R456. -/
inductive Stream where
  | strand | vector | matrix | copy
  deriving DecidableEq, Repr

/-- The stream of an engine. -/
def Engine.stream : Engine → Stream
  | .vector => .vector
  | .matrix => .matrix
  | .copy => .copy

/-- FORK and JOIN mask bit of an engine (R153), also the ENG code of R157. -/
def Engine.index : Engine → Nat
  | .vector => 0
  | .matrix => 1
  | .copy => 2

/-- STRM code of a stream (R456). -/
def Stream.code : Stream → Nat
  | .strand => 0
  | .vector => 1
  | .matrix => 2
  | .copy => 3

/-- Cause names (R454). -/
inductive Cause where
  | illLen | illOp | illClass | illRes | illSrc | illPriv | doubleTrap | fetchBound | fetchAlign
  | nestInvalid | nestMismatch | forkState | ldstAlign | rasSpillBound | retUnderflow | unitAbsent
  | ctlInvalid | semTarget | vaultBound | vaultAlign | vqueueFull | vdeferState | vqueueFmt
  | tileInvalid | tileExtent | poison | pathRes | pageFault | pageRo | pathKind | vaultAbsent
  | handleInvalid | handleBound | handleRo | jobInvalid | qwInvalid | jobRange | syncPath
  | barState | launchInvalid | taskInvalid | graphInvalid | illShape | illPrec | childSpillFull
  | collInvalid | collName | collBuf | collTable | bankProg | bankAddr | peerAbsent | sysInvalid
  | teamHalt
  /-- `SOFT0` to `SOFT31` (R233). -/
  | soft (n : BitVec 5)
  | cellLost | faultqDrop | semOverflow | mePoison | memUe | barOverrun | bankStop
  | parkGatherXlate | parkScatterXlate | parkPoison | parkBound
  | peerLost | migrateReq | remoteFault | leaseNotice
  | keyNone | keySlotsFull
  deriving DecidableEq, Repr

/-- The 10-bit code of a cause (R454). -/
def Cause.code : Cause → Nat
  | .illLen => 1 | .illOp => 2 | .illClass => 3 | .illRes => 4 | .illSrc => 5 | .illPriv => 6
  | .doubleTrap => 7 | .fetchBound => 8 | .fetchAlign => 9 | .nestInvalid => 10
  | .nestMismatch => 11 | .forkState => 12 | .ldstAlign => 13 | .rasSpillBound => 14
  | .retUnderflow => 15 | .unitAbsent => 16 | .ctlInvalid => 17 | .semTarget => 18
  | .vaultBound => 19 | .vaultAlign => 20 | .vqueueFull => 21 | .vdeferState => 22
  | .vqueueFmt => 23 | .tileInvalid => 24 | .tileExtent => 25 | .poison => 26 | .pathRes => 27
  | .pageFault => 28 | .pageRo => 29 | .pathKind => 30 | .vaultAbsent => 31
  | .handleInvalid => 32 | .handleBound => 33 | .handleRo => 34 | .jobInvalid => 35
  | .qwInvalid => 36 | .jobRange => 37 | .syncPath => 38 | .barState => 39
  | .launchInvalid => 40 | .taskInvalid => 41 | .graphInvalid => 42 | .illShape => 43
  | .illPrec => 44 | .childSpillFull => 45 | .collInvalid => 46 | .collName => 47
  | .collBuf => 48 | .collTable => 49 | .bankProg => 50 | .bankAddr => 51 | .peerAbsent => 52
  | .sysInvalid => 53 | .teamHalt => 54 | .soft n => 224 + n.toNat
  | .cellLost => 256 | .faultqDrop => 257 | .semOverflow => 260 | .mePoison => 261
  | .memUe => 262 | .barOverrun => 263 | .bankStop => 264
  | .parkGatherXlate => 512 | .parkScatterXlate => 513 | .parkPoison => 514 | .parkBound => 515
  | .peerLost => 640 | .migrateReq => 656 | .remoteFault => 657 | .leaseNotice => 658
  | .keyNone => 768 | .keySlotsFull => 769

/-- What the STATUS field of a completion record can say: a status code of R373 (SC = 0) or a cause (SC = 1). -/
inductive Status where
  | ok | sent | remoteLost | parkDiscarded | notResident | pinConflict | pinLimit | qentryInvalid
  | queueOverrun | remoteFaultSt | pinFull | limitHit | calLate
  | cause (c : Cause)
  deriving DecidableEq, Repr

/-- SC and STATUS of a completion record (R372, R373). -/
def Status.scCode : Status → Nat × Nat
  | .ok => (0, 0) | .sent => (0, 1) | .remoteLost => (0, 2) | .parkDiscarded => (0, 3)
  | .notResident => (0, 4) | .pinConflict => (0, 5) | .pinLimit => (0, 6)
  | .qentryInvalid => (0, 7) | .queueOverrun => (0, 8) | .remoteFaultSt => (0, 9)
  | .pinFull => (0, 10) | .limitHit => (0, 11) | .calLate => (0, 12)
  | .cause c => (1, c.code)

end Sys2Proof
end

