-- ==== Sys2Proof/Config.lean ====
section
/-! DEFINITION. What the spec leaves to the part or leaves open. The `opaque` constants are the FREE VALUES of the
model: they have no body, nothing can evaluate them, and every statement holds whatever they are (log 3). The plain
constants are what one implementation fixes. -/
namespace Sys2Proof.Config

/-- A fresh free 64-bit value; applied to `State.free`, which every use advances (log 3). -/
opaque freeWord : Nat → BitVec 64

/-- Result bits of a special function (R257) that the spec leaves open within its error bound: the function's number,
grade, and input; the same bits on every run and in every cell, as R257 asks (log 12). -/
opaque special : Nat → Bool → BitVec 32 → BitVec 32

/-- The digests of the part's boot ROM, Soreb firmware and hub firmware (R492), by number (log 14). -/
opaque firmware : Nat → BitVec 384

/-- The report's ECDSA signature r, s over the report's first part (R492), its first byte most significant, as an uninterpreted function (log 15). -/
opaque ecdsa : List (BitVec 8) → BitVec 768

/-- The 512 bits of each key (R489), by key number: the generator that draws them is not observable (log 101). -/
opaque keyBits : Nat → BitVec 512

/-- What a system access finds at a local address that does not exist, or in a line that cannot be read (log 102). -/
opaque lostByte : Nat → BitVec 8

/-- The set of a die's shared TLB that holds a translation: context, page base and log2 of its size (R315, log 103). -/
opaque tlbSet : Nat → Nat → Nat → Nat

/-- The CAPS register of the part at power-on: STEP 1, four dies, eight stacks, every unit present (R1): the variant N4,
and the silicon stepping 1 (DESIGN CHOICE, log 5). -/
def capsReset : BitVec 32 := 0x1000FFFF

end Sys2Proof.Config
end

