-- ==== Sys2Proof/Syntax.lean ====
section
/-! DEFINITION. The instructions and device events of the N4: one constructor of `Instr` for each row of
spec/opcode_table.json. An encoded instruction carries the fields of its layout (R168 to R173) as the encoding
gives them; which values of those fields are legal is `Sys2Proof.Instr.check` (WellFormed.lean). An event row has no
encoding and no operands: which unit of the device it happens at, and what arrives from outside, is the event's
argument (`Machine.EvArg`), which the step lays into `Machine.State.arg`. -/
namespace Sys2Proof

/-- Strand, sync and system layout, 32-bit form (R168). -/
structure S32 where
  md : BitVec 3
  rs2 : BitVec 5
  rs1 : BitVec 5
  rd : BitVec 5
  pg : BitVec 3
  deriving DecidableEq, Repr

/-- Strand, sync and system layout, 64-bit form: the first word and IMM (R168). -/
structure S64 where
  r : S32
  imm : BitVec 32
  deriving DecidableEq, Repr

/-- Strand layout, 96-bit form: the first word, IMM and LIT (R168). -/
structure S96 where
  r : S32
  imm : BitVec 32
  lit : BitVec 32
  deriving DecidableEq, Repr

/-- Vector layout, 32-bit short form (R169, R170). -/
structure V32 where
  vd : BitVec 6
  wbs : BitVec 1
  vs1 : BitVec 7
  vs2 : BitVec 7
  deriving DecidableEq, Repr

/-- Vector layout, 64-bit form (R169). -/
structure V64 where
  r : V32
  f : BitVec 1
  l : BitVec 1
  lv : BitVec 3
  vs3 : BitVec 7
  men : BitVec 1
  msk : BitVec 4
  ty : BitVec 4
  rnd : BitVec 2
  sq : BitVec 1
  hs : BitVec 2
  swz : BitVec 3
  fn : BitVec 3
  deriving DecidableEq, Repr

/-- Vector layout, 96-bit form (R169). -/
structure V96 where
  v : V64
  lit : BitVec 32
  deriving DecidableEq, Repr

/-- Matrix layout (R171); `rsv` holds bits [37:32], which are RES0. -/
structure M64 where
  ta : BitVec 6
  tb : BitVec 6
  ab : BitVec 1
  m : BitVec 2
  nn : BitVec 6
  f : BitVec 1
  l : BitVec 1
  lv : BitVec 3
  tc : BitVec 6
  sub : BitVec 4
  nra : BitVec 1
  aga : BitVec 2
  nrb : BitVec 1
  agb : BitVec 2
  sreg : BitVec 5
  rsv : BitVec 6
  deriving DecidableEq, Repr

/-- Matrix layout with LIT (R171). -/
structure M96 where
  x : M64
  lit : BitVec 32
  deriving DecidableEq, Repr

/-- Copy and data layout, 64-bit form (R172). -/
structure C64 where
  wsem : BitVec 8
  wv : BitVec 1
  ssem : BitVec 8
  sv : BitVec 1
  md : BitVec 3
  f : BitVec 1
  l : BitVec 1
  lv : BitVec 3
  ag : BitVec 2
  nr : BitVec 1
  qw : BitVec 4
  sa : BitVec 5
  sb : BitVec 5
  aux : BitVec 10
  deriving DecidableEq, Repr

/-- Copy and data layout, 96-bit form (R172). -/
structure C96 where
  c : C64
  lit : BitVec 32
  deriving DecidableEq, Repr

/-- Copy and data layout of a row that stands for both lengths: `none` is the 64-bit form, `some lit` the 96-bit
form (R185). -/
structure COpt where
  c : C64
  lit : Option (BitVec 32)
  deriving DecidableEq, Repr

/-- Marker layout (R173): the slot in bit [11], and bits [31:12], which are RES0. -/
structure Mark where
  eng : Engine
  rsv : BitVec 20
  slot : BitVec 1
  deriving DecidableEq, Repr

/-- Near-bank layout, 32-bit form (R173). -/
structure N32 where
  a : BitVec 3
  b : BitVec 3
  imm15 : BitVec 15
  deriving DecidableEq, Repr

/-- Near-bank layout, 64-bit form (R173). -/
structure N64 where
  n : N32
  imm32 : BitVec 32
  deriving DecidableEq, Repr

/-- Near-bank layout of a row that stands for both lengths (R188): `none` is the 32-bit form. -/
structure NOpt where
  n : N32
  imm32 : Option (BitVec 32)
  deriving DecidableEq, Repr

/-- One constructor for each row of spec/opcode_table.json; the docstring is the row's rule. -/
inductive Instr where
  /-- QUEUE_DOORBELL (R81), an event. -/
  | queueDoorbell
  /-- QUEUE_ENABLE (R82), an event. -/
  | queueEnable
  /-- QUEUE_DISABLE (R82), an event. -/
  | queueDisable
  /-- ARBITRATION_DISPATCH (R94), an event. -/
  | arbitrationDispatch
  /-- SLICE_END (R92), an event. -/
  | sliceEnd
  /-- QUEUE_AGING (R96), an event. -/
  | queueAging
  /-- ACCT_USED_WRITEBACK (R99), an event. -/
  | acctUsedWriteback
  /-- CHILD_SPILL_REFILL (R104), an event. -/
  | childSpillRefill
  /-- GRAPH_CONDITIONAL_READ (R46), an event. -/
  | graphConditionalRead
  /-- GRAPH_REARM (R89), an event. -/
  | graphRearm
  /-- GRAPH_COPY_NODE_DONE (R45), an event. -/
  | graphCopyNodeDone
  /-- HUB_STAGE_SWITCH (R107), an event. -/
  | hubStageSwitch
  /-- SWITCH_HARD_STOP (R108), an event. -/
  | switchHardStop
  /-- STAGE_SWITCH_FLIP (R108), an event. -/
  | stageSwitchFlip
  /-- CELL_ALLOT_WRITE (R114), an event. -/
  | cellAllotWrite
  /-- GANG_PLACE (R116), an event. -/
  | gangPlace
  /-- GANG_SLICE_END (R119), an event. -/
  | gangSliceEnd
  /-- SWAP_OUT_COMPLETE (R121), an event. -/
  | swapOutComplete
  /-- SWAP_IN_COMPLETE (R120), an event. -/
  | swapInComplete
  /-- TASK_ACCEPT (R124), an event. -/
  | taskAccept
  /-- TASK_DEADLINE (R126), an event. -/
  | taskDeadline
  /-- PASS_FORM (R128), an event. -/
  | passForm
  /-- PASS_GATHER_DONE (R141), an event. -/
  | passGatherDone
  /-- PASS_COLUMN_GROUP_END (R132), an event. -/
  | passColumnGroupEnd
  /-- PASS_SCATTER_DONE (R141), an event. -/
  | passScatterDone
  /-- RESUME_DOORBELL (R138), an event. -/
  | resumeDoorbell
  /-- RESUMED_SCATTER_DONE (R138), an event. -/
  | resumedScatterDone
  /-- BARKER_ADVERTISE_TABLE (R142), an event. -/
  | barkerAdvertiseTable
  /-- BARKER_ADVERTISE_CHANGE (R142), an event. -/
  | barkerAdvertiseChange
  /-- BARKER_ADVERT_RECEIVE (R143), an event. -/
  | barkerAdvertReceive
  /-- BARKER_PAIR_EXPIRE (R143), an event. -/
  | barkerPairExpire
  /-- STEERED_TASK_ARRIVE (R145), an event. -/
  | steeredTaskArrive
  /-- STEER_REFUSED (R145), an event. -/
  | steerRefused
  /-- STEERED_RESULTS_RECEIVE (R145), an event. -/
  | steeredResultsReceive
  /-- VE_RESULT_LAND (R238), an event. -/
  | veResultLand
  /-- PRODUCT_LAND (R285), an event. -/
  | productLand
  /-- LOAD_RETURN (R197), an event. -/
  | loadReturn
  /-- PAGE_WALK_COMPLETE (R315), an event. -/
  | pageWalkComplete
  /-- TIER_SWAP_COMPLETE (R329), an event. -/
  | tierSwapComplete
  /-- COUNTER_DECAY (R329), an event. -/
  | counterDecay
  /-- VAULT_SCRUB (R323), an event. -/
  | vaultScrub
  /-- CAROUSEL_SLOT (R332), an event. -/
  | carouselSlot
  /-- NB_RESUME (R342), an event. -/
  | nbResume
  /-- JOB_START (R350), an event. -/
  | jobStart
  /-- JOB_COMPLETE (R354), an event. -/
  | jobComplete
  /-- PORT_RECEIVE (R364), an event. -/
  | portReceive
  /-- RST_ACKNOWLEDGE (R504), an event. -/
  | rstAcknowledge
  /-- REMOTE_FAULT (R363), an event. -/
  | remoteFault
  /-- COLL_CHUNK_RECEIVE (R414), an event. -/
  | collChunkReceive
  /-- COLL_CHUNK_ACK (R414), an event. -/
  | collChunkAck
  /-- LEASE_GRANT (R435), an event. -/
  | leaseGrant
  /-- LEASE_RETUNE_DONE (R436), an event. -/
  | leaseRetuneDone
  /-- LEASE_DURATION_END (R436), an event. -/
  | leaseDurationEnd
  /-- LEASE_REVOKE_NOTICE (R437), an event. -/
  | leaseRevokeNotice
  /-- LEASE_NOTICE_EXPIRE (R436), an event. -/
  | leaseNoticeExpire
  /-- LEASE_RETUNE_BACK_DONE (R436), an event. -/
  | leaseRetuneBackDone
  /-- FABRIC_PACKET_RECEIVE (R433), an event. -/
  | fabricPacketReceive
  /-- FABRIC_ACK_RECEIVE (R432), an event. -/
  | fabricAckReceive
  /-- PEER_LOSS_TIMEOUT (R441), an event. -/
  | peerLossTimeout
  /-- PEER_LOST_DECLARE (R441), an event. -/
  | peerLostDeclare
  /-- PARTITION_QUIESCE (R441), an event. -/
  | partitionQuiesce
  /-- QUIESCE_LIFT (R442), an event. -/
  | quiesceLift
  /-- FABCFG_WRITE (R429), an event. -/
  | fabcfgWrite
  /-- WAVELENGTH_FAIL (R494), an event. -/
  | wavelengthFail
  /-- HBM_CHANNEL_SPARE (R494), an event. -/
  | hbmChannelSpare
  /-- CELL_FAIL (R493), an event. -/
  | cellFail
  /-- PREEMPT_REQUEST (R469), an event. -/
  | preemptRequest
  /-- PREEMPT_DRAINED (R470), an event. -/
  | preemptDrained
  /-- PREEMPT_HARD_STOP (R471), an event. -/
  | preemptHardStop
  /-- ASYNC_TRAP_TAKE (R464), an event. -/
  | asyncTrapTake
  /-- HUB_REQUEST_DONE (R477), an event. -/
  | hubRequestDone
  /-- GRID_COMPLETE (R504), an event. -/
  | gridComplete
  /-- HOST_RING_ENTRY_WRITE (R508), an event. -/
  | hostRingEntryWrite
  /-- RING_INTERRUPT_TIMEOUT (R511), an event. -/
  | ringInterruptTimeout
  /-- RING_ENABLE (R507), an event. -/
  | ringEnable
  /-- STOP_COMMAND (R515), an event. -/
  | stopCommand
  /-- FREE_COMMAND (R517), an event. -/
  | freeCommand
  /-- STOP_REPORT (R515), an event. -/
  | stopReport
  /-- ATTEST (R492), an event. -/
  | attest
  /-- ATTEST_REPORT_DONE (R492), an event. -/
  | attestReportDone
  /-- FULL_RESET (R518), an event. -/
  | fullReset
  /-- SCRUB_END (R487), an event. -/
  | scrubEnd
  /-- SCRUB_TIMEOUT (R487), an event. -/
  | scrubTimeout
  /-- START_COMPLETE (R495), an event. -/
  | startComplete
  /-- START_FAIL (R495), an event. -/
  | startFail
  /-- START_TIMEOUT (R495), an event. -/
  | startTimeout
  /-- VF_FUNCTION_LEVEL_RESET (R518), an event. -/
  | vfFunctionLevelReset
  /-- REGISTER_WRITE (R9), an event. -/
  | registerWrite
  /-- ADD (R203). -/
  | add (x : S32)
  /-- ADD_IMM (R203). -/
  | addImm (x : S64)
  /-- SUB (R203). -/
  | sub (x : S32)
  /-- SUB_IMM (R203). -/
  | subImm (x : S64)
  /-- MUL (R203). -/
  | mul (x : S32)
  /-- MUL_IMM (R203). -/
  | mulImm (x : S64)
  /-- MULH (R203). -/
  | mulh (x : S32)
  /-- MULH_IMM (R203). -/
  | mulhImm (x : S64)
  /-- DIV (R203). -/
  | div (x : S32)
  /-- DIV_IMM (R203). -/
  | divImm (x : S64)
  /-- REM (R203). -/
  | rem (x : S32)
  /-- REM_IMM (R203). -/
  | remImm (x : S64)
  /-- AND (R203). -/
  | and (x : S32)
  /-- AND_IMM (R203). -/
  | andImm (x : S64)
  /-- OR (R203). -/
  | or (x : S32)
  /-- OR_IMM (R203). -/
  | orImm (x : S64)
  /-- XOR (R203). -/
  | xor (x : S32)
  /-- XOR_IMM (R203). -/
  | xorImm (x : S64)
  /-- SHL (R203). -/
  | shl (x : S32)
  /-- SHL_IMM (R203). -/
  | shlImm (x : S64)
  /-- SHR (R203). -/
  | shr (x : S32)
  /-- SHR_IMM (R203). -/
  | shrImm (x : S64)
  /-- SRA (R203). -/
  | sra (x : S32)
  /-- SRA_IMM (R203). -/
  | sraImm (x : S64)
  /-- MIN (R203). -/
  | min (x : S32)
  /-- MIN_IMM (R203). -/
  | minImm (x : S64)
  /-- MAX (R203). -/
  | max (x : S32)
  /-- MAX_IMM (R203). -/
  | maxImm (x : S64)
  /-- CLZ (R204). -/
  | clz (x : S32)
  /-- POPC (R204). -/
  | popc (x : S32)
  /-- BFX (R205). -/
  | bfx (x : S32)
  /-- BFX_IMM (R205). -/
  | bfxImm (x : S64)
  /-- BFI (R205). -/
  | bfi (x : S32)
  /-- BFI_IMM (R205). -/
  | bfiImm (x : S64)
  /-- EXT (R205). -/
  | ext (x : S32)
  /-- EXT_IMM (R205). -/
  | extImm (x : S64)
  /-- CMP (R206). -/
  | cmp (x : S32)
  /-- CMP_IMM (R206). -/
  | cmpImm (x : S64)
  /-- SEL (R207). -/
  | sel (x : S32)
  /-- LI_64 (R208). -/
  | li64 (x : S64)
  /-- LI_96 (R208). -/
  | li96 (x : S96)
  /-- LEA (R213). -/
  | lea (x : S64)
  /-- LD (R210). -/
  | ld (x : S32)
  /-- LD_IMM (R210). -/
  | ldImm (x : S64)
  /-- ST (R210). -/
  | st (x : S32)
  /-- ST_IMM (R210). -/
  | stImm (x : S64)
  /-- BR (R214). -/
  | br (x : S64)
  /-- JMP (R214). -/
  | jmp (x : S64)
  /-- CALL (R216). -/
  | call (x : S64)
  /-- LOOP (R214). -/
  | loop (x : S64)
  /-- JMPX (R215). -/
  | jmpx (x : S32)
  /-- RET (R216). -/
  | ret (x : S32)
  /-- NOP (R235). -/
  | nop (x : S32)
  /-- NOP_64 (R235). -/
  | nop64 (x : S64)
  /-- NOP_96 (R235). -/
  | nop96 (x : S96)
  /-- END (R236). -/
  | endTeam (x : S32)
  /-- FORK (R217). -/
  | fork (x : S96)
  /-- JOIN (R218). -/
  | join (x : S32)
  /-- NEST_SET (R219). -/
  | nestSet (x : S32)
  /-- NEST_GO (R160). -/
  | nestGo (x : S32)
  /-- NEST_CLAMP (R163). -/
  | nestClamp (x : S32)
  /-- LAUNCH (R221). -/
  | launch (x : S64)
  /-- TSUB (R221). -/
  | tsub (x : S64)
  /-- TRESUME (R222). -/
  | tresume (x : S32)
  /-- GRAPH_ARM (R221). -/
  | graphArm (x : S64)
  /-- EVQ_POP (R224). -/
  | evqPop (x : S32)
  /-- EVQ_WAIT (R224). -/
  | evqWait (x : S32)
  /-- SEM_SIG (R226). -/
  | semSig (x : S32)
  /-- SEM_SIG_IMM (R226). -/
  | semSigImm (x : S64)
  /-- SEM_WAIT (R226). -/
  | semWait (x : S32)
  /-- SEM_WAIT_IMM (R226). -/
  | semWaitImm (x : S64)
  /-- SEM_SET (R226). -/
  | semSet (x : S64)
  /-- SEM_RSIG (R227). -/
  | semRsig (x : S64)
  /-- CTL_RD (R228). -/
  | ctlRd (x : S32)
  /-- CTL_WR (R228). -/
  | ctlWr (x : S32)
  /-- TSTAMP (R231). -/
  | tstamp (x : S32)
  /-- STAGE_SW (R232). -/
  | stageSw (x : S32)
  /-- TRAP (R233). -/
  | trap (x : S32)
  /-- ERET (R466). -/
  | eret (x : S32)
  /-- VADD (R248). -/
  | vadd (x : V32)
  /-- VADD_FULL (R248). -/
  | vaddFull (x : V64)
  /-- VSUB (R248). -/
  | vsub (x : V32)
  /-- VSUB_FULL (R248). -/
  | vsubFull (x : V64)
  /-- VMUL (R248). -/
  | vmul (x : V32)
  /-- VMUL_FULL (R248). -/
  | vmulFull (x : V64)
  /-- VFMA (R248). -/
  | vfma (x : V64)
  /-- VMIN (R248). -/
  | vmin (x : V32)
  /-- VMIN_FULL (R248). -/
  | vminFull (x : V64)
  /-- VMAX (R248). -/
  | vmax (x : V32)
  /-- VMAX_FULL (R248). -/
  | vmaxFull (x : V64)
  /-- VABS (R248). -/
  | vabs (x : V64)
  /-- VNEG (R248). -/
  | vneg (x : V64)
  /-- VAND (R248). -/
  | vand (x : V32)
  /-- VAND_FULL (R248). -/
  | vandFull (x : V64)
  /-- VOR (R248). -/
  | vor (x : V32)
  /-- VOR_FULL (R248). -/
  | vorFull (x : V64)
  /-- VXOR (R248). -/
  | vxor (x : V32)
  /-- VXOR_FULL (R248). -/
  | vxorFull (x : V64)
  /-- VSHL (R248). -/
  | vshl (x : V64)
  /-- VSHR (R248). -/
  | vshr (x : V64)
  /-- VCMP (R249). -/
  | vcmp (x : V64)
  /-- VSEL (R250). -/
  | vsel (x : V64)
  /-- VMOV (R251). -/
  | vmov (x : V32)
  /-- VMOV_FULL (R251). -/
  | vmovFull (x : V64)
  /-- VLI (R251). -/
  | vli (x : V96)
  /-- VCVT (R253). -/
  | vcvt (x : V64)
  /-- VWID (R255). -/
  | vwid (x : V64)
  /-- VNAR (R255). -/
  | vnar (x : V64)
  /-- VPACK (R256). -/
  | vpack (x : V64)
  /-- VUNPK (R256). -/
  | vunpk (x : V64)
  /-- VRCP (R257). -/
  | vrcp (x : V64)
  /-- VRSQ (R257). -/
  | vrsq (x : V64)
  /-- VEXP (R257). -/
  | vexp (x : V64)
  /-- VLOG (R257). -/
  | vlog (x : V64)
  /-- VTANH (R257). -/
  | vtanh (x : V64)
  /-- VSIGM (R257). -/
  | vsigm (x : V64)
  /-- VGELU (R257). -/
  | vgelu (x : V64)
  /-- VSIN (R257). -/
  | vsin (x : V64)
  /-- VRCPS (R259). -/
  | vrcps (x : V64)
  /-- VRSQS (R259). -/
  | vrsqs (x : V64)
  /-- VRSUM (R260). -/
  | vrsum (x : V64)
  /-- VRMAX (R260). -/
  | vrmax (x : V64)
  /-- VRMIN (R260). -/
  | vrmin (x : V64)
  /-- VSCAN (R261). -/
  | vscan (x : V64)
  /-- VARGMAX (R262). -/
  | vargmax (x : V64)
  /-- VTOPK (R262). -/
  | vtopk (x : V64)
  /-- VPERM (R263). -/
  | vperm (x : V64)
  /-- VSHUF (R263). -/
  | vshuf (x : V64)
  /-- VBCAST (R263). -/
  | vbcast (x : V64)
  /-- VIOTA (R263). -/
  | viota (x : V64)
  /-- VMAND (R264). -/
  | vmand (x : V64)
  /-- VMOR (R264). -/
  | vmor (x : V64)
  /-- VMNOT (R264). -/
  | vmnot (x : V64)
  /-- VMPOP (R264). -/
  | vmpop (x : V64)
  /-- VQNT (R265). -/
  | vqnt (x : V64)
  /-- VDQNT (R266). -/
  | vdqnt (x : V64)
  /-- VLD (R267). -/
  | vld (x : V96)
  /-- VST (R267). -/
  | vst (x : V96)
  /-- VLDX (R267). -/
  | vldx (x : V96)
  /-- VSTX (R267). -/
  | vstx (x : V96)
  /-- VDEFER (R272). -/
  | vdefer (x : V64)
  /-- VDRAIN (R272). -/
  | vdrain (x : V64)
  /-- VDRET (R272). -/
  | vdret (x : V64)
  /-- VBR (R273). -/
  | vbr (x : V96)
  /-- VLOOP (R273). -/
  | vloop (x : V96)
  /-- VTAKE (R274). -/
  | vtake (x : V64)
  /-- VGIVE (R274). -/
  | vgive (x : V64)
  /-- NEST_BEG (R159). -/
  | nestBeg (x : Mark)
  /-- NEST_END (R159). -/
  | nestEnd (x : Mark)
  /-- RDV (R155). -/
  | rdv (x : Mark)
  /-- ENGINE_END (R155). -/
  | engineEnd (x : Mark)
  /-- MMA (R287). -/
  | mma (x : M64)
  /-- MMAZ (R287). -/
  | mmaz (x : M64)
  /-- MMAG (R288). -/
  | mmag (x : M64)
  /-- MCONST (R289). -/
  | mconst (x : M64)
  /-- MPREC (R290). -/
  | mprec (x : M96)
  /-- MSCALE (R291). -/
  | mscale (x : M64)
  /-- MOWN (R292). -/
  | mown (x : M64)
  /-- MCLR (R293). -/
  | mclr (x : M64)
  /-- MCVT (R294). -/
  | mcvt (x : M64)
  /-- MSCAT (R295). -/
  | mscat (x : M64)
  /-- MFREE (R299). -/
  | mfree (x : M64)
  /-- CP (R356). -/
  | cp (x : C64)
  /-- CP_96 (R356). -/
  | cp96 (x : C96)
  /-- CPC (R357). -/
  | cpc (x : C64)
  /-- CPC_96 (R357). -/
  | cpc96 (x : C96)
  /-- CPG (R358). -/
  | cpg (x : C64)
  /-- CPG_96 (R358). -/
  | cpg96 (x : C96)
  /-- CPS (R358). -/
  | cps (x : C64)
  /-- CPS_96 (R358). -/
  | cps96 (x : C96)
  /-- CPK (R356). -/
  | cpk (x : C64)
  /-- CPK_96 (R356). -/
  | cpk96 (x : C96)
  /-- QINIT (R366). -/
  | qinit (x : C64)
  /-- QINIT_96 (R366). -/
  | qinit96 (x : C96)
  /-- QPUSH (R367). -/
  | qpush (x : C64)
  /-- QPUSH_96 (R367). -/
  | qpush96 (x : C96)
  /-- QPOP (R367). -/
  | qpop (x : C64)
  /-- QPOP_96 (R367). -/
  | qpop96 (x : C96)
  /-- QPEEK (R367). -/
  | qpeek (x : COpt)
  /-- PREF (R359). -/
  | pref (x : C64)
  /-- PREF_96 (R359). -/
  | pref96 (x : C96)
  /-- PIN (R360). -/
  | pin (x : C64)
  /-- PIN_96 (R360). -/
  | pin96 (x : C96)
  /-- UNPIN (R361). -/
  | unpin (x : C64)
  /-- UNPIN_96 (R361). -/
  | unpin96 (x : C96)
  /-- KVCOMMIT (R362). -/
  | kvcommit (x : C64)
  /-- KVCOMMIT_96 (R362). -/
  | kvcommit96 (x : C96)
  /-- RST (R363). -/
  | rst (x : C64)
  /-- RST_96 (R363). -/
  | rst96 (x : C96)
  /-- RLD (R363). -/
  | rld (x : C64)
  /-- RLD_96 (R363). -/
  | rld96 (x : C96)
  /-- LSEND (R364). -/
  | lsend (x : C64)
  /-- LSEND_96 (R364). -/
  | lsend96 (x : C96)
  /-- LRADD (R364). -/
  | lradd (x : C64)
  /-- LRADD_96 (R364). -/
  | lradd96 (x : C96)
  /-- TSLOT_SET (R368). -/
  | tslotSet (x : C64)
  /-- TSLOT_SET_96 (R368). -/
  | tslotSet96 (x : C96)
  /-- TFULL (R368). -/
  | tfull (x : COpt)
  /-- TEMPTY (R368). -/
  | tempty (x : COpt)
  /-- TWAIT (R368). -/
  | twait (x : COpt)
  /-- FOOT (R370). -/
  | foot (x : C64)
  /-- FOOT_96 (R370). -/
  | foot96 (x : C96)
  /-- AMO_ADD (R400). -/
  | amoAdd (x : S32)
  /-- AMO_ADD_IMM (R400). -/
  | amoAddImm (x : S64)
  /-- AMO_MIN (R400). -/
  | amoMin (x : S32)
  /-- AMO_MIN_IMM (R400). -/
  | amoMinImm (x : S64)
  /-- AMO_MAX (R400). -/
  | amoMax (x : S32)
  /-- AMO_MAX_IMM (R400). -/
  | amoMaxImm (x : S64)
  /-- AMO_XCHG (R400). -/
  | amoXchg (x : S32)
  /-- AMO_XCHG_IMM (R400). -/
  | amoXchgImm (x : S64)
  /-- AMO_CAS (R400). -/
  | amoCas (x : S32)
  /-- AMO_CAS_IMM (R400). -/
  | amoCasImm (x : S64)
  /-- AMO_AND (R400). -/
  | amoAnd (x : S32)
  /-- AMO_AND_IMM (R400). -/
  | amoAndImm (x : S64)
  /-- AMO_OR (R400). -/
  | amoOr (x : S32)
  /-- AMO_OR_IMM (R400). -/
  | amoOrImm (x : S64)
  /-- VAMO (R402). -/
  | vamo (x : V64)
  /-- FENCE (R385). -/
  | fence (x : S32)
  /-- BAR_EXP (R407). -/
  | barExp (x : S64)
  /-- BAR_WAIT (R407). -/
  | barWait (x : S64)
  /-- BAR_ARR (R407). -/
  | barArr (x : S64)
  /-- COLL_REG (R410). -/
  | collReg (x : S64)
  /-- COLL_AR (R413). -/
  | collAr (x : S64)
  /-- COLL_AG (R413). -/
  | collAg (x : S64)
  /-- COLL_RS (R413). -/
  | collRs (x : S64)
  /-- COLL_FREE (R416). -/
  | collFree (x : S64)
  /-- LEASE_REQ (R417). -/
  | leaseReq (x : S64)
  /-- LEASE_RET (R417). -/
  | leaseRet (x : S64)
  /-- LEASE_Q (R418). -/
  | leaseQ (x : S64)
  /-- BANK_RUN (R421). -/
  | bankRun (x : S64)
  /-- BANK_STAT (R502). -/
  | bankStat (x : S64)
  /-- CODE_REG (R478). -/
  | codeReg (x : S32)
  /-- CODE_REG_64 (R478). -/
  | codeReg64 (x : S64)
  /-- KEY_ALLOC (R489). -/
  | keyAlloc (x : S32)
  /-- KEY_ALLOC_64 (R489). -/
  | keyAlloc64 (x : S64)
  /-- KEY_REVOKE (R491). -/
  | keyRevoke (x : S32)
  /-- KEY_REVOKE_64 (R491). -/
  | keyRevoke64 (x : S64)
  /-- CTX_SAVE (R479). -/
  | ctxSave (x : S32)
  /-- CTX_SAVE_64 (R479). -/
  | ctxSave64 (x : S64)
  /-- CTX_LOAD (R480). -/
  | ctxLoad (x : S32)
  /-- CTX_LOAD_64 (R480). -/
  | ctxLoad64 (x : S64)
  /-- PART_STOP (R478). -/
  | partStop (x : S32)
  /-- PART_STOP_64 (R478). -/
  | partStop64 (x : S64)
  /-- SCRUB (R481). -/
  | scrub (x : S32)
  /-- SCRUB_64 (R481). -/
  | scrub64 (x : S64)
  /-- CAL_SET (R483). -/
  | calSet (x : S32)
  /-- CAL_SET_64 (R483). -/
  | calSet64 (x : S64)
  /-- TLB_INV (R482). -/
  | tlbInv (x : S32)
  /-- TLB_INV_64 (R482). -/
  | tlbInv64 (x : S64)
  /-- HALT (R478). -/
  | halt (x : S32)
  /-- HALT_64 (R478). -/
  | halt64 (x : S64)
  /-- NB_OPEN (R424). -/
  | nbOpen (x : NOpt)
  /-- NB_LDACC (R424). -/
  | nbLdacc (x : NOpt)
  /-- NB_SCADD (R424). -/
  | nbScadd (x : N32)
  /-- NB_SCADD_64 (R424). -/
  | nbScadd64 (x : N64)
  /-- NB_MAC (R424). -/
  | nbMac (x : N32)
  /-- NB_MAC_64 (R424). -/
  | nbMac64 (x : N64)
  /-- NB_WR (R424). -/
  | nbWr (x : NOpt)
  /-- NB_LOOP (R424). -/
  | nbLoop (x : NOpt)
  /-- NB_SCALE (R424). -/
  | nbScale (x : N32)
  /-- NB_SCALE_64 (R424). -/
  | nbScale64 (x : N64)
  /-- NB_CLR (R424). -/
  | nbClr (x : NOpt)
  /-- NB_END (R424). -/
  | nbEnd (x : NOpt)
  /-- DECODE_TRAP (R189), an event. -/
  | decodeTrap
  /-- NB_ILLEGAL_WORD (R425), an event. -/
  | nbIllegalWord
  /-- POSTED_STORE_PERFORM (R322), an event. -/
  | postedStorePerform
  /-- MSIX_VECTOR_UNMASK (R511), an event. -/
  | msixVectorUnmask
  deriving DecidableEq, Repr

end Sys2Proof
end

