-- ==== Sys2Proof/Machine/Encoding.lean ====
section
/-! DEFINITION. The encodings: the fields of each layout (R168 to R173), the opcode maps (R182 to R188), and the names
of the encoded instructions as a closed set without operands. -/
namespace Sys2Proof

/-! ### Words and fields (R168 to R173) -/

/-- Length code, class and opcode of a first word (R166, R167). -/
def W32.len (w : W32) : BitVec 2 := w.extractLsb' 0 2
def W32.cls (w : W32) : BitVec 3 := w.extractLsb' 2 3
def W32.op (w : W32) : BitVec 6 := w.extractLsb' 5 6

def S32.ofWord (w : W32) : S32 :=
  { md := w.extractLsb' 29 3, rs2 := w.extractLsb' 24 5, rs1 := w.extractLsb' 19 5, rd := w.extractLsb' 14 5,
    pg := w.extractLsb' 11 3 }
def S32.word (x : S32) (op : BitVec 6) (cls : BitVec 3) (len : BitVec 2) : W32 :=
  x.md ++ x.rs2 ++ x.rs1 ++ x.rd ++ x.pg ++ op ++ cls ++ len

def V32.ofWord (w : W32) : V32 :=
  { vd := w.extractLsb' 26 6, wbs := w.extractLsb' 25 1, vs1 := w.extractLsb' 18 7, vs2 := w.extractLsb' 11 7 }
def V32.word (x : V32) (op : BitVec 6) (cls : BitVec 3) (len : BitVec 2) : W32 :=
  x.vd ++ x.wbs ++ x.vs1 ++ x.vs2 ++ op ++ cls ++ len

def V64.ofWords (w0 w1 : W32) : V64 :=
  { r := V32.ofWord w0, f := w1.extractLsb' 31 1, l := w1.extractLsb' 30 1, lv := w1.extractLsb' 27 3,
    vs3 := w1.extractLsb' 20 7, men := w1.extractLsb' 19 1, msk := w1.extractLsb' 15 4, ty := w1.extractLsb' 11 4,
    rnd := w1.extractLsb' 9 2, sq := w1.extractLsb' 8 1, hs := w1.extractLsb' 6 2, swz := w1.extractLsb' 3 3,
    fn := w1.extractLsb' 0 3 }
def V64.word1 (x : V64) : W32 :=
  x.f ++ x.l ++ x.lv ++ x.vs3 ++ x.men ++ x.msk ++ x.ty ++ x.rnd ++ x.sq ++ x.hs ++ x.swz ++ x.fn

def M64.ofWords (w0 w1 : W32) : M64 :=
  { ta := w0.extractLsb' 26 6, tb := w0.extractLsb' 20 6, ab := w0.extractLsb' 19 1, m := w0.extractLsb' 17 2,
    nn := w0.extractLsb' 11 6, f := w1.extractLsb' 31 1, l := w1.extractLsb' 30 1, lv := w1.extractLsb' 27 3,
    tc := w1.extractLsb' 21 6, sub := w1.extractLsb' 17 4, nra := w1.extractLsb' 16 1, aga := w1.extractLsb' 14 2,
    nrb := w1.extractLsb' 13 1, agb := w1.extractLsb' 11 2, sreg := w1.extractLsb' 6 5, rsv := w1.extractLsb' 0 6 }
def M64.word (x : M64) (op : BitVec 6) (len : BitVec 2) : W32 :=
  x.ta ++ x.tb ++ x.ab ++ x.m ++ x.nn ++ op ++ (2 : BitVec 3) ++ len
def M64.word1 (x : M64) : W32 :=
  x.f ++ x.l ++ x.lv ++ x.tc ++ x.sub ++ x.nra ++ x.aga ++ x.nrb ++ x.agb ++ x.sreg ++ x.rsv

def C64.ofWords (w0 w1 : W32) : C64 :=
  { wsem := w0.extractLsb' 24 8, wv := w0.extractLsb' 23 1, ssem := w0.extractLsb' 15 8, sv := w0.extractLsb' 14 1,
    md := w0.extractLsb' 11 3, f := w1.extractLsb' 31 1, l := w1.extractLsb' 30 1, lv := w1.extractLsb' 27 3,
    ag := w1.extractLsb' 25 2, nr := w1.extractLsb' 24 1, qw := w1.extractLsb' 20 4, sa := w1.extractLsb' 15 5,
    sb := w1.extractLsb' 10 5, aux := w1.extractLsb' 0 10 }
def C64.word (x : C64) (op : BitVec 6) (len : BitVec 2) : W32 :=
  x.wsem ++ x.wv ++ x.ssem ++ x.sv ++ x.md ++ op ++ (3 : BitVec 3) ++ len
def C64.word1 (x : C64) : W32 :=
  x.f ++ x.l ++ x.lv ++ x.ag ++ x.nr ++ x.qw ++ x.sa ++ x.sb ++ x.aux

/-- Class code of an engine's markers (R167, R173). -/
def Engine.cls : Engine → BitVec 3
  | .vector => 1
  | .matrix => 2
  | .copy => 3
def Mark.ofWord (e : Engine) (w : W32) : Mark := { eng := e, rsv := w.extractLsb' 12 20, slot := w.extractLsb' 11 1 }
def Mark.word (x : Mark) (op : BitVec 6) : W32 := x.rsv ++ x.slot ++ op ++ x.eng.cls ++ (0 : BitVec 2)

def N32.ofWord (w : W32) : N32 := { a := w.extractLsb' 29 3, b := w.extractLsb' 26 3, imm15 := w.extractLsb' 11 15 }
def N32.word (x : N32) (op : BitVec 6) (len : BitVec 2) : W32 :=
  x.a ++ x.b ++ x.imm15 ++ op ++ (6 : BitVec 3) ++ len

/-- The fields of an encoded instruction, by layout. -/
inductive Fields where
  | s32 (x : S32)
  | s64 (x : S64)
  | s96 (x : S96)
  | v32 (x : V32)
  | v64 (x : V64)
  | v96 (x : V96)
  | m64 (x : M64)
  | m96 (x : M96)
  | c64 (x : C64)
  | c96 (x : C96)
  | mark (x : Mark)
  | n32 (x : N32)
  | n64 (x : N64)
  | event
  deriving DecidableEq, Repr

/-- The words of the fields with a class and an opcode, at ascending addresses (R146). -/
def Fields.words (c : BitVec 3) (o : BitVec 6) : Fields → List W32
  | .s32 x => [x.word o c 0]
  | .s64 x => [x.r.word o c 1, x.imm]
  | .s96 x => [x.r.word o c 2, x.imm, x.lit]
  | .v32 x => [x.word o c 0]
  | .v64 x => [x.r.word o c 1, x.word1]
  | .v96 x => [x.v.r.word o c 2, x.v.word1, x.lit]
  | .m64 x => [x.word o 1, x.word1]
  | .m96 x => [x.x.word o 2, x.x.word1, x.lit]
  | .c64 x => [x.word o 1, x.word1]
  | .c96 x => [x.c.word o 2, x.c.word1, x.lit]
  | .mark x => [x.word o]
  | .n32 x => [x.word o 0]
  | .n64 x => [x.n.word o 1, x.imm32]
  | .event => []

/-- The fields in the words of one instruction: the layout follows from class, length and opcode (R168 to R173). -/
def Fields.ofWords : List W32 → Option Fields
  | [w] =>
    if w.len != 0 then none
    else match w.cls.toNat with
      | 1 => if decide (0x3C ≤ w.op.toNat) then some (.mark (.ofWord .vector w)) else some (.v32 (.ofWord w))
      | 2 => some (.mark (.ofWord .matrix w))
      | 3 => some (.mark (.ofWord .copy w))
      | 6 => some (.n32 (.ofWord w))
      | _ => some (.s32 (.ofWord w))
  | [w, w1] =>
    if w.len != 1 then none
    else match w.cls.toNat with
      | 1 => some (.v64 (.ofWords w w1))
      | 2 => some (.m64 (.ofWords w w1))
      | 3 => some (.c64 (.ofWords w w1))
      | 4 => if w.op == 7 then some (.v64 (.ofWords w w1)) else some (.s64 ⟨.ofWord w, w1⟩)
      | 6 => some (.n64 ⟨.ofWord w, w1⟩)
      | _ => some (.s64 ⟨.ofWord w, w1⟩)
  | [w, w1, w2] =>
    if w.len != 2 then none
    else match w.cls.toNat with
      | 1 => some (.v96 ⟨.ofWords w w1, w2⟩)
      | 2 => some (.m96 ⟨.ofWords w w1, w2⟩)
      | 3 => some (.c96 ⟨.ofWords w w1, w2⟩)
      | _ => some (.s96 ⟨.ofWord w, w1, w2⟩)
  | _ => none

/-- The encoded instructions as names: one constructor for each row of the opcode table that has an encoding. -/
inductive Op where
  | add | addImm | sub | subImm | mul | mulImm | mulh | mulhImm | div | divImm | rem | remImm | and | andImm
  | or | orImm | xor | xorImm | shl | shlImm | shr | shrImm | sra | sraImm | min | minImm | max | maxImm | clz
  | popc | bfx | bfxImm | bfi | bfiImm | ext | extImm | cmp | cmpImm | sel | li64 | li96 | lea | ld | ldImm
  | st | stImm | br | jmp | call | loop | jmpx | ret | nop | nop64 | nop96 | endTeam | fork | join | nestSet
  | nestGo | nestClamp | launch | tsub | tresume | graphArm | evqPop | evqWait | semSig | semSigImm | semWait
  | semWaitImm | semSet | semRsig | ctlRd | ctlWr | tstamp | stageSw | trap | eret | vadd | vaddFull | vsub
  | vsubFull | vmul | vmulFull | vfma | vmin | vminFull | vmax | vmaxFull | vabs | vneg | vand | vandFull | vor
  | vorFull | vxor | vxorFull | vshl | vshr | vcmp | vsel | vmov | vmovFull | vli | vcvt | vwid | vnar | vpack
  | vunpk | vrcp | vrsq | vexp | vlog | vtanh | vsigm | vgelu | vsin | vrcps | vrsqs | vrsum | vrmax | vrmin
  | vscan | vargmax | vtopk | vperm | vshuf | vbcast | viota | vmand | vmor | vmnot | vmpop | vqnt | vdqnt
  | vld | vst | vldx | vstx | vdefer | vdrain | vdret | vbr | vloop | vtake | vgive | nestBeg | nestEnd | rdv
  | engineEnd | mma | mmaz | mmag | mconst | mprec | mscale | mown | mclr | mcvt | mscat | mfree | cp | cp96
  | cpc | cpc96 | cpg | cpg96 | cps | cps96 | cpk | cpk96 | qinit | qinit96 | qpush | qpush96 | qpop | qpop96
  | qpeek | pref | pref96 | pin | pin96 | unpin | unpin96 | kvcommit | kvcommit96 | rst | rst96 | rld | rld96
  | lsend | lsend96 | lradd | lradd96 | tslotSet | tslotSet96 | tfull | tempty | twait | foot | foot96 | amoAdd
  | amoAddImm | amoMin | amoMinImm | amoMax | amoMaxImm | amoXchg | amoXchgImm | amoCas | amoCasImm | amoAnd
  | amoAndImm | amoOr | amoOrImm | vamo | fence | barExp | barWait | barArr | collReg | collAr | collAg
  | collRs | collFree | leaseReq | leaseRet | leaseQ | bankRun | bankStat | codeReg | codeReg64 | keyAlloc
  | keyAlloc64 | keyRevoke | keyRevoke64 | ctxSave | ctxSave64 | ctxLoad | ctxLoad64 | partStop | partStop64
  | scrub | scrub64 | calSet | calSet64 | tlbInv | tlbInv64 | halt | halt64 | nbOpen | nbLdacc | nbScadd
  | nbScadd64 | nbMac | nbMac64 | nbWr | nbLoop | nbScale | nbScale64 | nbClr | nbEnd
  deriving DecidableEq, Repr

/-- Class and opcode of a name (R182 to R188, R173); a marker takes the class of its engine. -/
def Op.codeNat : Op → Nat × Nat
  | .add => (0, 0x0)
  | .addImm => (0, 0x0)
  | .sub => (0, 0x1)
  | .subImm => (0, 0x1)
  | .mul => (0, 0x2)
  | .mulImm => (0, 0x2)
  | .mulh => (0, 0x3)
  | .mulhImm => (0, 0x3)
  | .div => (0, 0x4)
  | .divImm => (0, 0x4)
  | .rem => (0, 0x5)
  | .remImm => (0, 0x5)
  | .and => (0, 0x6)
  | .andImm => (0, 0x6)
  | .or => (0, 0x7)
  | .orImm => (0, 0x7)
  | .xor => (0, 0x8)
  | .xorImm => (0, 0x8)
  | .shl => (0, 0x9)
  | .shlImm => (0, 0x9)
  | .shr => (0, 0xa)
  | .shrImm => (0, 0xa)
  | .sra => (0, 0xb)
  | .sraImm => (0, 0xb)
  | .min => (0, 0xc)
  | .minImm => (0, 0xc)
  | .max => (0, 0xd)
  | .maxImm => (0, 0xd)
  | .clz => (0, 0xe)
  | .popc => (0, 0xf)
  | .bfx => (0, 0x10)
  | .bfxImm => (0, 0x10)
  | .bfi => (0, 0x11)
  | .bfiImm => (0, 0x11)
  | .ext => (0, 0x12)
  | .extImm => (0, 0x12)
  | .cmp => (0, 0x13)
  | .cmpImm => (0, 0x13)
  | .sel => (0, 0x14)
  | .li64 => (0, 0x15)
  | .li96 => (0, 0x15)
  | .lea => (0, 0x16)
  | .ld => (0, 0x17)
  | .ldImm => (0, 0x17)
  | .st => (0, 0x18)
  | .stImm => (0, 0x18)
  | .br => (0, 0x19)
  | .jmp => (0, 0x1a)
  | .call => (0, 0x1b)
  | .loop => (0, 0x1c)
  | .jmpx => (0, 0x1d)
  | .ret => (0, 0x1e)
  | .nop => (0, 0x1f)
  | .nop64 => (0, 0x1f)
  | .nop96 => (0, 0x1f)
  | .endTeam => (0, 0x20)
  | .fork => (0, 0x21)
  | .join => (0, 0x22)
  | .nestSet => (0, 0x23)
  | .nestGo => (0, 0x24)
  | .nestClamp => (0, 0x25)
  | .launch => (0, 0x26)
  | .tsub => (0, 0x27)
  | .tresume => (0, 0x28)
  | .graphArm => (0, 0x29)
  | .evqPop => (0, 0x2a)
  | .evqWait => (0, 0x2b)
  | .semSig => (0, 0x2c)
  | .semSigImm => (0, 0x2c)
  | .semWait => (0, 0x2d)
  | .semWaitImm => (0, 0x2d)
  | .semSet => (0, 0x2e)
  | .semRsig => (0, 0x2f)
  | .ctlRd => (0, 0x30)
  | .ctlWr => (0, 0x31)
  | .tstamp => (0, 0x32)
  | .stageSw => (0, 0x33)
  | .trap => (0, 0x34)
  | .eret => (0, 0x35)
  | .vadd => (1, 0x0)
  | .vaddFull => (1, 0x0)
  | .vsub => (1, 0x1)
  | .vsubFull => (1, 0x1)
  | .vmul => (1, 0x2)
  | .vmulFull => (1, 0x2)
  | .vfma => (1, 0x3)
  | .vmin => (1, 0x4)
  | .vminFull => (1, 0x4)
  | .vmax => (1, 0x5)
  | .vmaxFull => (1, 0x5)
  | .vabs => (1, 0x6)
  | .vneg => (1, 0x7)
  | .vand => (1, 0x8)
  | .vandFull => (1, 0x8)
  | .vor => (1, 0x9)
  | .vorFull => (1, 0x9)
  | .vxor => (1, 0xa)
  | .vxorFull => (1, 0xa)
  | .vshl => (1, 0xb)
  | .vshr => (1, 0xc)
  | .vcmp => (1, 0xd)
  | .vsel => (1, 0xe)
  | .vmov => (1, 0xf)
  | .vmovFull => (1, 0xf)
  | .vli => (1, 0x10)
  | .vcvt => (1, 0x11)
  | .vwid => (1, 0x12)
  | .vnar => (1, 0x13)
  | .vpack => (1, 0x14)
  | .vunpk => (1, 0x15)
  | .vrcp => (1, 0x16)
  | .vrsq => (1, 0x17)
  | .vexp => (1, 0x18)
  | .vlog => (1, 0x19)
  | .vtanh => (1, 0x1a)
  | .vsigm => (1, 0x1b)
  | .vgelu => (1, 0x1c)
  | .vsin => (1, 0x1d)
  | .vrcps => (1, 0x1e)
  | .vrsqs => (1, 0x1f)
  | .vrsum => (1, 0x20)
  | .vrmax => (1, 0x21)
  | .vrmin => (1, 0x22)
  | .vscan => (1, 0x23)
  | .vargmax => (1, 0x24)
  | .vtopk => (1, 0x25)
  | .vperm => (1, 0x26)
  | .vshuf => (1, 0x27)
  | .vbcast => (1, 0x28)
  | .viota => (1, 0x29)
  | .vmand => (1, 0x2a)
  | .vmor => (1, 0x2b)
  | .vmnot => (1, 0x2c)
  | .vmpop => (1, 0x2d)
  | .vqnt => (1, 0x2e)
  | .vdqnt => (1, 0x2f)
  | .vld => (1, 0x30)
  | .vst => (1, 0x31)
  | .vldx => (1, 0x32)
  | .vstx => (1, 0x33)
  | .vdefer => (1, 0x34)
  | .vdrain => (1, 0x35)
  | .vdret => (1, 0x36)
  | .vbr => (1, 0x37)
  | .vloop => (1, 0x38)
  | .vtake => (1, 0x39)
  | .vgive => (1, 0x3a)
  | .nestBeg => (1, 0x3c)
  | .nestEnd => (1, 0x3d)
  | .rdv => (1, 0x3e)
  | .engineEnd => (1, 0x3f)
  | .mma => (2, 0x0)
  | .mmaz => (2, 0x1)
  | .mmag => (2, 0x2)
  | .mconst => (2, 0x3)
  | .mprec => (2, 0x4)
  | .mscale => (2, 0x5)
  | .mown => (2, 0x6)
  | .mclr => (2, 0x7)
  | .mcvt => (2, 0x8)
  | .mscat => (2, 0x9)
  | .mfree => (2, 0xa)
  | .cp => (3, 0x0)
  | .cp96 => (3, 0x0)
  | .cpc => (3, 0x1)
  | .cpc96 => (3, 0x1)
  | .cpg => (3, 0x2)
  | .cpg96 => (3, 0x2)
  | .cps => (3, 0x3)
  | .cps96 => (3, 0x3)
  | .cpk => (3, 0x4)
  | .cpk96 => (3, 0x4)
  | .qinit => (3, 0x5)
  | .qinit96 => (3, 0x5)
  | .qpush => (3, 0x6)
  | .qpush96 => (3, 0x6)
  | .qpop => (3, 0x7)
  | .qpop96 => (3, 0x7)
  | .qpeek => (3, 0x8)
  | .pref => (3, 0x9)
  | .pref96 => (3, 0x9)
  | .pin => (3, 0xa)
  | .pin96 => (3, 0xa)
  | .unpin => (3, 0xb)
  | .unpin96 => (3, 0xb)
  | .kvcommit => (3, 0xc)
  | .kvcommit96 => (3, 0xc)
  | .rst => (3, 0xd)
  | .rst96 => (3, 0xd)
  | .rld => (3, 0xe)
  | .rld96 => (3, 0xe)
  | .lsend => (3, 0xf)
  | .lsend96 => (3, 0xf)
  | .lradd => (3, 0x10)
  | .lradd96 => (3, 0x10)
  | .tslotSet => (3, 0x11)
  | .tslotSet96 => (3, 0x11)
  | .tfull => (3, 0x12)
  | .tempty => (3, 0x13)
  | .twait => (3, 0x14)
  | .foot => (3, 0x15)
  | .foot96 => (3, 0x15)
  | .amoAdd => (4, 0x0)
  | .amoAddImm => (4, 0x0)
  | .amoMin => (4, 0x1)
  | .amoMinImm => (4, 0x1)
  | .amoMax => (4, 0x2)
  | .amoMaxImm => (4, 0x2)
  | .amoXchg => (4, 0x3)
  | .amoXchgImm => (4, 0x3)
  | .amoCas => (4, 0x4)
  | .amoCasImm => (4, 0x4)
  | .amoAnd => (4, 0x5)
  | .amoAndImm => (4, 0x5)
  | .amoOr => (4, 0x6)
  | .amoOrImm => (4, 0x6)
  | .vamo => (4, 0x7)
  | .fence => (4, 0x8)
  | .barExp => (4, 0x9)
  | .barWait => (4, 0xa)
  | .barArr => (4, 0xb)
  | .collReg => (4, 0xc)
  | .collAr => (4, 0xd)
  | .collAg => (4, 0xe)
  | .collRs => (4, 0xf)
  | .collFree => (4, 0x10)
  | .leaseReq => (4, 0x11)
  | .leaseRet => (4, 0x12)
  | .leaseQ => (4, 0x13)
  | .bankRun => (4, 0x14)
  | .bankStat => (4, 0x15)
  | .codeReg => (5, 0x0)
  | .codeReg64 => (5, 0x0)
  | .keyAlloc => (5, 0x1)
  | .keyAlloc64 => (5, 0x1)
  | .keyRevoke => (5, 0x2)
  | .keyRevoke64 => (5, 0x2)
  | .ctxSave => (5, 0x3)
  | .ctxSave64 => (5, 0x3)
  | .ctxLoad => (5, 0x4)
  | .ctxLoad64 => (5, 0x4)
  | .partStop => (5, 0x5)
  | .partStop64 => (5, 0x5)
  | .scrub => (5, 0x6)
  | .scrub64 => (5, 0x6)
  | .calSet => (5, 0x7)
  | .calSet64 => (5, 0x7)
  | .tlbInv => (5, 0x8)
  | .tlbInv64 => (5, 0x8)
  | .halt => (5, 0x9)
  | .halt64 => (5, 0x9)
  | .nbOpen => (6, 0x0)
  | .nbLdacc => (6, 0x1)
  | .nbScadd => (6, 0x2)
  | .nbScadd64 => (6, 0x2)
  | .nbMac => (6, 0x3)
  | .nbMac64 => (6, 0x3)
  | .nbWr => (6, 0x4)
  | .nbLoop => (6, 0x5)
  | .nbScale => (6, 0x6)
  | .nbScale64 => (6, 0x6)
  | .nbClr => (6, 0x7)
  | .nbEnd => (6, 0x8)

/-- Class and opcode as fields of the first word. -/
def Op.code (o : Op) : BitVec 3 × BitVec 6 := (BitVec.ofNat 3 o.codeNat.1, BitVec.ofNat 6 o.codeNat.2)

/-! ### Opcode maps (R182 to R188): entry k of a list is opcode k, `none` traps with `ILL_OP` -/

def strand32 : List (Option Op) :=
  [some .add, some .sub, some .mul, some .mulh, some .div, some .rem, some .and, some .or, some .xor, some .shl,
   some .shr, some .sra, some .min, some .max, some .clz, some .popc, some .bfx, some .bfi, some .ext, some .cmp,
   some .sel, none, none, some .ld, some .st, none, none, none, none, some .jmpx,
   some .ret, some .nop, some .endTeam, none, some .join, some .nestSet, some .nestGo, some .nestClamp, none, none,
   some .tresume, none, some .evqPop, some .evqWait, some .semSig, some .semWait, none, none, some .ctlRd, some .ctlWr,
   some .tstamp, some .stageSw, some .trap, some .eret]

def strand64 : List (Option Op) :=
  [some .addImm, some .subImm, some .mulImm, some .mulhImm, some .divImm, some .remImm, some .andImm, some .orImm, some .xorImm, some .shlImm,
   some .shrImm, some .sraImm, some .minImm, some .maxImm, none, none, some .bfxImm, some .bfiImm, some .extImm, some .cmpImm,
   none, some .li64, some .lea, some .ldImm, some .stImm, some .br, some .jmp, some .call, some .loop, none,
   none, some .nop64, none, none, none, none, none, none, some .launch, some .tsub,
   none, some .graphArm, none, none, some .semSigImm, some .semWaitImm, some .semSet, some .semRsig]

def strand96 : List (Option Op) :=
  [none, none, none, none, none, none, none, none, none, none,
   none, none, none, none, none, none, none, none, none, none,
   none, some .li96, none, none, none, none, none, none, none, none,
   none, some .nop96, none, some .fork]

def vector32 : List (Option Op) :=
  [some .vadd, some .vsub, some .vmul, none, some .vmin, some .vmax, none, none, some .vand, some .vor,
   some .vxor, none, none, none, none, some .vmov]

def vector64 : List (Option Op) :=
  [some .vaddFull, some .vsubFull, some .vmulFull, some .vfma, some .vminFull, some .vmaxFull, some .vabs, some .vneg, some .vandFull, some .vorFull,
   some .vxorFull, some .vshl, some .vshr, some .vcmp, some .vsel, some .vmovFull, none, some .vcvt, some .vwid, some .vnar,
   some .vpack, some .vunpk, some .vrcp, some .vrsq, some .vexp, some .vlog, some .vtanh, some .vsigm, some .vgelu, some .vsin,
   some .vrcps, some .vrsqs, some .vrsum, some .vrmax, some .vrmin, some .vscan, some .vargmax, some .vtopk, some .vperm, some .vshuf,
   some .vbcast, some .viota, some .vmand, some .vmor, some .vmnot, some .vmpop, some .vqnt, some .vdqnt, none, none,
   none, none, some .vdefer, some .vdrain, some .vdret, none, none, some .vtake, some .vgive]

def vector96 : List (Option Op) :=
  [none, none, none, none, none, none, none, none, none, none,
   none, none, none, none, none, none, some .vli, none, none, none,
   none, none, none, none, none, none, none, none, none, none,
   none, none, none, none, none, none, none, none, none, none,
   none, none, none, none, none, none, none, none, some .vld, some .vst,
   some .vldx, some .vstx, none, none, none, some .vbr, some .vloop]

def matrix64 : List (Option Op) :=
  [some .mma, some .mmaz, some .mmag, some .mconst, none, some .mscale, some .mown, some .mclr, some .mcvt, some .mscat,
   some .mfree]

def matrix96 : List (Option Op) :=
  [none, none, none, none, some .mprec]

def copy64 : List (Option Op) :=
  [some .cp, some .cpc, some .cpg, some .cps, some .cpk, some .qinit, some .qpush, some .qpop, some .qpeek, some .pref,
   some .pin, some .unpin, some .kvcommit, some .rst, some .rld, some .lsend, some .lradd, some .tslotSet, some .tfull, some .tempty,
   some .twait, some .foot]

def copy96 : List (Option Op) :=
  [some .cp96, some .cpc96, some .cpg96, some .cps96, some .cpk96, some .qinit96, some .qpush96, some .qpop96, some .qpeek, some .pref96,
   some .pin96, some .unpin96, some .kvcommit96, some .rst96, some .rld96, some .lsend96, some .lradd96, some .tslotSet96, some .tfull, some .tempty,
   some .twait, some .foot96]

def sync32 : List (Option Op) :=
  [some .amoAdd, some .amoMin, some .amoMax, some .amoXchg, some .amoCas, some .amoAnd, some .amoOr, none, some .fence]

def sync64 : List (Option Op) :=
  [some .amoAddImm, some .amoMinImm, some .amoMaxImm, some .amoXchgImm, some .amoCasImm, some .amoAndImm, some .amoOrImm, some .vamo, none, some .barExp,
   some .barWait, some .barArr, some .collReg, some .collAr, some .collAg, some .collRs, some .collFree, some .leaseReq, some .leaseRet, some .leaseQ,
   some .bankRun, some .bankStat]

def system32 : List (Option Op) :=
  [some .codeReg, some .keyAlloc, some .keyRevoke, some .ctxSave, some .ctxLoad, some .partStop, some .scrub, some .calSet, some .tlbInv, some .halt]

def system64 : List (Option Op) :=
  [some .codeReg64, some .keyAlloc64, some .keyRevoke64, some .ctxSave64, some .ctxLoad64, some .partStop64, some .scrub64, some .calSet64, some .tlbInv64, some .halt64]

def nearBank32 : List (Option Op) :=
  [some .nbOpen, some .nbLdacc, some .nbScadd, some .nbMac, some .nbWr, some .nbLoop, some .nbScale, some .nbClr, some .nbEnd]

def nearBank64 : List (Option Op) :=
  [some .nbOpen, some .nbLdacc, some .nbScadd64, some .nbMac64, some .nbWr, some .nbLoop, some .nbScale64, some .nbClr, some .nbEnd]

/-- The opcode map of a class and a length code. -/
def opMap (cls len : Nat) : List (Option Op) :=
  match cls, len with
  | 0, 0 => strand32
  | 0, 1 => strand64
  | 0, 2 => strand96
  | 1, 0 => vector32
  | 1, 1 => vector64
  | 1, 2 => vector96
  | 2, 1 => matrix64
  | 2, 2 => matrix96
  | 3, 1 => copy64
  | 3, 2 => copy96
  | 4, 0 => sync32
  | 4, 1 => sync64
  | 5, 0 => system32
  | 5, 1 => system64
  | 6, 0 => nearBank32
  | 6, 1 => nearBank64
  | _, _ => []

/-- The markers (R173), at opcodes 0x3C to 0x3F of length 32 in each engine class. -/
def markerOp (op : Nat) : Option Op :=
  match op with
  | 0x3C => some .nestBeg
  | 0x3D => some .nestEnd
  | 0x3E => some .rdv
  | 0x3F => some .engineEnd
  | _ => none

/-- The name at a class, length code and opcode; `none` where the encoding is unassigned. -/
def opAt (cls len op : Nat) : Option Op :=
  if len == 0 && decide (0x3C ≤ op) && (cls == 1 || cls == 2 || cls == 3) then markerOp op
  else ((opMap cls len)[op]?).join

/-- Name and fields of an instruction; an event has neither. -/
def Instr.op : Instr → Option Op
  | .queueDoorbell => none
  | .queueEnable => none
  | .queueDisable => none
  | .arbitrationDispatch => none
  | .sliceEnd => none
  | .queueAging => none
  | .acctUsedWriteback => none
  | .childSpillRefill => none
  | .graphConditionalRead => none
  | .graphRearm => none
  | .graphCopyNodeDone => none
  | .hubStageSwitch => none
  | .switchHardStop => none
  | .stageSwitchFlip => none
  | .cellAllotWrite => none
  | .gangPlace => none
  | .gangSliceEnd => none
  | .swapOutComplete => none
  | .swapInComplete => none
  | .taskAccept => none
  | .taskDeadline => none
  | .passForm => none
  | .passGatherDone => none
  | .passColumnGroupEnd => none
  | .passScatterDone => none
  | .resumeDoorbell => none
  | .resumedScatterDone => none
  | .barkerAdvertiseTable => none
  | .barkerAdvertiseChange => none
  | .barkerAdvertReceive => none
  | .barkerPairExpire => none
  | .steeredTaskArrive => none
  | .steerRefused => none
  | .steeredResultsReceive => none
  | .veResultLand => none
  | .productLand => none
  | .loadReturn => none
  | .pageWalkComplete => none
  | .tierSwapComplete => none
  | .counterDecay => none
  | .vaultScrub => none
  | .carouselSlot => none
  | .nbResume => none
  | .jobStart => none
  | .jobComplete => none
  | .portReceive => none
  | .rstAcknowledge => none
  | .remoteFault => none
  | .collChunkReceive => none
  | .collChunkAck => none
  | .leaseGrant => none
  | .leaseRetuneDone => none
  | .leaseDurationEnd => none
  | .leaseRevokeNotice => none
  | .leaseNoticeExpire => none
  | .leaseRetuneBackDone => none
  | .fabricPacketReceive => none
  | .fabricAckReceive => none
  | .peerLossTimeout => none
  | .peerLostDeclare => none
  | .partitionQuiesce => none
  | .quiesceLift => none
  | .fabcfgWrite => none
  | .wavelengthFail => none
  | .hbmChannelSpare => none
  | .cellFail => none
  | .preemptRequest => none
  | .preemptDrained => none
  | .preemptHardStop => none
  | .asyncTrapTake => none
  | .hubRequestDone => none
  | .gridComplete => none
  | .hostRingEntryWrite => none
  | .ringInterruptTimeout => none
  | .ringEnable => none
  | .stopCommand => none
  | .freeCommand => none
  | .stopReport => none
  | .attest => none
  | .attestReportDone => none
  | .fullReset => none
  | .scrubEnd => none
  | .scrubTimeout => none
  | .startComplete => none
  | .startFail => none
  | .startTimeout => none
  | .vfFunctionLevelReset => none
  | .registerWrite => none
  | .add _ => some .add
  | .addImm _ => some .addImm
  | .sub _ => some .sub
  | .subImm _ => some .subImm
  | .mul _ => some .mul
  | .mulImm _ => some .mulImm
  | .mulh _ => some .mulh
  | .mulhImm _ => some .mulhImm
  | .div _ => some .div
  | .divImm _ => some .divImm
  | .rem _ => some .rem
  | .remImm _ => some .remImm
  | .and _ => some .and
  | .andImm _ => some .andImm
  | .or _ => some .or
  | .orImm _ => some .orImm
  | .xor _ => some .xor
  | .xorImm _ => some .xorImm
  | .shl _ => some .shl
  | .shlImm _ => some .shlImm
  | .shr _ => some .shr
  | .shrImm _ => some .shrImm
  | .sra _ => some .sra
  | .sraImm _ => some .sraImm
  | .min _ => some .min
  | .minImm _ => some .minImm
  | .max _ => some .max
  | .maxImm _ => some .maxImm
  | .clz _ => some .clz
  | .popc _ => some .popc
  | .bfx _ => some .bfx
  | .bfxImm _ => some .bfxImm
  | .bfi _ => some .bfi
  | .bfiImm _ => some .bfiImm
  | .ext _ => some .ext
  | .extImm _ => some .extImm
  | .cmp _ => some .cmp
  | .cmpImm _ => some .cmpImm
  | .sel _ => some .sel
  | .li64 _ => some .li64
  | .li96 _ => some .li96
  | .lea _ => some .lea
  | .ld _ => some .ld
  | .ldImm _ => some .ldImm
  | .st _ => some .st
  | .stImm _ => some .stImm
  | .br _ => some .br
  | .jmp _ => some .jmp
  | .call _ => some .call
  | .loop _ => some .loop
  | .jmpx _ => some .jmpx
  | .ret _ => some .ret
  | .nop _ => some .nop
  | .nop64 _ => some .nop64
  | .nop96 _ => some .nop96
  | .endTeam _ => some .endTeam
  | .fork _ => some .fork
  | .join _ => some .join
  | .nestSet _ => some .nestSet
  | .nestGo _ => some .nestGo
  | .nestClamp _ => some .nestClamp
  | .launch _ => some .launch
  | .tsub _ => some .tsub
  | .tresume _ => some .tresume
  | .graphArm _ => some .graphArm
  | .evqPop _ => some .evqPop
  | .evqWait _ => some .evqWait
  | .semSig _ => some .semSig
  | .semSigImm _ => some .semSigImm
  | .semWait _ => some .semWait
  | .semWaitImm _ => some .semWaitImm
  | .semSet _ => some .semSet
  | .semRsig _ => some .semRsig
  | .ctlRd _ => some .ctlRd
  | .ctlWr _ => some .ctlWr
  | .tstamp _ => some .tstamp
  | .stageSw _ => some .stageSw
  | .trap _ => some .trap
  | .eret _ => some .eret
  | .vadd _ => some .vadd
  | .vaddFull _ => some .vaddFull
  | .vsub _ => some .vsub
  | .vsubFull _ => some .vsubFull
  | .vmul _ => some .vmul
  | .vmulFull _ => some .vmulFull
  | .vfma _ => some .vfma
  | .vmin _ => some .vmin
  | .vminFull _ => some .vminFull
  | .vmax _ => some .vmax
  | .vmaxFull _ => some .vmaxFull
  | .vabs _ => some .vabs
  | .vneg _ => some .vneg
  | .vand _ => some .vand
  | .vandFull _ => some .vandFull
  | .vor _ => some .vor
  | .vorFull _ => some .vorFull
  | .vxor _ => some .vxor
  | .vxorFull _ => some .vxorFull
  | .vshl _ => some .vshl
  | .vshr _ => some .vshr
  | .vcmp _ => some .vcmp
  | .vsel _ => some .vsel
  | .vmov _ => some .vmov
  | .vmovFull _ => some .vmovFull
  | .vli _ => some .vli
  | .vcvt _ => some .vcvt
  | .vwid _ => some .vwid
  | .vnar _ => some .vnar
  | .vpack _ => some .vpack
  | .vunpk _ => some .vunpk
  | .vrcp _ => some .vrcp
  | .vrsq _ => some .vrsq
  | .vexp _ => some .vexp
  | .vlog _ => some .vlog
  | .vtanh _ => some .vtanh
  | .vsigm _ => some .vsigm
  | .vgelu _ => some .vgelu
  | .vsin _ => some .vsin
  | .vrcps _ => some .vrcps
  | .vrsqs _ => some .vrsqs
  | .vrsum _ => some .vrsum
  | .vrmax _ => some .vrmax
  | .vrmin _ => some .vrmin
  | .vscan _ => some .vscan
  | .vargmax _ => some .vargmax
  | .vtopk _ => some .vtopk
  | .vperm _ => some .vperm
  | .vshuf _ => some .vshuf
  | .vbcast _ => some .vbcast
  | .viota _ => some .viota
  | .vmand _ => some .vmand
  | .vmor _ => some .vmor
  | .vmnot _ => some .vmnot
  | .vmpop _ => some .vmpop
  | .vqnt _ => some .vqnt
  | .vdqnt _ => some .vdqnt
  | .vld _ => some .vld
  | .vst _ => some .vst
  | .vldx _ => some .vldx
  | .vstx _ => some .vstx
  | .vdefer _ => some .vdefer
  | .vdrain _ => some .vdrain
  | .vdret _ => some .vdret
  | .vbr _ => some .vbr
  | .vloop _ => some .vloop
  | .vtake _ => some .vtake
  | .vgive _ => some .vgive
  | .nestBeg _ => some .nestBeg
  | .nestEnd _ => some .nestEnd
  | .rdv _ => some .rdv
  | .engineEnd _ => some .engineEnd
  | .mma _ => some .mma
  | .mmaz _ => some .mmaz
  | .mmag _ => some .mmag
  | .mconst _ => some .mconst
  | .mprec _ => some .mprec
  | .mscale _ => some .mscale
  | .mown _ => some .mown
  | .mclr _ => some .mclr
  | .mcvt _ => some .mcvt
  | .mscat _ => some .mscat
  | .mfree _ => some .mfree
  | .cp _ => some .cp
  | .cp96 _ => some .cp96
  | .cpc _ => some .cpc
  | .cpc96 _ => some .cpc96
  | .cpg _ => some .cpg
  | .cpg96 _ => some .cpg96
  | .cps _ => some .cps
  | .cps96 _ => some .cps96
  | .cpk _ => some .cpk
  | .cpk96 _ => some .cpk96
  | .qinit _ => some .qinit
  | .qinit96 _ => some .qinit96
  | .qpush _ => some .qpush
  | .qpush96 _ => some .qpush96
  | .qpop _ => some .qpop
  | .qpop96 _ => some .qpop96
  | .qpeek _ => some .qpeek
  | .pref _ => some .pref
  | .pref96 _ => some .pref96
  | .pin _ => some .pin
  | .pin96 _ => some .pin96
  | .unpin _ => some .unpin
  | .unpin96 _ => some .unpin96
  | .kvcommit _ => some .kvcommit
  | .kvcommit96 _ => some .kvcommit96
  | .rst _ => some .rst
  | .rst96 _ => some .rst96
  | .rld _ => some .rld
  | .rld96 _ => some .rld96
  | .lsend _ => some .lsend
  | .lsend96 _ => some .lsend96
  | .lradd _ => some .lradd
  | .lradd96 _ => some .lradd96
  | .tslotSet _ => some .tslotSet
  | .tslotSet96 _ => some .tslotSet96
  | .tfull _ => some .tfull
  | .tempty _ => some .tempty
  | .twait _ => some .twait
  | .foot _ => some .foot
  | .foot96 _ => some .foot96
  | .amoAdd _ => some .amoAdd
  | .amoAddImm _ => some .amoAddImm
  | .amoMin _ => some .amoMin
  | .amoMinImm _ => some .amoMinImm
  | .amoMax _ => some .amoMax
  | .amoMaxImm _ => some .amoMaxImm
  | .amoXchg _ => some .amoXchg
  | .amoXchgImm _ => some .amoXchgImm
  | .amoCas _ => some .amoCas
  | .amoCasImm _ => some .amoCasImm
  | .amoAnd _ => some .amoAnd
  | .amoAndImm _ => some .amoAndImm
  | .amoOr _ => some .amoOr
  | .amoOrImm _ => some .amoOrImm
  | .vamo _ => some .vamo
  | .fence _ => some .fence
  | .barExp _ => some .barExp
  | .barWait _ => some .barWait
  | .barArr _ => some .barArr
  | .collReg _ => some .collReg
  | .collAr _ => some .collAr
  | .collAg _ => some .collAg
  | .collRs _ => some .collRs
  | .collFree _ => some .collFree
  | .leaseReq _ => some .leaseReq
  | .leaseRet _ => some .leaseRet
  | .leaseQ _ => some .leaseQ
  | .bankRun _ => some .bankRun
  | .bankStat _ => some .bankStat
  | .codeReg _ => some .codeReg
  | .codeReg64 _ => some .codeReg64
  | .keyAlloc _ => some .keyAlloc
  | .keyAlloc64 _ => some .keyAlloc64
  | .keyRevoke _ => some .keyRevoke
  | .keyRevoke64 _ => some .keyRevoke64
  | .ctxSave _ => some .ctxSave
  | .ctxSave64 _ => some .ctxSave64
  | .ctxLoad _ => some .ctxLoad
  | .ctxLoad64 _ => some .ctxLoad64
  | .partStop _ => some .partStop
  | .partStop64 _ => some .partStop64
  | .scrub _ => some .scrub
  | .scrub64 _ => some .scrub64
  | .calSet _ => some .calSet
  | .calSet64 _ => some .calSet64
  | .tlbInv _ => some .tlbInv
  | .tlbInv64 _ => some .tlbInv64
  | .halt _ => some .halt
  | .halt64 _ => some .halt64
  | .nbOpen _ => some .nbOpen
  | .nbLdacc _ => some .nbLdacc
  | .nbScadd _ => some .nbScadd
  | .nbScadd64 _ => some .nbScadd64
  | .nbMac _ => some .nbMac
  | .nbMac64 _ => some .nbMac64
  | .nbWr _ => some .nbWr
  | .nbLoop _ => some .nbLoop
  | .nbScale _ => some .nbScale
  | .nbScale64 _ => some .nbScale64
  | .nbClr _ => some .nbClr
  | .nbEnd _ => some .nbEnd
  | .decodeTrap => none
  | .nbIllegalWord => none
  | .postedStorePerform => none
  | .msixVectorUnmask => none

/-- The fields of a row that stands for both lengths (R185, R188). -/
def COpt.fields (x : COpt) : Fields :=
  match x.lit with
  | none => .c64 x.c
  | some l => .c96 ⟨x.c, l⟩
def NOpt.fields (x : NOpt) : Fields :=
  match x.imm32 with
  | none => .n32 x.n
  | some l => .n64 ⟨x.n, l⟩

/-- The fields of an instruction. -/
def Instr.fields : Instr → Fields
  | .queueDoorbell => .event
  | .queueEnable => .event
  | .queueDisable => .event
  | .arbitrationDispatch => .event
  | .sliceEnd => .event
  | .queueAging => .event
  | .acctUsedWriteback => .event
  | .childSpillRefill => .event
  | .graphConditionalRead => .event
  | .graphRearm => .event
  | .graphCopyNodeDone => .event
  | .hubStageSwitch => .event
  | .switchHardStop => .event
  | .stageSwitchFlip => .event
  | .cellAllotWrite => .event
  | .gangPlace => .event
  | .gangSliceEnd => .event
  | .swapOutComplete => .event
  | .swapInComplete => .event
  | .taskAccept => .event
  | .taskDeadline => .event
  | .passForm => .event
  | .passGatherDone => .event
  | .passColumnGroupEnd => .event
  | .passScatterDone => .event
  | .resumeDoorbell => .event
  | .resumedScatterDone => .event
  | .barkerAdvertiseTable => .event
  | .barkerAdvertiseChange => .event
  | .barkerAdvertReceive => .event
  | .barkerPairExpire => .event
  | .steeredTaskArrive => .event
  | .steerRefused => .event
  | .steeredResultsReceive => .event
  | .veResultLand => .event
  | .productLand => .event
  | .loadReturn => .event
  | .pageWalkComplete => .event
  | .tierSwapComplete => .event
  | .counterDecay => .event
  | .vaultScrub => .event
  | .carouselSlot => .event
  | .nbResume => .event
  | .jobStart => .event
  | .jobComplete => .event
  | .portReceive => .event
  | .rstAcknowledge => .event
  | .remoteFault => .event
  | .collChunkReceive => .event
  | .collChunkAck => .event
  | .leaseGrant => .event
  | .leaseRetuneDone => .event
  | .leaseDurationEnd => .event
  | .leaseRevokeNotice => .event
  | .leaseNoticeExpire => .event
  | .leaseRetuneBackDone => .event
  | .fabricPacketReceive => .event
  | .fabricAckReceive => .event
  | .peerLossTimeout => .event
  | .peerLostDeclare => .event
  | .partitionQuiesce => .event
  | .quiesceLift => .event
  | .fabcfgWrite => .event
  | .wavelengthFail => .event
  | .hbmChannelSpare => .event
  | .cellFail => .event
  | .preemptRequest => .event
  | .preemptDrained => .event
  | .preemptHardStop => .event
  | .asyncTrapTake => .event
  | .hubRequestDone => .event
  | .gridComplete => .event
  | .hostRingEntryWrite => .event
  | .ringInterruptTimeout => .event
  | .ringEnable => .event
  | .stopCommand => .event
  | .freeCommand => .event
  | .stopReport => .event
  | .attest => .event
  | .attestReportDone => .event
  | .fullReset => .event
  | .scrubEnd => .event
  | .scrubTimeout => .event
  | .startComplete => .event
  | .startFail => .event
  | .startTimeout => .event
  | .vfFunctionLevelReset => .event
  | .registerWrite => .event
  | .add x => .s32 x
  | .addImm x => .s64 x
  | .sub x => .s32 x
  | .subImm x => .s64 x
  | .mul x => .s32 x
  | .mulImm x => .s64 x
  | .mulh x => .s32 x
  | .mulhImm x => .s64 x
  | .div x => .s32 x
  | .divImm x => .s64 x
  | .rem x => .s32 x
  | .remImm x => .s64 x
  | .and x => .s32 x
  | .andImm x => .s64 x
  | .or x => .s32 x
  | .orImm x => .s64 x
  | .xor x => .s32 x
  | .xorImm x => .s64 x
  | .shl x => .s32 x
  | .shlImm x => .s64 x
  | .shr x => .s32 x
  | .shrImm x => .s64 x
  | .sra x => .s32 x
  | .sraImm x => .s64 x
  | .min x => .s32 x
  | .minImm x => .s64 x
  | .max x => .s32 x
  | .maxImm x => .s64 x
  | .clz x => .s32 x
  | .popc x => .s32 x
  | .bfx x => .s32 x
  | .bfxImm x => .s64 x
  | .bfi x => .s32 x
  | .bfiImm x => .s64 x
  | .ext x => .s32 x
  | .extImm x => .s64 x
  | .cmp x => .s32 x
  | .cmpImm x => .s64 x
  | .sel x => .s32 x
  | .li64 x => .s64 x
  | .li96 x => .s96 x
  | .lea x => .s64 x
  | .ld x => .s32 x
  | .ldImm x => .s64 x
  | .st x => .s32 x
  | .stImm x => .s64 x
  | .br x => .s64 x
  | .jmp x => .s64 x
  | .call x => .s64 x
  | .loop x => .s64 x
  | .jmpx x => .s32 x
  | .ret x => .s32 x
  | .nop x => .s32 x
  | .nop64 x => .s64 x
  | .nop96 x => .s96 x
  | .endTeam x => .s32 x
  | .fork x => .s96 x
  | .join x => .s32 x
  | .nestSet x => .s32 x
  | .nestGo x => .s32 x
  | .nestClamp x => .s32 x
  | .launch x => .s64 x
  | .tsub x => .s64 x
  | .tresume x => .s32 x
  | .graphArm x => .s64 x
  | .evqPop x => .s32 x
  | .evqWait x => .s32 x
  | .semSig x => .s32 x
  | .semSigImm x => .s64 x
  | .semWait x => .s32 x
  | .semWaitImm x => .s64 x
  | .semSet x => .s64 x
  | .semRsig x => .s64 x
  | .ctlRd x => .s32 x
  | .ctlWr x => .s32 x
  | .tstamp x => .s32 x
  | .stageSw x => .s32 x
  | .trap x => .s32 x
  | .eret x => .s32 x
  | .vadd x => .v32 x
  | .vaddFull x => .v64 x
  | .vsub x => .v32 x
  | .vsubFull x => .v64 x
  | .vmul x => .v32 x
  | .vmulFull x => .v64 x
  | .vfma x => .v64 x
  | .vmin x => .v32 x
  | .vminFull x => .v64 x
  | .vmax x => .v32 x
  | .vmaxFull x => .v64 x
  | .vabs x => .v64 x
  | .vneg x => .v64 x
  | .vand x => .v32 x
  | .vandFull x => .v64 x
  | .vor x => .v32 x
  | .vorFull x => .v64 x
  | .vxor x => .v32 x
  | .vxorFull x => .v64 x
  | .vshl x => .v64 x
  | .vshr x => .v64 x
  | .vcmp x => .v64 x
  | .vsel x => .v64 x
  | .vmov x => .v32 x
  | .vmovFull x => .v64 x
  | .vli x => .v96 x
  | .vcvt x => .v64 x
  | .vwid x => .v64 x
  | .vnar x => .v64 x
  | .vpack x => .v64 x
  | .vunpk x => .v64 x
  | .vrcp x => .v64 x
  | .vrsq x => .v64 x
  | .vexp x => .v64 x
  | .vlog x => .v64 x
  | .vtanh x => .v64 x
  | .vsigm x => .v64 x
  | .vgelu x => .v64 x
  | .vsin x => .v64 x
  | .vrcps x => .v64 x
  | .vrsqs x => .v64 x
  | .vrsum x => .v64 x
  | .vrmax x => .v64 x
  | .vrmin x => .v64 x
  | .vscan x => .v64 x
  | .vargmax x => .v64 x
  | .vtopk x => .v64 x
  | .vperm x => .v64 x
  | .vshuf x => .v64 x
  | .vbcast x => .v64 x
  | .viota x => .v64 x
  | .vmand x => .v64 x
  | .vmor x => .v64 x
  | .vmnot x => .v64 x
  | .vmpop x => .v64 x
  | .vqnt x => .v64 x
  | .vdqnt x => .v64 x
  | .vld x => .v96 x
  | .vst x => .v96 x
  | .vldx x => .v96 x
  | .vstx x => .v96 x
  | .vdefer x => .v64 x
  | .vdrain x => .v64 x
  | .vdret x => .v64 x
  | .vbr x => .v96 x
  | .vloop x => .v96 x
  | .vtake x => .v64 x
  | .vgive x => .v64 x
  | .nestBeg x => .mark x
  | .nestEnd x => .mark x
  | .rdv x => .mark x
  | .engineEnd x => .mark x
  | .mma x => .m64 x
  | .mmaz x => .m64 x
  | .mmag x => .m64 x
  | .mconst x => .m64 x
  | .mprec x => .m96 x
  | .mscale x => .m64 x
  | .mown x => .m64 x
  | .mclr x => .m64 x
  | .mcvt x => .m64 x
  | .mscat x => .m64 x
  | .mfree x => .m64 x
  | .cp x => .c64 x
  | .cp96 x => .c96 x
  | .cpc x => .c64 x
  | .cpc96 x => .c96 x
  | .cpg x => .c64 x
  | .cpg96 x => .c96 x
  | .cps x => .c64 x
  | .cps96 x => .c96 x
  | .cpk x => .c64 x
  | .cpk96 x => .c96 x
  | .qinit x => .c64 x
  | .qinit96 x => .c96 x
  | .qpush x => .c64 x
  | .qpush96 x => .c96 x
  | .qpop x => .c64 x
  | .qpop96 x => .c96 x
  | .qpeek x => x.fields
  | .pref x => .c64 x
  | .pref96 x => .c96 x
  | .pin x => .c64 x
  | .pin96 x => .c96 x
  | .unpin x => .c64 x
  | .unpin96 x => .c96 x
  | .kvcommit x => .c64 x
  | .kvcommit96 x => .c96 x
  | .rst x => .c64 x
  | .rst96 x => .c96 x
  | .rld x => .c64 x
  | .rld96 x => .c96 x
  | .lsend x => .c64 x
  | .lsend96 x => .c96 x
  | .lradd x => .c64 x
  | .lradd96 x => .c96 x
  | .tslotSet x => .c64 x
  | .tslotSet96 x => .c96 x
  | .tfull x => x.fields
  | .tempty x => x.fields
  | .twait x => x.fields
  | .foot x => .c64 x
  | .foot96 x => .c96 x
  | .amoAdd x => .s32 x
  | .amoAddImm x => .s64 x
  | .amoMin x => .s32 x
  | .amoMinImm x => .s64 x
  | .amoMax x => .s32 x
  | .amoMaxImm x => .s64 x
  | .amoXchg x => .s32 x
  | .amoXchgImm x => .s64 x
  | .amoCas x => .s32 x
  | .amoCasImm x => .s64 x
  | .amoAnd x => .s32 x
  | .amoAndImm x => .s64 x
  | .amoOr x => .s32 x
  | .amoOrImm x => .s64 x
  | .vamo x => .v64 x
  | .fence x => .s32 x
  | .barExp x => .s64 x
  | .barWait x => .s64 x
  | .barArr x => .s64 x
  | .collReg x => .s64 x
  | .collAr x => .s64 x
  | .collAg x => .s64 x
  | .collRs x => .s64 x
  | .collFree x => .s64 x
  | .leaseReq x => .s64 x
  | .leaseRet x => .s64 x
  | .leaseQ x => .s64 x
  | .bankRun x => .s64 x
  | .bankStat x => .s64 x
  | .codeReg x => .s32 x
  | .codeReg64 x => .s64 x
  | .keyAlloc x => .s32 x
  | .keyAlloc64 x => .s64 x
  | .keyRevoke x => .s32 x
  | .keyRevoke64 x => .s64 x
  | .ctxSave x => .s32 x
  | .ctxSave64 x => .s64 x
  | .ctxLoad x => .s32 x
  | .ctxLoad64 x => .s64 x
  | .partStop x => .s32 x
  | .partStop64 x => .s64 x
  | .scrub x => .s32 x
  | .scrub64 x => .s64 x
  | .calSet x => .s32 x
  | .calSet64 x => .s64 x
  | .tlbInv x => .s32 x
  | .tlbInv64 x => .s64 x
  | .halt x => .s32 x
  | .halt64 x => .s64 x
  | .nbOpen x => x.fields
  | .nbLdacc x => x.fields
  | .nbScadd x => .n32 x
  | .nbScadd64 x => .n64 x
  | .nbMac x => .n32 x
  | .nbMac64 x => .n64 x
  | .nbWr x => x.fields
  | .nbLoop x => x.fields
  | .nbScale x => .n32 x
  | .nbScale64 x => .n64 x
  | .nbClr x => x.fields
  | .nbEnd x => x.fields
  | .decodeTrap => .event
  | .nbIllegalWord => .event
  | .postedStorePerform => .event
  | .msixVectorUnmask => .event

/-! The fields, when they are of one layout. -/
def Fields.asS32 (f : Fields) : Option S32 :=
  match f with
  | .s32 x => some x
  | _ => none
def Fields.asS64 (f : Fields) : Option S64 :=
  match f with
  | .s64 x => some x
  | _ => none
def Fields.asS96 (f : Fields) : Option S96 :=
  match f with
  | .s96 x => some x
  | _ => none
def Fields.asV32 (f : Fields) : Option V32 :=
  match f with
  | .v32 x => some x
  | _ => none
def Fields.asV64 (f : Fields) : Option V64 :=
  match f with
  | .v64 x => some x
  | _ => none
def Fields.asV96 (f : Fields) : Option V96 :=
  match f with
  | .v96 x => some x
  | _ => none
def Fields.asM64 (f : Fields) : Option M64 :=
  match f with
  | .m64 x => some x
  | _ => none
def Fields.asM96 (f : Fields) : Option M96 :=
  match f with
  | .m96 x => some x
  | _ => none
def Fields.asC64 (f : Fields) : Option C64 :=
  match f with
  | .c64 x => some x
  | _ => none
def Fields.asC96 (f : Fields) : Option C96 :=
  match f with
  | .c96 x => some x
  | _ => none
def Fields.asMark (f : Fields) : Option Mark :=
  match f with
  | .mark x => some x
  | _ => none
def Fields.asN32 (f : Fields) : Option N32 :=
  match f with
  | .n32 x => some x
  | _ => none
def Fields.asN64 (f : Fields) : Option N64 :=
  match f with
  | .n64 x => some x
  | _ => none

/-- The operand of a row that stands for both lengths (R185). -/
def Fields.copt : Fields → Option COpt
  | .c64 x => some ⟨x, none⟩
  | .c96 x => some ⟨x.c, some x.lit⟩
  | _ => none

/-- The operand of a near-bank row that stands for both lengths (R188). -/
def Fields.nopt : Fields → Option NOpt
  | .n32 x => some ⟨x, none⟩
  | .n64 x => some ⟨x.n, some x.imm32⟩
  | _ => none

noncomputable section

/-- The instruction of a name and its fields. -/
def buildInstr : Op → Fields → Option Instr
  | .add, f => f.asS32.map .add
  | .addImm, f => f.asS64.map .addImm
  | .sub, f => f.asS32.map .sub
  | .subImm, f => f.asS64.map .subImm
  | .mul, f => f.asS32.map .mul
  | .mulImm, f => f.asS64.map .mulImm
  | .mulh, f => f.asS32.map .mulh
  | .mulhImm, f => f.asS64.map .mulhImm
  | .div, f => f.asS32.map .div
  | .divImm, f => f.asS64.map .divImm
  | .rem, f => f.asS32.map .rem
  | .remImm, f => f.asS64.map .remImm
  | .and, f => f.asS32.map .and
  | .andImm, f => f.asS64.map .andImm
  | .or, f => f.asS32.map .or
  | .orImm, f => f.asS64.map .orImm
  | .xor, f => f.asS32.map .xor
  | .xorImm, f => f.asS64.map .xorImm
  | .shl, f => f.asS32.map .shl
  | .shlImm, f => f.asS64.map .shlImm
  | .shr, f => f.asS32.map .shr
  | .shrImm, f => f.asS64.map .shrImm
  | .sra, f => f.asS32.map .sra
  | .sraImm, f => f.asS64.map .sraImm
  | .min, f => f.asS32.map .min
  | .minImm, f => f.asS64.map .minImm
  | .max, f => f.asS32.map .max
  | .maxImm, f => f.asS64.map .maxImm
  | .clz, f => f.asS32.map .clz
  | .popc, f => f.asS32.map .popc
  | .bfx, f => f.asS32.map .bfx
  | .bfxImm, f => f.asS64.map .bfxImm
  | .bfi, f => f.asS32.map .bfi
  | .bfiImm, f => f.asS64.map .bfiImm
  | .ext, f => f.asS32.map .ext
  | .extImm, f => f.asS64.map .extImm
  | .cmp, f => f.asS32.map .cmp
  | .cmpImm, f => f.asS64.map .cmpImm
  | .sel, f => f.asS32.map .sel
  | .li64, f => f.asS64.map .li64
  | .li96, f => f.asS96.map .li96
  | .lea, f => f.asS64.map .lea
  | .ld, f => f.asS32.map .ld
  | .ldImm, f => f.asS64.map .ldImm
  | .st, f => f.asS32.map .st
  | .stImm, f => f.asS64.map .stImm
  | .br, f => f.asS64.map .br
  | .jmp, f => f.asS64.map .jmp
  | .call, f => f.asS64.map .call
  | .loop, f => f.asS64.map .loop
  | .jmpx, f => f.asS32.map .jmpx
  | .ret, f => f.asS32.map .ret
  | .nop, f => f.asS32.map .nop
  | .nop64, f => f.asS64.map .nop64
  | .nop96, f => f.asS96.map .nop96
  | .endTeam, f => f.asS32.map .endTeam
  | .fork, f => f.asS96.map .fork
  | .join, f => f.asS32.map .join
  | .nestSet, f => f.asS32.map .nestSet
  | .nestGo, f => f.asS32.map .nestGo
  | .nestClamp, f => f.asS32.map .nestClamp
  | .launch, f => f.asS64.map .launch
  | .tsub, f => f.asS64.map .tsub
  | .tresume, f => f.asS32.map .tresume
  | .graphArm, f => f.asS64.map .graphArm
  | .evqPop, f => f.asS32.map .evqPop
  | .evqWait, f => f.asS32.map .evqWait
  | .semSig, f => f.asS32.map .semSig
  | .semSigImm, f => f.asS64.map .semSigImm
  | .semWait, f => f.asS32.map .semWait
  | .semWaitImm, f => f.asS64.map .semWaitImm
  | .semSet, f => f.asS64.map .semSet
  | .semRsig, f => f.asS64.map .semRsig
  | .ctlRd, f => f.asS32.map .ctlRd
  | .ctlWr, f => f.asS32.map .ctlWr
  | .tstamp, f => f.asS32.map .tstamp
  | .stageSw, f => f.asS32.map .stageSw
  | .trap, f => f.asS32.map .trap
  | .eret, f => f.asS32.map .eret
  | .vadd, f => f.asV32.map .vadd
  | .vaddFull, f => f.asV64.map .vaddFull
  | .vsub, f => f.asV32.map .vsub
  | .vsubFull, f => f.asV64.map .vsubFull
  | .vmul, f => f.asV32.map .vmul
  | .vmulFull, f => f.asV64.map .vmulFull
  | .vfma, f => f.asV64.map .vfma
  | .vmin, f => f.asV32.map .vmin
  | .vminFull, f => f.asV64.map .vminFull
  | .vmax, f => f.asV32.map .vmax
  | .vmaxFull, f => f.asV64.map .vmaxFull
  | .vabs, f => f.asV64.map .vabs
  | .vneg, f => f.asV64.map .vneg
  | .vand, f => f.asV32.map .vand
  | .vandFull, f => f.asV64.map .vandFull
  | .vor, f => f.asV32.map .vor
  | .vorFull, f => f.asV64.map .vorFull
  | .vxor, f => f.asV32.map .vxor
  | .vxorFull, f => f.asV64.map .vxorFull
  | .vshl, f => f.asV64.map .vshl
  | .vshr, f => f.asV64.map .vshr
  | .vcmp, f => f.asV64.map .vcmp
  | .vsel, f => f.asV64.map .vsel
  | .vmov, f => f.asV32.map .vmov
  | .vmovFull, f => f.asV64.map .vmovFull
  | .vli, f => f.asV96.map .vli
  | .vcvt, f => f.asV64.map .vcvt
  | .vwid, f => f.asV64.map .vwid
  | .vnar, f => f.asV64.map .vnar
  | .vpack, f => f.asV64.map .vpack
  | .vunpk, f => f.asV64.map .vunpk
  | .vrcp, f => f.asV64.map .vrcp
  | .vrsq, f => f.asV64.map .vrsq
  | .vexp, f => f.asV64.map .vexp
  | .vlog, f => f.asV64.map .vlog
  | .vtanh, f => f.asV64.map .vtanh
  | .vsigm, f => f.asV64.map .vsigm
  | .vgelu, f => f.asV64.map .vgelu
  | .vsin, f => f.asV64.map .vsin
  | .vrcps, f => f.asV64.map .vrcps
  | .vrsqs, f => f.asV64.map .vrsqs
  | .vrsum, f => f.asV64.map .vrsum
  | .vrmax, f => f.asV64.map .vrmax
  | .vrmin, f => f.asV64.map .vrmin
  | .vscan, f => f.asV64.map .vscan
  | .vargmax, f => f.asV64.map .vargmax
  | .vtopk, f => f.asV64.map .vtopk
  | .vperm, f => f.asV64.map .vperm
  | .vshuf, f => f.asV64.map .vshuf
  | .vbcast, f => f.asV64.map .vbcast
  | .viota, f => f.asV64.map .viota
  | .vmand, f => f.asV64.map .vmand
  | .vmor, f => f.asV64.map .vmor
  | .vmnot, f => f.asV64.map .vmnot
  | .vmpop, f => f.asV64.map .vmpop
  | .vqnt, f => f.asV64.map .vqnt
  | .vdqnt, f => f.asV64.map .vdqnt
  | .vld, f => f.asV96.map .vld
  | .vst, f => f.asV96.map .vst
  | .vldx, f => f.asV96.map .vldx
  | .vstx, f => f.asV96.map .vstx
  | .vdefer, f => f.asV64.map .vdefer
  | .vdrain, f => f.asV64.map .vdrain
  | .vdret, f => f.asV64.map .vdret
  | .vbr, f => f.asV96.map .vbr
  | .vloop, f => f.asV96.map .vloop
  | .vtake, f => f.asV64.map .vtake
  | .vgive, f => f.asV64.map .vgive
  | .nestBeg, f => f.asMark.map .nestBeg
  | .nestEnd, f => f.asMark.map .nestEnd
  | .rdv, f => f.asMark.map .rdv
  | .engineEnd, f => f.asMark.map .engineEnd
  | .mma, f => f.asM64.map .mma
  | .mmaz, f => f.asM64.map .mmaz
  | .mmag, f => f.asM64.map .mmag
  | .mconst, f => f.asM64.map .mconst
  | .mprec, f => f.asM96.map .mprec
  | .mscale, f => f.asM64.map .mscale
  | .mown, f => f.asM64.map .mown
  | .mclr, f => f.asM64.map .mclr
  | .mcvt, f => f.asM64.map .mcvt
  | .mscat, f => f.asM64.map .mscat
  | .mfree, f => f.asM64.map .mfree
  | .cp, f => f.asC64.map .cp
  | .cp96, f => f.asC96.map .cp96
  | .cpc, f => f.asC64.map .cpc
  | .cpc96, f => f.asC96.map .cpc96
  | .cpg, f => f.asC64.map .cpg
  | .cpg96, f => f.asC96.map .cpg96
  | .cps, f => f.asC64.map .cps
  | .cps96, f => f.asC96.map .cps96
  | .cpk, f => f.asC64.map .cpk
  | .cpk96, f => f.asC96.map .cpk96
  | .qinit, f => f.asC64.map .qinit
  | .qinit96, f => f.asC96.map .qinit96
  | .qpush, f => f.asC64.map .qpush
  | .qpush96, f => f.asC96.map .qpush96
  | .qpop, f => f.asC64.map .qpop
  | .qpop96, f => f.asC96.map .qpop96
  | .qpeek, f => f.copt.map .qpeek
  | .pref, f => f.asC64.map .pref
  | .pref96, f => f.asC96.map .pref96
  | .pin, f => f.asC64.map .pin
  | .pin96, f => f.asC96.map .pin96
  | .unpin, f => f.asC64.map .unpin
  | .unpin96, f => f.asC96.map .unpin96
  | .kvcommit, f => f.asC64.map .kvcommit
  | .kvcommit96, f => f.asC96.map .kvcommit96
  | .rst, f => f.asC64.map .rst
  | .rst96, f => f.asC96.map .rst96
  | .rld, f => f.asC64.map .rld
  | .rld96, f => f.asC96.map .rld96
  | .lsend, f => f.asC64.map .lsend
  | .lsend96, f => f.asC96.map .lsend96
  | .lradd, f => f.asC64.map .lradd
  | .lradd96, f => f.asC96.map .lradd96
  | .tslotSet, f => f.asC64.map .tslotSet
  | .tslotSet96, f => f.asC96.map .tslotSet96
  | .tfull, f => f.copt.map .tfull
  | .tempty, f => f.copt.map .tempty
  | .twait, f => f.copt.map .twait
  | .foot, f => f.asC64.map .foot
  | .foot96, f => f.asC96.map .foot96
  | .amoAdd, f => f.asS32.map .amoAdd
  | .amoAddImm, f => f.asS64.map .amoAddImm
  | .amoMin, f => f.asS32.map .amoMin
  | .amoMinImm, f => f.asS64.map .amoMinImm
  | .amoMax, f => f.asS32.map .amoMax
  | .amoMaxImm, f => f.asS64.map .amoMaxImm
  | .amoXchg, f => f.asS32.map .amoXchg
  | .amoXchgImm, f => f.asS64.map .amoXchgImm
  | .amoCas, f => f.asS32.map .amoCas
  | .amoCasImm, f => f.asS64.map .amoCasImm
  | .amoAnd, f => f.asS32.map .amoAnd
  | .amoAndImm, f => f.asS64.map .amoAndImm
  | .amoOr, f => f.asS32.map .amoOr
  | .amoOrImm, f => f.asS64.map .amoOrImm
  | .vamo, f => f.asV64.map .vamo
  | .fence, f => f.asS32.map .fence
  | .barExp, f => f.asS64.map .barExp
  | .barWait, f => f.asS64.map .barWait
  | .barArr, f => f.asS64.map .barArr
  | .collReg, f => f.asS64.map .collReg
  | .collAr, f => f.asS64.map .collAr
  | .collAg, f => f.asS64.map .collAg
  | .collRs, f => f.asS64.map .collRs
  | .collFree, f => f.asS64.map .collFree
  | .leaseReq, f => f.asS64.map .leaseReq
  | .leaseRet, f => f.asS64.map .leaseRet
  | .leaseQ, f => f.asS64.map .leaseQ
  | .bankRun, f => f.asS64.map .bankRun
  | .bankStat, f => f.asS64.map .bankStat
  | .codeReg, f => f.asS32.map .codeReg
  | .codeReg64, f => f.asS64.map .codeReg64
  | .keyAlloc, f => f.asS32.map .keyAlloc
  | .keyAlloc64, f => f.asS64.map .keyAlloc64
  | .keyRevoke, f => f.asS32.map .keyRevoke
  | .keyRevoke64, f => f.asS64.map .keyRevoke64
  | .ctxSave, f => f.asS32.map .ctxSave
  | .ctxSave64, f => f.asS64.map .ctxSave64
  | .ctxLoad, f => f.asS32.map .ctxLoad
  | .ctxLoad64, f => f.asS64.map .ctxLoad64
  | .partStop, f => f.asS32.map .partStop
  | .partStop64, f => f.asS64.map .partStop64
  | .scrub, f => f.asS32.map .scrub
  | .scrub64, f => f.asS64.map .scrub64
  | .calSet, f => f.asS32.map .calSet
  | .calSet64, f => f.asS64.map .calSet64
  | .tlbInv, f => f.asS32.map .tlbInv
  | .tlbInv64, f => f.asS64.map .tlbInv64
  | .halt, f => f.asS32.map .halt
  | .halt64, f => f.asS64.map .halt64
  | .nbOpen, f => f.nopt.map .nbOpen
  | .nbLdacc, f => f.nopt.map .nbLdacc
  | .nbScadd, f => f.asN32.map .nbScadd
  | .nbScadd64, f => f.asN64.map .nbScadd64
  | .nbMac, f => f.asN32.map .nbMac
  | .nbMac64, f => f.asN64.map .nbMac64
  | .nbWr, f => f.nopt.map .nbWr
  | .nbLoop, f => f.nopt.map .nbLoop
  | .nbScale, f => f.asN32.map .nbScale
  | .nbScale64, f => f.asN64.map .nbScale64
  | .nbClr, f => f.nopt.map .nbClr
  | .nbEnd, f => f.nopt.map .nbEnd


end

/-- The class of an encoded instruction (R167). -/
def Fields.cls (op : Op) : Fields → BitVec 3
  | .mark x => x.eng.cls
  | _ => op.code.1

end Sys2Proof
end

