-- ==== Sys2Proof/Machine/Sparse.lean ====
section
/-! DEFINITION. Stores as plain lists of key and value in ONE canonical form: keys strictly rising and no entry equal to what
an unlisted key reads as. Memory is such a store of bytes (R306, R327). -/
namespace Sys2Proof.Machine

/-- A store with a default: keys strictly rising, no entry equal to the default. -/
abbrev Sparse (α : Type) := List (Nat × α)

/-- A table of records: keys strictly rising, an unlisted key has no record. -/
abbrev Tab (α : Type) := List (Nat × α)

/-- Keys rise strictly from `lo`. -/
def keysFrom {α : Type} : Nat → List (Nat × α) → Bool
  | _, [] => true
  | lo, (k, _) :: t => decide (lo ≤ k) && keysFrom (k + 1) t

/-- The canonical form of a table. -/
def Tab.wf {α : Type} (t : Tab α) : Bool := keysFrom 0 t

/-- The canonical form of a store with default `d`. -/
def Sparse.wf {α : Type} [DecidableEq α] (d : α) (m : Sparse α) : Bool := keysFrom 0 m && m.all (fun p => p.2 != d)

/-- What key `k` holds; an unlisted key reads as `d`. -/
def Sparse.get {α : Type} (d : α) : Sparse α → Nat → α
  | [], _ => d
  | (a, v) :: t, k => if k = a then v else Sparse.get d t k

/-- The record of key `k`. -/
def Tab.find {α : Type} : Tab α → Nat → Option α
  | [], _ => none
  | (a, v) :: t, k => if k = a then some v else Tab.find t k

/-- Put a record. -/
def Tab.put {α : Type} : Tab α → Nat → α → Tab α
  | [], k, v => [(k, v)]
  | (a, w) :: t, k, v => if k = a then (k, v) :: t else if k < a then (k, v) :: (a, w) :: t else (a, w) :: Tab.put t k v

/-- Remove a record. -/
def Tab.del {α : Type} (t : Tab α) (k : Nat) : Tab α := t.filter fun p => p.1 != k

/-- Write `v` at key `k`, keeping the canonical form. -/
def Sparse.set {α : Type} [DecidableEq α] (d : α) (m : Sparse α) (k : Nat) (v : α) : Sparse α :=
  if v = d then Tab.del m k else Tab.put m k v

/-- Change a record that is there. -/
def Tab.upd {α : Type} (t : Tab α) (k : Nat) (f : α → α) : Tab α :=
  t.map fun p => if p.1 = k then (p.1, f p.2) else p

/-- Keep the records that satisfy `p`. -/
def Tab.keep {α : Type} (t : Tab α) (p : Nat → α → Bool) : Tab α := t.filter fun x => p x.1 x.2

/-- Change every record. -/
def Tab.mapv {α : Type} (t : Tab α) (f : Nat → α → α) : Tab α := t.map fun x => (x.1, f x.1 x.2)

/-- A set of numbers: a store of `true` with default `false`. -/
abbrev NatSet := Sparse Bool
def NatSet.mem (s : NatSet) (k : Nat) : Bool := Sparse.get false s k
def NatSet.ins (s : NatSet) (k : Nat) : NatSet := Sparse.set false s k true
def NatSet.rem (s : NatSet) (k : Nat) : NatSet := Sparse.set false s k false

/-- Bytes of memory. -/
abbrev Memory := Sparse Byte

/-- What a byte of memory that nothing has written reads as (log 4). -/
def unlistedByte : Byte := 0

/-- The canonical form of a memory. -/
def Memory.wf (m : Memory) : Bool := Sparse.wf unlistedByte m

/-- Read one byte. -/
def Memory.rd (m : Memory) (a : Nat) : Byte := Sparse.get unlistedByte m a

/-- Write one byte. -/
def Memory.wr (m : Memory) (a : Nat) (v : Byte) : Memory := Sparse.set unlistedByte m a v

/-- Read `n` bytes at ascending addresses. -/
def Memory.rdBytes (m : Memory) : Nat → Nat → List Byte
  | _, 0 => []
  | a, n + 1 => m.rd a :: Memory.rdBytes m (a + 1) n

/-- Write bytes at ascending addresses. -/
def Memory.wrBytes (m : Memory) : Nat → List Byte → Memory
  | _, [] => m
  | a, b :: bs => Memory.wrBytes (m.wr a b) (a + 1) bs

end Sys2Proof.Machine
end

