-- ==== Sys2Proof/Machine/State.lean ====
section
/-! DEFINITION. The state of the N4 as plain data, the state right after reset, and the reasons a step can stop.
Every field's docstring names the rule of spec/ that gives it; INVENTORY.md lists the reset values. -/
namespace Sys2Proof.Machine

/-! ### Streams and nests -/

/-- State of an engine stream (R152). -/
inductive StrSt where
  | idle | run | atRdv
  deriving DecidableEq, Repr

/-- An engine stream of a team (R152, R460, R470). -/
structure EStream where
  st : StrSt := .idle
  /-- Program counter: the offset of the next instruction, or the offset after the RDV (R152). -/
  pc : Word := 0
  /-- The nest slot whose body the sequencer is running (R159). -/
  nest : Option Bool := none
  /-- Held by trap entry (R460). -/
  held : Bool := false
  /-- Stopped by a pre-emption or a stage switch (R470, R471, R108). -/
  stopped : Bool := false
  deriving DecidableEq, Repr

/-- State of a nest slot's active copy (R159). -/
inductive SlotSt where
  | idle | armed | run | held
  deriving DecidableEq, Repr

/-- One level of a nest (R158): trip count, prologue, epilogue, strides of generators 0 to 3. -/
structure NestLevel where
  trip : Nat := 0
  pro : Nat := 0
  epi : Nat := 0
  strides : List Int := []
  deriving DecidableEq, Repr

/-- A nest slot (R159 to R164): shadow copy, active copy and the sequencer's position. -/
structure NestSlot where
  /-- The 32 words that NEST.SET wrote (R219). -/
  shadow : List Word := []
  st : SlotSt := .idle
  eng : Engine := .vector
  /-- Code offset of the body's NEST.BEG (R157). -/
  bodyOff : Nat := 0
  /-- Code offset after the matching NEST.END. -/
  endOff : Nat := 0
  levels : List NestLevel := []
  /-- Offset and words of each body instruction, in program order. -/
  body : List (Nat × List W32) := []
  start : List Nat := []
  idx : List Nat := []
  stop0 : Option Nat := none
  saved : List Nat := []
  resumed : Bool := false
  /-- Number of body instructions of the current iteration that are done. -/
  pos : Nat := 0
  /-- The clamp came from a pre-emption or a stage switch (R164). -/
  preClamp : Bool := false
  deriving DecidableEq, Repr

/-! ### Records -/

/-- The eight words of a completion record (R372). -/
abbrev CRec := List Word

/-- A fault record (R456) before SEQ is known. -/
structure FRec where
  cause : Cause := .illOp
  strm : Nat := 0
  stage : Bool := false
  prec : Bool := false
  asid : Nat := 0
  team : BitVec 32 := 0xFFFFFFFF
  time : Nat := 0
  epc : BitVec 32 := 0
  detail : BitVec 32 := 0
  addr : Word := 0
  ids : List (BitVec 32) := []
  owner : Nat := 0
  peer : Nat := 0
  grid : BitVec 32 := 0xFFFFFFFF
  /-- SEQ of a record that was offered when it arose. -/
  seq : BitVec 32 := 0
  deriving DecidableEq, Repr

/-- Names one team of a grid. -/
structure TeamRef where
  grid : Nat := 0
  no : Nat := 0
  deriving DecidableEq, Repr

/-- What takes effect when a hub record is written (R223, R504, R509). -/
inductive After where
  | nothing
  /-- A grid's record: its node and queue entry complete and its id becomes free. -/
  | grid (gid : Nat) (st : Status)
  /-- A task's record: its node and queue entry count one task less. -/
  | task (node : Option (Nat × Nat)) (entry : Option Nat) (st : Status)
  /-- A graph's record: its place frees (R90), and the queue entry that submitted it completes. -/
  | graph (place : Nat)
  /-- A host-notify node's entry (R45). -/
  | notify (place node : Nat)
  /-- The record of a queue entry that failed its checks (SER of R83). -/
  | entry (queue : Nat)
  deriving DecidableEq, Repr

/-- A record that waits at the hub for a place in an event queue or a host ring (R223, R509). -/
structure PendRec where
  cr : CRec := []
  after : After := .nothing
  /-- Records of the team's copy engine that were produced before it and still wait (R223). -/
  behind : Nat := 0
  deriving DecidableEq, Repr

/-! ### Cell state -/

/-- An accumulator entry (R73): its value is `s * 2 ^ e`. -/
structure AccE where
  s : Int := 0
  e : Int := -512
  inv : Bool := false
  ovf : Bool := false
  deriving DecidableEq, Repr

/-- A tile slot descriptor (R278). -/
structure Tile where
  full : Bool := false
  valid : Bool := false
  base : BitVec 23 := 0
  pitch : BitVec 16 := 0
  rows : BitVec 10 := 0
  tscale : BitVec 32 := 0x3F800000
  prec : BitVec 32 := 0
  deriving DecidableEq, Repr

/-- A queue control word (R365). -/
structure QWord where
  v : Bool := false
  esz : BitVec 3 := 0
  logd : BitVec 5 := 0
  base : BitVec 23 := 0
  head : BitVec 32 := 0
  tail : BitVec 32 := 0
  deriving DecidableEq, Repr

/-- An exposed-latency result of the vector stream (R238 to R241): what lands after `rem` more stream cycles. -/
structure Landing where
  rem : Nat := 1
  /-- Squashable (R176). -/
  sq : Bool := false
  /-- Lane key (128 x register + lane; latches are registers 64 to 67), the bits written, and their value. -/
  lanes : List (Nat × BitVec 32 × BitVec 32) := []
  /-- Mask bits (128 x mask + lane). -/
  bits : List (Nat × Bool) := []
  /-- Flags to raise, NV DZ OF UF NX in [4:0] (R59). -/
  flags : BitVec 5 := 0
  /-- Row whose owner gets the flags in a pass cell (R78). -/
  row : Option Nat := none
  /-- A vault load that read an uncorrectable word, with the load's offset (R268). -/
  poison : Option Word := none
  /-- In flight when the strand blocked in SEM.WAIT or EVQ.WAIT, which waits for it first (R199). -/
  drain : Bool := false
  /-- Streams whose FENCE was issued after it (R385). -/
  fence : List Stream := []
  deriving DecidableEq, Repr

/-- A product in the array queue (R284), with everything it read at issue (R285). -/
structure Product where
  /-- 0 MMA, 1 MMAZ, 2 MMAG, 3 MCONST. -/
  kind : Nat := 0
  sub : Nat := 0
  bank : Bool := false
  m : Nat := 32
  n : Nat := 16
  a : Tile := {}
  b : Tile := {}
  sa : Tile := {}
  sb : Tile := {}
  /-- Slot numbers of TA and TB, for MFREE's wait (R282). -/
  ta : Nat := 0
  tb : Nat := 0
  aOff : Int := 0
  bOff : Int := 0
  /-- Index slot entries read at issue (R288, R289). -/
  idx : List Nat := []
  /-- Streams whose FENCE was issued after it (R385). -/
  fence : List Stream := []
  deriving DecidableEq, Repr

/-- State that both stages of a cell share (R106), banks and array included. -/
structure Shared where
  /-- v0 to v63 and b0 to b3 by lane key (R245, R175). -/
  v : Sparse (BitVec 32) := []
  /-- m0 to m15 by bit key (R177). -/
  m : Sparse Bool := []
  /-- acc0 and acc1 by key (128 x bank + row) x 128 + col (R283). -/
  acc : Sparse AccE := []
  /-- Full/empty bits of the banks: FULL is the vector engine's (R282). -/
  full0 : Bool := false
  full1 : Bool := false
  /-- Tensor-scale bindings TensorA and TensorB of each bank (R283). -/
  ta0 : BitVec 32 := 0x3F800000
  tb0 : BitVec 32 := 0x3F800000
  ta1 : BitVec 32 := 0x3F800000
  tb1 : BitVec 32 := 0x3F800000
  /-- DIRTY bits (R473). -/
  dirty0 : Bool := false
  dirty1 : Bool := false
  /-- Pending exposed-latency results, in issue order (R238). -/
  landings : List Landing := []
  /-- The array queue (R284). -/
  array : List Product := []
  deriving DecidableEq, Repr

/-- A region of a footprint (R351): `n` runs of `len` bytes, `stride` apart, from a flat address. -/
structure Region where
  lo : Nat := 0
  len : Nat := 0
  n : Nat := 1
  stride : Nat := 0
  deriving DecidableEq, Repr

/-- The regions a job reads and writes (R351, R370). -/
structure Footprint where
  reads : List Region := []
  writes : List Region := []
  deriving DecidableEq, Repr

/-- A line of a CPC job that the Carousel still has to land (R334 to R336). -/
structure CpcLine where
  /-- Physical address, offset in the vault allotment, key slot, and row of the job. -/
  pa : Nat := 0
  off : Nat := 0
  slot : Nat := 0
  row : Nat := 0
  /-- Device time at which its assigned slot starts, and the least start cycle of a slot that may carry it. -/
  time : Nat := 0
  from_ : Nat := 0
  /-- Answered late in a slot of this start cycle; waits for its swap, or is read from the capacity tier. -/
  late : Option Nat := none
  cap : Bool := false
  /-- What its slot has read: it lands 200 cycles after the slot's start. -/
  got : Option (List Byte) := none
  deriving DecidableEq, Repr

/-- Progress of a job card (R350, R354). -/
inductive CardSt where
  /-- Not started. -/
  | waiting
  /-- Started: its bytes are not all performed. -/
  | running
  /-- Its bytes are performed; JOB_COMPLETE is due. -/
  | performed
  /-- Signalled; its record waits for the event queue (R223). -/
  | recording
  deriving DecidableEq, Repr

/-- A job card (R345 to R355). -/
structure Card where
  /-- Job sequence number (R372), and place in the issue order of the cell (R350). -/
  seq : Nat := 0
  order : Nat := 0
  /-- Copy-class opcode (R185). -/
  op : Nat := 0
  stream : Stream := .strand
  block : List Word := []
  wsem : Option Nat := none
  ssem : Option Nat := none
  md : BitVec 3 := 0
  qw : Nat := 0
  foot : Footprint := {}
  st : CardSt := .waiting
  /-- Its count has been taken from its wait semaphore (R350). -/
  took : Bool := false
  /-- Its first checks are made (R353). -/
  checked : Bool := false
  /-- Rows done, bytes done of the next row, and an index popped for it (R358). -/
  row : Nat := 0
  off : Nat := 0
  cur : Option Nat := none
  /-- The length word as KVCOMMIT read it (R362). -/
  len : Nat := 0
  status : Status := .ok
  failRow : Nat := 0
  bytes : Nat := 0
  pz : Bool := false
  cnt1 : Nat := 0
  cnt2 : Nat := 0
  vfl : BitVec 5 := 0
  /-- Lines of a CPC job still to be landed by the Carousel. -/
  lines : List CpcLine := []
  /-- Its last packet is queued: it is performed once its packets are (R354), or for an RST have left (R363). -/
  sentAll : Bool := false
  /-- Frames whose residency a PIN waits for (R360). -/
  frames : List Nat := []
  deriving DecidableEq, Repr

/-- Who waits on a semaphore (R226). -/
inductive Waiter where
  | strand
  | card (seq : Nat)
  deriving DecidableEq, Repr

/-- An entry of the outstanding-load list (R197): the register it returns to, unless a later write came first. -/
structure Load where
  reg : Option Nat := none
  value : Word := 0
  deriving DecidableEq, Repr

/-- A request that the hub keeps for a stage (R477): the words of the instruction, and the result when done. -/
structure HubReq where
  op : Nat := 0
  a : Word := 0
  b : Word := 0
  c : Word := 0
  done : Bool := false
  r0 : Word := 0
  r1 : Word := 0
  /-- The hub's access to the operand failed: cause and address. -/
  bad : Option (Cause × Nat) := none
  deriving DecidableEq, Repr

/-- Why the hub pre-empts a team (R469). -/
inductive PreWhy where
  | swap | slice | stop | save
  deriving DecidableEq, Repr

/-- What the strand is blocked on where the block is more than re-issuing an instruction. -/
structure EndWait where
  /-- END has joined the streams and waits for the jobs (R236). -/
  joined : Bool := false
  deriving DecidableEq, Repr

/-- What was issued before a FENCE that waits (R385): the job cards not complete then, and the number of the next packet. -/
structure Fence where
  cards : List Nat := []
  pkt : Nat := 0
  deriving DecidableEq, Repr

/-- A blocked BAR.WAIT (R407): the barrier's physical address, the phase, and whether the memory controller has told it that the phase is
over. -/
structure BarWait where
  pa : Nat := 0
  phase : BitVec 16 := 0
  told : Bool := false
  deriving DecidableEq, Repr

/-- A team: the banked state of a stage (R106), also what is kept while it is swapped out (R122). -/
structure Team where
  asid : Nat := 0
  grid : Nat := 0
  no : Nat := 0
  /-- LVLID0 to LVLID7 (R24). -/
  lvl : List (BitVec 32) := []
  /-- Vault allotment in units of 64 KiB (R17), and its bytes and poisoned vault words (R321, R323). -/
  valloc : Nat := 1
  vault : Memory := []
  vpoison : NatSet := []
  codeh : Nat := 0
  spillh : Nat := 0
  /-- Hash of the image whose epilogue this team is, for a pass cell (R446). -/
  epilogue : Option Word := none
  /-- s1 to s31 (R200). -/
  regs : Sparse Word := []
  /-- The privileged set s24 to s31 (R467). -/
  pregs : Sparse Word := []
  /-- p1 to p7 in bits [7:1] (R200). -/
  preds : BitVec 8 := 0
  pc : Word := 0
  /-- Return-address store, oldest first (R216). -/
  ras : List Word := []
  rasp : Word := 0
  rasbase : Word := 0
  raslim : Word := 0
  vflags : BitVec 5 := 0
  vrstidx : BitVec 8 := 0
  loads : List Load := []
  nt0 : NestSlot := {}
  nt1 : NestSlot := {}
  tiles : Sparse Tile := []
  qws : Sparse QWord := []
  sems : Sparse (BitVec 32) := []
  /-- Waiters in arrival order: semaphore, who, count (R226). Number 256 stands for the strand's EVQ.WAIT (R199). -/
  waiters : List (Nat × Waiter × BitVec 32) := []
  evq : List CRec := []
  /-- Records of the copy engine and of the hub that wait for room (R223). -/
  evCe : List (Nat × CRec) := []
  evHub : List PendRec := []
  vec : EStream := {}
  mat : EStream := {}
  cpy : EStream := {}
  priv : Bool := false
  tstrm : Nat := 0
  epc : Word := 0
  epcv : Word := 0
  epcm : Word := 0
  epcc : Word := 0
  frec : List Word := []
  apend : List FRec := []
  scratch0 : Word := 0
  scratch1 : Word := 0
  batch : Bool := false
  batchN : Nat := 0
  origin : Sparse Nat := []
  cards : List Card := []
  jobSeq : Nat := 0
  footS : Option Footprint := none
  footC : Option Footprint := none
  hubReq : Option HubReq := none
  /-- Pre-emption requested, with its time, and whether the stop is complete (R469 to R471). -/
  pre : Option (PreWhy × Nat) := none
  halted : Bool := false
  /-- The stage is switching out at STAGE.SW (R232). -/
  switching : Bool := false
  /-- Pending vector results frozen while the team's stage is inactive (R108, R468). -/
  frozen : List Landing := []
  endw : EndWait := {}
  /-- The semaphore wait at which the strand stood when it was interrupted, and its count; 256 stands for EVQ.WAIT (R107, R198). -/
  stood : Option (Nat × BitVec 32) := none
  /-- Elements done of the VAMO that the vector stream stands in; VRSTIDX takes it at an interruption (R402, R403). -/
  vpos : Nat := 0
  /-- The FENCEs that wait, by the code of their stream (R385), and the BAR.WAIT that the strand is blocked in. -/
  fences : Tab Fence := []
  barWait : Option BarWait := none
  /-- Its strand has been given its first issue. -/
  started : Bool := false
  /-- The peer whose data or acknowledgement the strand's instruction waits for (R441). -/
  waitPeer : Option Nat := none
  /-- Ended under R465. -/
  ended : Bool := false
  /-- Cycle from which its occupation of a cell is charged (R100). -/
  chargeFrom : Nat := 0
  deriving DecidableEq, Repr

/-- A stage switch in progress (R108). -/
structure Switch where
  start : Nat := 0
  /-- Drained, or hard stopped. -/
  ready : Bool := false
  hard : Bool := false
  deriving DecidableEq, Repr

/-- A receive port: bytes that have arrived and are not consumed (R364). -/
structure Port where
  buf : List Byte := []
  deriving DecidableEq, Repr

/-- One cell (R106, R111, R364). -/
structure Cell where
  a : Option Team := none
  b : Option Team := none
  /-- Active stage: `false` A, `true` B (R230). -/
  active : Bool := false
  sh : Shared := {}
  saveA : Option Shared := none
  saveB : Option Shared := none
  sw : Option Switch := none
  ports : Tab Port := []
  /-- Next place in the issue order of job cards (R350). -/
  nextCard : Nat := 0
  /-- Out of service with no spare left (R493). -/
  lost : Bool := false
  /-- Of a pass cell: what epilogues leave in their part of the vault (R448), and its poisoned words. -/
  work : Memory := []
  workBad : NatSet := []
  deriving DecidableEq, Repr

/-! ### Ringmaster -/

/-- Where the deficit rounds of a function stand (R94), or those of a die's two queues (R128): the context or queue whose turn it is, and whether it may take items. -/
structure ArbPos where
  asid : Nat := 0
  on : Bool := false
  deriving DecidableEq, Repr

/-- State of a tile task (R140). -/
inductive TaskSt where
  /-- Submitted, waiting for its Ringmaster to have room (R124). -/
  | pending
  | queued | inPass | owed | parked
  /-- Steered to another device (R145). -/
  | away
  | complete | removed
  deriving DecidableEq, Repr

/-- A tile task (R35, R125, R133). -/
structure Task where
  id : BitVec 32 := 0
  /-- The model's own number for it: a steered task brings its id from elsewhere, and a remainder task shares one. -/
  uid : Nat := 0
  /-- Of a remainder task, the number of its original (R133). -/
  orig : Option Nat := none
  /-- Its deadline has passed (R126). -/
  due : Bool := false
  asid : Nat := 0
  /-- The eight descriptor words, OWNER written by the hardware (R36). -/
  desc : List Word := []
  fn : Nat := 0
  die : Nat := 0
  st : TaskSt := .pending
  /-- Acceptance order and time (R125). -/
  order : Nat := 0
  accepted : Nat := 0
  deadline : Nat := 0
  /-- Column groups a remainder task covers: 0 to `upto` - 1 (R133); `none` for the whole task. -/
  upto : Option Nat := none
  /-- Scatters still owed: the running pass and the remainder pass (R133). -/
  owed : Nat := 0
  submitter : Option TeamRef := none
  node : Option (Nat × Nat) := none
  /-- Queue of the task batch it came from (R83). -/
  entry : Option Nat := none
  vfl : BitVec 5 := 0
  /-- The pass row whose translation failed first (R499). -/
  parkRow : Option Nat := none
  /-- Plane-cycles to report to the device it came from (R145). -/
  units : Nat := 0
  /-- Devices that refused it, and the one it went to (R145). -/
  refused : List Nat := []
  target : Option Nat := none
  /-- Steered here: the device it came from, and its activation rows (R145). -/
  origin : Option Nat := none
  acts : List (List Byte) := []
  /-- What is left of its provisional cost (R94). -/
  prov : Nat := 0
  /-- It is parked, and the pass of its other rows was lost: it is queued again when it is resumed (R140, R493). -/
  lost : Bool := false
  /-- Its results have come back and are being performed: the status and ADDR that it ends with (R145, R39). -/
  ending : Option (Status × Nat) := none
  deriving DecidableEq, Repr

/-- A row of a pass (R131): its task, its owner and its index within the task. -/
structure PassRow where
  task : BitVec 32 := 0
  uid : Nat := 0
  owner : Nat := 0
  idx : Nat := 0
  /-- First column group that the row runs in (R133). -/
  from_ : Nat := 0
  /-- Activation bytes in the gather latch. -/
  act : List Byte := []
  parked : Bool := false
  deriving DecidableEq, Repr

/-- State of a pass (R141). -/
inductive PassSt where
  | gather | run | admission | epilogue | scatter | done
  deriving DecidableEq, Repr

/-- A pass on a pass cell (R129 to R141). -/
structure Pass where
  hash : Word := 0
  wid : Word := 0
  shape : Nat := 0
  bulk : Bool := false
  st : PassSt := .gather
  rows : List PassRow := []
  /-- Column groups in all, and the one that runs. -/
  groups : Nat := 1
  g : Nat := 0
  remainder : Bool := false
  reserved : Nat := 0
  /-- Row offsets stored by the epilogue's MSCAT: row, byte offset within the result row, bytes (R298, R447). -/
  out : List (Nat × Nat × List Byte) := []
  /-- The epilogue has ended with this cause (R448). -/
  trapped : Option Cause := none
  ended : Bool := false
  /-- Tasks that were queued when the running column group began (R132). -/
  early : List Nat := []
  /-- Group at which the rows last changed, for the charges of R134. -/
  span : Nat := 0
  /-- Its rows are stored and not all performed yet: the owners that could not be, with cause, address and row (R497). -/
  stored : Option (List (Nat × Cause × Nat × Nat)) := none
  deriving DecidableEq, Repr

/-- Parked rows of one owner in a pass cell (R135 to R139). -/
structure Parked where
  cell : Nat := 0
  owner : Nat := 0
  /-- Its tasks in the pass, in row order, by the model's numbers. -/
  tasks : List Nat := []
  /-- Parked at scatter, with the bytes kept: task, pass row, row index within the task, offset within the row, bytes. -/
  scatter : Bool := false
  kept : List (Nat × Nat × Nat × Nat × List Byte) := []
  /-- First pass row of the owner. -/
  first : Nat := 0
  bytes : Nat := 0
  /-- Being resumed (R138). -/
  resuming : Bool := false
  /-- Its rows are stored, and not all performed yet. -/
  stored : Bool := false
  deriving DecidableEq, Repr

/-! ### Hub -/

/-- A host submission queue (R81, R84, R86, R96). -/
structure Queue where
  qbase : BitVec 58 := 0
  en : Bool := false
  cls : BitVec 3 := 0
  asid : Nat := 0
  size : BitVec 4 := 0
  age : BitVec 16 := 0
  ering : BitVec 8 := 0
  tail : BitVec 32 := 0
  head : BitVec 32 := 0
  /-- Rise of the effective class, and when the head item became ready (R96). -/
  rise : Nat := 0
  since : Option Nat := none
  /-- After an overrun, the count up to which entries are still taken (R86). -/
  lim : Option (BitVec 32) := none
  /-- Entries taken that have not completed (SER of R83). -/
  running : Nat := 0
  /-- Descriptors of the task batch at the head that have been taken (R37, R84, R124). -/
  part : Nat := 0
  deriving DecidableEq, Repr

/-- A host ring (R506, R509, R511). -/
structure Ring where
  rbase : BitVec 58 := 0
  en : Bool := false
  logd : BitVec 4 := 0
  vec : BitVec 8 := 0
  ie : Bool := false
  cnt : BitVec 16 := 0
  tmo : BitVec 16 := 0
  drop : BitVec 32 := 0
  tail : BitVec 32 := 0
  head : BitVec 32 := 0
  ipend : Nat := 0
  t0 : Nat := 0
  /-- Entries that wait at the hub, oldest first (R509). -/
  wait : List PendRec := []
  deriving DecidableEq, Repr

/-- State of a graph node (R45, R89). -/
inductive NodeSt where
  | waiting | running | rearm | done
  deriving DecidableEq, Repr

/-- A running command graph (R41 to R47, R87). -/
structure Graph where
  asid : Nat := 0
  fn : Nat := 0
  queue : Nat := 0
  /-- Base class of what it starts (R88, R97). -/
  cls : Nat := 0
  armed : Option TeamRef := none
  hdr : Word := 0
  tag : BitVec 32 := 0
  /-- The eight words of each node, and its state. -/
  nodes : List (List Word) := []
  sts : List NodeSt := []
  rearms : Tab Nat := []
  limitHit : Bool := false
  failed : Option (Status × Nat) := none
  /-- Tasks of each task-batch node still to complete, and descriptors of it that have been taken (R45, R124). -/
  left : Tab Nat := []
  taken : Tab Nat := []
  /-- Nodes that have started and wait for arbitration (R88). -/
  ready : List Nat := []
  /-- Came from a host queue entry. -/
  entry : Option Nat := none
  /-- The record is due or written. -/
  closing : Bool := false
  deriving DecidableEq, Repr

/-- A grid (R17, R221, R504). -/
structure Grid where
  asid : Nat := 0
  fn : Nat := 0
  /-- Queue it came through, 32 x function + queue (R88). -/
  queue : Nat := 0
  cls : Nat := 0
  /-- The sixteen words of its launch record. -/
  lrec : List Word := []
  total : Nat := 1
  retired : Nat := 0
  discarded : Bool := false
  remoteFault : Bool := false
  /-- First cause that ended one of its teams (R505). -/
  cause : Option Cause := none
  /-- Signals for teams not yet placed: team, semaphore, count (R227). -/
  kept : List (Nat × Nat × BitVec 32) := []
  /-- Teams that have been placed at least once. -/
  placed : NatSet := []
  gone : NatSet := []
  parent : Option TeamRef := none
  node : Option (Nat × Nat) := none
  entry : Option Nat := none
  /-- What is left of its provisional cost (R94). -/
  prov : Nat := 0
  /-- Its gangs are in the placement queue. -/
  handed : Bool := false
  /-- Its record is due or written (R504). -/
  closing : Bool := false
  deriving DecidableEq, Repr

/-- A gang (R115 to R117): the teams `first` to `first + n - 1` of a grid. -/
structure Gang where
  grid : Nat := 0
  first : Nat := 0
  n : Nat := 1
  /-- Swapped out: its teams' state is kept. -/
  swapped : Bool := false
  deriving DecidableEq, Repr

/-- A resident gang, since when, and whether it is being swapped out (R119, R120). -/
structure Resident where
  gang : Gang := {}
  asid : Nat := 0
  since : Nat := 0
  leaving : Bool := false
  arriving : Bool := false
  deriving DecidableEq, Repr

/-- A swapped-out team with the shared state that its images keep (R120, R122, R473). -/
structure Saved where
  team : Team := {}
  sh : Shared := {}
  deriving DecidableEq, Repr

/-- A child in the pool or the spill queue (R103, R104). -/
structure Child where
  order : Nat := 0
  asid : Nat := 0
  die : Nat := 0
  cls : Nat := 0
  grid : Option Nat := none
  task : Option Nat := none
  spilled : Bool := false
  /-- In the waiting set of R103 (not yet placed). -/
  started : Bool := false
  deriving DecidableEq, Repr

/-- A graph copy node in flight (R45). -/
structure CopyNode where
  place : Nat := 0
  node : Nat := 0
  asid : Nat := 0
  src : Word := 0
  dst : Word := 0
  len : Nat := 0
  /-- Its bytes have been copied, and are not all performed yet. -/
  moved : Bool := false
  deriving DecidableEq, Repr

/-- A registered image (R30 to R34). -/
structure Image where
  bytes : List Byte := []
  /-- Contexts that registered it, one entry for each reference. -/
  refs : List Nat := []
  deriving DecidableEq, Repr

/-- A recorded weight identity (R360). -/
structure Weight where
  asid : Nat := 0
  prec : Word := 0
  k : Nat := 0
  n : Nat := 0
  addr : Nat := 0
  sstride : Nat := 0
  withdrawn : Bool := false
  /-- Members to unpin when nothing refers to it any longer (R361). -/
  members : List Nat := []
  deriving DecidableEq, Repr

/-! ### Contexts -/

/-- The context registers of R458 that a write changes only after TLB.INV (R459). -/
structure CtxRegs where
  htbase : Word := 0
  htsize : Word := 0
  ptroot : Word := 0
  fqv : Bool := false
  fqlogd : BitVec 4 := 0
  fqbase : Word := 0
  spillqbase : Word := 0
  spillqsize : Word := 0
  swapbase : Word := 0
  swapstride : Word := 0
  pinlim : Word := 0
  collallot : Word := 0
  tvec : Word := 0
  deriving DecidableEq, Repr

/-- A registered collective buffer (R410). -/
structure CollReg where
  port : Word := 0
  buf : Word := 0
  size : Nat := 0
  deriving DecidableEq, Repr

/-- One context (R458, and the hub's state for it). -/
structure Ctx where
  /-- In force, and as last written (R459). -/
  regs : CtxRegs := {}
  pend : CtxRegs := {}
  drop : BitVec 32 := 0
  fqhead : BitVec 32 := 0
  fqtail : BitVec 32 := 0
  /-- Records offered (SEQ of R456). -/
  seq : BitVec 32 := 0
  fn : Nat := 0
  weight : Nat := 0
  deficit : Int := 0
  /-- Fabric partition (R441), and whether its routes are written (R442). -/
  part : Nat := 0
  cut : Bool := false
  /-- Frames that its PINs hold (R360). -/
  pinned : NatSet := []
  colls : Tab CollReg := []
  /-- Placement queue (R117). -/
  places : List Gang := []
  /-- Free-running counts of the spill ring (R104). -/
  spHead : Nat := 0
  spTail : Nat := 0
  /-- Queue last served (R95). -/
  lastq : Nat := 0
  /-- Enters no fabric access (R442). -/
  quiesced : Bool := false
  deriving DecidableEq, Repr

/-! ### Memory system -/

/-- A cached translation (R315): the TLB that holds it (of a cell by its number, of die d by 1,000 + d), page base, log2 of its
size, and the whole leaf. -/
structure TlbE where
  place : Nat := 0
  asid : Nat := 0
  base : Nat := 0
  logsz : Nat := 16
  leaf : Word := 0
  deriving DecidableEq, Repr

/-- A walk in flight (R315): the context and page, the cells whose misses it serves, oldest first, and how far it has read (R317):
levels read, and the local physical address of the table that it reads next. -/
structure Walk where
  asid : Nat := 0
  page : Nat := 0
  cells : List Nat := []
  lvl : Nat := 0
  tab : Nat := 0
  deriving DecidableEq, Repr

/-- A cached handle entry (R29). -/
structure HcE where
  asid : Nat := 0
  h : Nat := 0
  w0 : Word := 0
  w1 : Word := 0
  deriving DecidableEq, Repr

/-- State of a key slot (R489). -/
inductive KeySt where
  | free
  | bound (asid : Nat)
  | revoking
  deriving DecidableEq, Repr

/-- A key-map byte (R490). -/
structure KeyMapE where
  slot : BitVec 6 := 0
  clr : Bool := false
  deriving DecidableEq, Repr

/-- What locks a member in the fast frame (R331). -/
inductive LockBy where
  | pin | ms
  deriving DecidableEq, Repr

/-- The lock of a group (R331): the member, and whether a PIN and whether a translation through a leaf with MS = 1 holds it. -/
structure Lock where
  member : Nat := 0
  pin : Bool := false
  ms : Bool := false
  deriving DecidableEq, Repr

/-- A swap of a congruence group (R329, R336). -/
structure TierSwap where
  group : Nat := 0
  member : Nat := 0
  priority : Bool := false
  deriving DecidableEq, Repr

/-- A posted store on its way to another cell's vault (R322). -/
structure Posted where
  /-- Cell that stored, its context, and the target cell. -/
  src : Nat := 0
  asid : Nat := 0
  cell : Nat := 0
  off : Nat := 0
  bytes : List Byte := []
  /-- A store of the strand: at most 16 of a cell are outstanding (R197). -/
  strand : Bool := false
  deriving DecidableEq, Repr

/-- A line of a CACHED peer page in the home L2 (R314). -/
structure PeerLine where
  asid : Nat := 0
  peer : Nat := 0
  addr : Nat := 0
  bytes : List Byte := []
  dirty : Bool := false
  ro : Bool := false
  /-- Its page is of strong kind: it is written back in sequence (R390). -/
  strong : Bool := false
  /-- Poisoned where it lies (R340). -/
  bad : Bool := false
  /-- Key under which it is encrypted on the fabric (R337); 0 for none. -/
  keyNo : Nat := 0
  deriving DecidableEq, Repr

/-- A change of a stack's calendar that is not yet in force (R483): stack, from which rotation, slot and owner, or the
whole table cleared. -/
structure CalPend where
  stack : Nat := 0
  rotation : Nat := 0
  slot : Option Nat := none
  owner : Option Nat := none
  deriving DecidableEq, Repr

/-! ### Near-bank units -/

/-- STATE of a near-bank unit (R423). -/
inductive NbSt where
  | idle | run | suspended | done | stopped
  deriving DecidableEq, Repr

/-- A near-bank unit (R341, R423, R424). -/
structure NbUnit where
  st : NbSt := .idle
  vfl : BitVec 5 := 0
  stop : Nat := 0
  pc : Nat := 0
  susp : Nat := 0
  ri : Nat := 0
  nrows : Nat := 0
  prog : List W32 := []
  /-- ba0 to ba7 by key 512 x accumulator + element. -/
  ba : Sparse (BitVec 32) := []
  sc0 : BitVec 32 := 0
  sc1 : BitVec 32 := 0
  /-- Open row: operand, row index, and its 512 elements. -/
  openOp : Nat := 0
  openRow : Nat := 0
  row : List (BitVec 32) := []
  /-- Physical frame and key slot of each operand's members, latched at issue (R421). -/
  ops : List (List (Nat × Nat)) := []
  asid : Nat := 0
  run : Option Nat := none
  /-- Ordinary requests wait at the channel (R342). -/
  waiting : Bool := false
  deriving DecidableEq, Repr

/-- A run of BANK.RUN (R422). -/
structure BankRun where
  team : TeamRef := {}
  stage : Bool := false
  ssem : Option Nat := none
  left : List Nat := []
  deriving DecidableEq, Repr

/-! ### Fabric -/

/-- State of a lease (R418, R436). -/
inductive LeaseSt where
  | none | pending | retuning | active | notice | refused | ended
  deriving DecidableEq, Repr

/-- A lease (R417, R436). -/
structure Lease where
  asid : Nat := 0
  peer : Nat := 0
  st : LeaseSt := .none
  want : Nat := 0
  all : Bool := false
  granted : Nat := 0
  duration : Nat := 0
  since : Nat := 0
  sem : Option Nat := none
  team : TeamRef := {}
  /-- Wavelengths taken from the base bundles of neighbour-table entries: entry and count; the others came from the pool.
  They stay taken until the retune back is done. -/
  lent : List (Nat × Nat) := []
  taken : Nat := 0
  /-- When its wavelengths last carried a flit (R435). -/
  last : Nat := 0
  deriving DecidableEq, Repr

/-- A neighbour-table entry (R429). -/
structure Nbr where
  v : Bool := false
  peer : BitVec 10 := 0
  base : BitVec 8 := 0
  leased : BitVec 8 := 0
  deriving DecidableEq, Repr

/-- What a packet does at its destination (R431): a write, a read, an atomic (operation, `.u`, bytes, two operands), or bytes for a
receive port (R364). -/
inductive PktOp where
  | write (addr : Nat) (bytes : List Byte)
  | read (addr len : Nat)
  | amo (addr f : Nat) (u : Bool) (n v c : Nat)
  | port (dest : Word) (bytes : List Byte)
  /-- A whole line written back that is poisoned (R340). -/
  | poison (addr : Nat) (bytes : List Byte)
  deriving DecidableEq, Repr

/-- A packet held in a reorder buffer (R433). -/
structure Pkt where
  op : PktOp := .write 0 []
  deriving DecidableEq, Repr

/-- Who makes accesses, as the fabric tells them apart: grid, team and stream (0 to 3) or 4 + sequence number of a job card. -/
abbrev AgentKey := Nat × Nat × Nat

/-- A packet that this device sends, from when it is queued until it is acknowledged (R431 to R434, R504). -/
structure Packet where
  asid : Nat := 0
  /-- The team that sent it, and whether it is part of an RST. -/
  team : Option TeamRef := none
  rst : Bool := false
  /-- Of strong kind, with its sequence number (R433); of unordered kind (R28). -/
  strong : Bool := false
  seq : Nat := 0
  loose : Bool := false
  op : PktOp := .write 0 []
  key : AgentKey := (0, 0, 0)
  /-- The neighbour entry of its path's first link, and the hops; `none` while it waits for credits (R432). -/
  via : Option (Nat × Nat) := none
  /-- It has left the device. -/
  left : Bool := false
  /-- The model's own: place in the order of issue. -/
  no : Nat := 0
  /-- The peer has performed it, with what a read or an atomic found there (`none`: a poisoned line). -/
  done : Bool := false
  found : Option (List Byte) := none
  /-- The key under which its destination is encrypted there, for an atomic (R337). -/
  crypt : Nat := 0
  deriving DecidableEq, Repr

/-- What a peer answered to a read or an atomic, until its instruction or job has used it: `none` for a poisoned line (R340). -/
structure Reply where
  peer : Nat := 0
  key : AgentKey := (0, 0, 0)
  op : PktOp := .write 0 []
  bytes : Option (List Byte) := none
  deriving DecidableEq, Repr

/-- What the device knows of a peer (R433, R441). -/
structure Peer where
  /-- Next strong sequence number sent and next expected. -/
  sendSeq : Nat := 0
  recvSeq : Nat := 0
  reorder : Tab Pkt := []
  /-- Packets to it that are queued or not acknowledged, in the order in which they were issued. -/
  unacked : List Packet := []
  lastAck : Nat := 0
  waitFrom : Option Nat := none
  lost : Bool := false
  deriving DecidableEq, Repr

/-- A running collective (R411 to R415). -/
structure Coll where
  asid : Nat := 0
  name : BitVec 32 := 0
  /-- 0x0D all-reduce, 0x0E all-gather, 0x0F reduce-scatter. -/
  op : Nat := 0
  dtype : Nat := 0
  phase : BitVec 16 := 0
  barrier : Word := 0
  off : Nat := 0
  count : Nat := 0
  group : List (BitVec 32) := []
  rank : Nat := 0
  step : Nat := 0
  /-- The chunk of the current step is sent and not acknowledged. -/
  sent : Bool := false
  received : Nat := 0
  /-- Working copy, by element (R413). -/
  work : Sparse (BitVec 32) := []
  part : List Byte := []
  team : TeamRef := {}
  /-- Final chunks that are still to be written to the buffer, oldest first. -/
  finals : List Nat := []
  /-- Account that it is charged to (R100). -/
  acct : Nat := 0
  deriving DecidableEq, Repr

/-- What left the device: a plain log that no instruction reads (log 120). -/
inductive Out where
  | msix (fn vec : Nat)
  | packet (peer : Nat) (lease : Option Nat) (p : Packet)
  | chunk (peer : Nat) (name : BitVec 32) (dest : BitVec 32) (stack hops line : Nat) (bytes : List Byte)
  | fault (peer : Nat)
  | advert (all : Bool) (wid : Word) (dev queue : Nat) (withdrawn : Bool)
  | steer (peer : Nat) (task : BitVec 32) (desc : List Word) (rows : List (List Byte))
  | results (peer : Nat) (task : BitVec 32) (pieces : List (Nat × Nat × List Byte)) (vfl : BitVec 5) (units : Nat) (st : Status) (row : Nat)
  | refuse (peer : Nat) (task : BitVec 32)
  | ack (peer : Nat)
  | reply (peer : Nat) (bytes : List Byte)
  | host (link : Nat) (write : Bool) (addr len : Nat)
  | regData (fn off : Nat) (v : Word)
  deriving DecidableEq, Repr

/-- An advertisement kept in the Barker table (R142, R143). -/
structure Advert where
  wid : Word := 0
  peer : Nat := 0
  queue : Nat := 0
  fresh : Nat := 0
  deriving DecidableEq, Repr

/-! ### Tenants, start and confidential mode -/

/-- STATE of the stop table (R514). -/
inductive TenantSt where
  | running | stopping | stopped | freeing | free
  deriving DecidableEq, Repr

/-- A stop-table entry (R514, R515). -/
structure Tenant where
  rpt : BitVec 58 := 0
  size : BitVec 32 := 0
  st : TenantSt := .free
  /-- A free follows the stop (R517). -/
  freeAfter : Bool := false
  /-- The stop belongs to a reset of its function (R518). -/
  flr : Bool := false
  /-- T1 of its last stop. -/
  t1 : Nat := 0
  deriving DecidableEq, Repr

/-- Where the device stands in a start (R487, R495, R518). -/
inductive StartSt where
  | up | scrubbing | starting
  deriving DecidableEq, Repr

/-- Confidential mode, boot and status registers (R485, R495, R519). -/
structure Boot where
  on : Bool := false
  nextOn : Bool := false
  scrubbed : Bool := false
  reason : Nat := 0
  fails : Nat := 0
  minimal : Bool := false
  spares : List Nat := [0, 0, 0, 0]
  hbmSpare : BitVec 8 := 0
  bootMs : BitVec 32 := 0
  start : StartSt := .up
  ready : Bool := false
  startAt : Nat := 0
  /-- PCI Express link 1 is trained (R443). -/
  link1 : Bool := false
  deriving DecidableEq, Repr

/-! ### What happens next -/

/-- Which agent issues an instruction: a stream of a cell, or a near-bank unit. -/
inductive Agent where
  | stream (cell : Nat) (st : Stream)
  | unit (n : Nat)
  deriving DecidableEq, Repr

/-- What arrives with an event. -/
structure EvArg where
  a : Nat := 0
  b : Nat := 0
  c : Nat := 0
  d : Nat := 0
  w : List Word := []
  bytes : List Byte := []
  deriving DecidableEq, Repr

/-- What the outside does to stores that it shares with the device, and choices that caches make by themselves. -/
inductive Outside where
  | hostWrite (addr : Nat) (bytes : List Byte)
  | peerWrite (dev addr : Nat) (bytes : List Byte)
  | poisonLine (addr : Nat)
  | poisonHost (addr : Nat)
  | poisonPeer (dev addr : Nat)
  | poisonVault (cell : Nat) (stage : Bool) (off : Nat)
  | fillTlb (cell asid flat : Nat)
  | dropTlb (place asid flat : Nat)
  | walkStep (asid flat : Nat)
  | linkTurn (entry wavelength : Nat) (lease : Option Nat)
  | peerPerform (peer place : Nat)
  | collStep (asid name : Nat)
  | fillHandle (asid h : Nat)
  | dropHandle (asid h : Nat)
  | l2Error (asid flat : Nat)
  | vaultUpset
  | adoptRegs (asid : Nat)
  | ctxReg (asid n : Nat) (v : Word)
  | sysWrite (addr : Nat) (bytes : List Byte)
  | regRead (fn off win : Nat)
  | nbWaiting (n : Nat) (b : Bool)
  | tenant (asid fn weight part : Nat)
  deriving DecidableEq, Repr

/-- One move of the input list (log 1). -/
inductive Act where
  | run (g : Agent)
  | event (i : Instr) (arg : EvArg)
  | outside (o : Outside)
  deriving DecidableEq, Repr

/-- A move: how many ns pass first, and what happens. -/
structure Move where
  dt : Nat := 0
  act : Act := .run (.unit 0)
  deriving DecidableEq, Repr

/-! ### The machine -/

/-- The memory system. -/
structure Mem where
  /-- Local physical bytes, 41,943,040 x 2^16 of them (R327, R522). -/
  phys : Memory := []
  /-- Poisoned local lines, by line number (R340). -/
  bad : NatSet := []
  /-- Host memory (path 0x6 of R306), and its poisoned lines. -/
  host : Memory := []
  hostBad : NatSet := []
  /-- Memory of each peer device (R314), and its poisoned lines, by 2 ^ 46 x device + line. -/
  peer : Tab Memory := []
  peerBad : NatSet := []
  lines : List PeerLine := []
  tlb : List TlbE := []
  /-- Walks in flight, oldest first (R315). -/
  walks : List Walk := []
  hcache : List HcE := []
  keys : Tab KeySt := []
  keyMap : Sparse KeyMapE := []
  /-- The key that each slot holds, the key under which each line was last written, by number, and the next number
  (R338, R489). -/
  slotKey : Sparse Nat := []
  lineKey : Sparse Nat := []
  nextKey : Nat := 2
  /-- Member in the fast frame of each group, and the capacity slot of each member of it that is not in slot m for member m,
by 5 x group + member (R328). -/
  remap : Sparse Nat := []
  slotOf : Tab Nat := []
  /-- Access counters by frame (R329). -/
  counts : Sparse Nat := []
  /-- Lock of each group (R331). -/
  locks : Tab Lock := []
  swaps : List TierSwap := []
  /-- MIGRATE counters by context and page (R314). -/
  mig : List (Nat × Nat × Nat) := []
  /-- Owner of a slot where CAL.SET changed it: key 64 x stack + slot (R333, R483). -/
  cal : Tab (Option Nat) := []
  calPend : List CalPend := []
  posted : List Posted := []
  corrected : Nat := 0
  /-- System software's error log (R454). -/
  errors : List FRec := []
  deriving DecidableEq, Repr

/-- The hub. -/
structure Hub where
  queues : Sparse Queue := []
  rings : Sparse Ring := []
  /-- Slice table (R91), current entry and when its slice began (R92). -/
  slices : Sparse (BitVec 32) := []
  sliceIdx : Nat := 0
  sliceStart : Nat := 0
  acctBase : Word := 0
  /-- Charges not yet written to USED (R99). -/
  acctPend : Sparse Nat := []
  collRate : Nat := 64
  crypRate : Nat := 128
  copyRate : Nat := 256
  /-- Allotment entries (R112): kind, context; and the written change that waits (R114). -/
  allot : Sparse (BitVec 2 × BitVec 10) := []
  allotPend : Tab (BitVec 2 × BitVec 10) := []
  graphs : Tab Graph := []
  grids : Tab Grid := []
  nextGrid : Nat := 1
  pool : List Child := []
  nextChild : Nat := 0
  residents : List Resident := []
  saved : List Saved := []
  /-- What the implementation-specific parts of team images stand for, by the number written into them (R473, log 35). -/
  images : Tab Saved := []
  nextImage : Nat := 1
  arb : Tab ArbPos := []
  copies : List CopyNode := []
  registry : List (Word × Image) := []
  weights : List (Word × Weight) := []
  barker : List Advert := []
  /-- Vectors masked and pending: key 256 x function + vector (R511). -/
  masked : NatSet := []
  msixPend : NatSet := []
  tenants : Sparse Tenant := []
  stopcmd : Word := 0
  attest : Word := 0
  attestDue : Option Word := none
  deriving DecidableEq, Repr

/-- The Ringmasters and passes. -/
structure Ringm where
  /-- Next sequence value of each die (R125). -/
  seqs : Sparse Nat := []
  tasks : List Task := []
  nextOrder : Nat := 0
  /-- Deficits by 2 x die + queue (R128). -/
  deficit : Sparse Int := []
  passes : Tab Pass := []
  nextUid : Nat := 0
  /-- Whose turn it is between the two queues of a die: queue in `asid` (R128). -/
  turn : Tab ArbPos := []
  parked : List Parked := []
  deriving DecidableEq, Repr

/-- The fabric interface. -/
structure Fab where
  fv : Bool := false
  qui : Bool := false
  devno : Nat := 1023
  skwl : Nat := 4
  floor : Nat := 4
  nbrs : Sparse Nbr := []
  /-- Devices to which routes are written (R428, R442). -/
  routes : NatSet := []
  peers : Sparse Peer := []
  leases : Tab Lease := []
  nextLease : Nat := 1
  colls : List Coll := []
  /-- Free downstream slots that each link's credits show, by neighbour entry (R432); none at reset (log 114). -/
  credits : Sparse Nat := []
  /-- Context that the base bundle of each entry served last (R434). -/
  rr : Sparse Nat := []
  /-- When wavelength k of the base bundle of entry i last carried a flit, by 256 x i + k (R435). -/
  wlLast : Sparse (Option Nat) := []
  replies : List Reply := []
  /-- The model's own: number of the next packet. -/
  nextPkt : Nat := 0
  deriving DecidableEq, Repr

/-- Tier control (R330). -/
structure Tier where
  migthr : BitVec 8 := 64
  swthr : BitVec 8 := 16
  decay : BitVec 16 := 1000
  swen : Bool := true
  /-- Device time of the last DECAY boundary (R329, R330). -/
  lastDecay : Nat := 0
  deriving DecidableEq, Repr

/-- The whole device. -/
structure State where
  /-- CAPS (R1). -/
  caps : BitVec 32 := Config.capsReset
  /-- Device time in ns (R231). -/
  now : Nat := 0
  mem : Mem := {}
  tier : Tier := {}
  ctxs : Sparse Ctx := []
  cells : Sparse Cell := []
  hub : Hub := {}
  rm : Ringm := {}
  fab : Fab := {}
  boot : Boot := {}
  nb : Sparse NbUnit := []
  runs : Tab BankRun := []
  nextRun : Nat := 0
  out : List Out := []
  /-- The model's own: counter from which free values are drawn (log 3). -/
  free : Nat := 0
  /-- The model's own: what happens next, and who issues when nothing is listed (log 1). -/
  inputs : List Move := []
  cur : Agent := .stream 0 .strand
  /-- The model's own: what arrives with the event that happens now. -/
  arg : EvArg := {}
  deriving DecidableEq, Repr

/-- The machine right after reset (R81 to R519; values the spec does not give are log 4 and log 5). Entry 0 of the slice
table is valid (R91). The start is under way: DEVSTAT.READY is 0 until START_COMPLETE (R519). -/
def State.reset : State := { hub := { slices := [(0, 0x80000000)] }, boot := { start := .starting } }

/-- Why a step can stop. -/
inductive Fault where
  /-- The input list presents an encoded instruction as if it were an event: raised by `step`. Safe: such a list describes
  no run of the device. -/
  | badInput
  deriving DecidableEq, Repr

/-- Why the model gives no meaning. -/
inductive Refusal where
  /-- The instruction has no meaning yet: raised by `exec`. Safe. -/
  | notModelled (mnemonic : String)
  deriving DecidableEq, Repr

end Sys2Proof.Machine
end

