-- ==== Sys2Proof/Machine/Bits.lean ====
section
/-! DEFINITION. Bit fields, sign extension, byte order and small list helpers that every meaning uses. -/
namespace Sys2Proof.Machine

/-- Bits [lo + n - 1 : lo] of a word, as a number (R8). -/
def fld (w : Word) (lo n : Nat) : Nat := (w.toNat >>> lo) % 2 ^ n

/-- Bit `i` of a word. -/
def bitAt (w : Word) (i : Nat) : Bool := (w.toNat >>> i) % 2 == 1

/-- A field value laid at bit `lo`. -/
def at_ (v lo : Nat) : Nat := v <<< lo

/-- A 64-bit word from a number. -/
def wd (n : Nat) : Word := BitVec.ofNat 64 n

/-- The low `n` bits of `v` read as a two's complement number. -/
def sextNat (n v : Nat) : Int :=
  let u := v % 2 ^ n
  if n = 0 then 0 else if u < 2 ^ (n - 1) then (u : Int) else (u : Int) - (2 ^ n : Nat)

/-- An exact integer reduced to `n` bits. -/
def lowBits (n : Nat) (t : Int) : Nat := (t % ((2 ^ n : Nat) : Int)).toNat

/-- A word whose low `n` bits are sign-extended (R168). -/
def sext64 (n v : Nat) : Word := BitVec.ofInt 64 (sextNat n v)

/-- The number that bytes at ascending addresses hold, little-endian (R17). -/
def leNat : List Byte → Nat
  | [] => 0
  | b :: bs => b.toNat + 256 * leNat bs

/-- The `n` bytes of a number, lowest address first. -/
def leBytes : Nat → Nat → List Byte
  | 0, _ => []
  | n + 1, v => BitVec.ofNat 8 v :: leBytes n (v / 256)

/-- The bytes of 64-bit words at ascending addresses. -/
def wordsBytes (ws : List Word) : List Byte := ws.flatMap fun w => leBytes 8 w.toNat

/-- The first `n` 64-bit words of bytes. -/
def bytesWords : Nat → List Byte → List Word
  | 0, _ => []
  | n + 1, bs => wd (leNat (bs.take 8)) :: bytesWords n (bs.drop 8)

/-- Word `i` of a list of words; 0 past the end. -/
def nth (ws : List Word) (i : Nat) : Word := ws.getD i 0

/-- `n` zero bytes. -/
def zeros (n : Nat) : List Byte := List.replicate n 0

/-- The numbers from `lo` to `lo + n - 1`. -/
def span (lo n : Nat) : List Nat := (List.range n).map (lo + ·)

/-- Round up to a multiple of `m`. -/
def ceilDiv (a m : Nat) : Nat := if m = 0 then 0 else (a + m - 1) / m

/-- The element with the least key; the first of equals. -/
def minBy {α : Type} (key : α → Nat) : List α → Option α
  | [] => none
  | x :: xs =>
    match minBy key xs with
    | none => some x
    | some y => if key x ≤ key y then some x else some y

/-- The element with the greatest key; the first of equals. -/
def maxBy {α : Type} (key : α → Nat) : List α → Option α
  | [] => none
  | x :: xs =>
    match maxBy key xs with
    | none => some x
    | some y => if key y ≤ key x then some x else some y

/-- Replace element `i`. -/
def setAt {α : Type} (xs : List α) (i : Nat) (v : α) : List α := xs.set i v

/-- Scope codes (R209). -/
def scopeCell : Nat := 0
def scopePod : Nat := 4

/-- Cycles of the array clock in `t` ns (R332). -/
def cyclesOf (t : Nat) : Nat := t * 7 / 10

end Sys2Proof.Machine
end

