-- ==== Sys2Proof/Machine/Aes.lean ====
section
/-! DEFINITION. AES-256-XTS, under which lines are encrypted in confidential mode (R337, R338): the spec names it, and the cipher
is that of FIPS 197 in the mode of IEEE 1619 (PRESUMED, log 101), with the line's physical address as the number of its data
unit. The key bits are free values. -/
namespace Sys2Proof.Machine

/-! ### The field of 256 elements -/

/-- Twice an element. -/
def aesTwice (b : Byte) : Byte := if b.getLsbD 7 then (b <<< 1) ^^^ 0x1B else b <<< 1

/-- The product of two elements. -/
def aesMul (a b : Byte) : Byte :=
  ((List.range 8).foldl (fun (r, x) i => (if b.getLsbD i then r ^^^ x else r, aesTwice x)) ((0 : Byte), a)).1

/-- The inverse: the 254th power. -/
def aesInv (a : Byte) : Byte :=
  ((List.range 7).foldl (fun (r, x) _ => let y := aesMul x x; (aesMul r y, y)) ((1 : Byte), a)).1

/-- The substitution and its inverse. -/
def aesSub (a : Byte) : Byte :=
  let b := aesInv a
  b ^^^ b.rotateLeft 1 ^^^ b.rotateLeft 2 ^^^ b.rotateLeft 3 ^^^ b.rotateLeft 4 ^^^ 0x63
def aesUnsub (a : Byte) : Byte := aesInv (a.rotateLeft 1 ^^^ a.rotateLeft 3 ^^^ a.rotateLeft 6 ^^^ 0x05)

/-! ### The block cipher -/

def xorBytes (x y : List Byte) : List Byte := x.zipWith (· ^^^ ·) y

/-- Round constant `i`, from 1. -/
def aesRcon : Nat → Byte
  | 0 => 0
  | 1 => 1
  | n + 1 => aesTwice (aesRcon n)

/-- One more word of the key schedule of 256-bit keys, from word number `i` on; `ws` holds those before it, newest first. -/
def aesExpand : Nat → Nat → List (List Byte) → List (List Byte)
  | _, 0, ws => ws
  | i, n + 1, ws =>
    let t := ws.headD []
    let t := if i % 8 = 0 then
        match (t.drop 1 ++ t.take 1).map aesSub with
        | b :: bs => (b ^^^ aesRcon (i / 8)) :: bs
        | [] => []
      else if i % 8 = 4 then t.map aesSub else t
    aesExpand (i + 1) n (xorBytes (ws.getD 7 []) t :: ws)

/-- Bytes in groups of `k`; `n` groups. -/
def byteGroups (k : Nat) : Nat → List Byte → List (List Byte)
  | 0, _ => []
  | n + 1, bs => bs.take k :: byteGroups k n (bs.drop k)

/-- The 15 round keys of a 32-byte key. -/
def aesKeys (key : List Byte) : List (List Byte) := byteGroups 16 15 (aesExpand 8 52 (byteGroups 4 8 key).reverse).reverse.flatten

/-- Rotate row r of the 4 x 4 array by r columns, and back. -/
def aesShift (b : List Byte) : List Byte := (List.range 16).map fun i => b.getD ((i + 4 * (i % 4)) % 16) 0
def aesUnshift (b : List Byte) : List Byte := (List.range 16).map fun i => b.getD ((i + 12 * (i % 4)) % 16) 0

/-- Multiply each column by the circulant matrix of a row. -/
def aesMix (m : List Byte) (b : List Byte) : List Byte :=
  (List.range 16).map fun i =>
    (List.range 4).foldl (fun x j => x ^^^ aesMul (m.getD ((j + 4 - i % 4) % 4) 0) (b.getD (i / 4 * 4 + j) 0)) 0

/-- Encrypt and decrypt a block of 16 bytes under round keys. -/
def aesEnc (ks : List (List Byte)) (b : List Byte) : List Byte :=
  let round := fun (x : List Byte) (k : List Byte) => xorBytes (aesMix [2, 3, 1, 1] (aesShift (x.map aesSub))) k
  let x := ((ks.drop 1).take 13).foldl round (xorBytes b (ks.headD []))
  xorBytes (aesShift (x.map aesSub)) (ks.getD 14 [])
def aesDec (ks : List (List Byte)) (b : List Byte) : List Byte :=
  let start := (aesUnshift (xorBytes b (ks.getD 14 []))).map aesUnsub
  let round := fun (x : List Byte) (k : List Byte) => (aesUnshift (aesMix [14, 11, 13, 9] (xorBytes x k))).map aesUnsub
  xorBytes (((ks.drop 1).take 13).reverse.foldl round start) (ks.headD [])

/-! ### XTS over a line -/

/-- Twice a tweak, in the field of 2^128 elements. -/
def xtsTwice (t : Nat) : Nat := if t / 2 ^ 127 % 2 = 1 then (2 * t % 2 ^ 128) ^^^ 0x87 else 2 * t

/-- The tweaks of the four blocks of a line at a physical address, from its second key. -/
def xtsTweaks (k2 : List (List Byte)) (addr : Nat) : List (List Byte) :=
  let t0 := leNat (aesEnc k2 (leBytes 16 (addr % 2 ^ 56)))
  let t1 := xtsTwice t0
  let t2 := xtsTwice t1
  [t0, t1, t2, xtsTwice t2].map (leBytes 16)

/-- The two AES-256 keys of key number `k`: the low and the high half of its 512 bits (R489). -/
def xtsKeys (k : Nat) : List (List Byte) × List (List Byte) :=
  let bits := (Config.keyBits k).toNat
  (aesKeys (leBytes 32 bits), aesKeys (leBytes 32 (bits / 2 ^ 256)))

/-- A 64-byte line at a line-aligned physical address, encrypted or decrypted under key number `k` (R338). -/
def xtsLine (dec : Bool) (k addr : Nat) (line : List Byte) : List Byte :=
  let (k1, k2) := xtsKeys k
  (((byteGroups 16 4 line).zip (xtsTweaks k2 addr)).map fun (b, t) =>
    xorBytes (if dec then aesDec k1 (xorBytes b t) else aesEnc k1 (xorBytes b t)) t).flatten

end Sys2Proof.Machine
end

