-- ==== Sys2Proof/Machine/Access.lean ====
section
/-! DEFINITION. How the parts of the state are read and changed: cells, stages, teams wherever they are, contexts, grids;
and the monad in which meanings are written. -/
namespace Sys2Proof.Machine

/-! ### The monad of meanings -/

/-- What a trap reports beside its cause (R456). -/
structure Info where
  detail : Nat := 0
  addr : Option Nat := none
  /-- EPC where it is not the offset of the instruction (R463). -/
  epc : Option Nat := none
  ids : List (BitVec 32) := []
  peer : Nat := 0
  deriving DecidableEq, Repr

/-- How a meaning ends early: a trap of its stream, or a wait at the instruction, on a lost peer or on
something else. -/
inductive Exc where
  | trap (c : Cause) (i : Info)
  | wait (peer : Option Nat)
  deriving DecidableEq, Repr

/-- Meanings: they read and change the state, and may end early; what was changed before then stays. -/
abbrev M := EStateM Exc State

/-- End with a trap. -/
def trap {α : Type} (c : Cause) (i : Info := {}) : M α := throw (.trap c i)

/-- End in a wait. -/
def wait {α : Type} : M α := throw (.wait none)

/-- Wait on a peer that does not answer (R441). -/
def waitPeer {α : Type} (d : Nat) : M α := throw (.wait (some d))

/-- Trap unless `b` holds. -/
def need (b : Bool) (c : Cause) (i : Info := {}) : M Unit := if b then pure () else trap c i

/-- Wait unless `b` holds. -/
def waitFor (b : Bool) : M Unit := if b then pure () else wait

/-- A free 64-bit value (log 3). -/
def freshWord : M Word := do
  let s <- get
  set { s with free := s.free + 1 }
  pure (Config.freeWord s.free)

/-! ### Cells and teams -/

/-- Cell `c`. -/
def State.cell (s : State) (c : Nat) : Cell := Sparse.get {} s.cells c
def State.setCell (s : State) (c : Nat) (x : Cell) : State := { s with cells := Sparse.set {} s.cells c x }
def State.modCell (s : State) (c : Nat) (f : Cell -> Cell) : State := s.setCell c (f (s.cell c))

/-- The team of a stage: `false` is A. -/
def Cell.team (x : Cell) (b : Bool) : Option Team := if b then x.b else x.a
def Cell.setTeam (x : Cell) (b : Bool) (t : Option Team) : Cell := if b then { x with b := t } else { x with a := t }

/-- The team of the active stage. -/
def Cell.act (x : Cell) : Option Team := x.team x.active

/-- The switch-save half of a stage (R111). -/
def Cell.save (x : Cell) (b : Bool) : Option Shared := if b then x.saveB else x.saveA
def Cell.setSave (x : Cell) (b : Bool) (v : Option Shared) : Cell :=
  if b then { x with saveB := v } else { x with saveA := v }

/-- Where a team's state is: in a stage of a cell, or kept while it is swapped out (R122). -/
inductive Loc where
  | here (cell : Nat) (stage : Bool)
  | kept (i : Nat)
  deriving DecidableEq, Repr

def State.teamAt (s : State) : Loc -> Option Team
  | .here c b => (s.cell c).team b
  | .kept i => (s.hub.saved[i]?).map (·.team)

def State.putTeam (s : State) (l : Loc) (t : Team) : State :=
  match l with
  | .here c b => s.modCell c fun x => x.setTeam b (some t)
  | .kept i => { s with hub := { s.hub with saved := s.hub.saved.modify i fun v => { v with team := t } } }

def State.modTeam (s : State) (l : Loc) (f : Team -> Team) : State :=
  match s.teamAt l with
  | some t => s.putTeam l (f t)
  | none => s

/-- Every team and where it is. -/
def State.teams (s : State) : List (Loc × Team) :=
  (s.cells.flatMap fun p =>
    (match p.2.a with | some t => [(Loc.here p.1 false, t)] | none => []) ++
    (match p.2.b with | some t => [(Loc.here p.1 true, t)] | none => [])) ++
  (s.hub.saved.zipIdx.map fun p => (Loc.kept p.2, p.1.team))

/-- Where the team of a reference is; `none` before its first placement and after it retired. -/
def State.locate (s : State) (r : TeamRef) : Option Loc :=
  (s.teams.find? fun p => p.2.epilogue.isNone && p.2.grid == r.grid && p.2.no == r.no).map (·.1)

/-- A team stands in the active stage of its cell. -/
def State.isActive (s : State) : Loc -> Bool
  | .here c b => (s.cell c).active == b
  | .kept _ => false

def Team.ref (t : Team) : TeamRef := { grid := t.grid, no := t.no }

/-! ### Contexts, grids, graphs -/

def State.ctx (s : State) (a : Nat) : Ctx := Sparse.get {} s.ctxs a
def State.setCtx (s : State) (a : Nat) (c : Ctx) : State := { s with ctxs := Sparse.set {} s.ctxs a c }
def State.modCtx (s : State) (a : Nat) (f : Ctx -> Ctx) : State := s.setCtx a (f (s.ctx a))
def State.grid (s : State) (g : Nat) : Option Grid := Tab.find s.hub.grids g
def State.modGrid (s : State) (g : Nat) (f : Grid -> Grid) : State :=
  { s with hub := { s.hub with grids := Tab.upd s.hub.grids g f } }
def State.graph (s : State) (p : Nat) : Option Graph := Tab.find s.hub.graphs p
def State.modGraph (s : State) (p : Nat) (f : Graph -> Graph) : State :=
  { s with hub := { s.hub with graphs := Tab.upd s.hub.graphs p f } }

/-- The context of a team's cell, in the registers in force (R459). -/
def State.regsOf (s : State) (a : Nat) : CtxRegs := (s.ctx a).regs

/-! ### The stream that issues -/

/-- The cell whose stream issues. -/
def theCell : M Nat := do
  match (<- get).cur with
  | .stream c _ => pure c
  | .unit _ => pure 0

/-- The stream that issues. -/
def theStream : M Stream := do
  match (<- get).cur with
  | .stream _ st => pure st
  | .unit _ => pure .strand

/-- Where the issuing team is: the active stage of its cell. -/
def theLoc : M Loc := do
  let c <- theCell
  pure (.here c ((<- get).cell c).active)

/-- The issuing team. -/
def team : M Team := do
  let c <- theCell
  pure (((<- get).cell c).act.getD {})

/-- Change the issuing team. -/
def modTeam (f : Team -> Team) : M Unit := do
  let l <- theLoc
  modify fun s => s.modTeam l f

/-- The shared state of the issuing team's cell (R106). -/
def shared : M Shared := do pure ((<- get).cell (<- theCell)).sh
def modShared (f : Shared -> Shared) : M Unit := do
  let c <- theCell
  modify fun s => s.modCell c fun x => { x with sh := f x.sh }

/-- The engine stream of a team. -/
def Team.eng (t : Team) : Engine -> EStream
  | .vector => t.vec
  | .matrix => t.mat
  | .copy => t.cpy
def Team.setEng (t : Team) (e : Engine) (x : EStream) : Team :=
  match e with
  | .vector => { t with vec := x }
  | .matrix => { t with mat := x }
  | .copy => { t with cpy := x }
def Team.modEng (t : Team) (e : Engine) (f : EStream -> EStream) : Team := t.setEng e (f (t.eng e))

/-- The engine of a stream; the strand has none. -/
def engineOf : Stream -> Option Engine
  | .strand => none
  | .vector => some .vector
  | .matrix => some .matrix
  | .copy => some .copy

def engines : List Engine := [.vector, .matrix, .copy]

/-- A nest slot of a team. -/
def Team.slot (t : Team) (n : Bool) : NestSlot := if n then t.nt1 else t.nt0
def Team.setSlot (t : Team) (n : Bool) (x : NestSlot) : Team := if n then { t with nt1 := x } else { t with nt0 := x }

/-- The program counter of a stream. -/
def Team.pcOf (t : Team) (st : Stream) : Word :=
  match engineOf st with
  | some e => (t.eng e).pc
  | none => t.pc
def Team.setPc (t : Team) (st : Stream) (p : Word) : Team :=
  match engineOf st with
  | some e => t.modEng e fun x => { x with pc := p }
  | none => { t with pc := p }

/-! ### CAPS (R1) -/

def State.hasFabric (s : State) : Bool := s.caps.getLsbD 0
def State.hasNearBank (s : State) : Bool := s.caps.getLsbD 1
def State.hasMsAtom (s : State) : Bool := s.caps.getLsbD 2
def State.hasSkidway (s : State) : Bool := s.caps.getLsbD 3

/-- What leaves the device is appended to a log. -/
def State.emit (s : State) (o : Out) : State := { s with out := s.out ++ [o] }

end Sys2Proof.Machine
end

