-- ==== Sys2Proof/Machine/Route.lean ====
section
/-! DEFINITION. The fabric as this device drives it: the pod's geometry (R427, R428), neighbours and their wavelengths (R429, R435),
the packets that the device sends (R431, R433), the router (R432) and the turns of the links (R434). -/
namespace Sys2Proof.Machine

/-- Who accesses: its context, its cell, the stage of its team (R524), and the agent as the fabric tells it apart. -/
structure Who where
  asid : Nat := 0
  cell : Nat := 0
  stage : Bool := false
  key : AgentKey := (0, 0, 0)
  deriving DecidableEq, Repr

/-- The key under which cached lines of a context are written back, whoever wrote them (R314). -/
def backKey (asid : Nat) : AgentKey := (2 ^ 32, asid, 0)

/-- The key of what the hub accesses for a context. -/
def hubKey (asid : Nat) : AgentKey := (2 ^ 32, asid, 1)

/-- The keys of a pass cell's accesses, and of those that the hub makes for a task in its staging area. -/
def passKey (cell : Nat) : AgentKey := (2 ^ 32 + 1, cell, 0)
def taskKey (uid : Nat) : AgentKey := (2 ^ 32 + 2, uid, 0)

/-- The lines that `n` bytes at `a` touch. -/
def linesOf (a n : Nat) : List Nat := if n = 0 then [] else span (a / 64) ((a + n - 1) / 64 - a / 64 + 1)

/-! ### The pod (R427 to R430) -/

/-- The points of the projective plane over GF(31) (R427). -/
def point (d : Nat) : Nat × Nat × Nat :=
  if d < 961 then (1, d / 31, d % 31) else if d < 992 then (0, 1, d - 961) else (0, 0, 1)

/-- Neighbours in the pod (R428). -/
def neighbours (p q : Nat) : Bool :=
  let a := point p
  let b := point q
  p != q && decide (p < 993 ∧ q < 993) && (a.1 * b.1 + a.2.1 * b.2.1 + a.2.2 * b.2.2) % 31 == 0

/-- The devices that are neighbours of both. -/
def commonNeighbours (p q : Nat) : List Nat := (List.range 993).filter fun r => neighbours p r && neighbours r q

def State.peerOf (s : State) (d : Nat) : Peer := Sparse.get {} s.fab.peers d
def State.modPeer (s : State) (d : Nat) (f : Peer -> Peer) : State :=
  { s with fab := { s.fab with peers := Sparse.set {} s.fab.peers d (f (s.peerOf d)) } }

def State.nbr (s : State) (i : Nat) : Nbr := Sparse.get {} s.fab.nbrs i
def State.modNbr (s : State) (i : Nat) (f : Nbr → Nbr) : State :=
  { s with fab := { s.fab with nbrs := Sparse.set {} s.fab.nbrs i (f (s.nbr i)) } }

/-- The entry of a neighbour. -/
def State.entryOf (s : State) (d : Nat) : Option Nat := (s.fab.nbrs.find? fun p => p.2.v && p.2.peer.toNat == d).map (·.1)

/-- This device has a route to device `d`: it is this device, a bound neighbour, or one to which system software wrote
routes (R429, R430). -/
def State.hasRoute (s : State) (d : Nat) : Bool :=
  d == s.fab.devno || (s.entryOf d).isSome || s.fab.routes.mem d

/-- A context whose partition is quiesced, or that has no new routes yet, sends nothing (R441, R442). -/
def State.silent (s : State) (asid : Nat) : Bool := (s.ctx asid).quiesced

/-! ### Leases as the links see them (R434, R435) -/

/-- The wavelengths of a lease carry flits: not while they retune (R436). -/
def Lease.carries (x : Lease) : Bool := x.st == .active || x.st == .notice

/-- Base wavelengths lent from an entry. -/
def State.lentFrom (s : State) (i : Nat) : Nat :=
  (s.fab.leases.flatMap fun p => (p.2.lent.filter fun y => y.1 == i).map (·.2)).foldl (· + ·) 0

/-- Wavelengths that a context leases to a neighbour and that carry flits. -/
def State.leasedTo (s : State) (asid d : Nat) : Nat :=
  ((s.fab.leases.filter fun p => p.2.asid == asid && p.2.peer == d && p.2.carries).map (·.2.granted)).foldl (· + ·) 0

/-! ### The router (R432) -/

/-- The flits of a packet: its header, and one for each line of data (R431). The operands of an atomic take one
(log 116). -/
def PktOp.flits : PktOp → Nat
  | .write a bs => 1 + (linesOf a bs.length).length
  | .poison _ _ => 2
  | .read _ _ => 1
  | .amo .. => 2
  | .port _ bs => 1 + ceilDiv bs.length 64

/-- A path to try: the neighbour entry of its first link, its hops, and for a non-minimal one its intermediate device. -/
structure Path where
  entry : Nat := 0
  hops : Nat := 1
  mid : Option Nat := none
  deriving DecidableEq, Repr

/-- The minimal path to a device: its link, or the link to a neighbour of both. -/
def State.minPath (s : State) (d : Nat) : Option Path :=
  match s.entryOf d with
  | some i => some { entry := i }
  | none => ((commonNeighbours s.fab.devno d).findSome? s.entryOf).map fun i => { entry := i, hops := 2 }

/-- The non-minimal paths to a device: over any other neighbour and along that neighbour's minimal path. -/
def State.detours (s : State) (d : Nat) : List Path :=
  let first := (s.minPath d).map (·.entry)
  (s.fab.nbrs.filter fun p => p.2.v && some p.1 != first && p.2.peer.toNat != d).map fun p =>
    { entry := p.1, hops := if neighbours p.2.peer.toNat d then 2 else 3, mid := some p.2.peer.toNat }

/-- Up to `n` elements at random places, drawn from the free values from `k` on (log 115). -/
def drawSome {α : Type} : Nat → Nat → List α → List α
  | 0, _, _ => []
  | n + 1, k, xs =>
    let i := (Config.freeWord k).toNat % max 1 xs.length
    match xs[i]? with
    | none => []
    | some x => x :: drawSome n (k + 1) (xs.eraseIdx i)

/-- Every packet that is queued or not acknowledged, with its peer. -/
def State.packets (s : State) : List (Nat × Packet) := s.fab.peers.flatMap fun p => p.2.unacked.map fun u => (p.1, u)

/-- Flits queued locally for a link. -/
def State.queuedFlits (s : State) (i : Nat) : Nat :=
  ((s.packets.filter fun p => !p.2.left && (p.2.via.any fun v => v.1 == i)).map fun p => p.2.op.flits).foldl (· + ·) 0

/-- The router's choice for a packet of some flits: of the eligible paths the one with the least (Q + 1) x H; ties go to the minimal
path and then to the lower intermediate number (R432). -/
def State.choosePath (s : State) (d flits : Nat) : Option Path :=
  let far := (drawSome 3 s.free (s.detours d)).mergeSort fun x y => decide (x.mid.getD 0 ≤ y.mid.getD 0)
  let all := (match s.minPath d with | some p => [p] | none => []) ++ far
  minBy (fun p => (s.queuedFlits p.entry + 1) * p.hops)
    (all.filter fun p => decide (flits ≤ Sparse.get 0 s.fab.credits p.entry))

/-- Route a packet to a peer, if some path is eligible. -/
def State.routeOf (s : State) (d : Nat) (p : Packet) : State × Option (Nat × Nat) :=
  ({ s with free := s.free + 3 }, (s.choosePath d p.op.flits).map fun x => (x.entry, x.hops))

/-- The device starts to wait on a peer, if it does not already (R441). -/
def State.startWait (s : State) (d : Nat) : State := s.modPeer d fun p => { p with waitFrom := p.waitFrom.orElse fun _ => some s.now }

/-- A packet that finds no eligible path waits for the credits of the first link of its minimal path. -/
def State.creditWait (s : State) (d : Nat) : State :=
  match s.minPath d with
  | some x => s.startWait (s.nbr x.entry).peer.toNat
  | none => s

/-- The device to which a collective sends its chunks (R413). -/
def Coll.successor (c : Coll) : Nat := (c.group.getD ((c.rank + 1) % max 1 c.group.length) 0).toNat / 2 ^ 22

/-- The device still waits on a peer: it holds a packet or a chunk sent to it unacknowledged, or waits for its credits (R441). -/
def State.waitsOn (s : State) (d : Nat) : Bool :=
  ((s.peerOf d).unacked.any fun p => p.left) || (s.fab.colls.any fun c => c.sent && c.successor == d)
    || s.packets.any fun p => !p.2.left && p.2.via.isNone &&
      ((s.minPath p.1).any fun x => (s.nbr x.entry).peer.toNat == d)

/-- A wait on a peer that is over leaves nothing to time (R441). -/
def State.endWait (s : State) (d : Nat) : State := if s.waitsOn d then s else s.modPeer d fun p => { p with waitFrom := none }

/-- An acknowledgement or credit comes from a peer (R441). -/
def State.heard (s : State) (d : Nat) : State := (s.modPeer d fun p => { p with lastAck := s.now }).endWait d

/-- Queue a packet to a peer: it takes its sequence number and its path (R432, R433). -/
def State.enqueue (s : State) (d : Nat) (p : Packet) : State :=
  let (s, v) := s.routeOf d p
  let s := if v.isNone then s.creditWait d else s
  let n := s.fab.nextPkt
  let s := { s with fab := { s.fab with nextPkt := n + 1 } }
  s.modPeer d fun x =>
    { x with unacked := x.unacked ++ [{ p with via := v, seq := if p.strong then x.sendSeq else 0, no := n }],
             sendSeq := if p.strong then x.sendSeq + 1 else x.sendSeq }

/-- Route packet number `no` to a peer again. -/
def State.rerouteOne (s : State) (d : Nat) (p : Packet) : State :=
  let (s, v) := s.routeOf d p
  s.modPeer d fun x => { x with unacked := x.unacked.map fun u => if u.no == p.no then { u with via := v } else u }

/-- The packets that satisfy `f`, in the order of their issue. -/
def State.packetsIf (s : State) (f : Nat → Packet → Bool) : List (Nat × Packet) :=
  (s.packets.filter fun p => f p.1 p.2).mergeSort fun x y => decide (x.2.no ≤ y.2.no)

/-- Packets that wait for credits try again, oldest first (R432); so do those whose link is bound no longer. -/
def State.reroute (s : State) : State :=
  (s.packetsIf fun _ p => !p.left && p.via.all fun v => !(s.nbr v.1).v).foldl (fun s p => s.rerouteOne p.1 p.2) s

/-! ### Links (R433, R434) -/

/-- Strong packets to a peer that have left and are not acknowledged (R433). -/
def Peer.strongOut (p : Peer) : Nat := (p.unacked.filter fun u => u.strong && u.left).length

/-- A packet may leave on the link of entry `i`. -/
def State.mayLeave (s : State) (i d : Nat) (p : Packet) : Bool :=
  !p.left && (p.via.any fun v => v.1 == i) && !s.silent p.asid && (!p.strong || decide ((s.peerOf d).strongOut < 256))
    && decide (p.op.flits ≤ Sparse.get 0 s.fab.credits i)

/-- A packet leaves: it takes the link's credits, and the device waits on its destination. -/
def State.leave (s : State) (i d : Nat) (lease : Option Nat) (p : Packet) : State :=
  let f := s.fab
  let s := { s with fab := { f with credits := Sparse.set 0 f.credits i (Sparse.get 0 f.credits i - p.op.flits) } }
  let s := s.modPeer d fun x => { x with unacked := x.unacked.map fun u => if u.no == p.no then { u with left := true } else u }
  (s.startWait d).emit (.packet d lease { p with left := true })

/-- The oldest packet of a context that may leave on a link. -/
def State.nextPacket (s : State) (i asid : Nat) (f : Packet → Bool) : Option (Nat × Packet) :=
  (s.packetsIf fun d p => p.asid == asid && f p && s.mayLeave i d p).head?

/-- Packets of a context that are queued for a link: the first as many as its leased wavelengths go on those; the others may go on the
base bundle (R434, log 117). -/
def State.forBase (s : State) (i asid : Nat) : List Nat :=
  ((s.packetsIf fun _ p => p.asid == asid && !p.left && p.via.any fun v => v.1 == i).drop
    (s.leasedTo asid (s.nbr i).peer.toNat)).map (·.2.no)

/-- The context after `last` in round-robin order. -/
def afterIn (last : Nat) (xs : List Nat) : Option Nat := (minBy id (xs.filter fun a => decide (last < a))).orElse fun _ => minBy id xs

/-- A turn of the link of entry `i`: with a lease, its leased wavelengths carry a packet of the leasing context to the lease's
neighbour; without, wavelength `k` of the base bundle carries one of the next context in turn (R434). -/
def State.linkTurn (s : State) (i k : Nat) (lease : Option Nat) : State :=
  if !s.hasFabric || !s.fab.fv || !(s.nbr i).v then s
  else match lease with
  | some n =>
    match Tab.find s.fab.leases n with
    | none => s
    | some l =>
      if !l.carries || (s.nbr i).peer.toNat != l.peer then s
      else match s.nextPacket i l.asid fun _ => true with
        | none => s
        | some (d, p) =>
          let s := s.leave i d lease p
          { s with fab := { s.fab with leases := Tab.upd s.fab.leases n fun l => { l with last := s.now } } }
  | none =>
    if (s.nbr i).base.toNat ≤ k + s.lentFrom i then s
    else
      let can := (s.packets.map fun p => p.2.asid).eraseDups.filter fun a =>
        (s.nextPacket i a fun p => (s.forBase i a).contains p.no).isSome
      match afterIn (Sparse.get 0 s.fab.rr i) can with
      | none => s
      | some a =>
        match s.nextPacket i a fun p => (s.forBase i a).contains p.no with
        | none => s
        | some (d, p) =>
          let s := s.leave i d none p
          { s with fab := { s.fab with rr := Sparse.set 0 s.fab.rr i a, wlLast := Sparse.set none s.fab.wlLast (256 * i + k) (some s.now) } }

/-! ### Packets of an agent (R431) -/

/-- The team that an accessor sends for. -/
def State.senderOf (s : State) (w : Who) : Option TeamRef :=
  ((s.cell w.cell).team w.stage).bind fun t =>
    if t.asid == w.asid && t.epilogue.isNone then some ({ grid := t.grid, no := t.no } : TeamRef) else none

/-- Send a packet: `ord` is its kind, 0 strong, 1 release, 2 unordered (R28). -/
def sendPacket (w : Who) (d ord : Nat) (op : PktOp) (rst : Option TeamRef := none) (crypt : Nat := 0) : M Unit := do
  let s <- get
  set (s.enqueue d { asid := w.asid, team := rst.orElse fun _ => s.senderOf w, rst := rst.isSome, strong := ord == 0,
                     loose := ord == 2, op := op, key := w.key, crypt := crypt })

/-- The pieces of a run of bytes, each of at most 32 aligned lines, with their lengths, ascending (R431); `fuel` bounds them. -/
def piecesAux : Nat → Nat → Nat → List (Nat × Nat)
  | 0, _, _ => []
  | fuel + 1, a, n =>
    if n = 0 then []
    else
      let k := min n (2048 - a % 64)
      (a, k) :: piecesAux fuel (a + k) (n - k)
def pieces (a n : Nat) : List (Nat × Nat) := piecesAux (n / 1984 + 2) a n

/-- The pieces of at most `k` bytes of a transfer with their offsets, ascending; `fuel` bounds their number. -/
def chunksAux (k : Nat) : Nat -> Nat -> List Byte -> List (Nat × List Byte)
  | 0, _, _ => []
  | _ + 1, _, [] => []
  | fuel + 1, off, bs => (off, bs.take k) :: chunksAux k fuel (off + k) (bs.drop k)
def chunks (k : Nat) (off : Nat) (bs : List Byte) : List (Nat × List Byte) := chunksAux k bs.length off bs

/-- Ask a peer: the request goes out once, until the answer has been used. -/
def ask (w : Who) (d ord : Nat) (op : PktOp) (crypt : Nat := 0) : M Unit := do
  let s <- get
  unless (s.fab.replies.any fun r => r.peer == d && r.key == w.key && r.op == op)
      || ((s.peerOf d).unacked.any fun p => p.key == w.key && p.op == op) do
    sendPacket w d ord op none crypt

/-- A peer's answer; the agent waits for it (R441). -/
def answer (w : Who) (d : Nat) (op : PktOp) : M (Option (List Byte)) := do
  match (<- get).fab.replies.find? fun r => r.peer == d && r.key == w.key && r.op == op with
  | some r => pure r.bytes
  | none => waitPeer d

/-- An agent has used its answers. -/
def State.usedReplies (s : State) (k : AgentKey) : State :=
  if s.fab.replies.isEmpty then s else { s with fab := { s.fab with replies := s.fab.replies.filter fun r => r.key != k } }

/-- The answers that a stream of a team or a job of it waits for are on their way. -/
def State.asking (s : State) (k : AgentKey) : Bool :=
  s.fab.replies.any (fun r => r.key == k)
    || s.fab.peers.any fun p => p.2.unacked.any fun u => u.key == k && (match u.op with
      | .read .. => true
      | .amo .. => true
      | _ => false)

end Sys2Proof.Machine
end

