-- ==== Sys2Proof/Machine/Memory.lean ====
section
/-! DEFINITION. Memory as the parts of the device reach it: system addresses (R522), fault records and the fault queue
(R456, R457), page walks (R310, R311), the checks of R27 and R309, and reads and writes of every destination. -/
namespace Sys2Proof.Machine

/-! ### Encryption of lines (R337, R338) -/

def frames : Nat := 41943040
def groupsN : Nat := 2 ^ 23
def groupOf (f : Nat) : Nat := f % groupsN
def memberOf (f : Nat) : Nat := f / groupsN

/-- The number of the device key (R488); the keys of slots have other numbers, and 0 is none. -/
def deviceKey : Nat := 1

/-- The number of the key that a slot holds, in confidential mode. -/
def State.keyNo (s : State) (slot : Nat) : Nat := if s.boot.on then Sparse.get 0 s.mem.slotKey slot else 0

/-- Put bytes written at byte address `a` over `n` lines from line `l` on. -/
def overLines (l : Nat) (old : List Byte) (a : Nat) (bs : List Byte) : List Byte :=
  old.zipIdx.map fun (b, k) =>
    let x := l * 64 + k
    if a ≤ x then (bs[x - a]?).getD b else b

/-- Whole lines, from line `l` on, encrypted or decrypted under a key; key 0 leaves them (R338). -/
def cryptLines (dec : Bool) (k l : Nat) (bs : List Byte) : List Byte :=
  if k = 0 then bs
  else ((byLines bs).zipIdx.map fun p => xtsLine dec k (64 * (l + p.2)) p.1).flatten
where
  /-- The lines of bytes. -/
  byLines (bs : List Byte) : List (List Byte) := (chunks 64 0 bs).map (·.2)

/-- Bytes of a memory that holds lines encrypted under a key. -/
def Memory.rdKey (m : Memory) (k a n : Nat) : List Byte :=
  if k = 0 then m.rdBytes a n
  else
    let ls := linesOf a n
    ((cryptLines true k (a / 64) (m.rdBytes (a / 64 * 64) (64 * ls.length))).drop (a % 64)).take n

/-- Write a memory that holds lines encrypted under a key: a line written in part is decrypted first. -/
def Memory.wrKey (m : Memory) (k a : Nat) (bs : List Byte) : Memory :=
  if k = 0 then m.wrBytes a bs
  else
    let l := a / 64
    let old := cryptLines true k l (m.rdBytes (l * 64) (64 * (linesOf a bs.length).length))
    m.wrBytes (l * 64) (cryptLines false k l (overLines l old a bs))

/-! ### Access counters and swaps of congruence groups (R327 to R330) -/

def State.fastOf (s : State) (g : Nat) : Nat := Sparse.get 0 s.mem.remap g
def State.lockOf (s : State) (g : Nat) : Option Lock := Tab.find s.mem.locks g
def State.swapOf (s : State) (g : Nat) : Option TierSwap := s.mem.swaps.find? fun x => x.group == g

/-- The capacity slot of a member (R328). -/
def State.capSlot (s : State) (g m : Nat) : Nat := (Tab.find s.mem.slotOf (5 * g + m)).getD m

/-- Start a swap of a group that brings a member in. -/
def State.startSwap (s : State) (g m : Nat) (pri : Bool) : State :=
  if (s.swapOf g).isSome || s.boot.minimal then s
  else { s with mem := { s.mem with swaps := s.mem.swaps ++ [{ group := g, member := m, priority := pri }] } }

/-- Count an access to a local frame, and start a counter swap if R329 says so (which of the device's own accesses count: log 118). -/
def State.countAccess (s : State) (f : Nat) : State :=
  if s.boot.minimal then s else
  let n := min 255 (Sparse.get 0 s.mem.counts f + 1)
  let s := { s with mem := { s.mem with counts := Sparse.set 0 s.mem.counts f n } }
  let g := groupOf f
  let fast := s.fastOf g
  if s.tier.swen && memberOf f != fast
      && decide (Sparse.get 0 s.mem.counts (fast * groupsN + g) + s.tier.swthr.toNat < n)
      && (s.lockOf g).isNone && (s.swapOf g).isNone
      && decide ((s.mem.swaps.filter fun x => x.group % 8 == g % 8).length < 4)
  then s.startSwap g (memberOf f) false else s

/-- An access to the fast member or the incoming member of a swap waits (R329). -/
def State.swapBlocks (s : State) (f : Nat) : Bool :=
  match s.swapOf (groupOf f) with
  | some x => memberOf f == x.member || memberOf f == s.fastOf (groupOf f)
  | none => false

/-! ### System addresses (R522) -/

/-- The lines that `n` bytes at `pa` touch can be read under a key: none is poisoned or was last written under another key (R338,
R340); a frame with CLR reads as zeros (R490). -/
def State.lineOk (s : State) (k l : Nat) : Bool :=
  (Sparse.get {} s.mem.keyMap (l / 1024)).clr
    || (!s.mem.bad.mem l && (!s.boot.on || Sparse.get 0 s.mem.lineKey l == 0 || Sparse.get 0 s.mem.lineKey l == k))

/-- Local bytes as the device's own accesses read them, under the device key. A byte that does not exist or cannot be read is a free
value (log 102). -/
def State.sysLocal (s : State) (a n : Nat) : List Byte :=
  (span a n).map fun x =>
    if frames * 65536 ≤ x || !s.lineOk deviceKey (x / 64) then Config.lostByte x
    else if (Sparse.get {} s.mem.keyMap (x / 65536)).clr then 0 else s.mem.phys.rd x

/-- Read through a system address: path 0x6 is the host, any other is local. -/
def State.sysRd (s : State) (a n : Nat) : List Byte :=
  if a / 2 ^ 52 % 16 = 6 then s.mem.host.rdKey (if s.boot.on then deviceKey else 0) (a % 2 ^ 52) n
  else s.sysLocal (a % 2 ^ 52) n

/-- The units of `k` bytes that lie whole in `n` bytes at `a`. -/
def wholeUnits (k a n : Nat) : List Nat := (span (a / k) (n / k + 2)).filter fun u => decide (a ≤ u * k ∧ u * k + k ≤ a + n)

/-- The key-map byte of a frame (R490). -/
def State.keyMapOf (s : State) (f : Nat) : KeyMapE := Sparse.get {} s.mem.keyMap f

/-- The first write to a frame with CLR fills it with zeros under the writing key (R490), and the frame takes its slot (none for the
device key). -/
def State.keyFill (s : State) (f : Nat) (slot : Option Nat) : State :=
  if !s.boot.on then s else
  let e := s.keyMapOf f
  let m := s.mem
  let phys := if e.clr then m.phys.filter (fun p => p.1 / 65536 != f) else m.phys
  let bad := if e.clr then m.bad.filter (fun p => p.1 / 1024 != f) else m.bad
  let lk := if e.clr then m.lineKey.filter (fun p => p.1 / 1024 != f) else m.lineKey
  { s with mem := { m with phys := phys, bad := bad, lineKey := lk,
                           keyMap := Sparse.set {} m.keyMap f
                             { slot := slot.elim e.slot (BitVec.ofNat 6 ·), clr := false } } }

/-- Write local memory under key number `k`: whole lines written lose their poison (R340) and are encrypted under the writing key; a
line written in part under another key than its own cannot be read first, and is poisoned (R338). -/
def State.wrLines (s : State) (pa : Nat) (bs : List Byte) (k : Nat) (slot : Option Nat) : State :=
  let s := s.keyFill (pa / 65536) slot
  let n := bs.length
  let whole := wholeUnits 64 pa n
  let part := (linesOf pa n).filter fun l =>
    !whole.contains l && s.boot.on && Sparse.get 0 s.mem.lineKey l != 0 && Sparse.get 0 s.mem.lineKey l != k
  let bad := part.foldl (fun b l => b.ins l) (whole.foldl (fun b l => b.rem l) s.mem.bad)
  let lk := if s.boot.on then
      ((linesOf pa n).filter fun l => !part.contains l).foldl (fun m l => Sparse.set 0 m l k) s.mem.lineKey
    else s.mem.lineKey
  { s with mem := { s.mem with phys := s.mem.phys.wrBytes pa bs, bad := bad, lineKey := lk } }

/-- Write through a system address, under the device key in confidential mode; a local access is counted (R329). What does not exist
takes nothing. -/
def State.sysWr (s : State) (a : Nat) (bs : List Byte) : State :=
  let x := a % 2 ^ 52
  if a / 2 ^ 52 % 16 = 6 then
    { s with mem := { s.mem with host := s.mem.host.wrKey (if s.boot.on then deviceKey else 0) x bs } }
  else if frames * 65536 < x + bs.length then s
  else (s.wrLines x bs deviceKey none).countAccess (x / 65536)

def State.hostRd (s : State) (a n : Nat) : List Byte := s.mem.host.rdBytes a n

/-- The PCI Express link of an access to the host (R443): ordered writes go on link 0, in program order; other writes and all reads on
link 0 or 1 by bit 12 of the address, while link 1 is trained. Link 1's own function serves as a data path only: it has no
registers. -/
def State.hostLink (s : State) (ordered : Bool) (a : Nat) : Nat := if ordered || !s.boot.link1 then 0 else a / 4096 % 2

/-- The hub writes to the host: rings, completions and reports, in program order on link 0 (R443). -/
def State.hostWr (s : State) (a : Nat) (bs : List Byte) : State :=
  ({ s with mem := { s.mem with host := s.mem.host.wrBytes a bs } } : State).emit (.host (s.hostLink true a) true a bs.length)

/-! ### Fault records (R456) and the fault queue (R457) -/

/-- The words of a fault record. -/
def FRec.words (r : FRec) (seq : BitVec 32) : List Word :=
  let id := fun i => (r.ids.getD i 0xFFFFFFFF).toNat
  [wd (at_ r.cause.code 54 + at_ r.strm 52 + at_ r.stage.toNat 51 + at_ r.prec.toNat 50 + at_ (r.asid % 1024) 40
      + r.team.toNat),
   wd r.time, wd (at_ r.epc.toNat 32 + r.detail.toNat), r.addr, wd (at_ (id 0) 32 + id 1), wd (at_ (id 2) 32 + id 3),
   wd (at_ (r.owner % 1024) 54 + at_ (r.peer % 1024) 44), wd (at_ r.grid.toNat 32 + seq.toNat)]

/-- Pend an asynchronous cause in a team: up to 8; a ninth is only in the fault queue (R464). -/
def Team.pend (t : Team) (r : FRec) : Team := if t.apend.length < 8 then { t with apend := t.apend ++ [r] } else t

/-- The stage that a team's records name: where it is, or where its grid's launch record puts it while it is swapped out
(R118, R456). -/
def State.stageAt (s : State) (l : Loc) (t : Team) : Bool :=
  match l with
  | .here _ b => b
  | .kept _ => match s.grid t.grid with
    | some g => bitAt (nth g.lrec 0) 48
    | none => false

/-- Tell every team of a context that is resident in its active stage that a record was dropped (R457). -/
def State.tellDrop (s : State) (a : Nat) : State :=
  s.teams.foldl (fun s p =>
    if p.2.asid == a && p.2.epilogue.isNone && s.isActive p.1 && !p.2.apend.any (fun r => r.cause == .faultqDrop) then
      s.modTeam p.1 fun t => t.pend
        { cause := .faultqDrop, stage := s.stageAt p.1 t, asid := a, team := BitVec.ofNat 32 t.no, time := s.now, grid := BitVec.ofNat 32 t.grid,
          seq := (s.ctx a).seq }
    else s) s

/-- Offer a record to its context's fault queue. -/
def State.offer (s : State) (r : FRec) : State :=
  let c := s.ctx r.asid
  let seq := c.seq + 1
  let size := 2 ^ (c.regs.fqlogd.toNat + 4)
  if c.regs.fqv && decide ((c.fqtail - c.fqhead).toNat ≠ size) then
    let s := s.sysWr (c.regs.fqbase.toNat + 64 * (c.fqtail.toNat % size)) (wordsBytes (r.words seq))
    s.setCtx r.asid { c with fqtail := c.fqtail + 1, seq := seq }
  else
    let s := s.setCtx r.asid { c with seq := seq, drop := if c.drop = 0xFFFFFFFF then c.drop else c.drop + 1 }
    s.tellDrop r.asid

/-- Log an error for system software (R454, R340). -/
def State.logError (s : State) (r : FRec) : State := { s with mem := { s.mem with errors := s.mem.errors ++ [r] } }

/-- Raise an asynchronous cause in a team, together with a fault-queue record (R455, R464). -/
def State.raiseAsync (s : State) (l : Loc) (c : Cause) (i : Info := {}) : State :=
  match s.teamAt l with
  | none => s
  | some t =>
    let r : FRec :=
      { cause := c, stage := s.stageAt l t, asid := t.asid, team := BitVec.ofNat 32 t.no, time := s.now,
        epc := BitVec.ofNat 32 t.pc.toNat, detail := BitVec.ofNat 32 i.detail, addr := wd (i.addr.getD 0), ids := i.ids,
        peer := i.peer, grid := BitVec.ofNat 32 t.grid, seq := (s.ctx t.asid).seq + 1 }
    (s.modTeam l fun t => t.pend r).offer r

/-! ### Leaves and walks (R310, R311) -/

def leafV (w : Word) : Bool := bitAt w 63
def leafLeaf (w : Word) : Bool := bitAt w 62
def leafSize (w : Word) : Nat := fld w 60 2
def leafPeer (w : Word) : Nat := fld w 50 10
def leafRmode (w : Word) : Nat := fld w 48 2
def leafOrdk (w : Word) : Nat := fld w 46 2
def leafMs (w : Word) : Bool := bitAt w 45
def leafRo (w : Word) : Bool := bitAt w 44
def leafKey (w : Word) : Nat := fld w 38 6
def leafPin (w : Word) : Bool := bitAt w 37
def leafD (w : Word) : Bool := bitAt w 36
def leafFrame (w : Word) : Nat := fld w 0 36

/-- log2 of the page of a leaf's SIZE. -/
def sizeLog : Nat -> Nat
  | 0 => 16
  | 1 => 21
  | _ => 30

/-- A local frame that exists; in minimal mode only member 0 in a stack in service (R496). -/
def State.frameExists (s : State) (f : Nat) : Bool :=
  if s.boot.minimal then decide (f < groupsN) && s.caps.getLsbD (4 + f % 8) else decide (f < frames)

/-- The levels of a walk: index position and width, log2 of the table's alignment, and the SIZE of a leaf (none: not
allowed). -/
def walkLevels : List (Nat × Nat × Nat × Option Nat) :=
  [(43, 13, 16, none), (30, 13, 16, some 2), (21, 9, 12, some 1), (16, 5, 8, some 0)]

/-- One level of a walk: the entry that a table holds for a flat address, read under the device key (R522, R317), with its local
physical address. -/
def State.walkEntry (s : State) (fa : Nat) (lv : Nat × Nat × Nat × Option Nat) (tab : Nat) : Option (Word × Nat) :=
  let ea := tab + 8 * (fa / 2 ^ lv.1 % 2 ^ lv.2.1)
  if tab % 2 ^ lv.2.2.1 ≠ 0 || !s.frameExists (tab / 65536) || !s.lineOk deviceKey (ea / 64) then none
  else
    let e := wd (leNat (s.sysLocal ea 8))
    if leafV e then some (e, ea) else none

/-- The table that a pointer entry names. -/
def nextTable (e : Word) : Nat := at_ (fld e 8 44) 8

/-- Walk from the table at `tab`: the leaf and its local physical address. -/
def State.walkFrom (s : State) (fa : Nat) : List (Nat × Nat × Nat × Option Nat) -> Nat -> Option (Word × Nat)
  | [], _ => none
  | lv :: rest, tab =>
    match s.walkEntry fa lv tab with
    | none => none
    | some (e, ea) =>
      if leafLeaf e then (if some (leafSize e) = lv.2.2.2 then some (e, ea) else none)
      else s.walkFrom fa rest (nextTable e)

/-- The frames of the tables that a walk reads. -/
def State.walkFrames (s : State) (fa : Nat) : List (Nat × Nat × Nat × Option Nat) -> Nat -> List Nat
  | [], _ => []
  | lv :: rest, tab =>
    match s.walkEntry fa lv tab with
    | none => []
    | some (e, _) => tab / 65536 :: (if leafLeaf e then [] else s.walkFrames fa rest (nextTable e))

/-- The level-3 table of a context. -/
def State.rootOf (s : State) (a : Nat) : Nat := (s.regsOf a).ptroot.toNat % 2 ^ 52

/-- The walk of a context's page table for a flat address. -/
def State.walk (s : State) (a fa : Nat) : Option (Word × Nat) := s.walkFrom fa walkLevels (s.rootOf a)

/-! ### TLBs (R315) -/

/-- The die's TLB that serves a cell. -/
def dieTlb (cell : Nat) : Nat := 1000 + cell / 64

/-- A cached translation covers a flat address of a context. -/
def TlbE.covers (e : TlbE) (a fa : Nat) : Bool := e.asid == a && fa / 2 ^ e.logsz == e.base / 2 ^ e.logsz

/-- The cached translation that covers a flat address in one TLB. -/
def State.tlbAt (s : State) (place a fa : Nat) : Option TlbE := s.mem.tlb.find? fun e => e.place == place && e.covers a fa

/-- The cached translation that a cell's access uses: its own TLB's, or the shared one's of its die. -/
def State.tlbFind (s : State) (cell a fa : Nat) : Option TlbE :=
  (s.tlbAt cell a fa).orElse fun _ => s.tlbAt (dieTlb cell) a fa

/-- Keep at most `n` of the elements that satisfy `p`: the first. -/
def keepFirst {α : Type} (p : α → Bool) : Nat → List α → List α
  | _, [] => []
  | n, x :: xs => if p x then (match n with | 0 => keepFirst p 0 xs | m + 1 => x :: keepFirst p m xs) else x :: keepFirst p n xs

/-- The set of the shared TLB that an entry goes to. -/
def TlbE.set (e : TlbE) : Nat := Config.tlbSet e.asid e.base e.logsz % 2048

/-- Put an entry into a TLB of a cell, of 64 entries, or of a die, of 8 in each of its 2,048 sets; the oldest one goes (log 103). -/
def State.tlbPut (s : State) (e : TlbE) : State :=
  let same := fun (x : TlbE) => x.place == e.place && (decide (e.place < 1000) || x.set == e.set)
  let keep := s.mem.tlb.filter fun x => !(x.place == e.place && x.covers e.asid e.base)
  { s with mem := { s.mem with tlb := keepFirst same (if e.place < 1000 then 64 else 8) (e :: keep) } }

/-- A leaf as a TLB holds it. -/
def tlbOf (place a fa : Nat) (leaf : Word) : TlbE :=
  let lg := sizeLog (leafSize leaf)
  { place := place, asid := a, base := fa / 2 ^ lg * 2 ^ lg, logsz := lg, leaf := leaf }

/-- Cache a leaf in a cell's TLB and in its die's. -/
def State.tlbFill (s : State) (cell a fa : Nat) (leaf : Word) : State :=
  (s.tlbPut (tlbOf (dieTlb cell) a fa leaf)).tlbPut (tlbOf cell a fa leaf)

/-- Cached copies of a context's translation of a flat address take another leaf. -/
def State.tlbUpdate (s : State) (a fa : Nat) (p : TlbE → Bool) (leaf : Word) : State :=
  { s with mem := { s.mem with tlb := s.mem.tlb.map fun e => if e.covers a fa && p e then { e with leaf := leaf } else e } }

/-- Misses that a cell has queued. -/
def State.missesOf (s : State) (cell : Nat) : Nat := (s.mem.walks.filter fun x => x.cells.contains cell).length

/-- The walks of a die that have a walker: in the order of their misses, at most 32, and at most 8 for a cell while another cell's
miss waits (R315). -/
def State.walking (s : State) (die : Nat) : List Walk :=
  let xs := s.mem.walks.filter fun x => x.cells.headD 0 / 64 == die
  let cell := fun (x : Walk) => x.cells.headD 0
  let alone := (xs.map cell).eraseDups.length ≤ 1
  xs.foldl (fun on x =>
    if decide (on.length < 32) && (alone || decide ((on.filter fun y => cell y == cell x).length < 8)) then on ++ [x] else on) []

/-- The rest of a walk, from where it stands. -/
def State.walkRest (s : State) (x : Walk) (fa : Nat) : Option (Word × Nat) := s.walkFrom fa (walkLevels.drop x.lvl) x.tab

/-- A walk reads one level and stands at the next (R317). -/
def State.walkStep (s : State) (x : Walk) : Walk :=
  match (walkLevels[x.lvl]?).bind fun lv => s.walkEntry x.page lv x.tab with
  | some (e, _) => if leafLeaf e then x else { x with lvl := x.lvl + 1, tab := nextTable e }
  | none => x

/-- The walk that serves a miss, joined by a cell, or a new one; a cell queues at most 64 misses (R315). -/
def missTo (cell a fa : Nat) : M Walk := do
  let s <- get
  let pg := fa / 65536 * 65536
  let die := fun (x : Walk) => x.cells.headD 0 / 64
  match s.mem.walks.find? fun x => x.asid == a && x.page == pg && die x == cell / 64 with
  | some x =>
    if x.cells.contains cell then pure x
    else
      waitFor (decide (s.missesOf cell < 64))
      let y := { x with cells := x.cells ++ [cell] }
      set { s with mem := { s.mem with walks := s.mem.walks.map fun z => if z == x then y else z } }
      pure y
  | none =>
    waitFor (decide (s.missesOf cell < 64))
    let x : Walk := { asid := a, page := pg, cells := [cell], tab := s.rootOf a }
    set { s with mem := { s.mem with walks := s.mem.walks ++ [x] } }
    pure x

/-- The translation an access uses: a cached one, or that of a walk, which is then outstanding (R315, log 9). The walk's reads count as
accesses, and wait for a swap (R329). -/
def lookupLeaf (cell a fa : Nat) : M (Option Word) := do
  let s <- get
  match s.tlbAt cell a fa with
  | some e => pure (some e.leaf)
  | none =>
    match s.tlbAt (dieTlb cell) a fa with
    | some e =>
      set (s.tlbPut { e with place := cell })
      pure (some e.leaf)
    | none =>
      let x <- missTo cell a fa
      let s <- get
      let fs := s.walkFrames fa (walkLevels.drop x.lvl) x.tab
      waitFor (!fs.any s.swapBlocks)
      set (fs.foldl State.countAccess s)
      pure ((s.walkRest x fa).map (·.1))

/-- Set D in the leaf in memory by an atomic OR, and in the copies of the cell that writes and of its die (R313). -/
def State.setDirty (s : State) (cell a fa ea : Nat) (leaf : Word) : State :=
  let s := s.sysWr (ea + 4) [(s.mem.phys.rd (ea + 4)) ||| 0x10]
  s.tlbUpdate a fa (fun e => e.place == cell || e.place == dieTlb cell) (leaf ||| wd (2 ^ 36))

/-! ### Locks (R331) -/

/-- The frames that a leaf maps, from its first. -/
def leafFrames (leaf : Word) : List Nat := span (leafFrame leaf) (2 ^ (sizeLog (leafSize leaf) - 16))

/-- No other member of the frame's group is locked. -/
def State.lockable (s : State) (f : Nat) : Bool := (s.lockOf (groupOf f)).all fun x => x.member == memberOf f

/-- Lock a member by one of the two means, unless another of its group is locked; it is swapped in, ahead of counter swaps. -/
def State.lockOne (s : State) (by_ : LockBy) (f : Nat) : State :=
  let g := groupOf f
  if !s.lockable f then s
  else
    let x := (s.lockOf g).getD { member := memberOf f }
    let x := match by_ with
      | .pin => { x with pin := true }
      | .ms => { x with ms := true }
    let s := { s with mem := { s.mem with locks := Tab.put s.mem.locks g x } }
    if s.fastOf g == memberOf f then s else s.startSwap g (memberOf f) true

/-- Lock the members of a list, each alone. -/
def State.lockAll (s : State) (by_ : LockBy) (fs : List Nat) : State := fs.foldl (fun s f => s.lockOne by_ f) s

/-- One of the two means lets a member go; its lock is removed when neither holds it. -/
def State.unlock (s : State) (by_ : LockBy) (f : Nat) : State :=
  let g := groupOf f
  match s.lockOf g with
  | none => s
  | some x =>
    if x.member != memberOf f then s
    else
      let x := match by_ with
        | .pin => { x with pin := false }
        | .ms => { x with ms := false }
      { s with mem := { s.mem with locks := if x.pin || x.ms then Tab.put s.mem.locks g x else Tab.del s.mem.locks g } }

/-- The frame is in its group's fast frame, and no swap of the group is in progress. -/
def State.isFast (s : State) (f : Nat) : Bool := s.boot.minimal || (s.fastOf (groupOf f) == memberOf f && (s.swapOf (groupOf f)).isNone)

/-- Every member of the list is in its fast frame. -/
def State.allFast (s : State) (fs : List Nat) : Bool := fs.all s.isFast

/-- A leaf with MS = 1 is translated: each of its members that can be locked is, and the access to frame `f` waits until that one is
fast. `false` if another member of `f`'s group is locked. -/
def lockMs (leaf : Word) (f : Nat) : M Bool := do
  modify fun s => s.lockAll .ms (leafFrames leaf)
  if !(<- get).lockable f then pure false
  else
    waitFor ((<- get).isFast f)
    pure true

/-! ### The checks of R309 -/

/-- Where an access goes once it has passed the checks. -/
inductive Dest where
  | loc (pa : Nat) (leaf : Word)
  | peer (d pa : Nat) (leaf : Word) (cached : Bool)
  | host (a slot : Nat) (leaf : Word)
  | vault (l : Loc) (cell : Nat) (off : Nat) (lateral : Bool)
  deriving DecidableEq, Repr

/-- Check 1 of R309 for an access that goes to peer `d` (`none` before the leaf is known). -/
def checkFabric (d : Option Nat) (i : Info) : M Unit := do
  let s <- get
  need s.hasFabric .unitAbsent i
  need s.fab.fv .peerAbsent i
  match d with
  | some d => need (s.hasRoute d) .peerAbsent i
  | none => pure ()

/-- Checks 2 and 3 of R309: where a vault address leads. -/
def vaultDest (w : Who) (fa n : Nat) : M Dest := do
  let s <- get
  let off := fa % 2 ^ 23
  let i : Info := { addr := fa }
  let self := fa / 2 ^ 31 % 2 == 1
  let cell := fa / 2 ^ 23 % 256
  need (decide (fa % 2 ^ 52 < 2 ^ 32)) .vaultBound i
  need (!self || cell == 0) .vaultBound i
  let c := if self then w.cell else cell
  let stage := if self then w.stage else (s.cell c).active
  match (s.cell c).team stage with
  | some t =>
    if t.asid == w.asid then
      need (decide (off + n ≤ t.valloc * 65536)) .vaultBound i
      pure (.vault (.here c stage) c off (c != w.cell))
    else trap .vaultAbsent i
  | none => trap .vaultAbsent i

/-- The page and the path agree (R312). -/
def pathAgrees (path : Nat) (leaf : Word) : Bool :=
  match path with
  | 0 => !leafMs leaf
  | 1 => !leafMs leaf && leafRo leaf && leafPeer leaf == 1023
  | 2 => leafMs leaf && leafPeer leaf == 1023
  | 4 => !leafMs leaf && leafPeer leaf != 1023
  | _ => !leafMs leaf && leafPeer leaf == 1023

/-- Check 4 of R309 on a leaf that the walk found: no reserved code, an aligned frame, a frame that exists. -/
def State.leafOk (s : State) (path : Nat) (leaf : Word) : Bool :=
  leafRmode leaf != 3 && leafOrdk leaf != 3 && leafFrame leaf % 2 ^ (sizeLog (leafSize leaf) - 16) == 0
  && (path == 6 || (leafPeer leaf != 1023 && leafPeer leaf != s.fab.devno) || s.frameExists (leafFrame leaf))

/-- A key slot that the context may use (R489). -/
def State.keyOk (s : State) (a slot : Nat) : Bool := Tab.find s.mem.keys slot == some (KeySt.bound a)

/-- One more access to a MIGRATE page (R314). -/
def State.countMigrate (s : State) (a fa : Nat) (leaf : Word) : State :=
  let lg := sizeLog (leafSize leaf)
  let pg := fa / 2 ^ lg * 2 ^ lg
  let old := ((s.mem.mig.find? fun x => x.1 == a && x.2.1 == pg).map (·.2.2)).getD 0
  let n := min 255 (old + 1)
  let thr := if s.tier.migthr = 0 then 64 else s.tier.migthr.toNat
  let rest := s.mem.mig.filter fun x => !(x.1 == a && x.2.1 == pg)
  let s := { s with mem := { s.mem with mig := rest ++ [(a, pg, n)] } }
  if n = thr && old ≠ n then
    s.offer { cause := .migrateReq, asid := a, time := s.now, addr := wd fa, peer := leafPeer leaf }
  else s

/-- A leaf with another KEY. -/
def leafWithKey (leaf : Word) (k : Nat) : Word := (leaf &&& ~~~(wd (at_ 63 38))) ||| wd (at_ (k % 64) 38)

/-- An access of a context that may send nothing waits (R441, R442): a job so that it can end, a stream at its instruction. -/
def silentWait (w : Who) (d : Nat) : M Unit := do
  if (<- get).silent w.asid then
    if 4 ≤ w.key.2.2 then waitPeer d else wait

/-- Translate and check one part of an access that lies in one 64 KiB unit of a translated path: checks 1 and 4 to 7 of
R309, then D (R313), locks (R331) and counters (R329, R314), by one leaf throughout (R317): the cached one, or for the first write
through a clean one that of the walk made again (R313). `key` is a slot that stands in for the page's own (R356). The lines of
a CPC job neither wait here for a swap nor count: their slots do (R335). -/
def xlate (w : Who) (fa : Nat) (write : Bool) (key : Option Nat := none) (cpc : Bool := false) : M Dest := do
  let path := fa / 2 ^ 52 % 16
  let i : Info := { addr := fa }
  if path == 4 then checkFabric none i
  match <- lookupLeaf w.cell w.asid fa with
  | none => trap .pageFault i
  | some leaf0 =>
    let s <- get
    let rewalk := s.walk w.asid fa
    let leaf := if write && !leafD leaf0 then (rewalk.map (·.1)).getD 0 else leaf0
    need (leafV leaf) .pageFault i
    let d := leafPeer leaf
    if path == 4 || (path == 0 && d != 1023) then checkFabric (if d = 1023 then none else some d) i
    need (s.leafOk path leaf) .pageFault i
    need (pathAgrees path leaf) .pathKind i
    let lg := sizeLog (leafSize leaf)
    let pa := leafFrame leaf * 65536 + fa % 2 ^ lg
    if leafMs leaf then need (<- lockMs leaf (pa / 65536)) .pathKind i
    need (!write || (!leafRo leaf && path != 1)) .pageRo i
    let slot := key.getD (leafKey leaf)
    need (!s.boot.on || s.keyOk w.asid slot) .keyNone i
    let remote := (path == 0 || path == 4) && d != 1023 && d != s.fab.devno
    if remote then silentWait w d
    else if path != 6 && !cpc then waitFor (!(<- get).swapBlocks (pa / 65536))
    if write && !leafD leaf then
      match rewalk with
      | some (l, ea) => modify fun s => s.setDirty w.cell w.asid fa ea l
      | none => pure ()
    if path == 6 then pure (.host pa slot leaf)
    else if remote then
      if path == 0 && leafRmode leaf == 2 then modify fun s => s.countMigrate w.asid fa leaf
      pure (.peer d pa (leafWithKey leaf slot) (path == 0 && leafRmode leaf == 1))
    else
      if !cpc then modify fun s => s.countAccess (pa / 65536)
      pure (.loc pa (leafWithKey leaf slot))

/-- Translate a line that a CPC job presents. -/
def xlateCpc (w : Who) (fa : Nat) : M Dest := xlate w fa false none true

/-! ### Reads and writes at a destination -/

/-- Bytes of local memory under a key slot; `none` when a line is poisoned (R340) or its tag does not match (R338). A frame
with CLR reads as zeros (R490). -/
def State.locRd (s : State) (pa n slot : Nat) : Option (List Byte) :=
  if (s.keyMapOf (pa / 65536)).clr then some (zeros n)
  else if (linesOf pa n).all (s.lineOk (Sparse.get 0 s.mem.slotKey slot)) then some (s.mem.phys.rdBytes pa n)
  else none

/-- Write local memory under a key slot. -/
def State.locWr (s : State) (pa : Nat) (bs : List Byte) (slot : Nat) : State :=
  s.wrLines pa bs (Sparse.get 0 s.mem.slotKey slot) (some slot)

/-- Host memory as an engine reads it under a key slot, with the lines that the host reports as in error. -/
def State.hostRd? (s : State) (a n : Nat) (slot : Nat) : Option (List Byte) :=
  if (linesOf a n).any fun l => s.mem.hostBad.mem l then none else some (s.mem.host.rdKey (s.keyNo slot) a n)
def State.hostWrite (s : State) (a : Nat) (bs : List Byte) (slot : Nat := 0) : State :=
  let bad := (wholeUnits 64 a bs.length).foldl (fun b l => b.rem l) s.mem.hostBad
  { s with mem := { s.mem with host := s.mem.host.wrKey (s.keyNo slot) a bs, hostBad := bad } }

/-- Bytes of a team's vault allotment; `none` when a vault word is poisoned (R323). -/
def Team.vaultRd (t : Team) (off n : Nat) : Option (List Byte) :=
  if n ≠ 0 && (span (off / 8) ((off + n - 1) / 8 - off / 8 + 1)).any fun k => t.vpoison.mem k then none
  else some (t.vault.rdBytes off n)

/-- Write a team's vault: whole vault words written lose their poison (R323). -/
def Team.vaultWr (t : Team) (off : Nat) (bs : List Byte) : Team :=
  { t with vault := t.vault.wrBytes off bs,
           vpoison := (wholeUnits 8 off bs.length).foldl (fun b k => b.rem k) t.vpoison }

/-- Memory of a peer device. -/
def State.peerMem (s : State) (d : Nat) : Memory := (Tab.find s.mem.peer d).getD []
def State.peerWr (s : State) (d a : Nat) (bs : List Byte) : State :=
  { s with mem := { s.mem with peer := Tab.put s.mem.peer d ((s.peerMem d).wrBytes a bs) } }

/-- Perform a posted store at its target, or discard it (R322). -/
def State.performPosted (s : State) (p : Posted) : State :=
  let l := Loc.here p.cell (s.cell p.cell).active
  match s.teamAt l with
  | some t => if t.asid == p.asid && decide (p.off + p.bytes.length ≤ t.valloc * 65536)
      then s.putTeam l (t.vaultWr p.off p.bytes) else s
  | none => s

/-- Perform the posted stores that satisfy `p`, in arrival order. -/
def State.drainPosted (s : State) (p : Posted -> Bool) : State :=
  let go := s.mem.posted.filter p
  let s := { s with mem := { s.mem with posted := s.mem.posted.filter fun x => !p x } }
  go.foldl State.performPosted s

/-- The effective kind of an access: 0 strong, 1 release, 2 unordered (R28). -/
def kindOf (ord : Nat) (leaf : Word) : Nat := if ord = 0 then leafOrdk leaf else ord - 1

/-- The runs that a read asks of a peer: in confidential mode whole lines, which are decrypted here (R337). -/
def wireRuns (k pa n : Nat) : List (Nat × Nat) :=
  if k = 0 then pieces pa n else pieces (pa / 64 * 64) (64 * (linesOf pa n).length)

/-- Ask a peer for bytes. -/
def askPeer (w : Who) (d ord k pa n : Nat) : M Unit :=
  (wireRuns k pa n).forM fun (a, m) => ask w d ord (.read a m)

/-- Bytes that a peer has answered, decrypted under key number `k`; `none` when a line there is poisoned. -/
def fromPeer (w : Who) (d k pa n : Nat) : M (Option (List Byte)) := do
  let xs <- (wireRuns k pa n).mapM fun (a, m) => answer w d (.read a m)
  match xs.mapM id with
  | none => pure none
  | some ys => pure (some (if k = 0 then ys.flatten
      else ((cryptLines true k (pa / 64) ys.flatten).drop (pa % 64)).take n))

/-- Write to a peer in packets (R431). In confidential mode whole lines go out, encrypted under key number `k`; a line written in part is
read first (R337, log 104). -/
def sendPeer (w : Who) (d ord k pa : Nat) (bs : List Byte) (rst : Option TeamRef := none) : M Unit := do
  if k = 0 then
    (pieces pa bs.length).forM fun (a, m) => sendPacket w d ord (.write a ((bs.drop (a - pa)).take m)) rst
  else
    let ls := linesOf pa bs.length
    let part := ls.filter fun l => !(wholeUnits 64 pa bs.length).contains l
    part.forM fun l => askPeer w d ord k (64 * l) 64
    let old <- ls.mapM fun l => do
      if part.contains l then pure ((<- fromPeer w d k (64 * l) 64).getD (zeros 64)) else pure (zeros 64)
    let new := cryptLines false k (pa / 64) (overLines (pa / 64) old.flatten pa bs)
    (pieces (pa / 64 * 64) new.length).forM fun (a, m) =>
      sendPacket w d ord (.write a ((new.drop (a - pa / 64 * 64)).take m)) rst

/-- A line of a CACHED peer page in the home L2 slice (R314). -/
def State.lineOf (s : State) (asid d line : Nat) : Option PeerLine :=
  s.mem.lines.find? fun x => x.asid == asid && x.peer == d && x.addr == line

/-- Fetch the lines of a CACHED peer page that are not in the home L2 slice; the agent waits until all are there (R314). -/
def fetchLines (w : Who) (d k : Nat) (leaf : Word) (ls : List Nat) : M Unit := do
  let s <- get
  let away := ls.filter fun l => (s.lineOf w.asid d l).isNone
  away.forM fun l => askPeer w d (leafOrdk leaf) k (64 * l) 64
  away.forM fun l => do
    let got <- fromPeer w d k (64 * l) 64
    let x : PeerLine := { asid := w.asid, peer := d, addr := l, bytes := got.getD (zeros 64), ro := leafRo leaf,
                          strong := leafOrdk leaf == 0, bad := got.isNone, keyNo := k }
    modify fun s => { s with mem := { s.mem with lines := s.mem.lines ++ [x] } }

/-- Replace a cached line. -/
def State.putLine (s : State) (x : PeerLine) : State :=
  { s with mem := { s.mem with lines := s.mem.lines.map fun y =>
      if y.asid == x.asid && y.peer == x.peer && y.addr == x.addr then x else y } }

/-- Write a dirty line back under its page's kind (R390); poison goes with it (R340). -/
def writeBackLine (w : Who) (x : PeerLine) : M Unit := do
  let bs := cryptLines false x.keyNo x.addr x.bytes
  sendPacket { w with asid := x.asid, key := backKey x.asid } x.peer (if x.strong then 0 else 1)
    (if x.bad then .poison (64 * x.addr) bs else .write (64 * x.addr) bs)

/-- Write back the dirty lines that satisfy `p`. -/
def writeBackLines (w : Who) (p : PeerLine → Bool) : M Unit := do
  ((<- get).mem.lines.filter fun x => x.dirty && p x).forM fun x => do
    writeBackLine w x
    modify fun s => s.putLine { x with dirty := false }

/-- Read `n` bytes at a destination; poison traps with `POISON`. `ord` is the handle's ORD. -/
def readDest (w : Who) (fa : Nat) (d : Dest) (n : Nat) (ord : Nat := 0) : M (List Byte) := do
  let s <- get
  match d with
  | .loc pa leaf =>
    match s.locRd pa n (leafKey leaf) with
    | some bs => pure bs
    | none => trap .poison { addr := fa }
  | .host a slot _ =>
    modify fun s => s.emit (.host (s.hostLink false a) false a n)
    match s.hostRd? a n slot with
    | some bs => pure bs
    | none => trap .poison { addr := fa }
  | .vault l c off _ =>
    modify fun s => s.drainPosted fun p => p.cell == c
    match ((<- get).teamAt l).bind fun t => t.vaultRd off n with
    | some bs => pure bs
    | none => trap .poison { addr := off }
  | .peer d pa leaf cached =>
    let k := s.keyNo (leafKey leaf)
    if cached then
      let ls := linesOf pa n
      fetchLines w d k leaf ls
      let s <- get
      let xs := ls.filterMap fun l => s.lineOf w.asid d l
      need (!xs.any (·.bad)) .poison { addr := fa }
      pure (((xs.map (·.bytes)).flatten.drop (pa % 64)).take n)
    else
      askPeer w d (kindOf ord leaf) k pa n
      match <- fromPeer w d k pa n with
      | some bs => pure bs
      | none => trap .poison { addr := fa }

/-- Write bytes at a destination. `posted` stores to another cell's vault arrive later (R322). A write of a whole cached line clears its
poison (R340). -/
def writeDest (w : Who) (d : Dest) (ord : Nat) (posted : Bool) (bs : List Byte) (rst : Option TeamRef := none) : M Unit := do
  match d with
  | .loc pa leaf => modify fun s => s.locWr pa bs (leafKey leaf)
  | .host a slot leaf =>
    modify fun s => (s.hostWrite a bs slot).emit (.host (s.hostLink (kindOf ord leaf == 0) a) true a bs.length)
  | .vault l c off lateral =>
    if lateral && posted then
      modify fun s => { s with mem := { s.mem with posted := s.mem.posted ++
        [{ src := w.cell, asid := w.asid, cell := c, off := off, bytes := bs }] } }
    else
      modify fun s => (s.drainPosted fun p => p.cell == c).modTeam l fun t => t.vaultWr off bs
  | .peer d pa leaf cached =>
    let k := (<- get).keyNo (leafKey leaf)
    if cached && rst.isNone then
      let ls := linesOf pa bs.length
      fetchLines w d k leaf ls
      let whole := wholeUnits 64 pa bs.length
      ls.forM fun l => do
        match (<- get).lineOf w.asid d l with
        | some x =>
          let y := { x with bytes := overLines l x.bytes pa bs, dirty := true, bad := x.bad && !whole.contains l }
          modify fun s => s.putLine y
        | none => pure ()
    else sendPeer w d (kindOf ord leaf) k pa bs rst

/-- Everything that a write of `n` bytes at a destination needs from a peer is here: the lines of a CACHED page, and in confidential mode
those written in part. The write itself then waits for nothing. -/
def readyDest (w : Who) (d : Dest) (ord n : Nat) : M Unit := do
  match d with
  | .peer d pa leaf cached =>
    let k := (<- get).keyNo (leafKey leaf)
    if cached then fetchLines w d k leaf (linesOf pa n)
    else if k ≠ 0 then
      let part := (linesOf pa n).filter fun l => !(wholeUnits 64 pa n).contains l
      part.forM fun l => askPeer w d (kindOf ord leaf) k (64 * l) 64
      part.forM fun l => do
        let _ <- fromPeer w d k (64 * l) 64
  | _ => pure ()

/-- The parts of `n` bytes at `fa`, split at 64 KiB boundaries, ascending (R211, R387). -/
def parts (fa n : Nat) : List (Nat × Nat) :=
  (span (fa / 65536) ((fa % 65536 + n) / 65536 + 1)).filterMap fun u =>
    let lo := max fa (u * 65536)
    let hi := min (fa + n) ((u + 1) * 65536)
    if lo < hi then some (lo, hi - lo) else none

/-- Where one part of an access goes. -/
def destOf (w : Who) (fa n : Nat) (write : Bool) (key : Option Nat := none) : M Dest :=
  if fa / 2 ^ 52 % 16 == 3 then vaultDest w fa n else xlate w fa write key

/-- A packet that only begins an access, or writes a cached line back. -/
def Packet.begins (p : Packet) : Bool :=
  (p.key.1 == 2 ^ 32 && p.key.2.2 == 0) || match p.op with
    | .read .. => true
    | .amo .. => true
    | _ => false

/-- Of the packets that an access has queued, those that only begin it, with the sequence numbers that they have alone. -/
def Peer.begun (old new : Peer) (from_ : Nat) : Peer :=
  let mine := new.unacked.filter fun p => decide (from_ ≤ p.no) && p.begins
  let strong := mine.filter fun p => p.strong
  let nth := fun (p : Packet) => ((strong.findIdx? fun q => q.no == p.no).getD 0)
  { new with
      unacked := new.unacked.filter (fun p => decide (p.no < from_))
        ++ mine.map fun p => if p.strong then { p with seq := old.sendSeq + nth p } else p,
      sendSeq := old.sendSeq + strong.length }

/-- What stays of an access that has to wait and is made again: walks, swaps, locks and fetched lines that it began, and what the fabric
was asked; its counts and writes are made when it is performed (R329). -/
def State.onlyBegun (s s' : State) : State :=
  { s with mem := { s.mem with walks := s'.mem.walks, swaps := s'.mem.swaps, locks := s'.mem.locks, lines := s'.mem.lines },
           fab := { s'.fab with peers := s'.fab.peers.map fun p => (p.1, (s.peerOf p.1).begun p.2 s.fab.nextPkt) },
           free := s'.free }

/-- Make an access whole or wait: one that waits has counted and written nothing. -/
def whole {α : Type} (m : M α) : M α := fun s =>
  match m s with
  | .ok x s' => .ok x s'
  | .error (.wait p) s' => .error (.wait p) (s.onlyBegun s')
  | .error e s' => .error e s'

/-- Run a meaning and keep what it says when it traps; a wait goes on. -/
def attempt {α : Type} (m : M α) : M (Except (Cause × Info) α) :=
  tryCatch (Except.ok <$> m) fun e => match e with
    | .trap c i => pure (.error (c, i))
    | .wait p => throw (.wait p)

/-- Where each part of an access goes, ascending, up to the first that fails a check, and that failure. -/
def destsTo (w : Who) (write : Bool) : List (Nat × Nat) → M (List (Nat × Nat × Dest) × Option (Cause × Info))
  | [] => pure ([], none)
  | (a, k) :: rest => do
    match <- attempt (destOf w a k write) with
    | .error e => pure ([], some e)
    | .ok d =>
      let (ds, e) <- destsTo w write rest
      pure ((a, k, d) :: ds, e)

/-- End with the failure that was found. -/
def failWith : Option (Cause × Info) → M Unit
  | some (k, i) => trap k i
  | none => pure ()

/-- Read through a flat address. -/
def loadFlat (w : Who) (fa n : Nat) (ord : Nat := 0) : M (List Byte) := whole do
  if fa / 2 ^ 52 % 16 == 3 then
    let d <- destOf w fa n false
    readDest w fa d n
  else
    let xs <- (parts fa n).mapM fun (a, k) => do
      let d <- destOf w a k false
      readDest w a d k ord
    pure xs.flatten

/-- Write through a flat address; parts before a failing one are performed (R309). -/
def storeFlat (w : Who) (fa : Nat) (ord : Nat) (posted : Bool) (bs : List Byte) (rst : Option TeamRef := none) : M Unit := whole do
  if fa / 2 ^ 52 % 16 == 3 then
    let d <- destOf w fa bs.length true
    writeDest w d ord posted bs rst
  else
    let (ds, e) <- destsTo w true (parts fa bs.length)
    ds.forM fun (_, k, d) => readyDest w d ord k
    ds.forM fun (a, k, d) => writeDest w d ord posted ((bs.drop (a - fa)).take k) rst
    failWith e

/-- Write through a flat address with every check made before any byte is written (R296, R402). -/
def storeWhole (w : Who) (fa : Nat) (ord : Nat) (bs : List Byte) : M Unit := whole do
  if fa / 2 ^ 52 % 16 == 3 then storeFlat w fa ord true bs
  else
    let (ds, e) <- destsTo w true (parts fa bs.length)
    failWith e
    ds.forM fun (_, k, d) => readyDest w d ord k
    ds.forM fun (a, k, d) => writeDest w d ord true ((bs.drop (a - fa)).take k)

/-! ### Handles (R26, R27) -/

/-- The words of a handle entry: the cached copy (R29), or the table in memory. -/
def State.handleWords (s : State) (a h : Nat) : Word × Word :=
  match s.mem.hcache.find? fun e => e.asid == a && e.h == h with
  | some e => (e.w0, e.w1)
  | none =>
    let ws := bytesWords 2 (s.sysRd ((s.regsOf a).htbase.toNat + 16 * h) 16)
    (nth ws 0, nth ws 1)

/-- A handle entry as software laid it out. -/
structure HEntry where
  base : Nat := 0
  path : Nat := 0
  cpol : Nat := 0
  ord : Nat := 0
  wp : Bool := false
  bound : Nat := 0
  deriving DecidableEq, Repr

/-- Check 1 of R27. -/
def State.handle? (s : State) (a h : Nat) : Option HEntry :=
  if (s.regsOf a).htsize.toNat ≤ h then none
  else
    let (w0, w1) := s.handleWords a h
    let path := fld w1 60 4
    let cpol := fld w1 58 2
    if !bitAt w1 55 || fld w0 52 12 != 0 || fld w1 52 2 != 0 || path == 5 || decide (7 ≤ path)
        || cpol == 3 || (cpol != 0 && path != 0 && path != 1) then none
    else some { base := fld w0 0 52, path := path, cpol := cpol, ord := fld w1 56 2, wp := bitAt w1 54, bound := fld w1 0 52 }

/-- The flat address of offset `off` of a window. -/
def HEntry.flat (e : HEntry) (off : Nat) : Nat := e.path * 2 ^ 52 + e.base + off

/-- Check 2 of R27. -/
def HEntry.fits (e : HEntry) (off n : Nat) : Bool := decide (off + n ≤ e.bound ∧ e.base + off + n ≤ 2 ^ 52)

/-- The local frame that a use of a handle entry reads: none where the entry is cached or lies in the host, and beyond HTSIZE. -/
def State.handleFrame (s : State) (a h : Nat) : Option Nat :=
  let z := (s.regsOf a).htbase.toNat + 16 * h
  if (s.mem.hcache.any fun e => e.asid == a && e.h == h) || decide ((s.regsOf a).htsize.toNat ≤ h) || z / 2 ^ 52 % 16 == 6 then none
  else some (z % 2 ^ 52 / 65536)

/-- R27: the flat address and ordering kind of an access of `n` bytes at `off` through handle `h`. A read of the table counts as an
access, and waits for a swap (R329). -/
def handleAt (a h off n : Nat) (write : Bool) : M (Nat × Nat) := do
  let s <- get
  match s.handleFrame a h with
  | some f =>
    waitFor (!s.swapBlocks f)
    modify fun s => s.countAccess f
  | none => pure ()
  match s.handle? a h with
  | none => trap .handleInvalid
  | some e =>
    let i : Info := { addr := some (e.flat off % 2 ^ 64) }
    need (e.fits off n) .handleBound i
    need (!write || !e.wp) .handleRo i
    pure (e.flat off, e.ord)

/-- Read `n` bytes at an offset of a handle. -/
def load (w : Who) (h off n : Nat) : M (List Byte) := whole do
  let (fa, ord) <- handleAt w.asid h off n false
  loadFlat w fa n ord

/-- Write bytes at an offset of a handle. -/
def store (w : Who) (h off : Nat) (posted : Bool) (bs : List Byte) : M Unit := whole do
  let (fa, ord) <- handleAt w.asid h off bs.length true
  storeFlat w fa ord posted bs

/-! ### Acquires and releases (R382, R314, R322) -/

/-- An acquire: at POD or SYSTEM scope the context's lines of CACHED writable peer pages are invalidated; what was stored to them is
written back first (R390). -/
def acquire (w : Who) (scope : Nat) : M Unit := do
  if scopePod ≤ scope then
    let mine := fun (x : PeerLine) => x.asid == w.asid && !x.ro
    writeBackLines w mine
    modify fun s => { s with mem := { s.mem with lines := s.mem.lines.filter fun x => !mine x } }

/-- A packet that a release at POD or SYSTEM scope of an accessor waits for: a write or port bytes of its team, or a written-back line of its
context, but not of unordered kind (R381) and not of an RST (R392). -/
def Packet.before (p : Packet) (w : Who) : Bool :=
  !p.rst && !p.loose && (p.key == backKey w.asid || (p.key.1 == w.key.1 && p.key.2.1 == w.key.2.1)) && match p.op with
    | .read .. => false
    | .amo .. => false
    | _ => true

/-- A release: the cell's posted stores are performed; at POD or SYSTEM scope the context's dirty lines of CACHED peer pages are written
back, and the writes to peers that it orders are performed there. -/
def release (w : Who) (scope : Nat) : M Unit := do
  if scope ≠ scopeCell then modify fun s => s.drainPosted fun p => p.src == w.cell
  if scopePod ≤ scope then
    writeBackLines w fun x => x.asid == w.asid
    waitFor (!((<- get).packets.any fun p => p.2.before w))

/-- The issuing team as an accessor of memory. -/
def theWho : M Who := do
  let c <- theCell
  let t <- team
  let st <- theStream
  pure { asid := t.asid, cell := c, stage := ((<- get).cell c).active, key := (t.grid, t.no, st.code) }

/-- Run a meaning that has all its effects or, where it traps, none (R210). -/
def wholeOrNone {α : Type} (m : M α) : M α := fun s =>
  match m s with
  | .error (.trap k i) _ => .error (.trap k i) s
  | r => r

end Sys2Proof.Machine
end

