-- ==== Sys2Proof/Machine/Records.lean ====
section
/-! DEFINITION. Semaphores and their waiters (R226), completion records (R372), event queues (R223), host rings as they
are appended to (R509), and charges to accounts (R99, R100). -/
namespace Sys2Proof.Machine

/-! ### Semaphores (R226) -/

def Team.sem (t : Team) (i : Nat) : BitVec 32 := Sparse.get 0 t.sems i
def Team.setSem (t : Team) (i : Nat) (v : BitVec 32) : Team := { t with sems := Sparse.set 0 t.sems i v }

/-- The oldest waiter on a semaphore. -/
def Team.oldestWaiter (t : Team) (i : Nat) : Option (Waiter × BitVec 32) := (t.waiters.find? fun w => w.1 == i).map (·.2)

/-- Remove a waiter. -/
def Team.dropWaiter (t : Team) (i : Nat) (w : Waiter) : Team :=
  { t with waiters := t.waiters.filter fun x => !(x.1 == i && x.2.1 == w) }

/-- Mark the count of a card's wait as taken (R350). -/
def Team.cardTook (t : Team) (q : Nat) : Team :=
  { t with cards := t.cards.map fun c => if c.seq == q then { c with took := true } else c }

/-- Serve the job cards that are the oldest waiters on a semaphore while their count is there; `fuel` bounds them. -/
def Team.serveSem (t : Team) (i : Nat) : Nat -> Team
  | 0 => t
  | fuel + 1 =>
    match t.oldestWaiter i with
    | some (.card q, c) =>
      if c ≤ t.sem i then (((t.setSem i (t.sem i - c)).dropWaiter i (.card q)).cardTook q).serveSem i fuel else t
    | _ => t

/-- The strand waits for nothing any longer: it is interrupted, and issues again from the start (R198). A card that stood behind
it may be served now (R226). -/
def Team.dropStrandWaits (t : Team) : Team :=
  let mine := t.waiters.filter fun x => x.2.1 == .strand
  mine.foldl (fun t x => t.serveSem x.1 65) { t with waiters := t.waiters.filter fun x => x.2.1 != .strand }

/-- Add a count to a semaphore with saturation; serves waiting cards. Answers whether it overflowed. -/
def Team.addSem (t : Team) (i : Nat) (c : BitVec 32) : Team × Bool :=
  let n := (t.sem i).toNat + c.toNat
  let sat := decide (2 ^ 32 ≤ n)
  ((t.setSem i (if sat then 0xFFFFFFFF else BitVec.ofNat 32 n)).serveSem i 65, sat)

/-- Signal a semaphore of a team wherever it is (R226, R122). -/
def State.semSignal (s : State) (l : Loc) (i : Nat) (c : BitVec 32) : State :=
  match s.teamAt l with
  | none => s
  | some t =>
    let (t, sat) := t.addSem i c
    let s := s.putTeam l t
    if sat then s.raiseAsync l .semOverflow else s

/-- Signal a semaphore of a team by reference; a team that is gone loses the signal. -/
def State.semSignalRef (s : State) (r : TeamRef) (i : Nat) (c : BitVec 32) : State :=
  match s.locate r with
  | some l => s.semSignal l i c
  | none => s

/-- SEM.RSIG's effect (R227): a team not yet placed has the signal kept by the hub, a retired one loses it. -/
def State.semRemote (s : State) (g no i : Nat) (c : BitVec 32) : State :=
  match s.grid g with
  | none => s
  | some gr =>
    if gr.gone.mem no then s
    else if gr.placed.mem no then s.semSignalRef { grid := g, no := no } i c
    else s.modGrid g fun gr => { gr with kept := gr.kept ++ [(no, i, c)] }

/-! ### Completion records (R372) -/

/-- The fields of a completion record. -/
structure CR where
  src : Nat := 0
  op : Nat := 0
  pz : Bool := false
  vfl : BitVec 5 := 0
  st : Status := .ok
  tag : Nat := 0
  id : Nat := 0
  detail : Nat := 0
  bytes : Nat := 0
  cnt1 : Nat := 0
  cnt2 : Nat := 0
  addr : Word := 0
  rearm : Word := 0
  rearm2 : Word := 0
  deriving DecidableEq, Repr

/-- The eight words; TIME is laid in when the record is written. -/
def CR.words (r : CR) : CRec :=
  let (sc, st) := r.st.scCode
  [wd (at_ r.src 60 + at_ (r.op % 64) 54 + at_ r.pz.toNat 53 + at_ r.vfl.toNat 48 + at_ sc 47 + at_ st 37
      + r.tag % 2 ^ 32),
   0, wd (at_ (r.id % 2 ^ 32) 32 + r.detail % 2 ^ 32), wd r.bytes, wd (at_ (r.cnt1 % 2 ^ 32) 32 + r.cnt2 % 2 ^ 32),
   r.addr, r.rearm, r.rearm2]

/-- Lay the time of writing into word 1. -/
def stampRec (now : Nat) (r : CRec) : CRec := r.set 1 (wd now)

/-! ### Event queues (R223) -/

/-- Append a record of the copy engine: `true` when it was written, else it waits at the engine. -/
def Team.postCe (t : Team) (now seq : Nat) (r : CRec) : Team × Bool :=
  if t.evCe.isEmpty && decide (t.evq.length < 64) then ({ t with evq := t.evq ++ [stampRec now r] }, true)
  else ({ t with evCe := t.evCe ++ [(seq, r)] }, false)

/-- Append a record of the hub; one that waits stands behind the copy engine's records that wait already. -/
def Team.postHub (t : Team) (now : Nat) (p : PendRec) : Team × Bool :=
  if t.evHub.isEmpty && decide (t.evq.length < 64) then ({ t with evq := t.evq ++ [stampRec now p.cr] }, true)
  else ({ t with evHub := t.evHub ++ [{ p with behind := t.evCe.length }] }, false)

/-- Remove a card. -/
def Team.dropCard (t : Team) (q : Nat) : Team := { t with cards := t.cards.filter fun c => c.seq != q }

/-- Write into a place that is free the record that was produced first of those that wait at the two producers (R223). Answers
what takes effect now. -/
def Team.admitEv (t : Team) (now : Nat) : Team × After :=
  match t.evCe, t.evHub with
  | [], [] => (t, .nothing)
  | [], p :: hub => ({ t with evq := t.evq ++ [stampRec now p.cr], evHub := hub }, p.after)
  | (q, c) :: ce, hub =>
    match hub with
    | p :: hub' =>
      if p.behind = 0 then ({ t with evq := t.evq ++ [stampRec now p.cr], evHub := hub' }, p.after)
      else (({ t with evq := t.evq ++ [stampRec now c], evCe := ce,
                      evHub := hub.map fun p => { p with behind := p.behind - 1 } } : Team).dropCard q, .nothing)
    | [] => (({ t with evq := t.evq ++ [stampRec now c], evCe := ce } : Team).dropCard q, .nothing)

/-- Take the oldest record; the place that frees takes a record that waits. Answers the record and what takes effect now. -/
def Team.popEv (t : Team) (now : Nat) : Option (CRec × Team × After) :=
  match t.evq with
  | [] => none
  | r :: rest =>
    let (t, a) := ({ t with evq := rest } : Team).admitEv now
    some (r, t, a)

/-! ### Host rings (R506, R509) -/

def State.ring (s : State) (k : Nat) : Ring := Sparse.get {} s.hub.rings k
def State.setRing (s : State) (k : Nat) (r : Ring) : State :=
  { s with hub := { s.hub with rings := Sparse.set {} s.hub.rings k r } }

/-- Key of ring `r` of function `fn`. -/
def ringKey (fn r : Nat) : Nat := 256 * fn + r % 256

/-- Address an entry to a ring: it waits at the hub until the hub writes it (R509). -/
def State.toRing (s : State) (fn r : Nat) (p : PendRec) : State :=
  let k := ringKey fn r
  s.setRing k { s.ring k with wait := (s.ring k).wait ++ [p] }

/-! ### Charges (R94, R99, R100) -/

/-- Charge units to an account on behalf of a context; what was charged provisionally is given back (R94). -/
def State.charge (s : State) (asid acct units : Nat) (provisional : Nat := 0) : State :=
  let h := s.hub
  let s := { s with hub := { h with acctPend := Sparse.set 0 h.acctPend acct (Sparse.get 0 h.acctPend acct + units) } }
  s.modCtx asid fun c => { c with deficit := c.deficit - ((units : Int) - provisional) }

/-- Charge units to a grid's account; what is left of the grid's provisional cost is given back first (R94). -/
def State.chargeGrid (s : State) (gid units : Nat) : State :=
  match s.grid gid with
  | none => s
  | some g =>
    let use := min g.prov units
    (s.charge g.asid (fld (nth g.lrec 3) 16 16) units use).modGrid gid fun g => { g with prov := g.prov - use }

/-- The address of an account entry (R98). -/
def State.acctAddr (s : State) (a : Nat) : Nat := s.hub.acctBase.toNat + 32 * a

/-- Write the pending charges of an account back to USED, saturating (R99). -/
def State.writeBack (s : State) (a : Nat) : State :=
  let p := Sparse.get 0 s.hub.acctPend a
  if p = 0 then s else
  let ad := s.acctAddr a + 16
  let used := leNat (s.sysRd ad 8)
  let s := s.sysWr ad (leBytes 8 (min (used + p) (2 ^ 64 - 1)))
  { s with hub := { s.hub with acctPend := Sparse.set 0 s.hub.acctPend a 0 } }

/-- An account is open to a context of a function (R98, R99). -/
def State.acctOpen (s : State) (a asid fn : Nat) : Bool :=
  let ws := bytesWords 3 (s.sysRd (s.acctAddr a) 24)
  let w := nth ws 0
  let limit := (nth ws 1).toNat
  bitAt w 63 && (if bitAt w 62 then fld w 55 7 == fn else fld w 45 10 == asid)
    && (limit == 0 || decide ((nth ws 2).toNat < limit))

/-- Units for bytes at a rate. -/
def unitsFor (bytes rate : Nat) : Nat := ceilDiv bytes rate

end Sys2Proof.Machine
end

