-- ==== Sys2Proof/Machine/Work.lean ====
section
/-! DEFINITION. Work as records describe it: launch records (R17 to R20), task classes and tile tasks (R33 to R38),
command graphs (R41 to R47, R87 to R90, R520, R521), and what takes effect when a record is written (R223, R509). -/
namespace Sys2Proof.Machine

/-- Some RES0 field is set: fields are (bit, width). -/
def resSet (w : Word) (fs : List (Nat × Nat)) : Bool := fs.any fun f => fld w f.1 f.2 != 0

/-- The number of the first check that fails. -/
def firstFail : List (Nat × Bool) -> Option Nat
  | [] => none
  | (n, bad) :: rest => if bad then some n else firstFail rest

/-! ### Launch records (R17, R18) -/

def lrNlev (r : List Word) : Nat := fld (nth r 0) 52 4
def lrPrio (r : List Word) : Nat := fld (nth r 0) 49 3
def lrStage (r : List Word) : Bool := bitAt (nth r 0) 48
def lrCodeh (r : List Word) : Nat := fld (nth r 0) 32 12
def lrEntry (r : List Word) : Nat := fld (nth r 0) 0 32
def lrArgh (r : List Word) : Nat := fld (nth r 1) 52 12
def lrArgoff (r : List Word) : Nat := fld (nth r 1) 0 48
def lrSpillh (r : List Word) : Nat := fld (nth r 2) 52 12
def lrSpilloff (r : List Word) : Nat := fld (nth r 2) 0 48
def lrSpillstride (r : List Word) : Nat := fld (nth r 3) 40 24
def lrVallot (r : List Word) : Nat := fld (nth r 3) 32 8
def lrAcct (r : List Word) : Nat := fld (nth r 3) 16 16
def lrEvkind (r : List Word) : Nat := fld (nth r 3) 14 2
def lrRing (r : List Word) : Nat := fld (nth r 3) 0 8
def lrTag (r : List Word) : Nat := fld (nth r 8) 32 32
def lrSlice (r : List Word) : Nat := fld (nth r 8) 16 16

/-- Level word `i` (R18). -/
def lrLevel (r : List Word) (i : Nat) : Nat := fld (nth r (4 + i / 2)) (32 * (i % 2)) 32
def lrExtent (r : List Word) (i : Nat) : Nat := lrLevel r i / 65536
def lrDom (r : List Word) (i : Nat) : Nat := lrLevel r i / 8192 % 8
def lrScope (r : List Word) (i : Nat) : Nat := lrLevel r i / 1024 % 8

/-- Teams in one unit of level `i` (R15). -/
def lrTeams (r : List Word) (i : Nat) : Nat := ((List.range i).map (lrExtent r)).foldl (· * ·) 1

/-- All teams of the grid (R16). -/
def lrTotal (r : List Word) : Nat := lrTeams r (lrNlev r)

/-- Teams of one gang: the highest level that is not SLICE (R116 and the text before it). -/
def lrGang (r : List Word) : Nat :=
  lrTeams r (((List.range (lrNlev r)).filter fun i => lrDom r i != 4).length - 1)
def lrGangDom (r : List Word) : Nat := lrDom r (((List.range (lrNlev r)).filter fun i => lrDom r i != 4).length - 1)

/-- The entry of a cell in the allotment table (R112): kind and context. -/
def State.allotOf (s : State) (c : Nat) : BitVec 2 × BitVec 10 := Sparse.get (0, 0) s.hub.allot c

/-- The cells that a context holds (R115). -/
def State.cellsHeld (s : State) (a : Nat) : List Nat :=
  (s.hub.allot.filter fun p => p.2.1 == 1 && p.2.2.toNat == a && !(s.cell p.1).lost).map (·.1)

/-- The instance of a domain that a cell lies in: 1 QUAD, 2 DIE, 3 DEVICE. -/
def domInstance (dom c : Nat) : Nat := if dom = 1 then c / 4 else if dom = 2 then c / 64 else if dom = 0 then c else 0

/-- The largest number of cells that a context holds in one instance of a domain (R15). -/
def State.mostHeld (s : State) (a dom : Nat) : Nat :=
  let cs := s.cellsHeld a
  cs.foldl (fun m c => max m (cs.filter fun d => domInstance dom d == domInstance dom c).length) 0

/-- The minimum scope for a domain (R11). -/
def minScope : Nat -> Nat
  | 0 => 0
  | 1 => 1
  | 2 => 2
  | _ => 3

/-- R19: the number of the first check that a launch record fails. `fromQueue` holds for a host queue entry. -/
def State.checkLaunch (s : State) (asid fn : Nat) (r : List Word) (aligned fromQueue : Bool) : Option Nat :=
  let n := lrNlev r
  let ls := List.range (min n 8)
  let readable := fun h => (s.handle? asid h).isSome
  let code := s.handle? asid (lrCodeh r)
  let spill := s.handle? asid (lrSpillh r)
  firstFail [
    (1, fld (nth r 0) 56 8 != 1 || !aligned),
    (2, n == 0 || decide (8 < n)),
    (3, resSet (nth r 0) [(44, 4)] || resSet (nth r 1) [(48, 4)] || resSet (nth r 2) [(48, 4)]
        || resSet (nth r 3) [(8, 6)] || resSet (nth r 8) [(0, 16)] || (span 9 7).any (fun i => nth r i != 0)
        || ls.any (fun i => lrLevel r i % 1024 != 0) || (span n (8 - n)).any fun i => lrLevel r i != 0),
    (4, ls.any fun i => lrExtent r i == 0),
    (5, ls.any fun i => decide (4 < lrDom r i) || decide (5 < lrScope r i)),
    (6, ls.any fun i => if i = 0 then lrDom r 0 != 0 else lrDom r i == 0 || (decide (1 < i) && decide (lrDom r i < lrDom r (i - 1)))),
    (7, ls.any fun i => decide (lrScope r i < minScope (lrDom r i)) || (i != 0 && decide (lrScope r i < lrScope r (i - 1)))),
    (8, (ls.any fun i => (lrDom r i == 1 || lrDom r i == 2 || lrDom r i == 3)
          && (decide (s.mostHeld asid (lrDom r i) < lrTeams r i) || (lrDom r i == 3 && lrExtent r i != 1)))
        || decide (2 ^ 24 < lrTotal r)),
    (9, (match code with | some e => e.path != 0 && e.path != 1 | none => true) || !readable (lrArgh r)
        || (match spill with | some e => e.wp || e.path == 1 | none => true)),
    (10, lrEntry r % 4 != 0 || (match code with | some e => decide (e.bound < lrEntry r + 4) | none => true)),
    (11, lrSpillstride r == 0 || (match spill with
        | some e => decide (e.bound < lrSpilloff r + 64 * lrSpillstride r * lrTotal r) | none => true)),
    (12, lrVallot r == 0 || decide (128 < lrVallot r)),
    (13, !s.acctOpen (lrAcct r) asid fn),
    (14, lrEvkind r == 3 || (lrEvkind r == 2 && fromQueue) || (lrEvkind r != 1 && lrRing r != 0))]

/-- The next grid id that no grid holds (R221). -/
def freeGridId (used : List Nat) : Nat -> Nat -> Nat
  | g, 0 => g
  | g, fuel + 1 => if used.contains g then freeGridId used ((g + 1) % 2 ^ 32) fuel else g

/-- Create a grid from a checked record; answers its id. -/
def State.mkGrid (s : State) (g : Grid) : State × Nat :=
  let h := s.hub
  let id := freeGridId (h.grids.map (·.1)) (h.nextGrid % 2 ^ 32) (h.grids.length + 1)
  ({ s with hub := { h with grids := Tab.put h.grids id { g with total := lrTotal g.lrec }, nextGrid := (id + 1) % 2 ^ 32 } }, id)

/-! ### Task classes (R33): the layout of the table at an image's end is the model's (log 33) -/

/-- A task-class entry. -/
structure TaskClass where
  k : Nat := 0
  n : Nat := 0
  afmt : Nat := 0
  aw : Nat := 0
  asgn : Bool := false
  afrac : Nat := 0
  asmode : Nat := 0
  rfmt : Nat := 0
  abytes : Nat := 0
  rbytes : Nat := 0
  ascale : BitVec 32 := 0
  deriving DecidableEq, Repr

/-- The entries at the end of an image: the last word holds a mark and the number of entries, each of 64 bytes. An end that is not
laid out so is no table, and no fault of the image (log 90). -/
def classTable (bs : List Byte) : List (Nat × TaskClass) :=
  let len := bs.length
  let last := leNat (bs.drop (len - 8))
  let n := last % 2 ^ 32
  if len < 8 || last / 2 ^ 32 ≠ 0x4E345443 || 256 < n || len < 8 + 64 * n then []
  else (List.range n).map fun i =>
    let ws := bytesWords 8 ((bs.drop (len - 8 - 64 * n + 64 * i)).take 64)
    (fld (nth ws 1) 56 8,
     { k := fld (nth ws 0) 0 32, n := fld (nth ws 0) 32 32, afmt := fld (nth ws 1) 0 4, aw := fld (nth ws 1) 8 5,
       asgn := bitAt (nth ws 1) 16, afrac := fld (nth ws 1) 20 5, asmode := fld (nth ws 1) 32 2,
       rfmt := fld (nth ws 1) 36 4, abytes := fld (nth ws 2) 0 32, rbytes := fld (nth ws 2) 32 32,
       ascale := BitVec.ofNat 32 (nth ws 3).toNat })

def State.image (s : State) (hash : Word) : Option Image := (s.hub.registry.find? fun p => p.1 == hash).map (·.2)

/-- The class of a shape in a registered image. -/
def State.taskClass (s : State) (hash : Word) (shape : Nat) : Option TaskClass :=
  (s.image hash).bind fun im => ((classTable im.bytes).find? fun p => p.1 == shape).map (·.2)

/-! ### Tile tasks (R35) -/

def tkHash (d : List Word) : Word := nth d 0
def tkWid (d : List Word) : Word := nth d 1
def tkShape (d : List Word) : Nat := fld (nth d 2) 56 8
def tkRows (d : List Word) : Nat := fld (nth d 2) 48 8
def tkOwner (d : List Word) : Nat := fld (nth d 2) 38 10
def tkPatience (d : List Word) : Nat := fld (nth d 2) 30 8
def tkPrio (d : List Word) : Nat := fld (nth d 2) 27 3
def tkBulk (d : List Word) : Bool := bitAt (nth d 2) 26
def tkActh (d : List Word) : Nat := fld (nth d 3) 52 12
def tkActoff (d : List Word) : Nat := fld (nth d 3) 0 48
def tkActstride (d : List Word) : Nat := fld (nth d 4) 32 32
def tkResstride (d : List Word) : Nat := fld (nth d 4) 0 32
def tkResh (d : List Word) : Nat := fld (nth d 5) 52 12
def tkResoff (d : List Word) : Nat := fld (nth d 5) 0 48
def tkCsem (d : List Word) : Nat := fld (nth d 6) 56 8
def tkCsemv (d : List Word) : Bool := bitAt (nth d 6) 55
def tkEvkind (d : List Word) : Nat := fld (nth d 6) 53 2
def tkAcct (d : List Word) : Nat := fld (nth d 6) 32 16
def tkTag (d : List Word) : Nat := fld (nth d 6) 0 32
def tkRing (d : List Word) : Nat := fld (nth d 7) 0 8

/-- The hardware writes OWNER (R36). -/
def ownTask (d : List Word) (asid : Nat) : List Word :=
  let w := (nth d 2).toNat
  d.set 2 (wd (w / 2 ^ 48 * 2 ^ 48 + at_ (asid % 1024) 38 + w % 2 ^ 38))

/-- Rows that one pass of a class can hold (R37 check 5, R136, R446). -/
def rowCap (c : TaskClass) : Nat :=
  min 128 (min (16384 / (128 * max 1 (ceilDiv c.n 128))) (if c.rbytes = 0 then 128 else 2 ^ 21 / c.rbytes))

def State.weight (s : State) (wid : Word) : Option Weight := (s.hub.weights.find? fun p => p.1 == wid).map (·.2)

/-- R27 checks 1 to 3 for a whole span (R37 check 7). -/
def State.spanOk (s : State) (asid h off n : Nat) (write : Bool) : Bool :=
  match s.handle? asid h with
  | some e => e.fits off n && (!write || !e.wp)
  | none => false

/-- Bytes from row 0 to the end of the last row. -/
def rowSpan (rows stride len : Nat) : Nat := (rows - 1) * stride + len

/-- R37: the number of the first check that a descriptor fails. `any` skips check 4. -/
def State.checkTask (s : State) (asid fn : Nat) (d : List Word) (aligned fromQueue any : Bool) : Option Nat :=
  let im := s.image (tkHash d)
  let cls := s.taskClass (tkHash d) (tkShape d)
  let c := cls.getD {}
  firstFail [
    (1, !aligned || resSet (nth d 2) [(0, 26)] || resSet (nth d 3) [(48, 4)] || resSet (nth d 5) [(48, 4)]
        || resSet (nth d 6) [(48, 5)] || resSet (nth d 7) [(8, 56)]),
    (2, tkHash d == 0 || (match im with | some i => i.refs.isEmpty | none => true)),
    (3, cls.isNone),
    (4, !any && (tkWid d == 0 || (match s.weight (tkWid d) with
        | some w => w.withdrawn || c.k != w.k || decide (w.n < c.n) | none => true))),
    (5, tkRows d == 0 || decide (128 < tkRows d) || decide (rowCap c < tkRows d)),
    (6, tkActstride d % 64 != 0 || tkResstride d % 64 != 0
        || (decide (1 < tkRows d) && (decide (tkActstride d < c.abytes) || decide (tkResstride d < c.rbytes)))),
    (7, !s.spanOk asid (tkActh d) (tkActoff d) (rowSpan (tkRows d) (tkActstride d) c.abytes) false
        || !s.spanOk asid (tkResh d) (tkResoff d) (rowSpan (tkRows d) (tkResstride d) c.rbytes) true),
    (8, !s.acctOpen (tkAcct d) asid fn),
    (9, tkEvkind d == 3 || (fromQueue && (tkCsemv d || tkEvkind d == 2)) || (tkEvkind d != 1 && tkRing d != 0))]

/-- Change the tasks, the children and a pass. -/
def State.modTasks (s : State) (f : Task -> Task) : State := { s with rm := { s.rm with tasks := s.rm.tasks.map f } }
def State.modTask (s : State) (uid : Nat) (f : Task -> Task) : State := s.modTasks fun t => if t.uid == uid then f t else t
def State.task (s : State) (uid : Nat) : Option Task := s.rm.tasks.find? fun t => t.uid == uid
def State.modPool (s : State) (f : Child -> Child) : State := { s with hub := { s.hub with pool := s.hub.pool.map f } }
def State.pass (s : State) (c : Nat) : Option Pass := Tab.find s.rm.passes c
def State.modPass (s : State) (c : Nat) (f : Pass -> Pass) : State :=
  { s with rm := { s.rm with passes := Tab.upd s.rm.passes c f } }

/-- The queue and key of a task (R126); a remainder task's column range is part of its key. -/
def sameKey (x y : Task) : Bool :=
  tkHash x.desc == tkHash y.desc && tkWid x.desc == tkWid y.desc && tkShape x.desc == tkShape y.desc
    && tkBulk x.desc == tkBulk y.desc && x.upto == y.upto

/-- Column groups of a class (R127). -/
def groupsOfClass (c : TaskClass) : Nat := ceilDiv c.n 128

/-- Physical rows of a pass of `g` column groups (R446). -/
def passRows (g : Nat) : Nat := 16384 / (128 * max 1 g)

/-- Width of a weight identity in the array, PT2 counting 2 (R127). -/
def weightWidth (w : Weight) : Nat := fld w.prec 0 5

/-- Cost of a pass of `g` column groups (R127). -/
def passCost (c : TaskClass) (w : Weight) (g : Nat) : Nat := g * ceilDiv c.k 64 * c.aw * weightWidth w + 12

/-- Cost of a task's own pass, as queued plane-cycles count it. -/
def State.taskCost (s : State) (t : Task) : Nat :=
  match s.taskClass (tkHash t.desc) (tkShape t.desc), s.weight (tkWid t.desc) with
  | some c, some w => passCost c w (t.upto.getD (groupsOfClass c))
  | _, _ => 0

/-- Queued plane-cycles of a die: one pass for each group of its queues, whatever its rows (R124, R142, log 88). -/
def State.queuedCost (s : State) (die : Nat) : Nat :=
  let q := s.rm.tasks.filter fun t => t.die == die && t.st == .queued
  (q.zipIdx.filter fun (t, i) => !(q.take i).any (sameKey t)).foldl (fun n (t, _) => n + s.taskCost t) 0

/-- The die of a task from a host queue or a batch node (R124). -/
def State.dieFor (s : State) (t : Task) : Nat :=
  let dies := (List.range 4).filter fun d => s.caps.getLsbD (12 + d)
  match dies.find? fun d => s.rm.tasks.any fun x => x.die == d && x.st == .queued && sameKey t x with
  | some d => d
  | none => (minBy s.queuedCost dies).getD 0

/-- Add a task to the list; answers the model's number for it. -/
def State.addTask (s : State) (t : Task) : State × Nat :=
  let u := s.rm.nextUid
  ({ s with rm := { s.rm with tasks := s.rm.tasks ++ [{ t with uid := u }], nextUid := u + 1 } }, u)

/-- Submit a task: it gets its id from the die's sequence (R125) and waits to be accepted (R124). Answers its id and number. -/
def State.submitTask (s : State) (t : Task) : State × BitVec 32 × Nat :=
  let seq := Sparse.get 0 s.rm.seqs t.die
  let id := BitVec.ofNat 32 (at_ t.die 30 + seq % 2 ^ 30)
  let s := { s with rm := { s.rm with seqs := Sparse.set 0 s.rm.seqs t.die ((seq + 1) % 2 ^ 30) } }
  let (s, u) := s.addTask { t with id := id, owed := 1 }
  (s, id, u)

/-! ### Command graphs (R41 to R47) -/

def ghNodes (h : Word) : Nat := fld h 45 11
def ghAcct (h : Word) : Nat := fld h 29 16
def ghEvkind (h : Word) : Nat := fld h 27 2
def ghRing (h : Word) : Nat := fld h 0 8

def ndKind (n : List Word) : Nat := fld (nth n 0) 60 4
/-- The predecessors that a node names (R42). -/
def ndDeps (n : List Word) : List Nat := ([50, 40, 30, 20].map fun b => fld (nth n 0) b 10).filter (· != 0x3FF)
def ndH (w : Word) : Nat := fld w 52 12
def ndOff (w : Word) : Nat := fld w 0 48
def ndTarget (n : List Word) : Nat := fld (nth n 3) 51 10
def ndLimit (n : List Word) : Nat := fld (nth n 3) 35 16
def ndCmp (n : List Word) : Nat := fld (nth n 3) 61 3

/-- RES0 words and fields of a node (R42, R43). -/
def ndRes (n : List Word) : Bool :=
  resSet (nth n 0) [(0, 20)] ||
  match ndKind n with
  | 0 => resSet (nth n 1) [(48, 4)] || (span 2 6).any fun i => nth n i != 0
  | 1 => resSet (nth n 1) [(48, 4)] || resSet (nth n 2) [(13, 51)] || (span 3 5).any fun i => nth n i != 0
  | 2 => resSet (nth n 1) [(48, 4)] || resSet (nth n 2) [(48, 4)] || resSet (nth n 3) [(48, 16)]
         || (span 4 4).any fun i => nth n i != 0
  | 3 => resSet (nth n 1) [(48, 4)] || resSet (nth n 3) [(0, 35)] || (span 4 4).any fun i => nth n i != 0
  | 4 => resSet (nth n 1) [(8, 56)] || (span 3 5).any fun i => nth n i != 0
  | _ => true

/-- A node is well formed (R44). -/
def ndOk (i : Nat) (n : List Word) : Bool :=
  !ndRes n && decide (ndKind n ≤ 4) && (ndDeps n).all (fun d => decide (d < i)) &&
  match ndKind n with
  | 1 => decide (1 ≤ fld (nth n 2) 0 13 ∧ fld (nth n 2) 0 13 ≤ 4096)
  | 2 => fld (nth n 3) 0 48 != 0
  | 3 => decide (ndCmp n ≤ 5) && decide (ndTarget n < i) && ndOff (nth n 1) % 8 == 0
  | _ => true

/-- The header is well formed, so that its nodes can be read (R44). -/
def ghOk (h : List Word) : Bool :=
  fld (nth h 0) 56 8 == 2 && decide (1 ≤ ghNodes (nth h 0) ∧ ghNodes (nth h 0) ≤ 1024)

/-- R44 on a whole graph; `fromQueue` for a host queue. -/
def graphOk (h : List Word) (nodes : List (List Word)) (fromQueue : Bool) : Bool :=
  ghOk h && !resSet (nth h 0) [(8, 19)] && (span 1 7).all (fun i => nth h i == 0)
    && nodes.zipIdx.all (fun (n, i) => ndOk i n)
    && ghEvkind (nth h 0) != 3 && !(fromQueue && ghEvkind (nth h 0) == 2)
    && (ghEvkind (nth h 0) == 1 || ghRing (nth h 0) == 0)

/-- A free graph place: a host queue leaves the last 32 to GRAPH.ARM (R87). -/
def State.freePlace (s : State) (armed : Bool) : Option Nat :=
  let free := fun p => (s.graph p).isNone
  if armed then ((span 224 32) ++ List.range 224).find? free else (List.range 224).find? free

/-- Nodes reachable from TARGET by DEP edges without passing through the conditional node (R520). -/
def reachable (nodes : List (List Word)) (target cond : Nat) : List Nat :=
  nodes.zipIdx.foldl (fun acc (n, i) =>
    if i == target || (i != cond && (ndDeps n).any fun d => d != cond && acc.contains d) then acc ++ [i] else acc) []

/-- The graph record's fields (R47, R372, R521). -/
def Graph.record (g : Graph) (place : Nat) : CR :=
  let conds := (g.nodes.zipIdx.filter fun (n, _) => ndKind n == 3).map (·.2)
  let cnt := fun k => match conds[k]? with
    | some j => (Tab.find g.rearms j).getD 0 % 65536
    | none => 0
  let four := fun b => (List.range 4).foldl (fun w k => w + at_ (cnt (b + k)) (16 * k)) 0
  let w0 := if 4 ≤ conds.length then four 0 % 2 ^ 63 + at_ g.limitHit.toNat 63 else four 0
  let (st, det) := match g.failed with
    | some (st, j) => (st, j)
    | none => (if g.limitHit then Status.limitHit else .ok, 0)
  { src := 3, st := st, tag := g.tag.toNat, id := place, detail := det, rearm := wd w0, rearm2 := wd (four 4) }

/-! ### The head item of a submission queue (R83 to R88, R96) -/

def qKey (fn q : Nat) : Nat := 32 * fn + q % 32
def State.queue (s : State) (k : Nat) : Queue := Sparse.get {} s.hub.queues k
def State.modQueue (s : State) (k : Nat) (f : Queue → Queue) : State :=
  { s with hub := { s.hub with queues := Sparse.set {} s.hub.queues k (f (s.queue k)) } }

/-- Entries of the ring. -/
def Queue.places (q : Queue) : Nat := 2 ^ (q.size.toNat + 6)

/-- An entry stands at the head and may be taken: while EN is set, or up to the limit of an overrun (R86). -/
def Queue.open_ (q : Queue) : Bool :=
  q.head != q.tail && (q.en || (match q.lim with
    | some x => q.head != x
    | none => false))

def qeKind (w : List Word) : Nat := fld (nth w 0) 60 4
def qeSer (w : List Word) : Bool := bitAt (nth w 0) 59
def qeOff (w : List Word) : Nat := fld (nth w 0) 0 48
def qeH (w : List Word) : Nat := fld (nth w 1) 52 12
def qeCount (w : List Word) : Nat := fld (nth w 1) 0 13

/-- The entry at the head. -/
def State.headEntry (s : State) (k : Nat) : List Word :=
  let q := s.queue k
  bytesWords 8 (s.hostRd (q.qbase.toNat * 64 + 64 * (q.head.toNat % q.places)) 64)

/-- Bytes that the entry names; of a graph, its header. -/
def qeBytes (w : List Word) : Nat := if qeKind w = 0 then 128 else if qeKind w = 1 then 64 else 64 * qeCount w

/-- An entry that is not run (R85). -/
def State.entryBad (s : State) (a : Nat) (w : List Word) : Bool :=
  decide (2 < qeKind w) || resSet (nth w 0) [(48, 11)] || resSet (nth w 1) [(13, 39)] || (span 2 6).any (fun i => nth w i != 0)
    || (if qeKind w = 2 then decide (qeCount w = 0 ∨ 4096 < qeCount w) else qeCount w != 0)
    || (match s.handle? a (qeH w) with
        | some e => !e.fits (qeOff w) (qeBytes w)
        | none => true)

/-- An item that can be chosen. -/
inductive Item where
  | node (p j : Nat)
  | entry (k : Nat)
  | child (order : Nat)
  deriving DecidableEq, Repr

/-- The first ready graph node of the work of a queue: it has started (R88), so a failure elsewhere does not withdraw it (R47). -/
def State.readyNode (s : State) (a k : Nat) : Option (Nat × Nat) :=
  (s.hub.graphs.filterMap fun p =>
    if p.2.asid == a && p.2.queue == k then p.2.ready.head?.map fun j => (p.1, j) else none).head?

/-- The head entry of a queue is ready: with SER every earlier one has completed, and a graph has a place to go (R83, R87). A batch
that has begun stays ready. -/
def State.entryReady (s : State) (k : Nat) : Bool :=
  let q := s.queue k
  let w := s.headEntry k
  q.open_ && (!qeSer w || q.running == 0 || q.part != 0) && (s.entryBad q.asid w || qeKind w != 1 || (s.freePlace false).isSome)

/-- The ready item of a queue: graph nodes before its head entry, and of its graphs the one in the lowest place (log 83). -/
def State.queueItem (s : State) (a k : Nat) : Option Item :=
  match s.readyNode a k with
  | some (p, j) => some (.node p j)
  | none => if (s.queue k).asid == a && s.entryReady k then some (.entry k) else none

/-- The time from which a queue's head item has been ready (R96): noted when it becomes ready, forgotten while none is. -/
def State.noteReady (s : State) (k : Nat) : State :=
  s.modQueue k fun q =>
    { q with since := if (s.queueItem q.asid k).isSome then q.since.orElse fun _ => some s.now else none }

/-- The same for every queue that exists, when a graph place has become free (R87). -/
def State.noteAll (s : State) : State := (s.hub.queues.map (·.1)).foldl State.noteReady s

/-- A queue entry's item has completed (SER of R83). -/
def State.entryDone (s : State) (e : Option Nat) : State :=
  match e with
  | none => s
  | some k => (s.modQueue k fun q => { q with running := q.running - 1 }).noteReady k

def nodeStat (g : Graph) (j : Nat) : NodeSt := g.sts.getD j .done

/-- Start every node whose predecessors are done, in ascending order (R45, R88): launches, batches and copies wait for
arbitration, a conditional waits for its read, a host-notify entry goes to its ring. -/
def State.startNodes (s : State) (p : Nat) : State :=
  match s.graph p with
  | none => s
  | some g =>
    if g.failed.isSome || g.closing then s else
    g.nodes.zipIdx.foldl (fun s (n, j) =>
      match s.graph p with
      | none => s
      | some g =>
        if nodeStat g j == .waiting && (ndDeps n).all (fun d => nodeStat g d == .done) then
          let s := s.modGraph p fun g => { g with sts := g.sts.set j .running,
                                                  ready := if ndKind n ≤ 2 then g.ready ++ [j] else g.ready }
          let s := if ndKind n ≤ 2 then s.noteReady g.queue else s
          if ndKind n == 4 then
            s.toRing g.fn (fld (nth n 1) 0 8)
              { cr := ([wd (at_ 4 60), 0, wd (at_ p 32 + j), 0, 0, 0, nth n 2, 0] : List Word), after := .notify p j }
          else s
        else s) s

/-- Deliver a record to its EVKIND target (R17): the function's ring, a team's event queue, or nowhere. `team` is the
target of the event-queue kind. Answers what takes effect now. -/
def State.deliver (s : State) (evkind fn ring : Nat) (team : Option TeamRef) (r : CR) (a : After) : State × After :=
  match evkind with
  | 1 => (s.toRing fn ring { cr := r.words, after := a }, .nothing)
  | 2 =>
    match (team.bind s.locate) with
    | none => (s, a)
    | some l =>
      match s.teamAt l with
      | none => (s, a)
      | some t =>
        let (t, now) := t.postHub s.now { cr := r.words, after := a }
        (s.putTeam l t, if now then a else .nothing)
  | _ => (s, a)

/-- Every node done, or one failed and none running. -/
def graphFinished (g : Graph) : Bool :=
  if g.failed.isSome then g.sts.all (fun x => x != .running) else g.sts.all (fun x => x == .done)

/-- Write the record of a finished graph, and its account's USED (R47, R99); answers what takes effect now. -/
def State.closeGraph (s : State) (p : Nat) : State × After :=
  match s.graph p with
  | none => (s, .nothing)
  | some g =>
    if graphFinished g && !g.closing then
      let s := (s.writeBack (ghAcct g.hdr)).modGraph p fun g => { g with closing := true }
      s.deliver (ghEvkind g.hdr) g.fn (ghRing g.hdr) g.armed (g.record p) (.graph p)
    else (s, .nothing)

/-- The place of a graph frees (R90). -/
def State.freeGraph (s : State) (p : Nat) : State :=
  match s.graph p with
  | none => s
  | some g => (({ s with hub := { s.hub with graphs := Tab.del s.hub.graphs p } } : State).entryDone g.entry).noteAll

/-- After a node changed: start what can start; close a finished graph. -/
def State.advanceGraph (s : State) (p : Nat) : State :=
  match (s.startNodes p).closeGraph p with
  | (s, .graph q) => s.freeGraph q
  | (s, _) => s

/-- A node completes. -/
def State.nodeDone (s : State) (p j : Nat) : State :=
  (s.modGraph p fun g => { g with sts := g.sts.set j .done }).advanceGraph p

/-- A node fails: no further node starts (R47). -/
def State.nodeFail (s : State) (p j : Nat) (st : Status) : State :=
  (s.modGraph p fun g =>
    { g with sts := g.sts.set j .done, failed := g.failed.orElse fun _ => some (st, j) }).advanceGraph p

/-- A node ends with a status. -/
def State.nodeEnd (s : State) (nd : Option (Nat × Nat)) (st : Status) : State :=
  match nd with
  | none => s
  | some (p, j) => if st == .ok then s.nodeDone p j else s.nodeFail p j st

/-- One task of a batch node completes; the node ends with its last one, and fails with the first that failed. -/
def State.batchStep (s : State) (nd : Option (Nat × Nat)) (st : Status) : State :=
  match nd with
  | none => s
  | some (p, j) =>
    let n := ((s.graph p).bind fun g => Tab.find g.left j).getD 0
    let s := s.modGraph p fun g =>
      { g with left := Tab.put g.left j (n - 1),
               failed := if st == .ok then g.failed else g.failed.orElse fun _ => some (st, j) }
    if n ≤ 1 then s.nodeDone p j else s

/-- What takes effect when a hub record is written (R223, R504, R509). -/
def State.applyAfter (s : State) (a : After) : State :=
  match a with
  | .nothing => s
  | .grid gid st =>
    match s.grid gid with
    | none => s
    | some g =>
      let s := { s with hub := { s.hub with grids := Tab.del s.hub.grids gid } }
      ((s.entryDone g.entry).nodeEnd g.node st)
  | .task nd e st => (s.entryDone e).batchStep nd st
  | .graph p => s.freeGraph p
  | .notify p j => s.nodeDone p j
  | .entry q => s.entryDone (some q)

/-- Deliver a record and apply what takes effect now. -/
def State.deliverNow (s : State) (evkind fn ring : Nat) (team : Option TeamRef) (r : CR) (a : After) : State :=
  let (s, a) := s.deliver evkind fn ring team r a
  s.applyAfter a

/-- Put a checked graph into a place and start it. -/
def State.openGraph (s : State) (p : Nat) (g : Graph) : State :=
  let g := { g with sts := g.nodes.map fun _ => .waiting }
  ({ s with hub := { s.hub with graphs := Tab.put s.hub.graphs p g } } : State).advanceGraph p

/-! ### Children (R103, R104) -/

/-- Entries that a die's child pool holds. -/
def State.poolUsed (s : State) (die : Nat) : Nat := (s.hub.pool.filter fun c => c.die == die && !c.spilled).length

/-- Entries of a context's spill queue. -/
def State.spillUsed (s : State) (a : Nat) : Nat := (s.hub.pool.filter fun c => c.asid == a && c.spilled).length

/-- Where a new child goes: `some false` the pool, `some true` the spill queue, `none` neither (R104, R105). -/
def State.childPlace (s : State) (asid die : Nat) (waited : Bool) : Option Bool :=
  let n := s.poolUsed die
  if n < 3840 || (waited && n < 4096) then some false
  else if s.spillUsed asid < (s.regsOf asid).spillqsize.toNat then some true
  else none

/-- The entry written to the spill queue in memory: the model's own layout (log 34). -/
def childBytes (c : Child) : List Byte :=
  wordsBytes [wd c.order, wd ((c.grid.map (· + 1)).getD 0), wd ((c.task.map (· + 1)).getD 0), wd c.asid,
    wd c.die, wd c.cls, 0, 0]

/-- Add a child in creation order. -/
def State.addChild (s : State) (c : Child) : State :=
  let c := { c with order := s.hub.nextChild }
  let s := { s with hub := { s.hub with pool := s.hub.pool ++ [c], nextChild := s.hub.nextChild + 1 } }
  if c.spilled then
    let x := s.ctx c.asid
    let s := s.sysWr (x.regs.spillqbase.toNat + 64 * (x.spTail % max 1 x.regs.spillqsize.toNat)) (childBytes c)
    s.modCtx c.asid fun x => { x with spTail := x.spTail + 1 }
  else s

end Sys2Proof.Machine
end

