-- ==== Sys2Proof/Machine/Ops.lean ====
section
/-! DEFINITION. The operations that many instructions and events share: a team's retirement (R503), the flip of a cell to
its other stage (R118, R108), taking an exception (R461 to R465) and the return from it (R466), the vector stream's
pending results (R238), a nest's position (R161), and the frame in which a stream's instruction runs. -/
namespace Sys2Proof.Machine

abbrev Res := Host.Outcome State Fault Refusal

/-! ### Latches, stages, retirement -/

/-- Lane key of a register or latch in `Shared.v`: latches are 64 to 67. -/
def laneKey (r lane : Nat) : Nat := 128 * r + lane

/-- Every latch reads as zero (R175). -/
def Shared.clearLatches (x : Shared) : Shared := { x with v := x.v.filter fun p => decide (p.1 < laneKey 64 0) }

/-- Charge a team's occupation of a cell up to now (R100); it counts from now on. -/
def State.chargeCell (s : State) (l : Loc) : State :=
  match s.teamAt l with
  | none => s
  | some t =>
    if s.isActive l && t.epilogue.isNone then
      (s.chargeGrid t.grid (cyclesOf s.now - cyclesOf t.chargeFrom)).modTeam l fun t => { t with chargeFrom := s.now }
    else s

/-- An engine stream issues again after a stop (R472). -/
def Team.restart (t : Team) : Team :=
  { t with vec := { t.vec with stopped := false }, mat := { t.mat with stopped := false }, cpy := { t.cpy with stopped := false } }

/-- The cell flips to a stage: what a hard-stopped switch saved for it comes back, or the results that were frozen for its
team go on; latches read zero, its streams issue again, and it is charged from now (R108, R109, R118). -/
def State.flipTo (s : State) (c : Nat) (b : Bool) : State :=
  let s := s.modCell c fun x =>
    let sh := match x.save b with
      | some v => v
      | none => { x.sh with landings := (((x.team b).map fun (t : Team) => t.frozen).getD []), array := [] }
    { (x.setSave b none) with sh := sh.clearLatches, active := b, sw := none }
  s.modTeam (.here c b) fun t =>
    { (if t.pre.isNone then t.restart else t) with chargeFrom := s.now, switching := false, frozen := [] }

/-- Apply a waiting allotment change to a cell that has emptied (R114). -/
def State.applyAllot (s : State) (c : Nat) : State :=
  match Tab.find s.hub.allotPend c with
  | none => s
  | some v =>
    let x := s.cell c
    if x.a.isNone && x.b.isNone && (Tab.find s.rm.passes c).isNone then
      { s with hub := { s.hub with allot := Sparse.set (0, 0) s.hub.allot c v,
                                   allotPend := Tab.del s.hub.allotPend c } }
    else s

/-- Take a team's state out of its place; the cell flips to its other stage's team if the active one left (R118). -/
def State.removeTeam (s : State) (l : Loc) : State :=
  match l with
  | .kept i => { s with hub := { s.hub with saved := s.hub.saved.eraseIdx i } }
  | .here c b =>
    let s := s.modCell c fun x => (x.setTeam b none).setSave b none
    let x := s.cell c
    let s := if x.active == b && (x.team !b).isSome then s.flipTo c (!b) else s.modCell c fun x => { x with sw := none }
    s.applyAllot c

/-- Every team of a gang has retired. -/
def gangGone (g : Grid) (x : Gang) : Bool := (span x.first x.n).all fun n => g.gone.mem n

/-- A team retires (R503): its cell and allotment return to placement, its grid counts it. Records that waited for its
event queue are discarded, and what they held back takes effect. -/
def State.retire (s : State) (l : Loc) : State :=
  match s.teamAt l with
  | none => s
  | some t =>
    if t.epilogue.isSome then
      match l with
      | .here c _ =>
        let s := (s.modCell c fun x => { x with work := t.vault, workBad := t.vpoison }).removeTeam l
        { s with rm := { s.rm with passes := Tab.upd s.rm.passes c fun p => { p with ended := true } } }
      | .kept _ => s
    else
      let s := s.chargeCell l
      let s := s.removeTeam l
      let s := s.modGrid t.grid fun g => { g with retired := g.retired + 1, gone := g.gone.ins t.no }
      let s := match s.grid t.grid with
        | some g =>
          let finished := fun (r : Resident) => r.gang.grid == t.grid && gangGone g r.gang
          { s with hub := { s.hub with residents := s.hub.residents.filter fun r => !finished r } }
        | none => s
      t.evHub.foldl (fun s p => s.applyAfter p.after) s

/-- No card of the team is still to complete; cards whose record waits have completed in every other respect (R223). -/
def Team.cardsDone (t : Team) : Bool := t.cards.all fun c => c.st == .recording

/-- Retire a team that has ended, once its started cards have completed (R236, R465). -/
def State.tryRetire (s : State) (l : Loc) : State :=
  match s.teamAt l with
  | some t => if t.ended && t.cardsDone then s.retire l else s
  | none => s

/-! ### Taking an exception (R461 to R465) -/

/-- Pending loads are written to their registers (R196, R197). -/
def Team.regOf (t : Team) (r : Nat) : Word :=
  if t.priv && decide (24 ≤ r) then Sparse.get 0 t.pregs r else Sparse.get 0 t.regs r
def Team.putReg (t : Team) (r : Nat) (v : Word) : Team :=
  if r = 0 then t
  else if t.priv && decide (24 ≤ r) then { t with pregs := Sparse.set 0 t.pregs r v }
  else { t with regs := Sparse.set 0 t.regs r v }
def Team.flushLoads (t : Team) : Team :=
  let t' := t.loads.foldl (fun t l => match l.reg with | some r => t.putReg r l.value | none => t) t
  { t' with loads := [] }

/-- A VAMO that is interrupted between two elements leaves the next one's index in VRSTIDX (R403). -/
def Team.parkVamo (t : Team) : Team :=
  if t.vpos = 0 then t else { t with vrstidx := BitVec.ofNat 8 t.vpos, vpos := 0 }

/-- The strand stops for an interruption: its loads are complete, its waits forgotten; what it stood at is kept for the hub, which
asks whether the team is ready to run (R198, R107). -/
def Team.interrupted (t : Team) : Team :=
  let at_ := (t.waiters.find? fun w => w.2.1 == .strand).map fun w => (w.1, w.2.2)
  { t.flushLoads.dropStrandWaits with waitPeer := none, stood := at_, switching := false, fences := [], barWait := none }

/-- A key of a team: of a stream, of a fetch, or of a job card. -/
def Team.ownsKey (t : Team) (k : AgentKey) : Bool := (k.1 == t.grid || k.1 == 2 ^ 33 + t.grid) && k.2.1 == t.no

/-- What peers have answered to a team is dropped. -/
def State.dropReplies (s : State) (t : Team) : State :=
  { s with fab := { s.fab with replies := s.fab.replies.filter fun r => !t.ownsKey r.key } }

/-- End a team (R465): streams stop, unstarted cards go, one record to the fault queue; the first cause of the grid. -/
def State.stopTeam (s : State) (l : Loc) (r : FRec) : State :=
  match s.teamAt l with
  | none => s
  | some t =>
    let idle : EStream := {}
    let t := { t.interrupted with
                 vec := idle, mat := idle, cpy := idle, vpos := 0, nt0 := {}, nt1 := {}, ended := true, pre := none,
                 waiters := [], cards := t.cards.filter fun c => c.st != .waiting }
    let s := s.putTeam l t
    let s := s.dropReplies t
    let s := match l with
      | .here c _ => s.modCell c fun x => { x with sh := { x.sh with landings := [], array := [] } }
      | .kept _ => s
    let s := s.offer r
    let s := s.modGrid t.grid fun g => { g with cause := g.cause.orElse fun _ => some r.cause }
    s.tryRetire l

/-- A trap in a pass cell's epilogue ends it; the cause goes to the error log with the image's hash (R448). -/
def State.endEpilogue (s : State) (c : Nat) (l : Loc) (r : FRec) (hash : Word) : State :=
  let s := s.logError { r with addr := hash }
  let s := match s.teamAt l with
    | some t => s.modCell c fun x => { x with work := t.vault, workBad := t.vpoison }
    | none => s
  let s := s.removeTeam l
  { s with rm := { s.rm with passes := Tab.upd s.rm.passes c fun p => { p with ended := true, trapped := some r.cause } } }

/-- Hold the engine streams in RUN except the one that traps (R461). -/
def Team.holdEngines (t : Team) (x : Stream) (epc : Word) : Team :=
  let t := engines.foldl (fun t e =>
    let z := t.eng e
    if e.stream == x then t.setEng e { z with held := true, pc := epc }
    else if z.st == .run then t.setEng e { z with held := true } else t) t
  { t with epcv := if t.vec.held then t.vec.pc else t.epcv, epcm := if t.mat.held then t.mat.pc else t.epcm,
           epcc := if t.cpy.held then t.cpy.pc else t.epcc }

/-- Fetch, decode and nest causes: ADDR of their records is a code offset (R456, R189). -/
def Cause.atCode (k : Cause) : Bool :=
  decide (k.code ≤ 6) || decide (8 ≤ k.code ∧ k.code ≤ 12) || [16, 43, 44].contains k.code

/-- The vector stream stands between two elements of a VAMO: no trap interrupts it there (R402, R403). -/
def Team.midVamo (t : Team) : Bool := t.vec.st == .run && !t.vec.held && t.vpos != 0

/-- The key of a stream of a team on the fabric. -/
def Team.key (t : Team) (st : Stream) : AgentKey := (t.grid, t.no, st.code)

/-- The key of what a stream's fetch reads. -/
def Team.fetchKey (t : Team) (st : Stream) : AgentKey := (2 ^ 33 + t.grid, t.no, st.code)

/-- Another stream than `x` waits for what a peer answers to it: it is no boundary of that stream (R198, R403). -/
def State.answersDue (s : State) (t : Team) (x : Option Stream) : Bool :=
  [Stream.strand, .vector, .matrix, .copy].any fun st => some st != x && s.asking (t.key st)

/-- Take an exception in the active team of a cell (R461): cause `k` of stream `x`; `pc` is the offset of the
instruction, which EPC holds unless the cause says otherwise (R463). `kept` is the record of an asynchronous cause, made when
it arose (R464); its EPC is the strand's at entry (R456). Entry waits for a VAMO of the vector stream to reach its end, and for what peers
still answer to the other streams: until then nothing happens, and the instruction that traps is issued again. -/
def State.takeTrap (s : State) (c : Nat) (x : Stream) (k : Cause) (prec : Bool) (pc : Word) (i : Info := {})
    (kept : Option FRec := none) : State :=
  let b := (s.cell c).active
  let l := Loc.here c b
  match (s.cell c).team b with
  | none => s
  | some t =>
    let epc := match i.epc with
      | some e => wd e
      | none => pc
    let r : FRec :=
      { cause := k, strm := x.code, stage := b, prec := prec, asid := t.asid, team := BitVec.ofNat 32 t.no,
        time := s.now, epc := BitVec.ofNat 32 epc.toNat, detail := BitVec.ofNat 32 i.detail,
        addr := (i.addr.map wd).getD (if Cause.atCode k then pc else 0), ids := i.ids, peer := i.peer, grid := BitVec.ofNat 32 t.grid }
    match t.epilogue with
    | some h => s.endEpilogue c l r h
    | none =>
      let regs := s.regsOf t.asid
      if t.priv then s.stopTeam l { r with cause := .doubleTrap, detail := BitVec.ofNat 32 k.code }
      else if !bitAt regs.tvec 63 then s.stopTeam l r
      else if (x != .vector && t.midVamo) || s.answersDue t (if x == .strand && !prec then none else some x) then s
      else
        let t := (t.interrupted).holdEngines x epc
        let t := { t with epc := if x == .strand && prec then epc else t.pc, frec := (match kept with
                            | some x => ({ x with epc := r.epc } : FRec).words x.seq
                            | none => r.words (s.ctx t.asid).seq),
                          tstrm := x.code, priv := true, pc := wd (fld regs.tvec 0 32), footS := none, footC := none,
                          endw := {} }
        (s.putTeam l t).modCell c fun y => { y with sh := y.sh.clearLatches }

/-- Take the oldest pending asynchronous cause (R464): the record is the one kept when it arose. -/
def State.takeAsync (s : State) (c : Nat) : State :=
  let l := Loc.here c (s.cell c).active
  match s.teamAt l with
  | none => s
  | some t =>
    match t.apend with
    | [] => s
    | r :: rest =>
      if t.priv || t.ended || t.midVamo || s.answersDue t none then s
      else
        let s := s.putTeam l { t with apend := rest }
        s.takeTrap c .strand r.cause false t.pc
          { detail := r.detail.toNat, addr := r.addr.toNat, ids := r.ids, peer := r.peer } (some r)

/-- The nest slot in RUN that belongs to an engine goes IDLE (R466). -/
def Team.dropNest (t : Team) (e : Engine) : Team :=
  let idle := fun (n : NestSlot) => if n.eng == e && (n.st == .run || n.st == .held) then { n with st := .idle, saved := [] } else n
  { t with nt0 := idle t.nt0, nt1 := idle t.nt1 }

/-- Resume one engine stream at ERET (R466). A stream sent elsewhere leaves its nest. -/
def Team.resumeEngine (t : Team) (e : Engine) (epc : Word) : Team :=
  let z := t.eng e
  if z.held then
    if z.pc == epc then t.setEng e { z with held := false }
    else (t.dropNest e).setEng e { z with held := false, pc := epc, nest := none, stopped := false }
  else if z.st == .run then (t.dropNest e).setEng e {}
  else t

/-- The team as a return from its exception leaves it (R466), with whether its pending vector results are discarded. -/
def Team.returned (t : Team) : Team × Bool :=
  let t := t.flushLoads
  let drop := t.vec.st == .run && !t.vec.held
  let t := ((t.resumeEngine .vector t.epcv).resumeEngine .matrix t.epcm).resumeEngine .copy t.epcc
  ({ t with priv := false, pc := t.epc }, drop)

/-- Return from an exception (R466). -/
def State.eret (s : State) (c : Nat) : State :=
  let l := Loc.here c (s.cell c).active
  match s.teamAt l with
  | none => s
  | some t =>
    let s := s.putTeam l t.returned.1
    if t.returned.2 then s.modCell c fun x => { x with sh := { x.sh with landings := [] } } else s

/-! ### The vector stream's pending results (R238) -/

/-- Merge the written bits of a lane. -/
def mergeBits (old mask v : BitVec 32) : BitVec 32 := (old &&& ~~~mask) ||| (v &&& mask)

/-- One result lands in its registers, latches and masks. -/
def Shared.land (x : Shared) (l : Landing) : Shared :=
  { x with v := l.lanes.foldl (fun v p => Sparse.set 0 v p.1 (mergeBits (Sparse.get 0 v p.1) p.2.1 p.2.2)) x.v,
           m := l.bits.foldl (fun m p => Sparse.set false m p.1 p.2) x.m }

/-- Rows of a pass that a bank holds side by side: pass row `r` lies in the physical rows that are `r` modulo this number (R446, R283). -/
def State.passRowsOf (s : State) (p : Pass) : Nat :=
  passRows (groupsOfClass ((s.taskClass p.hash p.shape).getD {}))

/-- Raise flags in a cell's active team (R59). In a pass cell's epilogue the flags of a row's conversion go to the tasks of
the row's owner (`row` is a physical row), those of any other instruction to every task of the pass (R78). -/
def State.raiseFlags (s : State) (c : Nat) (row : Option Nat) (f : BitVec 5) : State :=
  let loc := Loc.here c (s.cell c).active
  match ((s.teamAt loc).bind (·.epilogue)), Tab.find s.rm.passes c with
  | some _, some p =>
    let mine := match row with
      | none => p.rows
      | some r => match p.rows[r % max 1 (s.passRowsOf p)]? with
        | some x => p.rows.filter fun y => y.owner == x.owner
        | none => []
    let tasks := s.rm.tasks.map fun t => if mine.any (fun y => y.uid == t.uid) then { t with vfl := t.vfl ||| f } else t
    { s with rm := { s.rm with tasks := tasks } }
  | _, _ => s.modTeam loc fun t => { t with vflags := t.vflags ||| f }

/-- One stream cycle of the vector stream: results whose cycle has come land, in issue order. A load that read poison does
not land: it stays due, and traps at the next issue (R268). -/
def State.streamCycle (s : State) (c : Nat) : State :=
  let ls := (s.cell c).sh.landings.map fun l => { l with rem := if l.poison.isSome then max 1 (l.rem - 1) else l.rem - 1 }
  let due := ls.filter fun l => l.rem == 0
  let s := s.modCell c fun x => { x with sh := due.foldl Shared.land { x.sh with landings := ls.filter fun l => l.rem != 0 } }
  due.foldl (fun s l => if l.flags = 0 then s else s.raiseFlags c l.row l.flags) s

/-- All pending results have landed. -/
def State.landed (s : State) (c : Nat) : Bool := (s.cell c).sh.landings.isEmpty

/-! ### A nest's position (R161) -/

/-- The nest slot that an engine stream runs. -/
def Team.running (t : Team) (e : Engine) : Option NestSlot := (t.eng e).nest.map t.slot

/-- Offset of the body instruction at the position, or of the NEST.END past the last. -/
def NestSlot.offset (n : NestSlot) : Nat := (n.body[n.pos]?).elim (n.endOff - 4) (·.1)

/-- Advance past the body instruction that has just issued. -/
def Team.nestStep (t : Team) (e : Engine) : Team :=
  match (t.eng e).nest with
  | none => t
  | some k =>
    let n := { t.slot k with pos := (t.slot k).pos + 1 }
    (t.setSlot k n).modEng e fun x => { x with pc := wd n.offset }

/-! ### The frame of a stream's instruction -/

/-- The offset of the instruction that a stream issues. -/
def State.pcAt (s : State) (c : Nat) (st : Stream) : Word := ((s.cell c).act.getD {}).pcOf st

/-- Change the active team of a cell. -/
def State.modAct (s : State) (c : Nat) (f : Team -> Team) : State := s.modTeam (.here c (s.cell c).active) f

/-- Past an instruction of `len` bytes; inside a nest, past a body instruction. -/
def State.passed (s : State) (c : Nat) (st : Stream) (len : Nat) : State :=
  s.modAct c fun t =>
    match engineOf st with
    | none => { t with pc := t.pc + wd len, waitPeer := none, stood := none }
    | some e => if (t.eng e).nest.isSome then t.nestStep e else t.setPc st (t.pcOf st + wd len)

/-- The code offset of a load whose poison is due: it traps before the instruction of its landing cycle (R268). -/
def Shared.duePoison (x : Shared) : Option Word := (x.landings.find? fun l => l.poison.isSome && l.rem == 1).bind (·.poison)

/-- Forget the oldest load whose poison is due: its result is not written. -/
def Shared.dropPoison (x : Shared) : Shared :=
  { x with landings := x.landings.eraseP fun l => l.poison.isSome && l.rem == 1 }

/-- Put a stream back on the instruction that it had been moved past: its counter, and its nest's position. -/
def State.rewound (s : State) (c : Nat) (st : Stream) (pc : Word) (n0 n1 : Nat) : State :=
  s.modAct c fun t =>
    match engineOf st with
    | none => { t with pc := pc }
    | some _ => { t with nt0 := { t.nt0 with pos := n0 }, nt1 := { t.nt1 with pos := n1 } }.setPc st pc

/-- Run the meaning of an instruction of `len` bytes in a stream: past it when it completes; at it, with a trap taken or
with what a wait left, otherwise. The counter is moved past the instruction first, so a meaning that transfers control
sets it. -/
def runAt (c : Nat) (st : Stream) (len : Nat) (body : M Unit) (s : State) : Res :=
  let t := (s.cell c).act.getD {}
  let pc := t.pcOf st
  let back : State -> State := fun s => s.rewound c st pc t.nt0.pos t.nt1.pos
  let cycle : State -> State := fun s => if st == .vector then s.streamCycle c else s
  match if st == .vector then (s.cell c).sh.duePoison else none with
  | some off => .next ((s.modCell c fun x => { x with sh := x.sh.dropPoison }).takeTrap c st .poison true pc { addr := off.toNat })
  | none =>
  match body.run (s.passed c st len) with
  | .ok _ s' => .next (cycle (s'.usedReplies (t.key st)))
  | .error (.trap k i) s' => .next (((back s').usedReplies (t.key st)).takeTrap c st k true pc i)
  | .error (.wait p) s' => .next (cycle ((back s').modAct c fun t => if st == .strand then { t with waitPeer := p } else t))

/-- Guard predicate PG (R181, R200): p0 reads as true. -/
def Team.pred (t : Team) (p : Nat) : Bool := p % 8 == 0 || t.preds.getLsbD (p % 8)

/-- A strand or sync instruction of `len` bytes under its guard, in the strand. -/
def strandOp (len : Nat) (pg : BitVec 3) (body : M Unit) (s : State) : Res :=
  match s.cur with
  | .stream c .strand =>
    match (s.cell c).act with
    | none => .next s
    | some t => if t.pred pg.toNat then runAt c .strand len body s else .next (s.passed c .strand len)
  | _ => .next s

/-- An instruction of a unit that may be absent: that is a check of decoding, made whatever the guard reads (R4, R181, R189). -/
def gatedOp (has : State → Bool) (run : State → Res) (s : State) : Res :=
  match s.cur with
  | .stream c st =>
    if (s.cell c).act.isSome && !has s then .next (s.takeTrap c st .unitAbsent true (s.pcAt c st)) else run s
  | .unit _ => run s

/-- An instruction of an engine stream. -/
def engineOp (e : Engine) (len : Nat) (body : M Unit) (s : State) : Res :=
  match s.cur with
  | .stream c st => if st == e.stream && (s.cell c).act.isSome then runAt c st len body s else .next s
  | .unit _ => .next s

/-- An instruction of a class that several streams decode (R151); the guard is the strand's (R181). -/
def sharedOp (len : Nat) (pg : BitVec 3) (streams : List Stream) (body : M Unit) (s : State) : Res :=
  match s.cur with
  | .stream c st =>
    match (s.cell c).act with
    | none => .next s
    | some t =>
      if !streams.contains st then .next s
      else if st == .strand && !t.pred pg.toNat then .next (s.passed c st len)
      else runAt c st len body s
  | .unit _ => .next s

/-- Transfer control of the issuing stream to an offset; what is wrong with it is found when it is fetched (R148, R149). -/
def jumpTo (off : Word) : M Unit := do
  let st <- theStream
  modTeam fun t => t.setPc st off

/-- Offset of the issuing instruction of `len` bytes: the counter has been moved past it. -/
def pcHere (len : Nat) : M Word := do
  let st <- theStream
  pure ((<- team).pcOf st - wd len)

end Sys2Proof.Machine
end

