-- ==== Sys2Proof/Machine/Operands.lean ====
section
/-! DEFINITION. Operands of strand, sync and system instructions: registers (R196, R200), predicates, memory operands
(R209), and the vault offsets of copy-class instructions (R346, R523). -/
namespace Sys2Proof.Machine

/-! ### Strand registers -/

/-- What a strand register reads: s0 is 0; an outstanding load's value is already seen, since the strand is interlocked
(R196, R197, R200). -/
def Team.sreg (t : Team) (r : Nat) : Word :=
  if r = 0 then 0
  else match (t.loads.reverse.find? fun l => l.reg == some r) with
    | some l => l.value
    | none => t.regOf r

/-- Write a strand register: a write to s0 is discarded; an outstanding load no longer writes it. -/
def Team.setSreg (t : Team) (r : Nat) (v : Word) : Team :=
  if r = 0 then t
  else
    let loads := t.loads.map fun l => if l.reg == some r then { l with reg := none } else l
    ({ t with loads := loads } : Team).putReg r v

def sreg (r : BitVec 5) : M Word := do pure ((<- team).sreg r.toNat)
def setSreg (r : BitVec 5) (v : Word) : M Unit := modTeam fun t => t.setSreg r.toNat v

/-- Write a predicate; a write to p0 is discarded (R200). -/
def Team.setPred (t : Team) (p : Nat) (b : Bool) : Team :=
  if p % 8 = 0 then t
  else
    let bit := BitVec.ofNat 8 (2 ^ (p % 8))
    { t with preds := if b then t.preds ||| bit else t.preds &&& ~~~bit }
def setPred (p : Nat) (b : Bool) : M Unit := modTeam fun t => t.setPred p b

/-! ### Memory operands (R209, R476) -/

/-- Handle and offset of a memory operand. -/
def memOp32 (x : S32) : M (Nat × Nat) := do
  let off <- sreg x.rs1
  pure (x.rs2.toNat, off.toNat)
def memOp64 (x : S64) : M (Nat × Nat) := do
  let base <- sreg x.r.rs1
  pure (x.imm.toNat / 2 ^ 20, (base + sext64 20 x.imm.toNat).toNat)

/-- ORD and SCOPE of a 64-bit memory operand: the RS2 field. -/
def ordOf (x : S64) : Nat := x.r.rs2.toNat / 8
def scopeOf (x : S64) : Nat := x.r.rs2.toNat % 8

/-! ### Address generators (R162) -/

/-- The address-generator offset of a body instruction: exact, 0 outside a nest. -/
def NestSlot.agOffset (n : NestSlot) (g : Nat) : Int :=
  (n.levels.zip n.idx).foldl (fun a p => a + (p.2 : Int) * p.1.strides.getD g 0) 0

/-- The offset that NR and AG add for the issuing stream (R162). -/
def agOffset (nr : Bool) (ag : Nat) : M Int := do
  if !nr then pure 0
  else
    let st <- theStream
    let t <- team
    match engineOf st with
    | none => pure 0
    | some e => pure ((t.running e).elim 0 fun n => n.agOffset ag)

/-- A 64-bit offset from an exact sum; a negative or too great one is a very large offset. -/
def offsetOf (i : Int) : Nat := lowBits 64 i

/-! ### The issuing team's vault -/

/-- Trap unless `n` bytes at `off` lie in the issuing team's allotment. -/
def inVault (off n : Nat) : M Unit := do
  let t <- team
  need (decide (off + n ≤ t.valloc * 65536)) .vaultBound { addr := off }

/-- Read the issuing team's vault; poison traps. -/
def vaultLoad (off n : Nat) : M (List Byte) := do
  let t <- team
  match t.vaultRd off n with
  | some bs => pure bs
  | none => trap .poison { addr := off }
def vaultStore (off : Nat) (bs : List Byte) : M Unit := modTeam fun t => t.vaultWr off bs

/-- Bytes of the allotment as they stand. -/
def Team.vaultRaw (t : Team) (off n : Nat) : List Byte := t.vault.rdBytes off n

/-- The literal part of a copy-class offset (R346, R523): LIT, or AUX × 64. -/
def litOf (c : C64) (lit : Option (BitVec 32)) : Nat := (lit.map (·.toNat)).getD (c.aux.toNat * 64)

/-- The vault offset of a job block (R346): the literal part, the strand's register, the address generator. -/
def blockOffset (c : C64) (lit : Option (BitVec 32)) : M Nat := do
  let st <- theStream
  let base <- if st == .strand then sreg c.sa else pure 0
  let ag <- agOffset (c.nr == 1) c.ag.toNat
  pure (offsetOf ((litOf c lit : Int) + base.toNat + ag))

end Sys2Proof.Machine
end

