-- ==== Sys2Proof/Machine/Arith.lean ====
section
/-! DEFINITION. Strand arithmetic, bit fields, comparison, selection and literals (R202 to R208). -/
namespace Sys2Proof.Machine

/-- The operations of R202. -/
inductive AluOp where
  | add | sub | mul | mulh | div | rem | and | or | xor | shl | shr | sra | min | max
  deriving DecidableEq, Repr

/-- Clamp an exact result to the range of `n` bits (R203). -/
def clampTo (n : Nat) (u : Bool) (t : Int) : Int :=
  let lo : Int := if u then 0 else -(2 ^ (n - 1) : Nat)
  let hi : Int := if u then (2 ^ n : Nat) - 1 else (2 ^ (n - 1) : Nat) - 1
  if t < lo then lo else if hi < t then hi else t

/-- The exact value `t` of R203 for operands of `n` bits. -/
def aluExact (op : AluOp) (n : Nat) (u sat : Bool) (a b : Nat) : Int :=
  let x : Int := if u then (a : Int) else sextNat n a
  let y : Int := if u then (b : Int) else sextNat n b
  let fit := fun t => if sat then clampTo n u t else t
  match op with
  | .add => fit (x + y)
  | .sub => fit (x - y)
  | .mul => fit (x * y)
  | .mulh => (x * y).ediv ((2 ^ n : Nat) : Int)
  | .div => if y = 0 then -1 else if !u && decide (x = -((2 ^ (n - 1) : Nat) : Int) ∧ y = -1) then x else x.tdiv y
  | .rem => if y = 0 then x else if !u && decide (x = -((2 ^ (n - 1) : Nat) : Int) ∧ y = -1) then 0 else x - y * x.tdiv y
  | .and => ((a &&& b : Nat) : Int)
  | .or => ((a ||| b : Nat) : Int)
  | .xor => ((a ^^^ b : Nat) : Int)
  | .shl => if n ≤ b then 0 else ((a <<< b : Nat) : Int)
  | .shr => if n ≤ b then 0 else ((a >>> b : Nat) : Int)
  | .sra => if n ≤ b then (if sextNat n a < 0 then -1 else 0) else (sextNat n a).ediv ((2 ^ b : Nat) : Int)
  | .min => if x ≤ y then x else y
  | .max => if x ≤ y then y else x

/-- R203: .w is MOD[0], .u MOD[1], .sat MOD[2]. -/
def alu (op : AluOp) (md : BitVec 3) (a b : Word) : Word :=
  let n := if md.getLsbD 0 then 32 else 64
  sext64 n (lowBits n (aluExact op n (md.getLsbD 1) (md.getLsbD 2) (a.toNat % 2 ^ n) (b.toNat % 2 ^ n)))

/-- The 32-bit form: RS1 and RS2. -/
def aluReg (op : AluOp) (x : S32) (s : State) : Res :=
  strandOp 4 x.pg (do
    let a <- sreg x.rs1
    let b <- sreg x.rs2
    setSreg x.rd (alu op x.md a b)) s

/-- The 64-bit form: RS1 and the sign-extended IMM. -/
def aluImm (op : AluOp) (x : S64) (s : State) : Res :=
  strandOp 8 x.r.pg (do
    let a <- sreg x.r.rs1
    setSreg x.r.rd (alu op x.r.md a (sext64 32 x.imm.toNat))) s

/-- add (R203). -/
def execAdd (x : S32) (s : State) : Res := aluReg .add x s
/-- add with an immediate (R203). -/
def execAddImm (x : S64) (s : State) : Res := aluImm .add x s
/-- sub (R203). -/
def execSub (x : S32) (s : State) : Res := aluReg .sub x s
/-- sub with an immediate (R203). -/
def execSubImm (x : S64) (s : State) : Res := aluImm .sub x s
/-- mul (R203). -/
def execMul (x : S32) (s : State) : Res := aluReg .mul x s
/-- mul with an immediate (R203). -/
def execMulImm (x : S64) (s : State) : Res := aluImm .mul x s
/-- mulh (R203). -/
def execMulh (x : S32) (s : State) : Res := aluReg .mulh x s
/-- mulh with an immediate (R203). -/
def execMulhImm (x : S64) (s : State) : Res := aluImm .mulh x s
/-- div (R203). -/
def execDiv (x : S32) (s : State) : Res := aluReg .div x s
/-- div with an immediate (R203). -/
def execDivImm (x : S64) (s : State) : Res := aluImm .div x s
/-- rem (R203). -/
def execRem (x : S32) (s : State) : Res := aluReg .rem x s
/-- rem with an immediate (R203). -/
def execRemImm (x : S64) (s : State) : Res := aluImm .rem x s
/-- and (R203). -/
def execAnd (x : S32) (s : State) : Res := aluReg .and x s
/-- and with an immediate (R203). -/
def execAndImm (x : S64) (s : State) : Res := aluImm .and x s
/-- or (R203). -/
def execOr (x : S32) (s : State) : Res := aluReg .or x s
/-- or with an immediate (R203). -/
def execOrImm (x : S64) (s : State) : Res := aluImm .or x s
/-- xor (R203). -/
def execXor (x : S32) (s : State) : Res := aluReg .xor x s
/-- xor with an immediate (R203). -/
def execXorImm (x : S64) (s : State) : Res := aluImm .xor x s
/-- shl (R203). -/
def execShl (x : S32) (s : State) : Res := aluReg .shl x s
/-- shl with an immediate (R203). -/
def execShlImm (x : S64) (s : State) : Res := aluImm .shl x s
/-- shr (R203). -/
def execShr (x : S32) (s : State) : Res := aluReg .shr x s
/-- shr with an immediate (R203). -/
def execShrImm (x : S64) (s : State) : Res := aluImm .shr x s
/-- sra (R203). -/
def execSra (x : S32) (s : State) : Res := aluReg .sra x s
/-- sra with an immediate (R203). -/
def execSraImm (x : S64) (s : State) : Res := aluImm .sra x s
/-- min (R203). -/
def execMin (x : S32) (s : State) : Res := aluReg .min x s
/-- min with an immediate (R203). -/
def execMinImm (x : S64) (s : State) : Res := aluImm .min x s
/-- max (R203). -/
def execMax (x : S32) (s : State) : Res := aluReg .max x s
/-- max with an immediate (R203). -/
def execMaxImm (x : S64) (s : State) : Res := aluImm .max x s

/-- Leading zero bits of an `n`-bit value. -/
def clzNat (n a : Nat) : Nat := if a = 0 then n else n - 1 - Nat.log2 a

/-- One bits of a value below 2 ^ `n`. -/
def popcNat : Nat -> Nat -> Nat
  | 0, _ => 0
  | n + 1, a => a % 2 + popcNat n (a / 2)

/-- The width that .w selects. -/
def widthOf (md : BitVec 3) : Nat := if md.getLsbD 0 then 32 else 64

/-- CLZ (R204). -/
def execClz (x : S32) (s : State) : Res :=
  strandOp 4 x.pg (do
    let a <- sreg x.rs1
    setSreg x.rd (wd (clzNat (widthOf x.md) (a.toNat % 2 ^ widthOf x.md)))) s

/-- POPC (R204). -/
def execPopc (x : S32) (s : State) : Res :=
  strandOp 4 x.pg (do
    let a <- sreg x.rs1
    setSreg x.rd (wd (popcNat 64 (a.toNat % 2 ^ widthOf x.md)))) s

/-! ### Bit fields (R205) -/

/-- A field extended to 64 bits. -/
def extField (u : Bool) (len v : Nat) : Word := if u then wd (v % 2 ^ len) else sext64 len v

/-- Position and length of a descriptor; a length past the register is reduced (the 32-bit form). -/
def fieldDesc (d : Nat) : Nat × Nat := (d % 64, min (d / 64 % 128) (64 - d % 64))

def bfx (u : Bool) (a : Word) (d : Nat × Nat) : Word := extField u d.2 (a.toNat / 2 ^ d.1)
def bfi (old a : Word) (d : Nat × Nat) : Word :=
  let mask := (2 ^ d.2 - 1) * 2 ^ d.1
  (old &&& ~~~wd mask) ||| (wd (a.toNat % 2 ^ d.2 * 2 ^ d.1) &&& wd mask)

/-- BFX (R205). -/
def execBfx (x : S32) (s : State) : Res :=
  strandOp 4 x.pg (do
    let a <- sreg x.rs1
    let d <- sreg x.rs2
    setSreg x.rd (bfx (x.md.getLsbD 1) a (fieldDesc d.toNat))) s
/-- BFX with the descriptor in IMM (R205). -/
def execBfxImm (x : S64) (s : State) : Res :=
  strandOp 8 x.r.pg (do
    let a <- sreg x.r.rs1
    setSreg x.r.rd (bfx (x.r.md.getLsbD 1) a (fieldDesc x.imm.toNat))) s
/-- BFI (R205). -/
def execBfi (x : S32) (s : State) : Res :=
  strandOp 4 x.pg (do
    let a <- sreg x.rs1
    let d <- sreg x.rs2
    let old <- sreg x.rd
    setSreg x.rd (bfi old a (fieldDesc d.toNat))) s
/-- BFI with the descriptor in IMM (R205). -/
def execBfiImm (x : S64) (s : State) : Res :=
  strandOp 8 x.r.pg (do
    let a <- sreg x.r.rs1
    let old <- sreg x.r.rd
    setSreg x.r.rd (bfi old a (fieldDesc x.imm.toNat))) s
/-- EXT (R205): only the length is used. -/
def execExt (x : S32) (s : State) : Res :=
  strandOp 4 x.pg (do
    let a <- sreg x.rs1
    let d <- sreg x.rs2
    setSreg x.rd (bfx (x.md.getLsbD 1) a (0, min (d.toNat % 128) 64))) s
/-- EXT with the length in IMM (R205). -/
def execExtImm (x : S64) (s : State) : Res :=
  strandOp 8 x.r.pg (do
    let a <- sreg x.r.rs1
    setSreg x.r.rd (bfx (x.r.md.getLsbD 1) a (0, min (x.imm.toNat % 128) 64))) s

/-! ### Comparison, selection, literals (R206 to R208) -/

/-- The condition that MOD selects (R206). -/
def cmpCond (md : BitVec 3) (a b : Word) : Bool :=
  match md.toNat with
  | 0 => a == b
  | 1 => a != b
  | 2 => a.slt b
  | 3 => !a.slt b
  | 4 => a.ult b
  | 5 => !a.ult b
  | 6 => a &&& b != 0
  | _ => a &&& b == 0

/-- CMP (R206). -/
def execCmp (x : S32) (s : State) : Res :=
  strandOp 4 x.pg (do
    let a <- sreg x.rs1
    let b <- sreg x.rs2
    setPred x.rd.toNat (cmpCond x.md a b)) s
/-- CMP with an immediate (R206). -/
def execCmpImm (x : S64) (s : State) : Res :=
  strandOp 8 x.r.pg (do
    let a <- sreg x.r.rs1
    setPred x.r.rd.toNat (cmpCond x.r.md a (sext64 32 x.imm.toNat))) s
/-- SEL (R207). -/
def execSel (x : S32) (s : State) : Res :=
  strandOp 4 x.pg (do
    let a <- sreg x.rs1
    let b <- sreg x.rs2
    setSreg x.rd (if (<- team).pred x.md.toNat then a else b)) s
/-- LI, 64-bit form (R208). -/
def execLi64 (x : S64) (s : State) : Res :=
  strandOp 8 x.r.pg (setSreg x.r.rd (if x.r.md.getLsbD 0 then wd x.imm.toNat else sext64 32 x.imm.toNat)) s
/-- LI, 96-bit form (R208). -/
def execLi96 (x : S96) (s : State) : Res :=
  strandOp 12 x.r.pg (setSreg x.r.rd (x.lit ++ x.imm)) s

/-- NOP (R235). -/
def execNop (x : S32) (s : State) : Res := strandOp 4 x.pg (pure ()) s
/-- NOP, 64-bit form (R235). -/
def execNop64 (x : S64) (s : State) : Res := strandOp 8 x.r.pg (pure ()) s
/-- NOP, 96-bit form (R235). -/
def execNop96 (x : S96) (s : State) : Res := strandOp 12 x.r.pg (pure ()) s

end Sys2Proof.Machine
end

