-- ==== Sys2Proof/WellFormed.lean ====
section
/-! DEFINITION. Which field values of an instruction are legal: checks 9 to 11 of R189 that need nothing but the
instruction, the stream that decodes it and whether a nest sequencer issues it. `Instr.check` gives the cause of the first
failing check. -/
namespace Sys2Proof

/-- The cause of the first condition that holds. -/
def firstBad : List (Bool × Cause) → Option Cause
  | [] => none
  | (b, c) :: t => if b then some c else firstBad t

/-- `ILL_RES` when the condition holds. -/
def resBad (b : Bool) : Option Cause := if b then some .illRes else none

/-- A RES0 field of a strand-layout word is set; a field whose flag is `true` may hold anything. -/
def S32.res0 (x : S32) (mdMask : BitVec 3) (rs2 rs1 rd : Bool) : Bool :=
  (x.md &&& ~~~mdMask) != 0 || (!rs2 && x.rs2 != 0) || (!rs1 && x.rs1 != 0) || (!rd && x.rd != 0)

/-- ORD and SCOPE in the RS2 field of a 64-bit memory form (R209, R399): a reserved code, or a scope with ORD = 0. -/
def ordBad (rs2 : BitVec 5) (acq rel both : Bool) : Bool :=
  let ord := rs2.extractLsb' 3 2
  let sc := rs2.extractLsb' 0 3
  (ord == 1 && !acq) || (ord == 2 && !rel) || (ord == 3 && !both) || decide (5 < sc.toNat) || (ord == 0 && sc != 0)

/-- The 64-bit bit-field descriptor of R205 is illegal; `ext` is for EXT. -/
def bfBad (imm : BitVec 32) (ext : Bool) : Bool :=
  if ext then
    let len := (imm.extractLsb' 0 7).toNat
    imm.extractLsb' 7 25 != 0 || len == 0 || decide (64 < len)
  else
    let pos := (imm.extractLsb' 0 6).toNat
    let len := (imm.extractLsb' 6 7).toNat
    imm.extractLsb' 13 19 != 0 || len == 0 || decide (64 < len) || decide (64 < pos + len)

/-- `.u` without `.sat` on ADD, SUB and MUL (R202). -/
def satBad (md : BitVec 3) : Bool := md.extractLsb' 1 1 == 1 && md.extractLsb' 2 1 == 0

/-- F, L misused (R165). -/
def flBad (f l : BitVec 1) (lv : BitVec 3) (nest : Bool) : Bool := (f == 1 || l == 1) && (!nest || lv == 7)

/-- Entries of FORK outside its mask, or bit [95], set (R217). -/
def forkBad (x : S96) : Bool :=
  let all : BitVec 64 := x.lit ++ x.imm
  (x.r.md.extractLsb' 0 1 == 0 && all.extractLsb' 0 21 != 0) ||
  (x.r.md.extractLsb' 1 1 == 0 && all.extractLsb' 21 21 != 0) ||
  (x.r.md.extractLsb' 2 1 == 0 && all.extractLsb' 42 21 != 0) ||
  all.extractLsb' 63 1 != 0

/-! ### Vector fields (R174 to R179, R244 to R246) -/

/-- Integer types: codes 0x0 to 0x7 (R177). -/
def tyInt (ty : BitVec 4) : Bool := decide (ty.toNat < 8)
/-- `.i8` to `.i64` (R177). -/
def tySigned (ty : BitVec 4) : Bool := decide (ty.toNat < 4)
/-- `.f32`, `.bf16`, `.f16` (R177). -/
def tyF (ty : BitVec 4) : Bool := ty == 8 || ty == 9 || ty == 10
/-- The 16-bit types (R178). -/
def ty16 (ty : BitVec 4) : Bool := ty == 1 || ty == 5 || ty == 9 || ty == 10
/-- The 64-bit types, which use pairs (R246). -/
def ty64 (ty : BitVec 4) : Bool := ty == 3 || ty == 7
/-- `.f32`, `.i32`, `.n32`. -/
def ty32 (ty : BitVec 4) : Bool := ty == 8 || ty == 2 || ty == 6
/-- The 8-bit types of VCVT (R253). -/
def ty8 (ty : BitVec 4) : Bool := ty == 11 || ty == 12 || ty == 0 || ty == 4
/-- Any floating type of VCVT, VWID and VNAR. -/
def tyFloat (ty : BitVec 4) : Bool := tyF ty || ty == 11 || ty == 12

/-- A half-select that R178 does not allow for the type. -/
def hsBad (x : V64) : Bool := x.hs == 3 || (x.hs != 0 && !ty16 x.ty)
/-- A latch destination with VD[5:2] set (R175). -/
def wbsBad (x : V32) : Bool := x.wbs == 1 && x.vd.extractLsb' 2 4 != 0
/-- A source field that names no register or latch (R174). -/
def srcBad (s : BitVec 7) : Bool := decide (67 < s.toNat)
/-- A source group of `c` registers that R246 does not allow. -/
def grpSrcBad (s : BitVec 7) (c : Nat) : Bool := s.toNat % c != 0 || decide (64 < s.toNat + c)
/-- A destination group of `c` registers that R246 does not allow. -/
def grpDstBad (x : V32) (c : Nat) : Bool := x.wbs == 1 || x.vd.toNat % c != 0 || decide (64 < x.vd.toNat + c)
/-- Reserved bits of a destination that names a mask (R249, R264). -/
def maskDstBad (x : V32) : Bool := x.wbs == 1 || x.vd.extractLsb' 4 2 != 0
/-- A field that names a mask holds bits above [3:0] (R250, R264). -/
def maskSrcBad (s : BitVec 7) : Bool := s.extractLsb' 4 3 != 0

/-- The shape shared by the lane-wise instructions: which types, FN values and sources are named, and whether RND is.
Pairs are checked for the 64-bit types (R246). -/
def vLane (x : V64) (nest tyOk fnOk rndOk s1 s2 s3 : Bool) : Option Cause :=
  firstBad
    [(flBad x.f x.l x.lv nest || !tyOk || !fnOk || (x.rnd != 0 && !rndOk) || hsBad x || wbsBad x.r
      || (!s1 && (x.r.vs1 != 0 || x.swz != 0)) || (!s2 && x.r.vs2 != 0) || (!s3 && x.vs3 != 0)
      || (ty64 x.ty && (grpDstBad x.r 2 || (s1 && grpSrcBad x.r.vs1 2) || (s2 && grpSrcBad x.r.vs2 2)
          || (s3 && grpSrcBad x.vs3 2) || x.swz != 0)), .illRes),
     ((s1 && srcBad x.r.vs1) || (s2 && srcBad x.r.vs2) || (s3 && srcBad x.vs3), .illSrc)]

/-- Short form (R170): sources and latch destination. -/
def vShort (x : V32) (s2 : Bool) : Option Cause :=
  firstBad [(wbsBad x || (!s2 && x.vs2 != 0), .illRes), (srcBad x.vs1 || (s2 && srcBad x.vs2), .illSrc)]

/-- VCVT (R253). -/
def vCvtBad (x : V64) : Bool :=
  let sty := x.vs3.extractLsb' 0 4
  x.vs3.extractLsb' 4 3 != 0 || sty == x.ty
    || !((ty32 x.ty && ty32 sty) || (ty16 x.ty && ty16 sty) || (ty8 x.ty && ty8 sty))
    || !(tyFloat x.ty || tyFloat sty) || x.fn.extractLsb' 1 2 != 0 || (x.fn != 0 && x.ty != 11)

/-- Registers of the wide side of a VWID or VNAR pair (R254); `none` when the pair is not listed. -/
def widenCount (narrow wide : BitVec 4) : Option Nat :=
  let n8 := ty8 narrow || narrow == 13
  let cls := (tyInt narrow && tyInt wide) || ((tyFloat narrow || narrow == 13) && tyF wide)
  if !cls then none
  else if n8 && ty16 wide then some 2
  else if n8 && ty32 wide then some 4
  else if ty16 narrow && ty32 wide then some 2
  else if (narrow == 2 || narrow == 6) && ty64 wide then some 2
  else none

/-- VWID (R254, R255). -/
def vWidBad (x : V64) : Bool :=
  match widenCount (x.vs3.extractLsb' 0 4) x.ty with
  | none => true
  | some c => grpDstBad x.r c || x.vs3.extractLsb' 4 3 != 0 || x.hs != 0 || x.fn != 0 || x.rnd != 0 || x.r.vs2 != 0

/-- VNAR (R254, R255). -/
def vNarBad (x : V64) : Bool :=
  let sty := x.vs3.extractLsb' 0 4
  match widenCount x.ty sty with
  | none => true
  | some c => ty64 sty || x.ty == 13 || grpSrcBad x.r.vs1 c || x.swz != 0 || wbsBad x.r || x.vs3.extractLsb' 4 3 != 0
      || x.hs != 0 || x.r.vs2 != 0 || (x.rnd != 0 && !tyFloat x.ty) || x.fn.extractLsb' 2 1 != 0
      || (x.fn.extractLsb' 0 1 == 1 && x.ty != 11) || (x.fn.extractLsb' 1 1 == 1 && !tyInt x.ty)

/-- Fields per lane of VPACK and VUNPK (R256). -/
def packCount (fn : BitVec 3) : Nat := 2 ^ ((fn.extractLsb' 0 2).toNat + 1)

/-- Fields that a vault-access instruction leaves RES0, and NR outside a nest (R267, R165). -/
def vMemBad (x : V96) (nest vdOk vs1Ok vs2Ok : Bool) : Bool :=
  flBad x.v.f x.v.l x.v.lv nest || (x.v.fn.extractLsb' 2 1 == 1 && !nest) || x.v.ty != 0 || x.v.rnd != 0 || x.v.hs != 0
    || x.v.swz != 0 || x.v.vs3 != 0 || (!vdOk && (x.v.r.vd != 0 || x.v.r.wbs != 0 || x.v.sq != 0))
    || (!vs1Ok && x.v.r.vs1 != 0) || (!vs2Ok && x.v.r.vs2 != 0) || wbsBad x.v.r

/-- Live-register range of VDEFER and VDRAIN (R271); NLIVE lies in the SWZ field. -/
def liveBad (x : V64) : Bool := decide (4 < x.swz.toNat) || decide (64 < x.r.vs1.toNat + x.swz.toNat) || decide (63 < x.r.vs1.toNat)

/-! ### Matrix fields (R171, R180, R286) -/

/-- Fields of a matrix instruction that its row of R286 marks RES0, F and L misused, NRA or NRB outside a nest. -/
def mBad (x : M64) (nest ta tb ab shape tc sub nra nrb sreg : Bool) : Bool :=
  flBad x.f x.l x.lv nest || x.rsv != 0 || (!ta && x.ta != 0) || (!tb && x.tb != 0) || (!ab && x.ab != 0)
    || (!shape && (x.m != 0 || x.nn != 0)) || (!tc && x.tc != 0) || (!sub && x.sub != 0)
    || (!nra && (x.nra != 0 || x.aga != 0)) || (!nrb && (x.nrb != 0 || x.agb != 0)) || (!sreg && x.sreg != 0)
    || (!nest && (x.nra == 1 || x.nrb == 1))

/-- Rows of a shape (R171). -/
def M64.rows (x : M64) : Nat := 32 * 2 ^ x.m.toNat
/-- Columns of a shape (R171). -/
def M64.cols (x : M64) : Nat := 16 * x.nn.toNat
/-- A reserved shape (R180, R283). -/
def shapeBad (x : M64) : Bool := x.m == 3 || x.nn == 0 || decide (16384 < x.rows * x.cols)

/-- Checks 9 and 11 of a matrix instruction. -/
def mChk (res : Bool) (shape : Bool) : Option Cause := firstBad [(res, .illRes), (shape, .illShape)]

/-! ### Copy and data fields (R172, R346, R348, R366 to R370) -/

/-- F, L or NR misused, or SA, SB set in an engine stream (R165, R172). -/
def cBad (x : C64) (st : Stream) (nest : Bool) : Bool :=
  flBad x.f x.l x.lv nest || (x.nr == 1 && !nest) || (st != .strand && (x.sa != 0 || x.sb != 0))

/-- The semaphore and modifier fields are RES0 (R366 to R370). -/
def noJob (x : C64) : Bool := x.wsem != 0 || x.wv != 0 || x.ssem != 0 || x.sv != 0 || x.md != 0

/-- A job instruction (R346): SB names nothing; in the 96-bit form LIT stands in place of AUX. -/
def jobBad (x : C64) (long : Bool) (st : Stream) (nest : Bool) : Bool :=
  cBad x st nest || x.sb != 0 || (long && x.aux != 0)

/-- QINIT, QPUSH and QPOP (R523, R366, R367): in the strand LIT and AUX are RES0; QPUSH and QPOP read SB only. -/
def queueBad (x : C64) (lit : Option (BitVec 32)) (saOk : Bool) (st : Stream) (nest : Bool) : Bool :=
  cBad x st nest || noJob x || (st == .strand && (x.aux != 0 || lit.getD 0 != 0 || x.nr != 0 || x.ag != 0))
    || (lit.isSome && x.aux != 0) || (!saOk && x.sa != 0)

/-- TFULL, TEMPTY and TWAIT (R368). -/
def tileBad (x : COpt) (mdMask : BitVec 3) (nest : Bool) : Bool :=
  flBad x.c.f x.c.l x.c.lv nest || noJob { x.c with md := x.c.md &&& ~~~mdMask } || x.c.qw != 0 || x.c.ag != 0 || x.c.nr != 0
    || x.c.sa != 0 || x.c.sb != 0 || x.c.aux.extractLsb' 6 4 != 0 || x.lit.getD 0 != 0

/-- TSLOT.SET (R368, R523). -/
def tslotBad (x : C64) (lit : Option (BitVec 32)) (st : Stream) (nest : Bool) : Bool :=
  cBad x st nest || noJob x || x.qw != 0 || x.aux.extractLsb' 6 4 != 0
    || (st == .strand && (x.ag != 0 || x.nr != 0 || lit.getD 0 != 0))

/-- FOOT (R370). -/
def footBad (x : C64) (long : Bool) (st : Stream) (nest : Bool) : Bool :=
  jobBad x long st nest || noJob x || x.qw != 0

/-- PG is RES0 outside the strand (R181). -/
def pgBad (x : S32) (st : Stream) : Bool := st != .strand && x.pg != 0

/-! A check of the fields of one layout. -/
def Fields.onS32 (f : Fields) (k : S32 → Option Cause) : Option Cause :=
  match f.asS32 with
  | some x => k x
  | none => some .illOp
def Fields.onS64 (f : Fields) (k : S64 → Option Cause) : Option Cause :=
  match f.asS64 with
  | some x => k x
  | none => some .illOp
def Fields.onS96 (f : Fields) (k : S96 → Option Cause) : Option Cause :=
  match f.asS96 with
  | some x => k x
  | none => some .illOp
def Fields.onV32 (f : Fields) (k : V32 → Option Cause) : Option Cause :=
  match f.asV32 with
  | some x => k x
  | none => some .illOp
def Fields.onV64 (f : Fields) (k : V64 → Option Cause) : Option Cause :=
  match f.asV64 with
  | some x => k x
  | none => some .illOp
def Fields.onV96 (f : Fields) (k : V96 → Option Cause) : Option Cause :=
  match f.asV96 with
  | some x => k x
  | none => some .illOp
def Fields.onM64 (f : Fields) (k : M64 → Option Cause) : Option Cause :=
  match f.asM64 with
  | some x => k x
  | none => some .illOp
def Fields.onM96 (f : Fields) (k : M96 → Option Cause) : Option Cause :=
  match f.asM96 with
  | some x => k x
  | none => some .illOp
def Fields.onC64 (f : Fields) (k : C64 → Option Cause) : Option Cause :=
  match f.asC64 with
  | some x => k x
  | none => some .illOp
def Fields.onC96 (f : Fields) (k : C96 → Option Cause) : Option Cause :=
  match f.asC96 with
  | some x => k x
  | none => some .illOp
def Fields.onMark (f : Fields) (k : Mark → Option Cause) : Option Cause :=
  match f.asMark with
  | some x => k x
  | none => some .illOp
def Fields.onN32 (f : Fields) (k : N32 → Option Cause) : Option Cause :=
  match f.asN32 with
  | some x => k x
  | none => some .illOp
def Fields.onN64 (f : Fields) (k : N64 → Option Cause) : Option Cause :=
  match f.asN64 with
  | some x => k x
  | none => some .illOp
def Fields.onCOpt (f : Fields) (k : COpt → Option Cause) : Option Cause :=
  match f.copt with
  | some x => k x
  | none => some .illOp
def Fields.onNOpt (f : Fields) (k : NOpt → Option Cause) : Option Cause :=
  match f.nopt with
  | some x => k x
  | none => some .illOp

/-- R189 checks 9 to 11 for a name and its fields. -/
def opCheck (st : Stream) (nest : Bool) : Op → Fields → Option Cause
  -- strand class (R200 to R235)
  | .add, f | .sub, f | .mul, f => f.onS32 fun x =>
      resBad (satBad x.md)
  | .addImm, f | .subImm, f | .mulImm, f => f.onS64 fun x =>
      resBad (satBad x.r.md || x.r.rs2 != 0)
  | .mulh, f | .div, f | .rem, f | .min, f | .max, f => f.onS32 fun x =>
      resBad (x.res0 3 true true true)
  | .mulhImm, f | .divImm, f | .remImm, f | .minImm, f | .maxImm, f => f.onS64 fun x =>
      resBad (x.r.res0 3 false true true)
  | .and, f | .or, f | .xor, f | .shl, f | .shr, f | .sra, f => f.onS32 fun x =>
      resBad (x.res0 1 true true true)
  | .andImm, f | .orImm, f | .xorImm, f | .shlImm, f | .shrImm, f | .sraImm, f => f.onS64 fun x =>
      resBad (x.r.res0 1 false true true)
  | .clz, f | .popc, f => f.onS32 fun x =>
      resBad (x.res0 1 false true true)
  | .bfx, f | .ext, f => f.onS32 fun x =>
      resBad (x.res0 2 true true true)
  | .bfxImm, f => f.onS64 fun x =>
      resBad (x.r.res0 2 false true true || bfBad x.imm false)
  | .extImm, f => f.onS64 fun x =>
      resBad (x.r.res0 2 false true true || bfBad x.imm true)
  | .bfi, f => f.onS32 fun x =>
      resBad (x.res0 0 true true true)
  | .bfiImm, f => f.onS64 fun x =>
      resBad (x.r.res0 0 false true true || bfBad x.imm false)
  | .cmp, f => f.onS32 fun x =>
      resBad (x.rd.extractLsb' 3 2 != 0)
  | .cmpImm, f => f.onS64 fun x =>
      resBad (x.r.rs2 != 0 || x.r.rd.extractLsb' 3 2 != 0)
  | .sel, f => f.onS32 fun _ =>
      none
  | .li64, f => f.onS64 fun x =>
      resBad (x.r.res0 1 false false true)
  | .li96, f => f.onS96 fun x =>
      resBad (x.r.res0 0 false false true)
  | .lea, f => f.onS64 fun x =>
      resBad (x.r.rs2 != 0)
  | .ld, f => f.onS32 fun x =>
      resBad (x.md == 7)
  | .ldImm, f => f.onS64 fun x =>
      resBad (x.r.md == 7 || ordBad x.r.rs2 true false false)
  | .st, f => f.onS32 fun x =>
      resBad (x.res0 3 true true true)
  | .stImm, f => f.onS64 fun x =>
      resBad (x.r.res0 3 true true true || ordBad x.r.rs2 false true false)
  | .br, f => f.onS64 fun x =>
      resBad (x.r.res0 7 false false true || x.r.rd.extractLsb' 1 4 != 0 || x.imm.extractLsb' 0 2 != 0)
  | .jmp, f | .call, f => f.onS64 fun x =>
      resBad (x.r.res0 0 false false false || x.imm.extractLsb' 0 2 != 0)
  | .loop, f => f.onS64 fun x =>
      resBad (x.r.res0 0 false false true || x.r.rd == 0 || x.imm.extractLsb' 0 2 != 0)
  | .jmpx, f => f.onS32 fun x =>
      resBad (x.res0 1 false true false)
  | .ret, f => f.onS32 fun x =>
      resBad (x.res0 0 false false false)
  | .nop, f => f.onS32 fun x =>
      resBad (x.res0 0 false false false)
  | .nop64, f => f.onS64 fun x =>
      resBad (x.r.res0 0 false false false || x.imm != 0)
  | .nop96, f => f.onS96 fun x =>
      resBad (x.r.res0 0 false false false || x.imm != 0 || x.lit != 0)
  | .endTeam, f | .stageSw, f | .eret, f => f.onS32 fun x =>
      resBad (x.res0 0 false false false || x.pg != 0)
  | .fork, f => f.onS96 fun x =>
      resBad (x.r.res0 7 false false false || forkBad x)
  | .join, f => f.onS32 fun x =>
      resBad (x.res0 7 false false false)
  | .nestSet, f => f.onS32 fun x =>
      resBad (x.res0 1 true true false)
  | .nestGo, f | .nestClamp, f => f.onS32 fun x =>
      resBad (x.res0 1 false false false)
  | .launch, f => f.onS64 fun x =>
      resBad (x.r.res0 0 false true true)
  | .tsub, f => f.onS64 fun x =>
      resBad (x.r.res0 1 false true true)
  | .graphArm, f => f.onS64 fun x =>
      resBad (x.r.res0 0 false true true || x.r.rd.extractLsb' 3 2 != 0)
  | .tresume, f => f.onS32 fun x =>
      resBad (x.res0 0 false true false)
  | .evqPop, f => f.onS32 fun x =>
      resBad (x.res0 7 false false true || !(x.rd == 8 || x.rd == 16 || x.rd == 24))
  | .evqWait, f => f.onS32 fun x =>
      resBad (x.res0 0 false false true || !(x.rd == 8 || x.rd == 16 || x.rd == 24))
  | .semSig, f | .semWait, f => f.onS32 fun x =>
      resBad (x.res0 7 true true false || decide (5 < x.md.toNat))
  | .semSigImm, f | .semWaitImm, f => f.onS64 fun x =>
      resBad (x.r.res0 7 false false false || decide (5 < x.r.md.toNat))
  | .semSet, f | .semRsig, f => f.onS64 fun x =>
      resBad (x.r.res0 0 false true false)
  | .ctlRd, f => f.onS32 fun x =>
      resBad (x.rs1 != 0)
  | .ctlWr, f => f.onS32 fun x =>
      resBad (x.rd != 0)
  | .tstamp, f => f.onS32 fun x =>
      resBad (x.res0 0 false false true)
  | .trap, f => f.onS32 fun x =>
      resBad (x.res0 0 false true false)
  -- vector class (R244 to R274)
  | .vadd, f | .vsub, f | .vmul, f | .vmin, f | .vmax, f | .vand, f | .vor, f | .vxor, f => f.onV32 fun x =>
      vShort x true
  | .vmov, f => f.onV32 fun x =>
      vShort x false
  | .vaddFull, f | .vsubFull, f | .vmulFull, f => f.onV64 fun x =>
      vLane x nest (tyInt x.ty || tyF x.ty) (x.fn == 0 || (x.fn == 1 && tyInt x.ty)) (tyF x.ty) true true false
  | .vfma, f => f.onV64 fun x =>
      vLane x nest ((tyInt x.ty && !ty64 x.ty) || tyF x.ty) (x.fn == 0) (tyF x.ty) true true true
  | .vminFull, f | .vmaxFull, f => f.onV64 fun x =>
      vLane x nest (tyInt x.ty || tyF x.ty) (x.fn == 0) false true true false
  | .vabs, f | .vneg, f => f.onV64 fun x =>
      vLane x nest (tySigned x.ty || tyF x.ty) (x.fn == 0 || (x.fn == 1 && tyInt x.ty)) false true false false
  | .vandFull, f | .vorFull, f | .vxorFull, f | .vshl, f => f.onV64 fun x =>
      vLane x nest (tyInt x.ty) (x.fn == 0) false true true false
  | .vshr, f => f.onV64 fun x =>
      vLane x nest (tyInt x.ty) (decide (x.fn.toNat < 2)) false true true false
  | .vcmp, f => f.onV64 fun x =>
      firstBad
        [(flBad x.f x.l x.lv nest || maskDstBad x.r || x.rnd != 0 || x.vs3 != 0 || hsBad x
          || !((ty16 x.ty && x.hs != 0) || ty32 x.ty || ty64 x.ty) || (decide (5 < x.fn.toNat) && !tyF x.ty)
          || (ty64 x.ty && (grpSrcBad x.r.vs1 2 || grpSrcBad x.r.vs2 2 || x.swz != 0)), .illRes),
         (srcBad x.r.vs1 || srcBad x.r.vs2, .illSrc)]
  | .vsel, f => f.onV64 fun x =>
      firstBad
        [(flBad x.f x.l x.lv nest || maskSrcBad x.vs3 || !(x.ty == 6 || x.ty == 7) || x.fn != 0 || x.rnd != 0 || hsBad x
          || wbsBad x.r || (ty64 x.ty && (grpDstBad x.r 2 || grpSrcBad x.r.vs1 2 || grpSrcBad x.r.vs2 2 || x.swz != 0)),
          .illRes),
         (srcBad x.r.vs1 || srcBad x.r.vs2, .illSrc)]
  | .vmovFull, f => f.onV64 fun x =>
      vLane x nest (x.ty == 6 || x.ty == 7 || (x.ty == 5 && x.hs != 0)) (x.fn == 0) false true false false
  | .vli, f => f.onV96 fun x =>
      vLane x.v nest (decide (x.v.ty.toNat < 14) && !ty64 x.v.ty) (x.v.fn == 0) false false false false
  | .vcvt, f => f.onV64 fun x =>
      firstBad
        [(flBad x.f x.l x.lv nest || vCvtBad x || hsBad x || wbsBad x.r || x.r.vs2 != 0, .illRes),
         (srcBad x.r.vs1, .illSrc)]
  | .vwid, f => f.onV64 fun x =>
      firstBad [(flBad x.f x.l x.lv nest || vWidBad x, .illRes), (srcBad x.r.vs1, .illSrc)]
  | .vnar, f => f.onV64 fun x =>
      resBad (flBad x.f x.l x.lv nest || vNarBad x)
  | .vpack, f => f.onV64 fun x =>
      resBad (flBad x.f x.l x.lv nest || !(x.ty == 2 || x.ty == 6) || grpSrcBad x.r.vs1 (packCount x.fn) || x.swz != 0
        || wbsBad x.r || x.r.vs2 != 0 || x.vs3 != 0 || x.rnd != 0 || x.hs != 0)
  | .vunpk, f => f.onV64 fun x =>
      firstBad
        [(flBad x.f x.l x.lv nest || !(x.ty == 2 || x.ty == 6) || grpDstBad x.r (packCount x.fn) || x.fn.extractLsb' 2 1 != 0
          || x.r.vs2 != 0 || x.vs3 != 0 || x.rnd != 0 || x.hs != 0, .illRes),
         (srcBad x.r.vs1, .illSrc)]
  | .vrcp, f | .vrsq, f | .vexp, f | .vlog, f | .vtanh, f | .vsigm, f | .vgelu, f | .vsin, f => f.onV64 fun x =>
      vLane x nest (x.ty == 8) (decide (x.fn.toNat < 2)) false true false false
  | .vrcps, f | .vrsqs, f => f.onV64 fun x =>
      vLane x nest (x.ty == 8) (x.fn == 0) true true true false
  | .vrsum, f => f.onV64 fun x =>
      vLane x nest (ty32 x.ty) (x.fn == 0) (x.ty == 8) true false false
  | .vrmax, f | .vrmin, f | .vargmax, f => f.onV64 fun x =>
      vLane x nest (ty32 x.ty) (x.fn == 0) false true false false
  | .vscan, f => f.onV64 fun x =>
      vLane x nest (ty32 x.ty) (x.fn.extractLsb' 0 2 != 3) (x.ty == 8) true false false
  | .vtopk, f => f.onV64 fun x =>
      (resBad (grpDstBad x.r 2)).or (vLane x nest (ty32 x.ty) true false true false false)
  | .vperm, f | .vbcast, f => f.onV64 fun x =>
      vLane x nest (x.ty == 0) (x.fn == 0) false true true false
  | .vshuf, f => f.onV64 fun x =>
      vLane x nest (x.ty == 0) (x.fn == 0) false true true true
  | .viota, f => f.onV64 fun x =>
      vLane x nest (x.ty == 0) (x.fn == 0) false false false false
  | .vmand, f | .vmor, f => f.onV64 fun x =>
      resBad (flBad x.f x.l x.lv nest || maskDstBad x.r || maskSrcBad x.r.vs1 || maskSrcBad x.r.vs2 || x.vs3 != 0
        || decide (1 < x.fn.toNat) || x.ty != 0 || x.rnd != 0 || x.hs != 0 || x.swz != 0)
  | .vmnot, f => f.onV64 fun x =>
      resBad (flBad x.f x.l x.lv nest || maskDstBad x.r || maskSrcBad x.r.vs1 || x.r.vs2 != 0 || x.vs3 != 0
        || x.fn != 0 || x.ty != 0 || x.rnd != 0 || x.hs != 0 || x.swz != 0)
  | .vmpop, f => f.onV64 fun x =>
      resBad (flBad x.f x.l x.lv nest || wbsBad x.r || maskSrcBad x.r.vs1 || x.r.vs2 != 0 || x.vs3 != 0
        || x.fn != 0 || x.ty != 0 || x.rnd != 0 || x.hs != 0 || x.swz != 0)
  | .vqnt, f => f.onV64 fun x =>
      (resBad (grpDstBad x.r 2 || x.men != 0 || x.msk != 0)).or
        (vLane x nest (x.ty == 11 || x.ty == 12 || x.ty == 0) (x.fn == 0) false true false false)
  | .vdqnt, f => f.onV64 fun x =>
      vLane x nest (x.ty == 11 || x.ty == 12 || x.ty == 0) (x.fn == 0) false true true false
  | .vld, f => f.onV96 fun x =>
      resBad (vMemBad x nest true false false)
  | .vst, f => f.onV96 fun x =>
      firstBad [(vMemBad x nest false true false, .illRes), (srcBad x.v.r.vs1, .illSrc)]
  | .vldx, f => f.onV96 fun x =>
      firstBad [(vMemBad x nest true false true, .illRes), (srcBad x.v.r.vs2, .illSrc)]
  | .vstx, f => f.onV96 fun x =>
      firstBad [(vMemBad x nest false true true, .illRes), (srcBad x.v.r.vs1 || srcBad x.v.r.vs2, .illSrc)]
  | .vdefer, f => f.onV64 fun x =>
      resBad (flBad x.f x.l x.lv nest || liveBad x || x.r.vd != 0 || x.r.wbs != 0 || x.r.vs2 != 0 || x.vs3 != 0
        || x.rnd != 0 || x.sq != 0 || x.hs != 0 || x.fn != 0)
  | .vdrain, f => f.onV64 fun x =>
      resBad (flBad x.f x.l x.lv nest || liveBad x || maskDstBad x.r || x.r.vs2 != 0 || x.vs3 != 0 || x.men != 0
        || x.msk != 0 || x.rnd != 0 || x.sq != 0 || x.hs != 0 || decide (1 < x.fn.toNat))
  | .vdret, f => f.onV64 fun x =>
      firstBad
        [(flBad x.f x.l x.lv nest || x.r.wbs != 0 || x.r.vs2 != 0 || x.vs3 != 0 || x.ty != 0 || x.rnd != 0 || x.sq != 0
          || x.hs != 0 || x.swz != 0 || x.fn != 0, .illRes),
         (srcBad x.r.vs1, .illSrc)]
  | .vbr, f => f.onV96 fun x =>
      resBad (flBad x.v.f x.v.l x.v.lv nest || x.v.r.vd != 0 || x.v.r.wbs != 0 || x.v.r.vs1 != 0 || x.v.r.vs2 != 0
        || x.v.vs3 != 0 || x.v.men != 0 || x.v.ty != 0 || x.v.rnd != 0 || x.v.sq != 0 || x.v.hs != 0 || x.v.swz != 0
        || decide (4 < x.v.fn.toNat) || x.lit.extractLsb' 0 2 != 0)
  | .vloop, f => f.onV96 fun x =>
      resBad (flBad x.v.f x.v.l x.v.lv nest || x.v.r.wbs != 0 || x.v.r.vs1 != 0 || x.v.r.vs2 != 0
        || x.v.vs3 != 0 || x.v.men != 0 || x.v.msk != 0 || x.v.ty != 0 || x.v.rnd != 0 || x.v.sq != 0 || x.v.hs != 0
        || x.v.swz != 0 || x.v.fn != 0 || x.lit.extractLsb' 0 2 != 0)
  | .vtake, f => f.onV64 fun x =>
      resBad (flBad x.f x.l x.lv nest || wbsBad x.r || x.r.vs1 != 0 || x.r.vs2 != 0 || x.ty != 0 || x.rnd != 0 || x.men != 0
        || x.msk != 0 || x.hs != 0 || x.swz != 0 || decide (3 < x.fn.toNat))
  | .vgive, f => f.onV64 fun x =>
      firstBad
        [(flBad x.f x.l x.lv nest || x.r.vd != 0 || x.r.wbs != 0 || x.r.vs2 != 0 || x.ty != 0 || x.rnd != 0
          || x.men != 0 || x.msk != 0 || x.sq != 0 || x.hs != 0 || decide (3 < x.fn.toNat), .illRes),
         (srcBad x.r.vs1, .illSrc)]
  -- markers (R173)
  | .nestBeg, f | .nestEnd, f => f.onMark fun x =>
      resBad (x.rsv != 0)
  | .rdv, f | .engineEnd, f => f.onMark fun x =>
      resBad (x.rsv != 0 || x.slot != 0)
  -- matrix class (R286)
  | .mma, f | .mmaz, f => f.onM64 fun x =>
      mChk (mBad x nest true true true true false false true true false) (shapeBad x)
  | .mmag, f => f.onM64 fun x =>
      mChk (mBad x nest true true true true true false true true false) (shapeBad x)
  | .mconst, f => f.onM64 fun x =>
      mChk (mBad x nest false true true true true true false true false || decide (3 < x.sub.toNat)
        || ((x.sub == 0 || x.sub == 2) && x.tc != 0)) (shapeBad x)
  | .mprec, f => f.onM96 fun x =>
      mChk (mBad x.x nest false false false false true false false false false || x.lit.extractLsb' 0 6 != 0) false
  | .mscale, f => f.onM64 fun x =>
      mChk (mBad x nest false false false false true false false false true) false
  | .mown, f => f.onM64 fun x =>
      mChk (mBad x nest false false false false true false false false false) false
  | .mclr, f => f.onM64 fun x =>
      mChk (mBad x nest false false true false false false false false false) false
  | .mcvt, f | .mscat, f => f.onM64 fun x =>
      mChk (mBad x nest false false true true true true true false false || decide (1 < x.sub.toNat)) (shapeBad x)
  | .mfree, f => f.onM64 fun x =>
      mChk (mBad x nest true true true false false true false false false || x.sub == 0 || x.sub.extractLsb' 3 1 == 1) false
  -- copy and data class (R348, R366 to R370)
  | .cp, f | .cpc, f | .cpg, f | .cps, f | .cpk, f | .pref, f | .pin, f | .unpin, f | .kvcommit, f | .rst, f
  | .rld, f | .lsend, f | .lradd, f => f.onC64 fun x =>
      resBad (jobBad x false st nest)
  | .cp96, f | .cpc96, f | .cpg96, f | .cps96, f | .cpk96, f | .pref96, f | .pin96, f | .unpin96, f
  | .kvcommit96, f | .rst96, f | .rld96, f | .lsend96, f | .lradd96, f => f.onC96 fun x =>
      resBad (jobBad x.c true st nest)
  | .qinit, f => f.onC64 fun x =>
      resBad (queueBad x none true st nest)
  | .qinit96, f => f.onC96 fun x =>
      resBad (queueBad x.c (some x.lit) true st nest)
  | .qpush, f | .qpop, f => f.onC64 fun x =>
      resBad (queueBad x none false st nest)
  | .qpush96, f | .qpop96, f => f.onC96 fun x =>
      resBad (queueBad x.c (some x.lit) false st nest)
  | .qpeek, f => f.onCOpt fun x =>
      resBad (cBad x.c st nest || noJob x.c || x.lit.getD 0 != 0 || x.c.ag != 0 || x.c.nr != 0 || x.c.sa != 0
        || (st == .strand && x.c.aux != 0) || (st == .copy && x.c.aux == 0))
  | .tslotSet, f => f.onC64 fun x =>
      resBad (tslotBad x none st nest)
  | .tslotSet96, f => f.onC96 fun x =>
      resBad (tslotBad x.c (some x.lit) st nest)
  | .tfull, f | .tempty, f => f.onCOpt fun x =>
      resBad (tileBad x 0 nest)
  | .twait, f => f.onCOpt fun x =>
      resBad (tileBad x 1 nest)
  | .foot, f => f.onC64 fun x =>
      resBad (footBad x false st nest)
  | .foot96, f => f.onC96 fun x =>
      resBad (footBad x.c true st nest)
  -- sync class (R399 to R423)
  | .amoAdd, f | .amoMin, f | .amoMax, f | .amoXchg, f | .amoAnd, f | .amoOr, f => f.onS32 fun x =>
      resBad (x.md.extractLsb' 1 1 == 0)
  | .amoCas, f => f.onS32 fun x =>
      resBad (x.md.extractLsb' 1 1 == 0 || x.rd == 0 || x.rd.extractLsb' 0 1 == 1)
  | .amoAddImm, f | .amoMinImm, f | .amoMaxImm, f | .amoXchgImm, f | .amoAndImm, f | .amoOrImm, f => f.onS64 fun x =>
      resBad (x.r.md.extractLsb' 1 1 == 0 || ordBad x.r.rs2 true true true)
  | .amoCasImm, f => f.onS64 fun x =>
      resBad (x.r.md.extractLsb' 1 1 == 0 || ordBad x.r.rs2 true true true || x.r.rd == 0 || x.r.rd.extractLsb' 0 1 == 1)
  | .vamo, f => f.onV64 fun x =>
      firstBad
        [(x.f != 0 || x.l != 0 || x.lv != 0 || x.hs != 0 || x.swz != 0 || x.sq != 0 || wbsBad x.r || decide (5 < x.fn.toNat)
          || !ty32 x.ty || (x.ty == 8 && (x.fn == 4 || x.fn == 5)) || (x.rnd != 0 && !(x.ty == 8 && x.fn == 0)), .illRes),
         (srcBad x.r.vs1 || srcBad x.r.vs2 || decide (63 < x.vs3.toNat), .illSrc)]
  | .fence, f => f.onS32 fun x =>
      resBad (x.res0 7 false true false || x.rs1.extractLsb' 4 1 == 1 || decide (5 < x.md.toNat) || pgBad x st)
  | .barExp, f => f.onS64 fun x =>
      resBad (x.r.res0 0 true true true)
  | .barWait, f => f.onS64 fun x =>
      resBad (decide (5 < x.r.md.toNat) || x.r.rd.extractLsb' 3 1 == 1
        || (x.r.rd.extractLsb' 4 1 == 0 && x.r.rd != 0))
  | .barArr, f => f.onS64 fun x =>
      resBad (decide (5 < x.r.md.toNat) || pgBad x.r st
        || (st != .strand && (x.r.res0 7 false false false || x.imm.extractLsb' 20 12 != 0)))
  | .collReg, f | .collFree, f => f.onS64 fun x =>
      resBad (x.r.res0 0 false true false)
  | .collAr, f | .collAg, f | .collRs, f | .bankRun, f => f.onS64 fun x =>
      resBad (x.r.res0 0 false true true || x.r.rd.extractLsb' 3 2 != 0)
  | .leaseReq, f => f.onS64 fun x =>
      let d := (x.imm.extractLsb' 0 20).toNat
      resBad (x.r.res0 1 true true true || x.imm.extractLsb' 20 3 != 0 || (decide (0 < d) && decide (d < 10)))
  | .leaseRet, f => f.onS64 fun x =>
      resBad (x.r.res0 0 false true false || x.imm != 0)
  | .leaseQ, f => f.onS64 fun x =>
      resBad (x.r.res0 0 false true true || x.imm != 0)
  | .bankStat, f => f.onS64 fun x =>
      resBad (x.r.res0 0 false true true || x.imm != 0)
  -- system class (R476, R478)
  | .codeReg, f => f.onS32 fun x =>
      resBad (x.res0 0 true true true || x.rd == 0 || x.rd.extractLsb' 0 1 == 1)
  | .codeReg64, f => f.onS64 fun x =>
      resBad (x.r.res0 0 false true true || x.r.rd == 0 || x.r.rd.extractLsb' 0 1 == 1)
  | .keyAlloc, f => f.onS32 fun x =>
      resBad (x.res0 0 false true true)
  | .keyAlloc64, f => f.onS64 fun x =>
      resBad (x.r.res0 0 false false true)
  | .keyRevoke, f | .partStop, f => f.onS32 fun x =>
      resBad (x.res0 0 false true false)
  | .keyRevoke64, f | .partStop64, f => f.onS64 fun x =>
      resBad (x.r.res0 0 false false false)
  | .ctxSave, f => f.onS32 fun x =>
      resBad (x.res0 1 true true false)
  | .ctxSave64, f => f.onS64 fun x =>
      resBad (x.r.res0 1 false true false)
  | .ctxLoad, f => f.onS32 fun x =>
      resBad (x.res0 0 true true false || !(x.rs1 == 0 || decide (23 < x.rs1.toNat)))
  | .ctxLoad64, f => f.onS64 fun x =>
      resBad (x.r.res0 0 false true false || !(x.r.rs1 == 0 || decide (23 < x.r.rs1.toNat)))
  | .scrub, f => f.onS32 fun x =>
      resBad (x.res0 0 true true true || x.rd == 0 || x.rs1 == 0)
  | .scrub64, f => f.onS64 fun x =>
      resBad (x.r.res0 0 false true true || x.r.rd == 0 || x.r.rs1 == 0)
  | .calSet, f => f.onS32 fun x =>
      resBad (x.res0 1 true true false)
  | .calSet64, f => f.onS64 fun x =>
      resBad (x.r.res0 1 true false false)
  | .tlbInv, f => f.onS32 fun x =>
      resBad (x.res0 3 true true false)
  | .tlbInv64, f => f.onS64 fun x =>
      resBad (x.r.res0 3 true false false)
  | .halt, f => f.onS32 fun x =>
      resBad (x.res0 0 false false false)
  | .halt64, f => f.onS64 fun x =>
      resBad (x.r.res0 0 false false false)
  -- near-bank class: a set RES0 field stops the unit (R423, R424)
  | .nbOpen, f => f.onNOpt fun x =>
      resBad (x.n.a != 0 || x.n.b != 0 || x.n.imm15.extractLsb' 2 13 != 0 || x.imm32.getD 0 != 0)
  | .nbLdacc, f | .nbWr, f | .nbClr, f => f.onNOpt fun x =>
      resBad (x.n.b != 0 || x.n.imm15 != 0 || x.imm32.getD 0 != 0)
  | .nbScadd, f => f.onN32 fun x =>
      resBad (x.imm15.extractLsb' 1 14 != 0)
  | .nbScadd64, f => f.onN64 fun x =>
      resBad (x.n.imm15 != 0)
  | .nbMac, f | .nbScale, f => f.onN32 fun x =>
      resBad (x.b != 0 || x.imm15.extractLsb' 1 14 != 0)
  | .nbMac64, f | .nbScale64, f => f.onN64 fun x =>
      resBad (x.n.b != 0 || x.n.imm15 != 0)
  | .nbLoop, f => f.onNOpt fun x =>
      resBad (x.n.a != 0 || x.n.b != 0 || x.n.imm15.extractLsb' 6 9 != 0 || x.imm32.getD 0 != 0)
  | .nbEnd, f => f.onNOpt fun x =>
      resBad (x.n.a != 0 || x.n.b != 0 || x.n.imm15 != 0 || x.imm32.getD 0 != 0)

/-- R189 checks 9 to 11 for an instruction; an event has none. -/
def Instr.check (st : Stream) (nest : Bool) (i : Instr) : Option Cause :=
  match i.op with
  | some o => opCheck st nest o i.fields
  | none => none

/-- An instruction that its stream decodes without a trap of checks 9 to 11 (R189). -/
abbrev Instr.WellFormed (st : Stream) (nest : Bool) (i : Instr) : Prop := i.check st nest = none

end Sys2Proof
end

