-- ==== Sys2Proof/Machine/Flags.lean ====
section
/-! DEFINITION. Number formats (R48 to R53), exact results, rounding and the flags it raises (R56 to R60), and converts
(R61 to R66). An exact value is a sign and a rational number times a power of two. -/
namespace Sys2Proof.Machine

/-! ### Flags of VFLAGS (R59): NV DZ OF UF NX in bits [4:0] -/

abbrev Flags := BitVec 5
def fNV : Flags := 16
def fDZ : Flags := 8
def fOF : Flags := 4
def fUF : Flags := 2
def fNX : Flags := 1

/-! ### Formats (R48) -/

/-- A floating-point format: width of the exponent and of the fraction. `noInf` for E4M3 (R49). -/
structure Fmt where
  ew : Nat
  fw : Nat
  noInf : Bool := false
  deriving DecidableEq, Repr

def fp32 : Fmt := { ew := 8, fw := 23 }
def bf16 : Fmt := { ew := 8, fw := 7 }
def fp16 : Fmt := { ew := 5, fw := 10 }
def e4m3 : Fmt := { ew := 4, fw := 3, noInf := true }
def e5m2 : Fmt := { ew := 5, fw := 2 }

def Fmt.width (f : Fmt) : Nat := f.ew + f.fw + 1
def Fmt.bias (f : Fmt) : Nat := 2 ^ (f.ew - 1) - 1
/-- Exponent of the least significant bit of a subnormal. -/
def Fmt.qmin (f : Fmt) : Int := 1 - (f.bias : Int) - f.fw
/-- The code of the largest finite value, sign 0. -/
def Fmt.maxCode (f : Fmt) : Nat := if f.noInf then 2 ^ (f.ew + f.fw) - 2 else (2 ^ f.ew - 1) * 2 ^ f.fw - 1
/-- The code of +Inf. -/
def Fmt.infCode (f : Fmt) : Nat := (2 ^ f.ew - 1) * 2 ^ f.fw
/-- The canonical NaN (R48). -/
def Fmt.nanCode (f : Fmt) : Nat := if f.noInf then 2 ^ (f.ew + f.fw) - 1 else f.infCode + 2 ^ (f.fw - 1)
/-- A code with a sign. -/
def Fmt.signed (f : Fmt) (neg : Bool) (code : Nat) : Nat := if neg then 2 ^ (f.ew + f.fw) + code else code

/-- A value: NaN, an infinity, or a signed `m * 2 ^ e`, both zeros included. -/
inductive FV where
  | nan
  | inf (neg : Bool)
  | num (neg : Bool) (m : Nat) (e : Int)
  deriving DecidableEq, Repr

/-- The value of a code (R48, R49). -/
def Fmt.value (f : Fmt) (code : Nat) : FV :=
  let neg := decide (code / 2 ^ (f.ew + f.fw) % 2 = 1)
  let e := code / 2 ^ f.fw % 2 ^ f.ew
  let m := code % 2 ^ f.fw
  let top := e == 2 ^ f.ew - 1
  if f.noInf && top && m == 2 ^ f.fw - 1 then .nan
  else if !f.noInf && top then (if m = 0 then .inf neg else .nan)
  else if e = 0 then .num neg m f.qmin
  else .num neg (m + 2 ^ f.fw) ((e : Int) - 1 + f.qmin)

def FV.isNan : FV → Bool
  | .nan => true
  | _ => false

/-- A finite value is subnormal in the format. -/
def Fmt.subnormal (f : Fmt) (code : Nat) : Bool := code / 2 ^ f.fw % 2 ^ f.ew == 0 && code % 2 ^ f.fw != 0

/-- A subnormal operand reads as zero of the same sign (R58). -/
def Fmt.flush (f : Fmt) (code : Nat) : Nat := if f.subnormal code then code / 2 ^ f.fw * 2 ^ f.fw else code

/-! ### Rounding (R56) -/

/-- The rounding field. -/
inductive Rnd where
  | rne | rz | rd | ru
  deriving DecidableEq, Repr

def Rnd.of (b : BitVec 2) : Rnd := if b = 0 then .rne else if b = 1 then .rz else if b = 2 then .rd else .ru

/-- Does the magnitude round up, for floor `q` with remainder `r` of divisor `d`? -/
def Rnd.up (rm : Rnd) (neg : Bool) (q r d : Nat) : Bool :=
  match rm with
  | .rne => decide (d < 2 * r) || (2 * r == d && q % 2 == 1)
  | .rz => false
  | .rd => neg && r != 0
  | .ru => !neg && r != 0

/-- Round `n / d * 2 ^ s` to an integer magnitude; answers whether it was inexact. -/
def roundQuot (rm : Rnd) (neg : Bool) (n d : Nat) (s : Int) : Nat × Bool :=
  let n' := if 0 ≤ s then n * 2 ^ s.toNat else n
  let d' := if 0 ≤ s then d else d * 2 ^ (-s).toNat
  let q := n' / d'
  let r := n' % d'
  (if rm.up neg q r d' then q + 1 else q, r != 0)

/-- floor(log2(n / d)) for positive `n` and `d`. -/
def log2Quot (n d : Nat) : Int :=
  let k : Int := (Nat.log2 n : Int) - Nat.log2 d
  let ge := if 0 ≤ k then decide (d * 2 ^ k.toNat ≤ n) else decide (d ≤ n * 2 ^ (-k).toNat)
  if ge then k else k - 1

/-- What a result beyond the largest finite value delivers (R63). -/
def Fmt.overflow (f : Fmt) (rm : Rnd) (neg : Bool) : Nat :=
  let toInf := match rm with
    | .rne => true
    | .rz => false
    | .rd => neg
    | .ru => !neg
  f.signed neg (if toInf then f.infCode else f.maxCode)

/-- Whether an overflow under R63 would deliver an infinity. -/
def overflowsToInf (rm : Rnd) (neg : Bool) : Bool :=
  match rm with
  | .rne => true
  | .rz => false
  | .rd => neg
  | .ru => !neg

/-- Round the exact `n / d * 2 ^ e` once into a format: the code and the flags (R56, R57, R60, R63). -/
def Fmt.roundRat (f : Fmt) (rm : Rnd) (neg : Bool) (n d : Nat) (e : Int) : Nat × Flags :=
  if n = 0 then (f.signed neg 0, 0)
  else
    let lg := log2Quot n d + e
    let q := max f.qmin (lg - f.fw)
    let (k, inexact) := roundQuot rm neg n d (e - q)
    let tiny := decide (lg < f.qmin + f.fw)
    let (k, q) := if k = 2 ^ (f.fw + 1) then (2 ^ f.fw, q + 1) else (k, q)
    let code := if k < 2 ^ f.fw then k else (q - f.qmin).toNat * 2 ^ f.fw + k
    if f.maxCode < code then (f.overflow rm neg, fOF ||| fNX)
    else (f.signed neg code, if inexact then (if tiny then fUF ||| fNX else fNX) else 0)

/-- A value that is subnormal before rounding in a 16-bit or narrower arithmetic result is a zero (R58). -/
def Fmt.roundFlush (f : Fmt) (rm : Rnd) (neg : Bool) (m : Nat) (e : Int) : Nat × Flags :=
  if m ≠ 0 ∧ (Nat.log2 m : Int) + e < f.qmin + f.fw then (f.signed neg 0, fUF ||| fNX) else f.roundRat rm neg m 1 e

/-- Deliver the value of an arithmetic operation; `nv` marks an invalid operation. -/
def Fmt.deliver (f : Fmt) (rm : Rnd) (x : FV × Bool) : Nat × Flags :=
  match x with
  | (.nan, nv) => (f.nanCode, if nv then fNV else 0)
  | (.inf neg, _) => (f.signed neg f.infCode, 0)
  | (.num neg m e, _) => if f.width ≤ 16 then f.roundFlush rm neg m e else f.roundRat rm neg m 1 e

/-! ### Exact operations; the second component is an invalid operation (R60) -/

/-- The sum of two finite values as a signed integer at an exponent. -/
def signedAt (neg : Bool) (m : Nat) (sh : Nat) : Int := if neg then -((m * 2 ^ sh : Nat) : Int) else ((m * 2 ^ sh : Nat) : Int)

/-- a + b (R56): the sign of an exact zero is that of both terms when they are zeros of one sign, else + except under RD. -/
def addExact (rm : Rnd) (a b : FV) : FV × Bool :=
  match a, b with
  | .nan, _ => (.nan, false)
  | _, .nan => (.nan, false)
  | .inf x, .inf y => if x = y then (.inf x, false) else (.nan, true)
  | .inf x, _ => (.inf x, false)
  | _, .inf y => (.inf y, false)
  | .num x m e, .num y n f =>
    let lo := min e f
    let t := signedAt x m (e - lo).toNat + signedAt y n (f - lo).toNat
    if t = 0 then (if m = 0 && n = 0 && x == y then (.num x 0 lo, false) else (.num (rm == .rd) 0 lo, false))
    else (.num (decide (t < 0)) t.natAbs lo, false)

def FV.negate : FV → FV
  | .nan => .nan
  | .inf x => .inf !x
  | .num x m e => .num (!x) m e

/-- a × b. -/
def mulExact (a b : FV) : FV × Bool :=
  match a, b with
  | .nan, _ => (.nan, false)
  | _, .nan => (.nan, false)
  | .inf x, .inf y => (.inf (x != y), false)
  | .inf x, .num y n _ => if n = 0 then (.nan, true) else (.inf (x != y), false)
  | .num x m _, .inf y => if m = 0 then (.nan, true) else (.inf (x != y), false)
  | .num x m e, .num y n f => (.num (x != y) (m * n) (e + f), false)

/-- a × b + c; a NaN comes before every other condition (R60). -/
def fmaExact (rm : Rnd) (a b c : FV) : FV × Bool :=
  if a.isNan || b.isNan || c.isNan then (.nan, false)
  else match mulExact a b with
    | (.nan, nv) => (.nan, nv)
    | (p, _) => addExact rm p c

/-- a < b for values that are not NaN; with `zeros`, −0 counts below +0. -/
def FV.lt (zeros : Bool) (a b : FV) : Bool :=
  match a, b with
  | .nan, _ => false
  | _, .nan => false
  | .inf x, .inf y => x && !y
  | .inf x, .num _ _ _ => x
  | .num _ _ _, .inf y => !y
  | .num x m e, .num y n f =>
    let lo := min e f
    if m = 0 && n = 0 then zeros && x && !y
    else decide (signedAt x m (e - lo).toNat < signedAt y n (f - lo).toNat)

def Fmt.add (f : Fmt) (rm : Rnd) (a b : Nat) : Nat × Flags := f.deliver rm (addExact rm (f.value a) (f.value b))
def Fmt.mul (f : Fmt) (rm : Rnd) (a b : Nat) : Nat × Flags := f.deliver rm (mulExact (f.value a) (f.value b))
def Fmt.fma (f : Fmt) (rm : Rnd) (a b c : Nat) : Nat × Flags :=
  f.deliver rm (fmaExact rm (f.value a) (f.value b) (f.value c))

/-- An FP32 sum, 32 bits in and out. -/
def fadd32 (rm : Rnd) (a b : BitVec 32) : BitVec 32 × Flags :=
  let r := fp32.add rm a.toNat b.toNat
  (BitVec.ofNat 32 r.1, r.2)
def fmul32 (rm : Rnd) (a b : BitVec 32) : BitVec 32 × Flags :=
  let r := fp32.mul rm a.toNat b.toNat
  (BitVec.ofNat 32 r.1, r.2)

/-! ### Converts (R61 to R66) -/

/-- Round a value into a format by R61 to R64. -/
def Fmt.convert (f : Fmt) (rm : Rnd) (sat : Bool) (v : FV) : Nat × Flags :=
  match v with
  | .nan => (f.nanCode, 0)
  | .inf neg =>
    if f.noInf then (if sat then (f.signed neg f.maxCode, fNX) else (f.nanCode, fNV)) else (f.signed neg f.infCode, 0)
  | .num neg m e =>
    let r := f.roundRat rm neg m 1 e
    if f.noInf && r.2 &&& fOF != 0 && overflowsToInf rm neg then
      (if sat then (f.signed neg f.maxCode, r.2) else (f.nanCode, r.2))
    else r

/-- Range of an integer type. -/
def intMin (n : Nat) (signed : Bool) : Int := if signed then -((2 ^ (n - 1) : Nat) : Int) else 0
def intMax (n : Nat) (signed : Bool) : Int := if signed then ((2 ^ (n - 1) : Nat) : Int) - 1 else ((2 ^ n : Nat) : Int) - 1

/-- Float to integer of `n` bits (R65). -/
def toIntConvert (rm : Rnd) (n : Nat) (signed : Bool) (v : FV) : Nat × Flags :=
  match v with
  | .nan => (0, fNV)
  | .inf neg => (lowBits n (if neg then intMin n signed else intMax n signed), fNV)
  | .num neg m e =>
    let (k, inexact) := roundQuot rm neg m 1 e
    let t : Int := if neg then -(k : Int) else k
    if t < intMin n signed then (lowBits n (intMin n signed), fNV)
    else if intMax n signed < t then (lowBits n (intMax n signed), fNV)
    else (lowBits n t, if inexact then fNX else 0)

/-- An exact integer as a value; zero is +0. -/
def intFV (t : Int) : FV := .num (decide (t < 0)) t.natAbs 0

/-- The two terms of a PT2 code (R52), times 64. -/
def pt2Int (code : Nat) : Int :=
  let term := fun (v : Nat) =>
    let e := v % 8
    let t : Int := if e = 7 then 0 else ((2 ^ (6 - e) : Nat) : Int)
    if v / 8 % 2 = 1 then -t else t
  term (code / 16) + term (code % 16)

/-- The value of a PT2 code; an exact zero is +0. -/
def pt2FV (code : Nat) : FV :=
  let t := pt2Int code
  .num (decide (t < 0)) t.natAbs (-6)

/-! ### Types of vector instructions (R177) -/

/-- Width in bits of a type. -/
def tyWidth (ty : BitVec 4) : Nat :=
  match ty.toNat with
  | 0 | 4 | 11 | 12 | 13 => 8
  | 1 | 5 | 9 | 10 => 16
  | 3 | 7 => 64
  | _ => 32

/-- Floating-point format of a type. -/
def tyFmt (ty : BitVec 4) : Option Fmt :=
  match ty.toNat with
  | 8 => some fp32
  | 9 => some bf16
  | 10 => some fp16
  | 11 => some e4m3
  | 12 => some e5m2
  | _ => none

/-- The exact integer of an element. -/
def tyIntVal (ty : BitVec 4) (n : Nat) : Int := if tySigned ty then sextNat (tyWidth ty) n else (n % 2 ^ tyWidth ty : Nat)

/-- A value of a source type, exactly. -/
def tyFV (ty : BitVec 4) (n : Nat) : FV :=
  match tyFmt ty with
  | some f => f.value n
  | none => if ty = 13 then pt2FV n else intFV (tyIntVal ty n)

/-- Convert an element from one type to another (R61 to R66, R255); `sat` is that of R64 or of an integer narrowing. -/
def tyConvert (sty ty : BitVec 4) (rm : Rnd) (sat isat : Bool) (n : Nat) : Nat × Flags :=
  match tyFmt ty with
  | some f => f.convert rm sat (tyFV sty n)
  | none =>
    if tyInt sty then
      let t := tyIntVal sty n
      let t := if isat then max (intMin (tyWidth ty) (tySigned ty)) (min (intMax (tyWidth ty) (tySigned ty)) t) else t
      (lowBits (tyWidth ty) t, 0)
    else toIntConvert rm (tyWidth ty) (tySigned ty) (tyFV sty n)

end Sys2Proof.Machine
end

