-- ==== Sys2Proof/Machine/Accum.lean ====
section
/-! DEFINITION. The arithmetic of the array: the precision field (R67, R68), the entry of a chunk (R69 to R71), partials
(R72), the accumulator (R73, R74) and the way out of it (R77, R274). -/
namespace Sys2Proof.Machine

/-! ### The precision field (R67) -/

def pfFmt (p : BitVec 32) : Nat := (p.extractLsb' 28 4).toNat
def pfCont (p : BitVec 32) : Nat := (p.extractLsb' 25 3).toNat
def pfWidth (p : BitVec 32) : Nat := (p.extractLsb' 20 5).toNat
def pfSgn (p : BitVec 32) : Bool := p.getLsbD 19
def pfFrac (p : BitVec 32) : Nat := (p.extractLsb' 14 5).toNat
def pfSmode (p : BitVec 32) : Nat := (p.extractLsb' 12 2).toNat
def pfSslot (p : BitVec 32) : Nat := (p.extractLsb' 6 6).toNat
/-- Bits of an element in storage. -/
def pfBits (p : BitVec 32) : Nat := 2 ^ pfCont p
/-- Scaled by blocks (R54). -/
def pfScaled (p : BitVec 32) : Bool := pfSmode p != 0

/-- The format of a floating-point format code (R53). -/
def codeFmt (c : Nat) : Option Fmt :=
  match c with
  | 1 => some e4m3
  | 2 => some e5m2
  | 3 => some fp16
  | 4 => some bf16
  | 6 => some fp32
  | _ => none

/-- R68 for slot `slot`, as the A operand or not. -/
def precBad (p : BitVec 32) (slot : Nat) (isA : Bool) : Bool :=
  let f := pfFmt p
  let w := pfWidth p
  decide (5 < f) || w == 0 || decide (16 < w) || decide (4 < pfCont p) || pfSmode p == 3
    || (pfScaled p && pfSslot p == slot)
    || match f with
       | 0 => decide (pfBits p < w) || (pfSgn p && w == 1)
       | 1 | 2 => pfCont p != 3 || decide (w < 2) || !pfSgn p || pfFrac p != 0
       | 5 => isA || pfCont p != 3 || w != 2 || !pfSgn p || pfFrac p != 0
       | _ => pfCont p != 4 || decide (w < 2) || !pfSgn p || pfFrac p != 0

/-! ### Entry to the array (R69, R70) -/

/-- A row or column of a chunk in the array: 64 integers sharing an exponent. -/
structure Chunk where
  bad : Bool := false
  ms : List Int := []
  x : Int := 0
  deriving DecidableEq, Repr

/-- Floor of log2 of the magnitude of a finite non-zero value. -/
def FV.floorLog (v : FV) : Option Int :=
  match v with
  | .num _ m e => if m = 0 then none else some ((Nat.log2 m : Int) + e)
  | _ => none

def maxInt : List Int → Option Int
  | [] => none
  | a :: as => some ((maxInt as).elim a (max a))

/-- Align a value to an exponent, ties to even, and clamp a positive one (R69). -/
def alignTo (w : Nat) (x : Int) (v : FV) : Int :=
  match v with
  | .num neg m e =>
    let k := (roundQuot .rne neg m 1 (e - x)).1
    let t : Int := if neg then -(k : Int) else k
    min t (((2 ^ (w - 1) : Nat) : Int) - 1)
  | _ => 0

/-- R69: the elements of one row or column enter the array. -/
def enterChunk (p : BitVec 32) (xs : List Nat) : Chunk :=
  match codeFmt (pfFmt p) with
  | some f =>
    let vs := xs.map f.value
    let bad := vs.any fun v => match v with
      | .num _ _ _ => false
      | _ => true
    let x := (maxInt (vs.filterMap FV.floorLog)).getD 0 - ((pfWidth p : Int) - 2)
    { bad := bad, ms := vs.map (alignTo (pfWidth p) x), x := x }
  | none =>
    if pfFmt p = 5 then { ms := xs.map pt2Int, x := -6 }
    else
      let w := pfWidth p
      { ms := xs.map fun n => if pfSgn p then sextNat w n else ((n % 2 ^ w : Nat) : Int), x := -(pfFrac p : Int) }

/-- `e4m3_int` of R72; `none` for a NaN scale (R71). -/
def scaleInt (code : Nat) : Option (Int × Int) :=
  match e4m3.value code with
  | .num neg m e => some (signedAt neg m 0, e)
  | _ => none

/-- The exact partial of a chunk for one entry (R72): bad, P and Ep. Scales are `some` where the operand is scaled. -/
def partialOf (a b : Chunk) (sa sb : Option Nat) : Bool × Int × Int :=
  let p := (a.ms.zip b.ms).foldl (fun t q => t + q.1 * q.2) 0
  let use := fun (r : Bool × Int × Int) (s : Option Nat) => match s with
    | none => r
    | some code => match scaleInt code with
      | none => (true, r.2)
      | some (q, e) => (r.1, r.2.1 * q, r.2.2 + e)
  use (use (a.bad || b.bad, p, a.x + b.x) sa) sb

/-! ### The accumulator (R73, R74) -/

/-- An exact integer times a power of two, rounded to an integer with ties to even. -/
def roundAt (s : Int) (sh : Int) : Int :=
  let k := (roundQuot .rne false s.natAbs 1 sh).1
  if s < 0 then -(k : Int) else k

/-- R74. -/
def AccE.addPartial (a : AccE) (bad : Bool) (p ep : Int) : AccE :=
  let a := if bad then { a with inv := true } else a
  if a.inv || a.ovf then a
  else
    let em := max a.e ep
    let t := roundAt a.s (a.e - em) + roundAt p (ep - em)
    let hi : Int := ((2 ^ 63 : Nat) : Int) - 1
    let lo : Int := -((2 ^ 63 : Nat) : Int)
    if hi < t then { a with s := hi, ovf := true, e := em }
    else if t < lo then { a with s := lo, ovf := true, e := em }
    else { a with s := t, e := em }

/-- Key of an accumulator entry in `Shared.acc`. -/
def accKey (bank : Bool) (row col : Nat) : Nat := (128 * bank.toNat + row) * 128 + col

def Shared.accOf (x : Shared) (bank : Bool) (row col : Nat) : AccE := Sparse.get {} x.acc (accKey bank row col)
def Shared.setAcc (x : Shared) (bank : Bool) (row col : Nat) (a : AccE) : Shared :=
  { x with acc := Sparse.set {} x.acc (accKey bank row col) a }

def Shared.full (x : Shared) (bank : Bool) : Bool := if bank then x.full1 else x.full0
def Shared.setFull (x : Shared) (bank v : Bool) : Shared := if bank then { x with full1 := v } else { x with full0 := v }
def Shared.dirty (x : Shared) (bank : Bool) : Bool := if bank then x.dirty1 else x.dirty0
def Shared.setDirty (x : Shared) (bank v : Bool) : Shared := if bank then { x with dirty1 := v } else { x with dirty0 := v }
def Shared.tensorA (x : Shared) (bank : Bool) : BitVec 32 := if bank then x.ta1 else x.ta0
def Shared.tensorB (x : Shared) (bank : Bool) : BitVec 32 := if bank then x.tb1 else x.tb0
def Shared.setTensors (x : Shared) (bank : Bool) (a b : BitVec 32) : Shared :=
  if bank then { x with ta1 := a, tb1 := b } else { x with ta0 := a, tb0 := b }

/-- R77, with the flags of R60 and R78. -/
def AccE.toFp32 (a : AccE) (ta tb : BitVec 32) : BitVec 32 × Flags :=
  let (f, fl) : BitVec 32 × Flags :=
    if a.inv then (0x7FC00000, fNV)
    else if a.ovf then (if a.s < 0 then 0xFF800000 else 0x7F800000, fOF ||| fNX)
    else
      let r := fp32.roundRat .rne (decide (a.s < 0)) a.s.natAbs 1 a.e
      (BitVec.ofNat 32 r.1, r.2)
  let t := fmul32 .rne ta tb
  let r := fmul32 .rne f t.1
  (r.1, fl ||| t.2 ||| r.2)

/-- `exact` of R274. -/
def accExact (x : BitVec 32) : AccE :=
  match fp32.value x.toNat with
  | .nan => { s := 0, e := -512, inv := true }
  | .inf neg => { s := signedAt neg (2 ^ 63 - 1) 0, e := -512, ovf := true }
  | .num neg m e => if m = 0 then {} else { s := signedAt neg m 0, e := e }

end Sys2Proof.Machine
end

