-- ==== Sys2Proof/Machine/Queues.lean ====
section
/-! DEFINITION. Vault queues as every user of them sees them: queue control words (R365) and the elements they name. -/
namespace Sys2Proof.Machine

def Team.qw (t : Team) (n : Nat) : QWord := Sparse.get {} t.qws n
def Team.setQw (t : Team) (n : Nat) (q : QWord) : Team := { t with qws := Sparse.set {} t.qws n q }

/-- Bytes of an element. -/
def QWord.size (q : QWord) : Nat := 4 * 2 ^ q.esz.toNat
def QWord.depth (q : QWord) : Nat := 2 ^ q.logd.toNat
/-- Occupancy. -/
def QWord.count (q : QWord) : Nat := (q.tail - q.head).toNat
/-- Vault offset of the element with a free-running number. -/
def QWord.place (q : QWord) (c : BitVec 32) : Nat := q.base.toNat + c.toNat % q.depth * q.size

/-- The fields of two words as QINIT takes them; `none` when R366 refuses them. -/
def qwordOf (w0 w1 : Word) (valloc : Nat) : Option QWord :=
  let q : QWord :=
    { v := bitAt w0 63, esz := BitVec.ofNat 3 (fld w0 60 3), logd := BitVec.ofNat 5 (fld w0 32 5),
      base := BitVec.ofNat 23 (fld w0 0 23), head := BitVec.ofNat 32 (fld w1 32 32), tail := BitVec.ofNat 32 (fld w1 0 32) }
  if fld w0 37 23 != 0 || fld w0 23 9 != 0 || decide (20 < q.logd.toNat) || q.base.toNat % 64 != 0
      || decide (valloc * 65536 < q.base.toNat + q.depth * q.size) || decide (q.depth < q.count) then none
  else some q

/-- The two words of a queue control word. -/
def QWord.words (q : QWord) : List Word :=
  [wd (at_ q.v.toNat 63 + at_ q.esz.toNat 60 + at_ q.logd.toNat 32 + q.base.toNat),
   wd (at_ q.head.toNat 32 + q.tail.toNat)]

/-- Append an element, padded with zeros to its size. -/
def Team.qPush (t : Team) (n : Nat) (bs : List Byte) : Team :=
  let q := t.qw n
  (t.vaultWr (q.place q.tail) (bs ++ zeros (q.size - bs.length))).setQw n { q with tail := q.tail + 1 }

/-- Bytes of the element at the head; `none` where a vault word of it is poisoned (R323). -/
def Team.qHead (t : Team) (n : Nat) : Option (List Byte) := t.vaultRd ((t.qw n).place (t.qw n).head) (t.qw n).size

/-- Remove elements at the head. -/
def Team.qDrop (t : Team) (n k : Nat) : Team :=
  let q := t.qw n
  t.setQw n { q with head := q.head + BitVec.ofNat 32 k }

/-- A valid queue word, or `QW_INVALID`. -/
def validQw (n : Nat) : M QWord := do
  let q := (<- team).qw n
  need q.v .qwInvalid
  pure q

end Sys2Proof.Machine
end

