-- ==== Sys2Proof/Machine/Jobs.lean ====
section
/-! DEFINITION. Job cards as they are issued: job blocks and their checks (R345 to R349, R360), footprints and their edges
(R351, R352), FOOT (R370), and the thirteen job instructions. -/
namespace Sys2Proof.Machine

/-! ### Copy-class opcodes (R185) -/

def jCP : Nat := 0x00
def jCPC : Nat := 0x01
def jCPG : Nat := 0x02
def jCPS : Nat := 0x03
def jCPK : Nat := 0x04
def jPREF : Nat := 0x09
def jPIN : Nat := 0x0A
def jUNPIN : Nat := 0x0B
def jKVC : Nat := 0x0C
def jRST : Nat := 0x0D
def jRLD : Nat := 0x0E
def jLSEND : Nat := 0x0F
def jLRADD : Nat := 0x10

/-! ### Job blocks (R347, R348) -/

def jSh (b : List Word) : Nat := fld (nth b 0) 52 12
def jSoff (b : List Word) : Nat := fld (nth b 0) 0 48
def jDh (b : List Word) : Nat := fld (nth b 1) 52 12
def jDoff (b : List Word) : Nat := fld (nth b 1) 0 48
def jCount (b : List Word) : Nat := fld (nth b 2) 32 32
def jRowlen (b : List Word) : Nat := fld (nth b 2) 0 32
def jSs (b : List Word) : Nat := fld (nth b 3) 32 32
def jDs (b : List Word) : Nat := fld (nth b 3) 0 32
def jIh (b : List Word) : Nat := fld (nth b 4) 52 12
def jIoff (b : List Word) : Nat := fld (nth b 4) 0 48
def jEv (b : List Word) : Bool := bitAt (nth b 5) 63
def jTag (b : List Word) : Nat := fld (nth b 5) 0 32
def jLh (b : List Word) : Nat := fld (nth b 6) 52 12
def jLoff (b : List Word) : Nat := fld (nth b 6) 0 48
def jDraft (b : List Word) : Nat := fld (nth b 7) 0 32
/-- LSEND's and LRADD's X0 (R348). -/
def jPeer (b : List Word) : Nat := fld (nth b 4) 54 10
def jPortCell (b : List Word) : Nat := 64 * fld (nth b 4) 52 2 + fld (nth b 4) 46 6
def jPort (b : List Word) : Nat := fld (nth b 4) 40 6
def jFmt (b : List Word) : Nat := fld (nth b 4) 32 4

/-- The indices are popped from a queue (R348). -/
def jQ (op : Nat) (md : BitVec 3) : Bool := (op == jCPG || op == jCPS) && md.getLsbD 1

/-- MOD bits of an instruction (R348). -/
def jMods (op : Nat) : BitVec 3 :=
  if op = jCPG then 3 else if op = jCPS then 2 else if op = jPREF ∨ op = jPIN ∨ op = jUNPIN ∨ op = jKVC then 1 else 0

/-- RES0 bits of a block (R347, R348). PIN and UNPIN name X1 and X2 under .w only. -/
def jRes (op : Nat) (md : BitVec 3) (b : List Word) : Bool :=
  let hasS := op != jLRADD
  let hasD := op != jLSEND && op != jPREF && op != jPIN && op != jUNPIN
  let x0 := nth b 4
  (if hasS then resSet (nth b 0) [(48, 4)] else nth b 0 != 0)
  || (if hasD then resSet (nth b 1) [(48, 4)] else nth b 1 != 0)
  || resSet (nth b 5) [(32, 31)]
  || (if op = jCPG ∨ op = jCPS ∨ op = jKVC then resSet x0 [(48, 4)]
      else if op = jCPK then resSet x0 [(14, 50), (6, 2)]
      else if op = jLSEND then resSet x0 [(0, 40)]
      else if op = jLRADD then resSet x0 [(46, 18), (36, 4), (0, 32)]
      else x0 != 0)
  || (if op = jKVC then resSet (nth b 6) [(48, 4)] || resSet (nth b 7) [(32, 32)]
      else if (op = jPIN ∨ op = jUNPIN) ∧ md.getLsbD 0 then false
      else nth b 6 != 0 || nth b 7 != 0)

/-- The precision field of a weight precision word (R360, R67). -/
def weightPf (x : Word) : BitVec 32 :=
  BitVec.ofNat 32 (at_ (fld x 28 4) 28 + at_ (fld x 25 3) 25 + at_ (fld x 0 5) 20 + at_ (fld x 24 1) 19 + at_ (fld x 19 5) 14
    + at_ (fld x 17 2) 12)

/-- K of columns of `len` bytes (R360): `none` when it is not a whole multiple of 64. -/
def weightK (x : Word) (len : Nat) : Option Nat :=
  let c := 2 ^ fld x 25 3
  let top := if fld x 17 2 = 0 then 8 * len else 64 * len
  let den := if fld x 17 2 = 0 then c else 8 * c + 1
  if top % den = 0 ∧ top / den % 64 = 0 ∧ top / den ≠ 0 then some (top / den) else none

/-- X2 of PIN.w is refused (R349). -/
def weightBad (x : Word) (len : Nat) : Bool :=
  resSet x [(6, 11)] || bitAt x 5 != (fld x 28 4 == 5) || fld x 0 5 == 0 || decide (16 < fld x 0 5)
    || precBad (weightPf x) 64 false || (weightK x len).isNone

/-- R349: a card that is not queued. -/
def jobBad (op : Nat) (md : BitVec 3) (qw : Nat) (b : List Word) (t : Team) : Bool :=
  let q := t.qw qw
  jRes op md b || (md &&& ~~~(jMods op)) != 0 || (!jQ op md && qw != 0)
    || jRowlen b == 0 || (jCount b == 0 && op != jKVC)
    || (op == jCPC && (jSoff b % 64 != 0 || jDoff b % 64 != 0 || jRowlen b % 64 != 0 || jSs b % 64 != 0 || jDs b % 64 != 0))
    || (op == jLRADD && jFmt b != 0 && jFmt b != 4 && jFmt b != 6)
    || (jQ op md && (!q.v || decide (1 < q.esz.toNat)))
    || (op == jPIN && md.getLsbD 0 && weightBad (nth b 7) (jRowlen b))

/-! ### Footprints (R351, R352) -/

/-- Some run of a region touches `len` bytes at `lo`. -/
def Region.hits (r : Region) (lo len : Nat) : Bool :=
  let j := if lo < r.lo + r.len then 0 else if r.stride = 0 then r.n else (lo - r.lo - r.len) / r.stride + 1
  len != 0 && r.len != 0 && decide (j < r.n) && decide (r.lo + j * r.stride < lo + len)

/-- Two regions share a byte: the one of fewer runs is gone through run by run. -/
def Region.overlaps (x y : Region) : Bool :=
  if x.n ≤ y.n then (List.range x.n).any fun i => y.hits (x.lo + i * x.stride) x.len
  else (List.range y.n).any fun i => x.hits (y.lo + i * y.stride) y.len

def anyOverlap (xs ys : List Region) : Bool := xs.any fun x => ys.any x.overlaps

/-- A later card has an edge to an earlier one (R352). -/
def Footprint.edge (late early : Footprint) : Bool :=
  anyOverlap late.reads early.writes || anyOverlap late.writes early.reads || anyOverlap late.writes early.writes

/-- Rows through a handle; nothing when the handle is not valid. -/
def State.rowRegion (s : State) (a h off len stride n : Nat) : List Region :=
  match s.handle? a h with
  | some e => [{ lo := e.flat off, len := len, n := n, stride := stride }]
  | none => []

/-- The whole window of a handle. -/
def State.windowRegion (s : State) (a h : Nat) : List Region :=
  match s.handle? a h with
  | some e => [{ lo := e.flat 0, len := e.bound }]
  | none => []

/-- Bytes of a destination row of LRADD (R449). -/
def lraddRow (b : List Word) : Nat := if jFmt b = 4 then 2 * jRowlen b else jRowlen b

/-- The footprint that a block implies (R351). -/
def State.implied (s : State) (a op : Nat) (md : BitVec 3) (b : List Word) : Footprint :=
  let src := s.rowRegion a (jSh b) (jSoff b) (jRowlen b) (jSs b) (jCount b)
  let dst := s.rowRegion a (jDh b) (jDoff b) (jRowlen b) (jDs b) (jCount b)
  let list := if jQ op md then [] else s.rowRegion a (jIh b) (jIoff b) (4 * jCount b) 0 1
  if op = jCPG then { reads := s.windowRegion a (jSh b) ++ list, writes := dst }
  else if op = jCPS then { reads := src ++ list, writes := s.windowRegion a (jDh b) }
  else if op = jKVC then
    let len := s.rowRegion a (jLh b) (jLoff b) 8 0 1
    let draft := s.windowRegion a (jSh b)
    { reads := draft ++ list ++ len,
      writes := s.windowRegion a (jDh b) ++ len ++ (if md.getLsbD 0 then draft else []) }
  else if op = jLRADD then
    let d := s.rowRegion a (jDh b) (jDoff b) (lraddRow b) (jDs b) (jCount b)
    { reads := d, writes := d }
  else if op = jLSEND ∨ op = jPREF ∨ op = jPIN ∨ op = jUNPIN then { reads := src }
  else { reads := src, writes := dst }

/-- The footprint that FOOT declared for a stream, and the stream without it. -/
def Team.footOf (t : Team) (st : Stream) : Option Footprint := if st == .copy then t.footC else t.footS
def Team.setFoot (t : Team) (st : Stream) (f : Option Footprint) : Team :=
  if st == .copy then { t with footC := f } else { t with footS := f }

/-! ### Issue (R345 to R350) -/

/-- The 64 bytes of a block at a vault offset (R346). -/
def vaultBlock (off : Nat) : M (List Word) := do
  need (off % 64 == 0) .vaultAlign { addr := off }
  inVault off 64
  pure (bytesWords 8 (<- vaultLoad off 64))

/-- RST, RLD, LSEND and LRADD are absent without a fabric (R4). -/
def jRemote (op : Nat) : Bool := op == jRST || op == jRLD || op == jLSEND || op == jLRADD

/-- Place a job card (R345, R346, R349). A pass cell's epilogue has no handle table (R448). -/
def issueJob (op : Nat) (c : C64) (lit : Option (BitVec 32)) : M Unit := do
  waitFor (decide ((<- team).cards.length < 64))
  let off <- blockOffset c lit
  let b <- vaultBlock off
  let t <- team
  need (!jobBad op c.md c.qw.toNat b t) .jobInvalid { addr := off }
  need t.epilogue.isNone .handleInvalid
  let s <- get
  let cell <- theCell
  let st <- theStream
  let wsem := if c.wv = 1 then some c.wsem.toNat else none
  let card : Card :=
    { seq := t.jobSeq, order := (s.cell cell).nextCard, op := op, stream := st, block := b, wsem := wsem,
      ssem := if c.sv = 1 then some c.ssem.toNat else none, md := c.md, qw := c.qw.toNat,
      foot := (t.footOf st).getD (s.implied t.asid op c.md b) }
  modify fun s => s.modCell cell fun x => { x with nextCard := x.nextCard + 1 }
  modTeam fun t =>
    let t := ({ t with cards := t.cards ++ [card], jobSeq := (t.jobSeq + 1) % 2 ^ 32 } : Team).setFoot st none
    match wsem with
    | some i => ({ t with waiters := t.waiters ++ [(i, .card card.seq, 1)] } : Team).serveSem i 65
    | none => t

/-- A copy-class instruction of the strand or the copy stream, in its 64-bit or 96-bit form. -/
def copyOp (lit : Option (BitVec 32)) (body : M Unit) (s : State) : Res :=
  sharedOp (if lit.isSome then 12 else 8) 0 [.strand, .copy] body s

/-- A copy-class instruction that the fabric makes possible (R4). -/
def fabricOp (lit : Option (BitVec 32)) (body : M Unit) (s : State) : Res := gatedOp State.hasFabric (copyOp lit body) s

/-- CP (R345, R356). -/
def execCp (x : C64) (s : State) : Res := copyOp none (issueJob jCP x none) s
def execCp96 (x : C96) (s : State) : Res := copyOp (some x.lit) (issueJob jCP x.c (some x.lit)) s
/-- CPC (R345, R357). -/
def execCpc (x : C64) (s : State) : Res := copyOp none (issueJob jCPC x none) s
def execCpc96 (x : C96) (s : State) : Res := copyOp (some x.lit) (issueJob jCPC x.c (some x.lit)) s
/-- CPG (R345, R358). -/
def execCpg (x : C64) (s : State) : Res := copyOp none (issueJob jCPG x none) s
def execCpg96 (x : C96) (s : State) : Res := copyOp (some x.lit) (issueJob jCPG x.c (some x.lit)) s
/-- CPS (R345, R358). -/
def execCps (x : C64) (s : State) : Res := copyOp none (issueJob jCPS x none) s
def execCps96 (x : C96) (s : State) : Res := copyOp (some x.lit) (issueJob jCPS x.c (some x.lit)) s
/-- CPK (R345, R356). -/
def execCpk (x : C64) (s : State) : Res := copyOp none (issueJob jCPK x none) s
def execCpk96 (x : C96) (s : State) : Res := copyOp (some x.lit) (issueJob jCPK x.c (some x.lit)) s
/-- PREF (R345, R359). -/
def execPref (x : C64) (s : State) : Res := copyOp none (issueJob jPREF x none) s
def execPref96 (x : C96) (s : State) : Res := copyOp (some x.lit) (issueJob jPREF x.c (some x.lit)) s
/-- PIN (R345, R360). -/
def execPin (x : C64) (s : State) : Res := copyOp none (issueJob jPIN x none) s
def execPin96 (x : C96) (s : State) : Res := copyOp (some x.lit) (issueJob jPIN x.c (some x.lit)) s
/-- UNPIN (R345, R361). -/
def execUnpin (x : C64) (s : State) : Res := copyOp none (issueJob jUNPIN x none) s
def execUnpin96 (x : C96) (s : State) : Res := copyOp (some x.lit) (issueJob jUNPIN x.c (some x.lit)) s
/-- KVCOMMIT (R345, R362). -/
def execKvcommit (x : C64) (s : State) : Res := copyOp none (issueJob jKVC x none) s
def execKvcommit96 (x : C96) (s : State) : Res := copyOp (some x.lit) (issueJob jKVC x.c (some x.lit)) s
/-- RST (R345, R363). -/
def execRst (x : C64) (s : State) : Res := fabricOp none (issueJob jRST x none) s
def execRst96 (x : C96) (s : State) : Res := fabricOp (some x.lit) (issueJob jRST x.c (some x.lit)) s
/-- RLD (R345, R363). -/
def execRld (x : C64) (s : State) : Res := fabricOp none (issueJob jRLD x none) s
def execRld96 (x : C96) (s : State) : Res := fabricOp (some x.lit) (issueJob jRLD x.c (some x.lit)) s
/-- LSEND (R345, R364). -/
def execLsend (x : C64) (s : State) : Res := fabricOp none (issueJob jLSEND x none) s
def execLsend96 (x : C96) (s : State) : Res := fabricOp (some x.lit) (issueJob jLSEND x.c (some x.lit)) s
/-- LRADD (R345, R364). -/
def execLradd (x : C64) (s : State) : Res := fabricOp none (issueJob jLRADD x none) s
def execLradd96 (x : C96) (s : State) : Res := fabricOp (some x.lit) (issueJob jLRADD x.c (some x.lit)) s

/-! ### FOOT (R370) -/

/-- A region of a footprint block: its handle and offset word, and its LEN. Checks 1 and 2 of R27. -/
def footRegion (a : Nat) (w len : Word) : M (List Region) := do
  if len = 0 then pure []
  else
    let (fa, _) <- handleAt a (fld w 52 12) (fld w 0 48) len.toNat false
    pure [{ lo := fa, len := len.toNat }]

/-- FOOT's effect. -/
def doFoot (c : C64) (lit : Option (BitVec 32)) : M Unit := do
  let off <- blockOffset c lit
  let b <- vaultBlock off
  let w := fun i => nth b i
  need (!([0, 2, 4].any fun i => resSet (w i) [(48, 4)] || resSet (w (i + 1)) [(48, 16)]) && w 6 == 0 && w 7 == 0) .illRes
  let a := (<- team).asid
  let r0 <- footRegion a (w 0) (w 1)
  let r1 <- footRegion a (w 2) (w 3)
  let wr <- footRegion a (w 4) (w 5)
  let st <- theStream
  modTeam fun t => t.setFoot st (some { reads := r0 ++ r1, writes := wr })

/-- FOOT (R370). -/
def execFoot (x : C64) (s : State) : Res := copyOp none (doFoot x none) s
def execFoot96 (x : C96) (s : State) : Res := copyOp (some x.lit) (doFoot x.c (some x.lit)) s

end Sys2Proof.Machine
end

