-- ==== Sys2Proof/Machine/JobRun.lean ====
section
/-! DEFINITION. How a job card runs (R350, R353 to R364): one unit of its work at a time, until it is performed or waits. -/
namespace Sys2Proof.Machine

/-! ### Cards in place -/

def Team.card (t : Team) (q : Nat) : Option Card := t.cards.find? fun c => c.seq == q
def Team.modCard (t : Team) (q : Nat) (f : Card → Card) : Team :=
  { t with cards := t.cards.map fun c => if c.seq == q then f c else c }
def State.cardAt (s : State) (l : Loc) (q : Nat) : Option Card := (s.teamAt l).bind fun t => t.card q
def State.modCard (s : State) (l : Loc) (q : Nat) (f : Card → Card) : State := s.modTeam l fun t => t.modCard q f

/-- The cards of both stages of a cell. -/
def State.cellCards (s : State) (c : Nat) : List (Loc × Card) :=
  [false, true].flatMap fun b =>
    match (s.cell c).team b with
    | some t => t.cards.map fun k => (Loc.here c b, k)
    | none => []

/-- A card has not completed: what waits for its record has completed in every other respect (R223). -/
def Card.live (c : Card) : Bool := c.st != .recording

/-- Who accesses for a team. -/
def State.whoAt (s : State) (l : Loc) : Who :=
  let t := (s.teamAt l).getD {}
  match l with
  | .here c b => { asid := t.asid, cell := c, stage := b, key := (t.grid, t.no, 0) }
  | .kept _ => { asid := t.asid, key := (t.grid, t.no, 0) }

/-- Who a card's accesses are made for: the fabric tells cards apart, and those that the copy stream issued (R404). -/
def State.cardWho (s : State) (l : Loc) (c : Card) : Who :=
  let w := s.whoAt l
  { w with key := (w.key.1, w.key.2.1, 4 + 2 * c.seq + (c.stream == .copy).toNat) }

/-- A failure in row `i` of a job names it (R353). -/
def inRow {α : Type} (i : Nat) (m : M α) : M α := do
  match <- attempt m with
  | .ok x => pure x
  | .error (k, z) => trap k { z with detail := i + 1 }

/-! ### Spans and rows (R27, R353) -/

/-- The first row that a window does not hold. -/
def HEntry.firstOut (e : HEntry) (off stride len : Nat) : Nat :=
  let lim := min e.bound (2 ^ 52 - e.base)
  if lim < off + len then 0 else if stride = 0 then 0 else (lim - off - len) / stride + 1

/-- R27 on a whole span: its flat address and ordering kind. A failing row is told in DETAIL, plus 1. -/
def spanAt (a h off stride len n : Nat) (write : Bool) : M (Nat × Nat) := do
  match (<- get).handle? a h with
  | none => trap .handleInvalid
  | some e =>
    need (e.fits off ((n - 1) * stride + len)) .handleBound { detail := e.firstOut off stride len + 1 }
    need (!write || !e.wp) .handleRo
    pure (e.flat off, e.ord)

/-- Bytes of the next piece of a transfer: at most 2 KiB, within one 64 KiB unit of either side. -/
def pieceLen (left sf df : Nat) : Nat := min (min 2048 left) (min (65536 - sf % 65536) (65536 - df % 65536))

/-- A card past `n` more bytes of its row of `len` bytes. -/
def Card.moved (c : Card) (n len : Nat) : Card :=
  if c.off + n < len then { c with off := c.off + n, bytes := c.bytes + n }
  else { c with off := 0, row := c.row + 1, bytes := c.bytes + n }

/-- A card past a whole row. -/
def Card.rowDone (c : Card) (bytes : Nat) : Card := { c with row := c.row + 1, off := 0, cur := none, bytes := c.bytes + bytes }

/-- Performed once its rows are done. -/
def Card.perform (c : Card) (st : Status := .ok) : Card := { c with st := .performed, status := st }
def Card.endAt (c : Card) (n : Nat) (st : Status := .ok) : Card := if n ≤ c.row then c.perform st else c

/-! ### CP and CPK (R356) -/

/-- The key slots of CPK in confidential mode: 0x3F is the page's own. -/
def keysOf (s : State) (c : Card) : Option Nat × Option Nat :=
  let slot := fun k => if k = 0x3F then none else some k
  if c.op = jCPK ∧ s.boot.on = true then (slot (fld (nth c.block 4) 0 6), slot (fld (nth c.block 4) 8 6)) else (none, none)

/-- The flat addresses of rows. -/
def rowsAt (fa stride len n : Nat) : List (Nat × Nat) := (List.range n).map fun i => (fa + i * stride, len)

/-- The slots that CPK names are the context's (R356). -/
def keysOk (w : Who) (ks : Option Nat × Option Nat) : M Unit := do
  let s <- get
  need ((ks.1.all (s.keyOk w.asid)) && (ks.2.all (s.keyOk w.asid))) .keyNone

/-- The destinations of a run, split at 64 KiB units, each with its place and length. -/
def destsOf (w : Who) (write : Bool) (key : Option Nat) (fa n : Nat) : M (List (Nat × Nat × Dest)) :=
  (parts fa n).mapM fun (a, k) => do
    let d <- destOf w a k write key
    pure (a, k, d)

/-- Every row at once: what a destination receives was read before any byte was written. -/
def copyAll (w : Who) (c : Card) (sf df ord : Nat) (ks : Option Nat × Option Nat) : M Card := do
  let b := c.block
  let n := jCount b
  let len := jRowlen b
  let src <- (List.range n).mapM fun i => inRow i (destsOf w false ks.1 (sf + i * jSs b) len)
  let dst <- (List.range n).mapM fun i => inRow i (destsOf w true ks.2 (df + i * jDs b) len)
  let got <- src.zipIdx.mapM fun (ds, i) => inRow i do
    pure (<- ds.mapM fun (fa, k, d) => readDest w fa d k).flatten
  dst.flatten.forM fun (_, k, d) => readyDest w d ord k
  (dst.zip got).forM fun (ds, bs) => do
    let _ <- ds.foldlM (fun (rest : List Byte) (_, k, d) => do
      writeDest w d ord false (rest.take k)
      pure (rest.drop k)) bs
  pure { c with row := n, bytes := n * len, st := .performed }

/-- One unit of CP or CPK. -/
def unitCopy (w : Who) (c : Card) : M Card := do
  let b := c.block
  let (sf, sord) <- spanAt w.asid (jSh b) (jSoff b) (jSs b) (jRowlen b) (jCount b) false
  let (df, ord) <- spanAt w.asid (jDh b) (jDoff b) (jDs b) (jRowlen b) (jCount b) true
  let ks := keysOf (<- get) c
  keysOk w ks
  let rs : Region := { lo := sf, len := jRowlen b, n := jCount b, stride := jSs b }
  let rd : Region := { lo := df, len := jRowlen b, n := jCount b, stride := jDs b }
  if rs.overlaps rd then copyAll w c sf df ord ks
  else
    let a := sf + c.row * jSs b + c.off
    let z := df + c.row * jDs b + c.off
    let n := pieceLen (jRowlen b - c.off) a z
    let sd <- destOf w a n false ks.1
    let dd <- destOf w z n true ks.2
    let bs <- readDest w a sd n sord
    writeDest w dd ord false bs
    pure ((c.moved n (jRowlen b)).endAt (jCount b))

/-! ### RST and RLD (R363) -/

/-- A translated address whose page is a peer's. -/
def peerPage (w : Who) (fa : Nat) : M Bool := do
  let path := fa / 2 ^ 52 % 16
  if path == 0 || path == 4 then
    match <- lookupLeaf w.cell w.asid fa with
    | some leaf => pure (leafPeer leaf != 1023)
    | none => pure true
  else pure false

/-- Every row lies on peer pages, or the job completes with `PATH_KIND` before any byte moves. -/
def allPeer (w : Who) (fa stride len n : Nat) : M Unit :=
  (List.range n).forM fun i =>
    (parts (fa + i * stride) len).forM fun (a, _) => do
      need (<- peerPage w a) .pathKind { detail := i + 1 }

/-- One unit of RST or RLD. -/
def unitRemote (w : Who) (l : Loc) (c : Card) : M Card := do
  let b := c.block
  let (sf, sord) <- spanAt w.asid (jSh b) (jSoff b) (jSs b) (jRowlen b) (jCount b) false
  let (df, ord) <- spanAt w.asid (jDh b) (jDoff b) (jDs b) (jRowlen b) (jCount b) true
  if !c.checked then
    if c.op = jRST then allPeer w df (jDs b) (jRowlen b) (jCount b) else allPeer w sf (jSs b) (jRowlen b) (jCount b)
    pure { c with checked := true }
  else
    let a := sf + c.row * jSs b + c.off
    let z := df + c.row * jDs b + c.off
    let n := pieceLen (jRowlen b - c.off) a z
    let sd <- destOf w a n false
    let dd <- destOf w z n true
    let bs <- readDest w a sd n sord
    let ref := ((<- get).teamAt l).map Team.ref
    writeDest w dd ord false bs (if c.op = jRST then ref else none)
    pure ((c.moved n (jRowlen b)).endAt (jCount b) (if c.op = jRST then .sent else .ok))

/-! ### CPG and CPS (R358, R451 to R453) -/

/-- Pop the next index of a .q card: it waits while the queue is empty; a poisoned element fails the job (R323, R340). -/
def popIndex (l : Loc) (c : Card) : M Nat := do
  match (<- get).teamAt l with
  | none => wait
  | some t =>
    waitFor ((t.qw c.qw).count != 0)
    match t.qHead c.qw with
    | none => trap .poison
    | some bs =>
      modify fun s => s.modTeam l fun t => t.qDrop c.qw 1
      pure (leNat (bs.take 4))

/-- Entry `i` of an index list. -/
def listIndex (w : Who) (b : List Word) (i : Nat) : M Nat := do pure (leNat (<- load w (jIh b) (jIoff b + 4 * i) 4))

/-- Read a row; under .zp a poisoned row is zeros, and is counted. -/
def gatherRow (w : Who) (c : Card) (off : Nat) : M (List Byte × Card) := do
  let b := c.block
  match <- attempt (load w (jSh b) off (jRowlen b)) with
  | .ok bs => pure (bs, c)
  | .error (k, i) =>
    if k = .poison ∧ c.md.getLsbD 0 then
      pure (zeros (jRowlen b), { c with pz := true, cnt1 := c.cnt1 + 1, cnt2 := if c.cnt1 = 0 then c.row else c.cnt2 })
    else trap k i

/-- One row of CPG or CPS. -/
def unitGather (w : Who) (l : Loc) (c : Card) : M Card := do
  let b := c.block
  let len := jRowlen b
  let n := jCount b
  if c.op = jCPG then
    let _ <- spanAt w.asid (jDh b) (jDoff b) (jDs b) len n true
  else
    let _ <- spanAt w.asid (jSh b) (jSoff b) (jSs b) len n false
  if !jQ c.op c.md then
    let _ <- spanAt w.asid (jIh b) (jIoff b) 0 (4 * n) 1 false
  match jQ c.op c.md, c.cur with
  | true, none => pure { c with cur := some (<- popIndex l c) }
  | _, cur =>
    let k <- match cur with
      | some k => pure k
      | none => listIndex w b c.row
    let none_ := k == 0xFFFFFFFF
    if c.op = jCPG then
      let (row, c) <- if none_ then pure (zeros len, c) else gatherRow w c (jSoff b + k * jSs b)
      store w (jDh b) (jDoff b + c.row * jDs b) false row
      pure ((c.rowDone len).endAt n)
    else if none_ then pure ((c.rowDone 0).endAt n)
    else
      let row <- load w (jSh b) (jSoff b + c.row * jSs b) len
      store w (jDh b) (jDoff b + k * jDs b) false row
      pure ((c.rowDone len).endAt n)

/-! ### PREF (R359) -/

/-- A line that PREF fetches into an L2 slice: one of path 0x0 or 0x1 (R326). -/
def fetchLine (w : Who) (fa : Nat) (tier : Bool) : M Bool := do
  let path := fa / 2 ^ 52 % 16
  if path != 0 && path != 1 then pure false
  else
    match <- attempt (xlate w fa false) with
    | .error _ => pure false
    | .ok (.loc pa _) =>
      let f := pa / 65536
      modify fun s =>
        if tier && s.fastOf (groupOf f) != memberOf f && (s.lockOf (groupOf f)).isNone then s.startSwap (groupOf f) (memberOf f) true
        else s
      pure true
    | .ok (.peer d pa leaf true) =>
      fetchLines w d ((<- get).keyNo (leafKey leaf)) leaf [pa / 64]
      pure true
    | .ok _ => pure false

/-- One line of PREF. -/
def unitPref (w : Who) (c : Card) : M Card := do
  let b := c.block
  let (sf, _) <- spanAt w.asid (jSh b) (jSoff b) (jSs b) (jRowlen b) (jCount b) false
  let fa := sf + c.row * jSs b + c.off
  let n := min (jRowlen b - c.off) (64 - fa % 64)
  let got <- fetchLine w fa (c.md.getLsbD 0)
  let c := { c with bytes := if got then c.bytes + 64 else c.bytes }
  let d := c.moved n (jRowlen b)
  pure ({ d with bytes := c.bytes }.endAt (jCount b))

/-! ### PIN and UNPIN (R360, R361, R331) -/

/-- The 64 KiB units that a job's source rows touch, in order, once each. -/
def unitsOf (fa stride len n : Nat) : List Nat :=
  (rowsAt fa stride len n).foldl (fun acc (a, k) =>
    (parts a k).foldl (fun acc (x, _) =>
      let u := x / 65536 * 65536
      if acc.contains u then acc else acc ++ [u]) acc) []

/-- The first source row of a job that touches a 64 KiB unit. -/
def rowOfUnit (fa stride len n u : Nat) : Nat :=
  (rowsAt fa stride len n).findIdx fun (a, k) => (parts a k).any fun (x, _) => x / 65536 * 65536 == u

/-- The leaf of a member that PIN may act on: a local page through path 0x0 or 0x1 (R360). `row` touches it first. -/
def pinLeaf (w : Who) (ro : Bool) (row fa : Nat) : M Word := do
  let path := fa / 2 ^ 52 % 16
  let i : Info := { detail := row + 1 }
  need (path == 0 || path == 1) .pathKind i
  match <- lookupLeaf w.cell w.asid fa with
  | none => trap .pageFault i
  | some leaf =>
    let s <- get
    need (s.leafOk path leaf) .pageFault i
    need (leafPeer leaf == 1023 && pathAgrees path leaf) .pathKind i
    need (!ro || leafRo leaf) .pageRo i
    need (!s.boot.on || s.keyOk w.asid (leafKey leaf)) .keyNone i
    pure leaf

/-- The frame of a flat address under its leaf. -/
def frameAt (leaf : Word) (fa : Nat) : Nat := leafFrame leaf + fa % 2 ^ (sizeLog (leafSize leaf)) / 65536

/-- Set or clear PIN in the leaf in memory, by an atomic OR or AND, and in the cached copies. -/
def State.setPin (s : State) (a fa : Nat) (on : Bool) : State :=
  match s.walk a fa with
  | none => s
  | some (leaf, ea) =>
    let old := s.mem.phys.rd (ea + 4)
    let s := s.sysWr (ea + 4) [if on then old ||| 0x20 else old &&& 0xDF]
    s.tlbUpdate a fa (fun _ => true) (if on then leaf ||| wd (2 ^ 37) else leaf &&& ~~~(wd (2 ^ 37)))

/-- Some context holds a frame pinned. -/
def State.pinnedAny (s : State) (f : Nat) : Bool := s.ctxs.any fun p => p.2.pinned.mem f

/-- Unpin the members of flat addresses of a context; a lock goes when no context pins its member. -/
def State.unpinAll (s : State) (a : Nat) (fas : List Nat) : State :=
  fas.foldl (fun s fa =>
    match s.walk a fa with
    | none => s
    | some (leaf, _) =>
      let f := frameAt leaf fa
      let s := (s.setPin a fa false).modCtx a fun x => { x with pinned := x.pinned.rem f }
      if s.pinnedAny f then s else s.unlock .pin f) s

/-- A weight identity is still referred to: by a task that is not complete, a pass, or parked rows (R361). -/
def State.weightUsed (s : State) (wid : Word) : Bool :=
  s.rm.tasks.any (fun t => tkWid t.desc == wid && t.st != .complete && t.st != .removed)
    || s.rm.passes.any (fun p => p.2.wid == wid && p.2.st != .done)

/-- Forget a withdrawn identity that nothing refers to, and unpin its pages but those of another recorded identity (R361). -/
def State.settleWeight (s : State) (wid : Word) : State :=
  match s.weight wid with
  | none => s
  | some x =>
    if x.withdrawn && !s.weightUsed wid then
      let left := s.hub.weights.filter fun p => p.1 != wid
      ({ s with hub := { s.hub with weights := left } } : State).unpinAll x.asid
        (x.members.filter fun u => !(left.any fun p => p.2.asid == x.asid && p.2.members.contains u))
    else s

/-- Withdraw a weight identity (R361, R142). -/
def State.withdraw (s : State) (wid : Word) : State :=
  { s with hub := { s.hub with weights := s.hub.weights.map fun p => if p.1 == wid then (p.1, { p.2 with withdrawn := true }) else p } }

/-- What a PIN.w does to the recorded identities: `none` is a conflict. -/
def State.recordWeight (s : State) (a : Nat) (b : List Word) (fa : Nat) (fas : List Nat) : Option State :=
  let wid := nth b 6
  let k := (weightK (nth b 7) (jRowlen b)).getD 0
  match s.weight wid with
  | none =>
    let x : Weight := { asid := a, prec := nth b 7, k := k, n := jCount b, addr := fa, sstride := jSs b, members := fas }
    some { s with hub := { s.hub with weights := s.hub.weights ++ [(wid, x)] } }
  | some x =>
    if !x.withdrawn && x.asid == a && x.prec == nth b 7 && x.k == k && x.sstride == jSs b && fa == x.addr + x.n * x.sstride then
      let x := { x with n := x.n + jCount b, members := x.members ++ fas.filter fun u => !x.members.contains u }
      some { s with hub := { s.hub with weights := s.hub.weights.map fun p => if p.1 == wid then (wid, x) else p } }
    else none

/-- Every member can be locked: no other member of its group is locked, or is in the list (R331, R360). -/
def State.pinnable (s : State) (fs : List Nat) : Bool :=
  fs.all fun f => s.lockable f && fs.all fun g => groupOf f != groupOf g || f == g

/-- PIN: every member is checked before any is changed (R360); then its members are awaited in their fast frames. -/
def unitPin (w : Who) (c : Card) : M Card := do
  let b := c.block
  if c.checked then
    waitFor ((<- get).allFast c.frames)
    pure { (c.perform) with bytes := 65536 * c.frames.length }
  else
    let wt := c.md.getLsbD 0
    let (sf, _) <- spanAt w.asid (jSh b) (jSoff b) (jSs b) (jRowlen b) (jCount b) false
    let fas := unitsOf sf (jSs b) (jRowlen b) (jCount b)
    let row := rowOfUnit sf (jSs b) (jRowlen b) (jCount b)
    let fs <- fas.mapM fun fa => do pure (frameAt (<- pinLeaf w wt (row fa) fa) fa)
    let s <- get
    let new := fs.filter fun f => !(s.ctx w.asid).pinned.mem f
    let recorded := if wt then s.recordWeight w.asid b sf fas else some s
    if !s.pinnable fs || recorded.isNone then pure (c.perform .pinConflict)
    else if decide ((s.regsOf w.asid).pinlim.toNat < 65536 * ((s.ctx w.asid).pinned.length + new.eraseDups.length)) then
      pure (c.perform .pinLimit)
    else if wt && (s.weight (nth b 6)).isNone && decide (4096 ≤ s.hub.weights.length) then pure (c.perform .pinFull)
    else
      let s := recorded.getD s
      let s := fas.foldl (fun s fa => s.setPin w.asid fa true) s
      let s := s.modCtx w.asid fun x => { x with pinned := fs.foldl (fun m f => m.ins f) x.pinned }
      set (s.lockAll .pin fs)
      pure { c with checked := true, frames := fs }

/-- UNPIN (R361): with .w the identity is withdrawn, and its pages are unpinned when nothing refers to it. -/
def unitUnpin (w : Who) (c : Card) : M Card := do
  let b := c.block
  let (sf, _) <- spanAt w.asid (jSh b) (jSoff b) (jSs b) (jRowlen b) (jCount b) false
  let fas := unitsOf sf (jSs b) (jRowlen b) (jCount b)
  fas.forM fun fa => do
    let _ <- pinLeaf w false (rowOfUnit sf (jSs b) (jRowlen b) (jCount b) fa) fa
  let s <- get
  let mine : Word × Weight → Bool := fun p => p.2.asid == w.asid && fas.any fun u => p.2.members.contains u
  if c.md.getLsbD 0 then
    let wid := nth b 6
    let others := s.hub.weights.filter fun p => mine p && p.1 != wid
    let held := others.flatMap fun p => p.2.members
    match s.weight wid with
    | some x =>
      if x.asid == w.asid then
        let x' := { x with members := x.members ++ fas.filter fun u => !x.members.contains u }
        let s := { s with hub := { s.hub with weights := s.hub.weights.map fun (p : Word × Weight) => if p.1 == wid then (wid, x') else p } }
        set ((s.withdraw wid).settleWeight wid)
      else set (s.unpinAll w.asid (fas.filter fun u => !held.contains u))
    | none => set (s.unpinAll w.asid (fas.filter fun u => !held.contains u))
    pure (c.perform)
  else if s.hub.weights.any mine then pure (c.perform .pinConflict)
  else
    set (s.unpinAll w.asid fas)
    pure (c.perform)

/-! ### KVCOMMIT (R362) -/

/-- Some packet of an agent that satisfies `f`, no read and no atomic, is queued or not acknowledged. -/
def State.outstandingOf (s : State) (k : AgentKey) (f : Packet → Bool) : Bool :=
  s.packets.any fun p => p.2.key == k && f p.2 && (match p.2.op with
    | .read .. => false
    | .amo .. => false
    | _ => true)

/-- One row of KVCOMMIT, or its last step. -/
def unitCommit (w : Who) (c : Card) : M Card := do
  let b := c.block
  let n := jCount b
  let len := jRowlen b
  let clr := c.md.getLsbD 0
  if !c.checked then
    let _ <- spanAt w.asid (jLh b) (jLoff b) 0 8 1 true
    let k := leNat (<- load w (jLh b) (jLoff b) 8)
    acquire w 3
    if n ≠ 0 then
      let _ <- spanAt w.asid (jIh b) (jIoff b) 0 (4 * n) 1 false
      let _ <- spanAt w.asid (jDh b) (jDoff b + k * jDs b) (jDs b) len n true
    if clr ∧ jDraft b ≠ 0 then
      let _ <- spanAt w.asid (jSh b) (jSoff b) (jSs b) len (jDraft b) true
    pure { c with checked := true, len := k }
  else if c.row < n then
    let k <- listIndex w b c.row
    need (!(clr && decide (jDraft b ≤ k))) .jobRange
    let row <- load w (jSh b) (jSoff b + k * jSs b) len
    store w (jDh b) (jDoff b + (c.len + c.row) * jDs b) false row
    pure (c.rowDone len)
  else if clr ∧ c.row < n + jDraft b then
    store w (jSh b) (jSoff b + (c.row - n) * jSs b) false (zeros len)
    pure (c.rowDone len)
  else
    release w 3
    waitFor (!(<- get).outstandingOf w.key fun p => !p.rst)
    store w (jLh b) (jLoff b) false (leBytes 8 ((c.len + n) % 2 ^ 64))
    pure (c.perform)

/-! ### CPC: the lines a cell presents to the Carousel (R332 to R336, R357) -/

/-- Stack and pseudo-channel of a physical address (R327). -/
def pseudoOf (pa : Nat) : Nat × Nat :=
  let g := groupOf (pa / 65536)
  (g % 8, (pa % 65536 / 1024 + g / 8) % 64)

/-- Owner of a slot as R333 sets the table. -/
def slotOwner0 (stack slot : Nat) : Option Nat :=
  if slot % 2 = 0 then none else some (64 * (stack / 2) + 32 * (stack % 2) + slot / 2)

/-- Owner of a slot of the calendar in force. -/
def State.slotOwner (s : State) (stack slot : Nat) : Option Nat :=
  match Tab.find s.mem.cal (64 * stack + slot) with
  | some o => o
  | none => slotOwner0 stack slot

/-- A cell owns some slot of a stack. -/
def State.ownsSlot (s : State) (stack cell : Nat) : Bool := (List.range 64).any fun i => s.slotOwner stack i == some cell

/-- The issuing team's own vault. -/
def ownVault (l : Loc) (d : Dest) : M Nat :=
  match d with
  | .vault l' _ off _ => if l' = l then pure off else trap .vaultBound
  | _ => trap .vaultBound

/-- Offset in the issuing team's own vault of `n` bytes at a flat address; any other destination is refused, wherever it leads (R357). -/
def ownOffset (w : Who) (l : Loc) (fa n : Nat) : M Nat := do
  need (fa / 2 ^ 52 % 16 == 3) .vaultBound
  match <- attempt (vaultDest w fa n) with
  | .ok d => ownVault l d
  | .error _ => trap .vaultBound

/-- A line read by an ordinary request, counted in ORD (R357). -/
def ordinaryLine (w : Who) (l : Loc) (fa pa off slot : Nat) : M Unit := do
  match (<- get).locRd pa 64 slot with
  | some bs => modify fun s => (s.drainPosted fun p => p.cell == w.cell).modTeam l fun t => t.vaultWr off bs
  | none => trap .poison { addr := fa }

/-- Start times of the slots that lines of a cell on a pseudo-channel are assigned to. -/
def linesTaken (pc : Nat × Nat) (xs : List CpcLine) : List Nat := (xs.filter fun x => pseudoOf x.pa == pc).map (·.time)

/-- The first slot that a cell owns on a stack which starts at `t` or later, at least in cycle `least`, and is not taken; `fuel` rotations
are searched, the first of them rotation `r`. -/
def State.slotFrom (s : State) (cell stack t least : Nat) (taken : List Nat) : Nat → Nat → Nat
  | r, 0 => 128 * r
  | r, fuel + 1 =>
    let xs := ((List.range 64).filter fun k => s.slotOwner stack k == some cell).map fun k => 128 * r + 2 * k
    match xs.find? fun x => decide (t ≤ x ∧ least ≤ cyclesOf x) && !taken.contains x with
    | some x => x
    | none => s.slotFrom cell stack t least taken (r + 1) fuel

/-- The slot that a line presented now is assigned to: the first owned one of its pseudo-channel at least 4 cycles on (R334), after
those of the job's earlier lines there (R335), that no other line of the cell has (R332). `mine` are the job's lines. -/
def State.assignSlot (s : State) (cell pa : Nat) (mine : List CpcLine) : Nat :=
  let pc := pseudoOf pa
  let own := linesTaken pc mine
  let taken := own ++ (s.cellCards cell).flatMap fun p => linesTaken pc p.2.lines
  let t := own.foldl (fun m x => max m (x + 1)) s.now
  s.slotFrom cell pc.1 t (cyclesOf s.now + 4) taken (t / 128) (taken.length + 4)

/-- Present a line: a stack in which the cell owns a slot carries it in a slot; any other reads it at once (R357). -/
def presentLine (w : Who) (l : Loc) (c : Card) (sf df : Nat) : M Card := do
  let path := sf / 2 ^ 52 % 16
  if path == 4 then checkFabric none { addr := sf }
  need (path == 0 || path == 1) .pathKind
  match <- xlateCpc w sf with
  | .loc pa leaf =>
    need (leafPeer leaf == 1023) .pathKind
    let off <- ownOffset w l df 64
    let s <- get
    if s.ownsSlot (pseudoOf pa).1 w.cell then
      pure { c with lines := c.lines ++ [{ pa := pa, off := off, slot := leafKey leaf, row := c.row,
                                           time := s.assignSlot w.cell pa c.lines, from_ := cyclesOf s.now + 4 }] }
    else
      waitFor (!s.swapBlocks (pa / 65536))
      modify fun s => s.countAccess (pa / 65536)
      ordinaryLine w l sf pa off (leafKey leaf)
      pure { c with cnt2 := c.cnt2 + 1, bytes := c.bytes + 64, off := 0 }
  | _ => trap .pathKind

/-- One line of CPC presented, in ascending order; after the last, the job waits for its lines to land. -/
def unitCpc (w : Who) (l : Loc) (c : Card) : M Card := do
  let b := c.block
  let n := jCount b
  let (sf, _) <- spanAt w.asid (jSh b) (jSoff b) (jSs b) (jRowlen b) n false
  let (df, _) <- spanAt w.asid (jDh b) (jDoff b) (jDs b) (jRowlen b) n true
  if n ≤ c.row then
    -- lines whose slots the cell no longer owns (R483) are read by ordinary requests
    let s <- get
    let lost := fun (x : CpcLine) => x.got.isNone && !s.ownsSlot (pseudoOf x.pa).1 w.cell
    let (gone, keep) := (c.lines.partition lost : List CpcLine × List CpcLine)
    gone.forM fun x => ordinaryLine w l 0 x.pa x.off x.slot
    let c := { c with lines := keep, cnt2 := c.cnt2 + gone.length, bytes := c.bytes + 64 * gone.length }
    if gone.isEmpty then
      waitFor keep.isEmpty
      pure (c.perform)
    else pure c
  else
    let c' <- presentLine w l c (sf + c.row * jSs b + c.off) (df + c.row * jDs b + c.off)
    pure (if c.off + 64 < jRowlen b then { c' with off := c.off + 64 } else { c' with off := 0, row := c.row + 1 })

/-! ### LSEND and LRADD (R364, R449) -/

/-- Bytes of a port buffer. -/
def portRoom : Nat := 65536
def State.port (s : State) (c p : Nat) : List Byte := ((Tab.find (s.cell c).ports p).map (·.buf)).getD []
def State.setPort (s : State) (c p : Nat) (bs : List Byte) : State :=
  s.modCell c fun x => { x with ports := if bs.isEmpty then Tab.del x.ports p else Tab.put x.ports p { buf := bs } }

/-- LSEND's destination is this device. -/
def State.portLocal (s : State) (b : List Word) : Bool := jPeer b == 1023 || jPeer b == s.fab.devno

/-- Bytes of an LSEND's port that are queued or not acknowledged. -/
def State.portDue (s : State) (k : AgentKey) (dest : Word) : Nat :=
  (s.packets.map fun p => match p.2.op with
    | .port d bs => if d == dest && p.2.key == k then bs.length else 0
    | _ => 0).foldl (· + ·) 0

/-- One unit of LSEND: bytes enter the port's buffer while it has room; a remote port acknowledges them (R364, R432). -/
def unitSend (w : Who) (c : Card) : M Card := do
  let b := c.block
  let d := jPeer b
  let (sf, ord) <- spanAt w.asid (jSh b) (jSoff b) (jSs b) (jRowlen b) (jCount b) false
  let s <- get
  let here := s.portLocal b
  if !here then checkFabric (some d) {}
  let a := sf + c.row * jSs b + c.off
  let room := portRoom - if here then (s.port (jPortCell b) (jPort b)).length else s.portDue w.key (nth b 4)
  let n := min room (pieceLen (jRowlen b - c.off) a 0)
  if !here then
    silentWait w d
    if n == 0 then waitPeer d
  waitFor (n != 0)
  let z <- destOf w a n false
  let bs <- readDest w a z n ord
  if here then modify fun s => s.setPort (jPortCell b) (jPort b) (s.port (jPortCell b) (jPort b) ++ bs)
  else sendPacket w d 1 (.port (nth b 4) bs)
  pure ((c.moved n (jRowlen b)).endAt (jCount b))

/-- Bytes of an arriving element, and of a destination element. -/
def portElem (fmt : Nat) : Nat := if fmt = 4 then 2 else 4

/-- Add an arriving element to a destination element (R364). -/
def portAdd (fmt : Nat) (old new : List Byte) : List Byte × BitVec 5 :=
  let x := BitVec.ofNat 32 (leNat old)
  let v := leNat new
  if fmt = 0 then (leBytes 4 (x + BitVec.ofNat 32 v).toNat, 0)
  else
    let r := fadd32 .rne x (BitVec.ofNat 32 (if fmt = 4 then v * 65536 else v))
    (leBytes 4 r.1.toNat, r.2)

/-- Add arriving elements one after another. -/
def portAddAll (fmt : Nat) : List (List Byte) → List (List Byte) → List (List Byte) × BitVec 5
  | o :: os, n :: ns =>
    let (x, f) := portAdd fmt o n
    let (xs, g) := portAddAll fmt os ns
    (x :: xs, f ||| g)
  | _, _ => ([], 0)

/-- Bytes in groups of `k`. -/
def byGroups (k : Nat) (bs : List Byte) : List (List Byte) := (chunks k 0 bs).map (·.2)

/-- A collective of the context that consumes a port takes its bytes first (R414). -/
def State.collAtPort (s : State) (c p : Nat) : Bool :=
  s.fab.colls.any fun x =>
    match Tab.find (s.ctx x.asid).colls x.name.toNat with
    | some r => 64 * fld r.port 20 2 + fld r.port 14 6 == c && fld r.port 8 6 == p
    | none => false

/-- An earlier LRADD of the cell on the same port is not performed yet (R364). -/
def State.lraddBefore (s : State) (cell : Nat) (c : Card) : Bool :=
  (s.cellCards cell).any fun (_, k) => k.op == jLRADD && decide (k.order < c.order) && jPort k.block == jPort c.block
    && (k.st == .waiting || k.st == .running)

/-- One unit of LRADD: the whole elements that have arrived for the current row. -/
def unitReceive (w : Who) (l : Loc) (c : Card) : M Card := do
  let b := c.block
  let fmt := jFmt b
  let (df, _) <- spanAt w.asid (jDh b) (jDoff b) (jDs b) (lraddRow b) (jCount b) true
  need (jRowlen b % portElem fmt == 0) .jobRange
  let s <- get
  let p := jPort b
  waitFor (!s.lraddBefore w.cell c && !s.collAtPort w.cell p)
  let buf := s.port w.cell p
  let n := min (buf.length / portElem fmt) ((jRowlen b - c.off) / portElem fmt)
  let k := n * portElem fmt
  let z := df + c.row * jDs b + c.off * (4 / portElem fmt)
  let d <- destOf w z (4 * min n 1) true
  let _ <- ownVault l d
  waitFor (n != 0)
  let d <- destOf w z (4 * n) true
  let off <- ownVault l d
  let old <- readDest w z d (4 * n)
  let (xs, fl) := portAddAll fmt (byGroups 4 old) (byGroups (portElem fmt) (buf.take k))
  modify fun s => (s.setPort w.cell p (buf.drop k)).modTeam l fun t => t.vaultWr off xs.flatten
  let c := { c with vfl := c.vfl ||| fl }
  pure ((c.moved k (jRowlen b)).endAt (jCount b))

/-! ### Running a card -/

/-- The next unit of a card's work. -/
def unitOf (w : Who) (l : Loc) (c : Card) : M Card :=
  if c.op = jCP ∨ c.op = jCPK then unitCopy w c
  else if c.op = jCPC then unitCpc w l c
  else if c.op = jCPG ∨ c.op = jCPS then unitGather w l c
  else if c.op = jPREF then unitPref w c
  else if c.op = jPIN then unitPin w c
  else if c.op = jUNPIN then unitUnpin w c
  else if c.op = jKVC then unitCommit w c
  else if c.op = jRST ∨ c.op = jRLD then unitRemote w l c
  else if c.op = jLSEND then unitSend w c
  else unitReceive w l c

/-- A job's first failure stops it (R353): its status is the cause, and the record names the row. -/
def Card.failed (c : Card) (k : Cause) (row : Nat) : Card := { c with st := .performed, status := .cause k, failRow := row, lines := [] }

/-- A job to a peer ends with REMOTE_LOST (R441). -/
def Card.remoteLost (c : Card) : Card := { c with st := .performed, status := .remoteLost, failRow := c.row, lines := [], sentAll := false }

/-- The packets of a card that it waits for: those of an RST until they have left (R363), others until they are performed (R354). -/
def State.cardDue (s : State) (w : Who) : Bool := s.outstandingOf w.key fun p => !p.rst || !p.left

/-- The peer that a card still waits for. -/
def State.cardPeer (s : State) (w : Who) : Nat := ((s.packets.find? fun p => p.2.key == w.key).map (·.1)).getD 0

/-- The next unit of a card, whole or not at all; when all is done, the wait for its packets. -/
def unitNext (w : Who) (l : Loc) (c : Card) : M Card := do
  if c.sentAll then
    let s <- get
    if s.cardDue w then waitPeer (s.cardPeer w)
    pure { c with st := .performed, sentAll := false }
  else
    let c' <- whole (unitOf w l c)
    modify fun s => s.usedReplies w.key
    pure (if c'.st == .performed && (<- get).cardDue w then { c' with st := .running, sentAll := true } else c')

/-- Do one unit of a running card; `false` when it waits. A job that reaches for a peer during a quiesce of its partition ends
(R441). -/
def State.cardUnit (s : State) (l : Loc) (q : Nat) : State × Bool :=
  match s.cardAt l q with
  | none => (s, false)
  | some c =>
    let w := s.cardWho l c
    match (unitNext w l c).run s with
    | .ok c' s' => (s'.modCard l q fun _ => c', c'.st == .running)
    | .error (.trap k i) s' =>
      ((s'.usedReplies w.key).modCard l q fun x => x.failed k (if i.detail = 0 then x.row else i.detail - 1), false)
    | .error (.wait p) s' =>
      let x := s'.ctx w.asid
      (if p.isSome && x.quiesced && !x.cut then (s'.usedReplies w.key).modCard l q Card.remoteLost else s', false)

/-- Run a card for at most `fuel` units. -/
def State.cardRun (s : State) (l : Loc) (q : Nat) : Nat → State
  | 0 => s
  | fuel + 1 =>
    match s.cardUnit l q with
    | (s', true) => s'.cardRun l q fuel
    | (s', false) => s'

/-- More units than a card can have. -/
def Card.bound (c : Card) : Nat := (jCount c.block + jDraft c.block + 2) * (jRowlen c.block / 2 + 66000) + 4

/-- The conditions under which a waiting card starts (R350). -/
def State.cardReady (s : State) (cell : Nat) (c : Card) : Bool :=
  c.st == .waiting && (c.wsem.isNone || c.took)
    && !(s.cellCards cell).any fun (_, k) => decide (k.order < c.order) && k.live && c.foot.edge k.foot

/-- A cell whose device is in service. -/
def State.cellUp (s : State) (c : Nat) : Bool := !(s.cell c).lost && s.boot.start == .up

/-- JOB_START (R350): the first ready card of a cell starts, in issue order, and performs up to the given number of units of its
work (0: all that does not wait); a card that has started performs further ones. -/
def State.jobStart (s : State) (l : Loc) (q units : Nat) : State :=
  match l, s.teamAt l, s.cardAt l q with
  | .here cell _, some t, some c =>
    let fuel := if units = 0 then c.bound else units
    let first := !(s.cellCards cell).any fun (_, k) => decide (k.order < c.order) && s.cardReady cell k
    if !s.cellUp cell then s
    else if s.cardReady cell c && first && !t.ended && !t.halted && t.pre.isNone then
      let s := s.drainPosted fun p => p.src == cell
      (s.modCard l q fun c => { c with st := .running }).cardRun l q fuel
    else if c.st == .running then s.cardRun l q fuel
    else s
  | _, _, _ => s

/-! ### Completion (R354, R372, R100) -/

/-- The record of a card. -/
def Card.record (c : Card) : CRec :=
  let failed := match c.status with
    | .cause _ => true
    | .remoteLost => true
    | _ => false
  ({ src := 0, op := c.op, pz := c.pz, vfl := c.vfl, st := c.status, tag := jTag c.block, id := c.seq, bytes := c.bytes,
     cnt1 := c.cnt1, cnt2 := c.cnt2, addr := if failed then wd c.failRow else 0 } : CR).words

/-- The rate a card's bytes are charged at (R100). -/
def State.cardRate (s : State) (op : Nat) : Nat :=
  if op = jLSEND ∨ op = jLRADD then s.hub.collRate
  else if op = jCPK ∨ (op = jCPC ∧ s.boot.on = true) then s.hub.crypRate
  else s.hub.copyRate

/-- A performed card signals, is charged, and writes its record or waits for a place (R354, R223). -/
def State.jobComplete (s : State) (l : Loc) (q : Nat) : State :=
  match s.teamAt l, s.cardAt l q with
  | some t, some c =>
    if c.st != .performed then s
    else
      let w := s.cardWho l c
      match (release w (if jRemote c.op then 4 else 3)).run s with
      | .error _ s => s
      | .ok () s =>
        let s := match c.ssem with
          | some i => s.semSignal l i 1
          | none => s
        let s := s.chargeGrid t.grid (unitsFor c.bytes (s.cardRate c.op))
        let s := match s.teamAt l with
          | none => s
          | some t =>
            if jEv c.block || c.status != Status.ok then
              let (t, now) := t.postCe s.now q c.record
              s.putTeam l (if now then t.dropCard q else t.modCard q fun c => { c with st := .recording })
            else s.putTeam l (t.dropCard q)
        s.tryRetire l
  | _, _ => s

/-- Where the team of an event's argument is: `a` a cell and `b` its stage, or with `b` of 2 the kept team number `a`. -/
def argLoc (x : EvArg) : Loc := if x.b = 2 then .kept x.a else .here x.a (x.b == 1)

/-- JOB_START (R350), an event: team, card `c`, and at most `d` units. -/
def execJobStart (s : State) : Res := .next (s.jobStart (argLoc s.arg) s.arg.c s.arg.d)

/-- JOB_COMPLETE (R354), an event: team and card `c`. A card that still runs goes on first. -/
def execJobComplete (s : State) : Res :=
  let l := argLoc s.arg
  let s := match s.cardAt l s.arg.c with
    | some c => if c.st == CardSt.running then s.jobStart l s.arg.c 0 else s
    | none => s
  .next (s.jobComplete l s.arg.c)

end Sys2Proof.Machine
end

