-- ==== Sys2Proof/Decode.lean ====
section
/-! DEFINITION. The decoder (R146, R166, R189) and the encoder. The decoder is total on any bytes and refuses by cause;
`decodeOp` is check 2 and checks 4 to 11 of R189 in their order (1 and 3 belong to fetching, 12 to the part's CAPS). -/
namespace Sys2Proof

/-- Length by bits [1:0] of the first word, in words; `none` is `ILL_LEN` (R166). -/
def wordCount (w : W32) : Option Nat :=
  if w.len == 3 then none else some (w.len.toNat + 1)

/-- Check 5 of R189: classes that a stream decodes at all (R151). -/
def classInStream (st : Stream) (c : BitVec 3) : Bool :=
  match st with
  | .strand => c == 0 || c == 3 || c == 4 || c == 5
  | .vector => c == 1 || c == 3 || c == 4
  | .matrix => c == 2 || c == 3 || c == 4
  | .copy => c == 3 || c == 4

/-- Check 7 of R189: instructions of a shared class that a stream decodes (R151). -/
def opInStream (st : Stream) (c : BitVec 3) (o : Op) : Bool :=
  match c.toNat with
  | 3 =>
    match o with
    | .nestBeg | .nestEnd | .rdv | .engineEnd => st == .copy
    | .tfull | .tempty | .twait => true
    | _ => st == .strand || st == .copy
  | 4 =>
    match o with
    | .vamo => st == .vector
    | .fence => true
    | .barArr => st == .strand || st == .copy
    | _ => st == .strand
  | _ => true

/-- Checks 9 to 11 of R189 as the decoder makes them. -/
def decodeCheck (st : Stream) (nest : Bool) (o : Op) (f : Fields) : Option Cause := opCheck st nest o f

/-- Name and fields of the words of one instruction; `none` where the encoding is unassigned. -/
def parseWords (ws : List W32) : Option (Op × Fields) :=
  match ws, Fields.ofWords ws with
  | w :: _, some f =>
    match opAt w.cls.toNat w.len.toNat w.op.toNat with
    | some o => some (o, f)
    | none => none
  | _, _ => none

/-- Check 2 and checks 4 to 11 of R189, in their order, on the words of one instruction. -/
def decodeOp (st : Stream) (priv nest : Bool) (ws : List W32) : Except Cause (Op × Fields) :=
  match ws with
  | [] => .error .illLen
  | w :: _ =>
    if w.len == 3 then .error .illLen
    else if w.cls == 7 then .error .illOp
    else if !classInStream st w.cls then .error .illClass
    else match parseWords ws with
      | none => .error .illOp
      | some (o, f) =>
        if !opInStream st w.cls o then .error .illClass
        else if w.cls == 5 && !priv then .error .illPriv
        else match decodeCheck st nest o f with
          | some c => .error c
          | none => .ok (o, f)

/-- Decoding in a bank unit (R188, R425): `none` is a word that stops the microprogram. -/
def decodeUnitOp (ws : List W32) : Option (Op × Fields) :=
  match parseWords ws with
  | none => none
  | some (o, f) => if o.code.1 == 6 && decodeCheck .strand false o f == none then some (o, f) else none

/-- A little-endian word of four bytes (R146). -/
def wordOfBytes (b0 b1 b2 b3 : Byte) : W32 := b3 ++ b2 ++ b1 ++ b0

/-- The first `n` words of a byte string and the bytes after them; `none` when the bytes end early. -/
def takeWords : Nat → List Byte → Option (List W32 × List Byte)
  | 0, bs => some ([], bs)
  | n + 1, b0 :: b1 :: b2 :: b3 :: bs =>
    match takeWords n bs with
    | some (ws, rest) => some (wordOfBytes b0 b1 b2 b3 :: ws, rest)
    | none => none
  | _ + 1, _ => none

noncomputable section

/-- The decoder of a stream: the instruction of the words of one instruction, or the cause of the first failing check. -/
def decodeIn (st : Stream) (priv nest : Bool) (ws : List W32) : Except Cause Instr :=
  match decodeOp st priv nest ws with
  | .error c => .error c
  | .ok (o, f) =>
    match buildInstr o f with
    | some i => .ok i
    | none => .error .illOp

/-- Decode one instruction from bytes at ascending addresses; `FETCH_BOUND` when the bytes end before it does (R148). -/
def decodeBytes (st : Stream) (priv nest : Bool) (bs : List Byte) : Except Cause (Instr × List Byte) :=
  match takeWords 1 bs with
  | some ([w], _) =>
    match wordCount w with
    | none => .error .illLen
    | some n =>
      match takeWords n bs with
      | none => .error .fetchBound
      | some (ws, rest) =>
        match decodeIn st priv nest ws with
        | .ok i => .ok (i, rest)
        | .error c => .error c
  | _ => .error .fetchBound

/-- The decoder of a bank unit (R188). -/
def decodeUnit (ws : List W32) : Option Instr :=
  match decodeUnitOp ws with
  | some (o, f) => buildInstr o f
  | none => none

end

/-! ### The encoder -/

/-- The words of an instruction, from the same tables; an event has none. -/
def encode (i : Instr) : List W32 :=
  match i.op with
  | some o => i.fields.words o.code.1 o.code.2
  | none => []

/-- The bytes of a word, lowest address first (R146). -/
def bytesOfWord (w : W32) : List Byte := [w.extractLsb' 0 8, w.extractLsb' 8 8, w.extractLsb' 16 8, w.extractLsb' 24 8]

/-- The bytes of an instruction in memory. -/
def encodeBytes (i : Instr) : List Byte := (encode i).flatMap bytesOfWord

/-! ### The opcode table's words -/

/-- Streams that decode the class of a first word, in the order in which they are tried. -/
def naturalStreams (w : W32) : List Stream :=
  match w.cls.toNat with
  | 1 => [.vector]
  | 2 => [.matrix]
  | 3 => [.copy, .strand]
  | 4 => [.strand, .vector, .copy]
  | _ => [.strand]

/-- The `n` low bytes of `w`, lowest first. -/
def tableBytes : Nat → Nat → List Byte
  | 0, _ => []
  | n + 1, w => BitVec.ofNat 8 w :: tableBytes n (w / 256)

noncomputable section

/-- What the decoder reads from an opcode-table word: bit 0 of `w` is the least significant bit of the first word, and
bits above `nbits` are 0. -/
def decodeTableWord (nbits w : Nat) : Option Instr :=
  let bs := tableBytes 12 (w % 2 ^ nbits)
  match takeWords 1 bs with
  | some ([w0], _) =>
    if w0.cls == 6 then
      match wordCount w0 with
      | some n =>
        match takeWords n bs with
        | some (ws, _) => decodeUnit ws
        | none => none
      | none => none
    else
      (naturalStreams w0).findSome? fun st =>
        match decodeBytes st true false bs with
        | .ok (i, _) => some i
        | .error _ => none
  | _ => none

end

end Sys2Proof
end

