-- ==== Sys2Proof/Machine/Fetch.lean ====
section
/-! DEFINITION. Fetching and issuing: the code window (R147, R148), alignment (R149), decoding (R189), the nest sequencers
(R161 to R164), which stream may issue (R198, R461, R464, R470), the near-bank units' words (R425), and the placing of one
instruction where the next step issues it. -/
namespace Sys2Proof.Machine

/-! ### Words of the code region -/

/-- Where one word of a team's code lies, checked against the code window before it is fetched: the rest of the image of an
epilogue, or a flat address. `pc` is the offset of the instruction (R147, R148). -/
def fetchAt (w : Who) (t : Team) (pc off : Nat) : M (List Byte ⊕ Nat) := do
  let i : Info := { addr := pc, epc := some off }
  match t.epilogue with
  | some h =>
    let bs := (((<- get).image h).map (·.bytes)).getD []
    need (decide (off + 4 ≤ bs.length)) .fetchBound i
    pure (.inl (bs.drop off))
  | none =>
    match (<- get).handle? w.asid t.codeh with
    | none => trap .handleInvalid
    | some e =>
      need (e.path == 0 || e.path == 1) .handleInvalid
      need (e.fits off 4) .fetchBound i
      pure (.inr (e.flat off))

/-- Read one word of code. -/
def fetchRead (w : Who) (x : List Byte ⊕ Nat) : M W32 := do
  match x with
  | .inl bs => pure (BitVec.ofNat 32 (leNat (bs.take 4)))
  | .inr fa =>
    let bs <- loadFlat w fa 4
    pure (BitVec.ofNat 32 (leNat bs))

/-- One word at an offset of a team's code window. -/
def fetchWord (w : Who) (t : Team) (pc off : Nat) : M W32 := do fetchRead w (<- fetchAt w t pc off)

/-- The words of the instruction at an offset: checks 1 to 3 of R189, in order; what is misaligned is not read (R149). -/
def fetchInstr (w : Who) (t : Team) (pc : Nat) : M (List W32) := do
  let at0 <- fetchAt w t pc pc
  need (pc % 4 == 0) .fetchAlign { addr := pc, epc := some pc }
  let w0 <- fetchRead w at0
  match wordCount w0 with
  | none => trap .illLen { addr := pc }
  | some n =>
    let rest <- (span 1 (n - 1)).mapM fun k => fetchWord w t pc (pc + 4 * k)
    pure (w0 :: rest)

/-- A trap that fetching or decoding found: the fault record names the offset of the instruction (R456). -/
def State.decodeTrapAt (s : State) (c : Nat) (st : Stream) (k : Cause) (i : Info) : State :=
  s.takeTrap c st k true (s.pcAt c st) i

/-- How a decoded instruction runs. -/
abbrev Runner := Op -> Fields -> State -> Res

/-- Run the words of an instruction, or take the trap of the first check that fails. -/
def issueWords (run : Runner) (c : Nat) (st : Stream) (priv nest : Bool) (ws : List W32) (s : State) : Res :=
  match decodeOp st priv nest ws with
  | .ok (o, f) => run o f { s with cur := .stream c st }
  | .error k => .next (s.decodeTrapAt c st k { addr := (s.pcAt c st).toNat })

/-- Who a stream's fetch is. -/
def State.fetchWho (s : State) (c : Nat) (t : Team) (st : Stream) : Who :=
  { asid := t.asid, cell := c, stage := (s.cell c).active, key := t.fetchKey st }

/-- Fetch the instruction at a stream's counter and run it. -/
def issueFetched (run : Runner) (c : Nat) (st : Stream) (t : Team) (s : State) : Res :=
  let pc := t.pcOf st
  match (whole (fetchInstr (s.fetchWho c t st) t pc.toNat)).run { s with cur := .stream c st } with
  | .ok ws s' => issueWords run c st t.priv false ws (s'.usedReplies (t.fetchKey st))
  | .error (.trap k i) s' => .next ((s'.usedReplies (t.fetchKey st)).decodeTrapAt c st k i)
  | .error (.wait p) s' => .next (if st == .strand then s'.modAct c fun t => { t with waitPeer := p } else s')

/-! ### The nest sequencer (R161) -/

/-- F, L and LV of an instruction (R169, R171, R172). -/
def nestFlagsOf (f : Fields) : Bool × Bool × Nat :=
  match f with
  | .v64 x => (x.f == 1, x.l == 1, x.lv.toNat)
  | .v96 x => (x.v.f == 1, x.v.l == 1, x.v.lv.toNat)
  | .m64 x => (x.f == 1, x.l == 1, x.lv.toNat)
  | .m96 x => (x.x.f == 1, x.x.l == 1, x.x.lv.toNat)
  | .c64 x => (x.f == 1, x.l == 1, x.lv.toNat)
  | .c96 x => (x.c.f == 1, x.c.l == 1, x.c.lv.toNat)
  | _ => (false, false, 0)

def NestSlot.lvl (n : NestSlot) (i : Nat) : NestLevel := n.levels.getD i {}
def NestSlot.ix (n : NestSlot) (i : Nat) : Nat := n.idx.getD i 0

/-- `issues(x)` of R161. -/
def NestSlot.issues (n : NestSlot) (fl : Bool × Bool × Nat) : Bool :=
  let (f, l, lv) := fl
  let i0 := n.ix 0
  let hitF :=
    if lv = 6 then n.resumed && decide (i0 < n.start.getD 0 0 + (n.lvl 0).pro)
    else decide (n.ix lv < max 1 (n.lvl lv).pro) && (List.range lv).all fun k => n.ix k == 0
  let hitL :=
    if lv = 6 then (match n.stop0 with
      | some z => decide (z + 1 < (n.lvl 0).trip) && decide (z < i0 + (n.lvl 0).epi)
      | none => false)
    else decide ((n.lvl lv).trip < n.ix lv + 1 + max 1 (n.lvl lv).epi)
      && (List.range lv).all fun k => n.ix k + 1 == (n.lvl k).trip
  (!f && !l) || (f && hitF) || (l && hitL)

/-- The next index vector, and the level that advanced; `none` past the last iteration. -/
def nextIdx : List NestLevel -> List Nat -> Nat -> Option (List Nat × Nat)
  | l :: ls, i :: is, k =>
    if i + 1 = l.trip then (nextIdx ls is (k + 1)).map fun p => (0 :: p.1, p.2)
    else some ((i + 1) :: is, k)
  | _, _, _ => none

/-- The end of one iteration of the body (R161, R164): the slot, and where the stream goes if the nest stops. -/
def NestSlot.iterate (n : NestSlot) : NestSlot × Option (Word × Bool) :=
  let stopping := n.stop0 == some (n.ix 0)
  match nextIdx n.levels n.idx 0 with
  | none => ({ n with st := .idle, pos := 0, stop0 := none, resumed := false }, some (wd n.endOff, false))
  | some (ix, k) =>
    let n := { n with idx := ix, pos := 0, resumed := n.resumed && k == 0 }
    if stopping then
      ({ n with st := .held, saved := ix, stop0 := none },
       some (if n.preClamp then (wd n.bodyOff, true) else (wd n.endOff, false)))
    else (n, none)

/-- One step of a nest: its next body instruction issues or is passed over, or the iteration ends. At a stop that a hard stop
kept, the stream goes on at once (R472). -/
def issueNest (run : Runner) (c : Nat) (e : Engine) (k : Bool) (t : Team) (s : State) : Res :=
  let n := t.slot k
  match n.body[n.pos]? with
  | some (off, ws) =>
    let s := s.modAct c fun t => t.modEng e fun x => { x with pc := wd off }
    match parseWords ws with
    | some (_, f) =>
      if n.issues (nestFlagsOf f) then issueWords run c e.stream t.priv true ws s
      else .next (s.modAct c fun t => t.nestStep e)
    | none => .next (s.decodeTrapAt c e.stream .illOp { addr := off })
  | none =>
    let (n, out) := n.iterate
    let leaving := t.pre.isSome || (s.cell c).sw.isSome
    .next (s.modAct c fun t =>
      let t := t.setSlot k { n with preClamp := n.preClamp && n.st != .idle }
      match out with
      | some (pc, stop) => t.modEng e fun x => { x with nest := none, pc := pc, stopped := x.stopped || (stop && leaving) }
      | none => t.modEng e fun x => { x with pc := wd n.offset })

/-! ### Who may issue -/

/-- The strand may issue: the team runs, is not being pre-empted or switched out, and no exception stops it. -/
def State.strandRuns (s : State) (c : Nat) (t : Team) : Bool :=
  !t.ended && t.pre.isNone && !t.halted && (s.cell c).sw.isNone && !(s.cell c).lost && s.boot.start == .up

/-- An engine stream may issue: in RUN, not held (R461), not stopped (R470); in privileged mode none issues. -/
def State.engineRuns (s : State) (c : Nat) (t : Team) (e : Engine) : Bool :=
  let x := t.eng e
  x.st == .run && !x.held && !x.stopped && !t.priv && !t.ended && !t.halted && !(s.cell c).lost && s.boot.start == .up

/-- A stream issues its next instruction. A stream that may not issue does nothing. -/
def issueStream (run : Runner) (c : Nat) (st : Stream) (s : State) : Res :=
  match (s.cell c).act with
  | none => .next s
  | some t =>
    match engineOf st with
    | none =>
      if !s.strandRuns c t then .next s
      else if !t.apend.isEmpty && !t.priv then .next (s.takeAsync c)
      else issueFetched run c .strand t (s.modAct c fun t => { t with started := true })
    | some e =>
      if !s.engineRuns c t e then .next s
      else match (t.eng e).nest with
        | some k => issueNest run c e k t s
        | none => issueFetched run c st t s

/-! ### Near-bank units (R341, R425) -/

def State.unit (s : State) (n : Nat) : NbUnit := Sparse.get {} s.nb n
def State.setUnit (s : State) (n : Nat) (u : NbUnit) : State := { s with nb := Sparse.set {} s.nb n u }

/-- The words at a unit's counter; beyond the 64-word store there is none. -/
def NbUnit.words (u : NbUnit) : List W32 :=
  match u.prog[u.pc]? with
  | none => []
  | some w =>
    match wordCount w with
    | none => [w]
    | some n => (u.prog.drop u.pc).take n

/-- A running unit issues its next word; `ill` is what an illegal word does. -/
def issueUnit (run : Runner) (ill : Nat -> State -> State) (n : Nat) (s : State) : Res :=
  let u := s.unit n
  if u.st != .run then .next s
  else match decodeUnitOp u.words with
    | some (o, f) => run o f { s with cur := .unit n }
    | none => .next (ill n { s with cur := .unit n })

/-! ### Moves (log 1) -/

/-- The next instruction of an agent. -/
def issueAgent (run : Runner) (ill : Nat -> State -> State) (g : Agent) (s : State) : Res :=
  match g with
  | .stream c st => issueStream run c st { s with cur := g }
  | .unit n => issueUnit run ill n { s with cur := g }

/-! ### Placing one instruction for the next step (log 6) -/

/-- The page table, handle table and registers of context 1: flat 0 maps local memory at 0x4000_0000 by one 1 GiB leaf,
and handle 0 is a window on its first 64 KiB. -/
def bootCtx (s : State) : State :=
  let regs : CtxRegs := { htbase := 0x30000, htsize := 1, ptroot := 0x10000 }
  let s := s.sysWr 0x10000 (leBytes 8 (2 ^ 63 + 0x20000))
  let s := s.sysWr 0x20000 (leBytes 8 (2 ^ 63 + 2 ^ 62 + at_ 2 60 + at_ 1023 50 + 0x4000))
  let s := s.sysWr 0x30000 (leBytes 16 (at_ (2 ^ 55 + 0x10000) 64))
  s.modCtx 1 fun c => { c with regs := regs, pend := regs }

/-- The stream that issues an instruction of these words when it is placed for the next step. -/
def streamFor (ws : List W32) : Stream :=
  match ws with
  | [] => .strand
  | w :: _ =>
    ((naturalStreams w).find? fun st => match decodeOp st true false ws with
      | .ok _ => true
      | .error _ => false).getD .strand

/-- Place the bytes of one instruction where the next step issues it: in the store of near-bank unit 0 for the near-bank
class, otherwise at offset 0 of the code of a team of context 1 in stage A of cell 0, whose stream is about to fetch it. The
device is up, as after START_COMPLETE (R519). -/
def placeInstr (bs : List Byte) (s : State) : State :=
  let ws := ((takeWords 3 bs).map (·.1)).getD []
  let w0 := ws.headD 0
  let one := ws.take ((wordCount w0).getD 1)
  let up : Boot := { s.boot with start := .up, ready := true }
  if w0.cls == 6 then
    { (s.setUnit 0 { st := .run, prog := one }) with cur := .unit 0, inputs := [], boot := up }
  else
    let st := streamFor one
    let s := (bootCtx s).sysWr 0x40000000 bs
    let t : Team := { asid := 1, priv := w0.cls == 5 }
    let t := match engineOf st with
      | some e => t.setEng e { st := .run }
      | none => t
    { (s.setCell 0 { a := some t }) with cur := .stream 0 st, inputs := [], boot := up }

end Sys2Proof.Machine
end

