-- ==== Sys2Proof/Machine/Special.lean ====
section
/-! DEFINITION. The special functions of R257 and R258. The spec fixes a result only up to an error bound: the result bits
are the free value `Config.special`, kept within the bound (log 12). The bound is judged against a fixed-point value of the
function, good to about 400 binary places. -/
namespace Sys2Proof.Machine

/-- The eight functions, in the order of their opcodes. -/
inductive SpFn where
  | rcp | rsq | exp | log | tanh | sigm | gelu | sin
  deriving DecidableEq, Repr

def SpFn.index : SpFn → Nat
  | .rcp => 0 | .rsq => 1 | .exp => 2 | .log => 3 | .tanh => 4 | .sigm => 5 | .gelu => 6 | .sin => 7

/-! ### Fixed point: an integer stands for that many 2 ^ -fixP -/

def fixP : Nat := 700
def fixOne : Int := ((2 ^ fixP : Nat) : Int)
def fixMul (a b : Int) : Int := (a * b).ediv fixOne

/-- `sum of c_k`, where c_0 = `term` and c_(k+1) = c_k * r / k: the exponential series. -/
def expSeries (r : Int) : Nat → Nat → Int → Int → Int
  | 0, _, _, acc => acc
  | fuel + 1, k, term, acc =>
    let term' := (fixMul term r).ediv (k + 1 : Nat)
    expSeries r fuel (k + 1) term' (acc + term')

/-- t + t^3 / 3 + t^5 / 5 + ..., with `s` = 1; alternating with `s` = -1. `pw` is t ^ (2k+1). -/
def atanSeries (s t2 : Int) : Nat → Nat → Int → Int → Int
  | 0, _, _, acc => acc
  | fuel + 1, k, pw, acc =>
    let pw' := s * fixMul pw t2
    atanSeries s t2 fuel (k + 1) pw' (acc + pw'.ediv (2 * k + 3 : Nat))

/-- atanh (s = 1) or atan (s = -1) of a fixed-point number at most 1/3. -/
def atanFix (s t : Int) : Int := atanSeries s (fixMul t t) 230 0 t t

def fixLn2 : Int := 2 * atanFix 1 (fixOne.ediv 3)
def fixPi : Int := 16 * atanFix (-1) (fixOne.ediv 5) - 4 * atanFix (-1) (fixOne.ediv 239)

/-- An approximate real `n * 2 ^ e`. -/
structure Approx where
  n : Int
  e : Int
  deriving DecidableEq, Repr

/-- e to the power of a fixed-point number: mantissa in fixed point and power of two. -/
def expFix (x : Int) : Int × Int :=
  let k := x.ediv fixLn2
  (expSeries (x - k * fixLn2) 150 0 fixOne fixOne, k)

/-- A fixed-point number times a power of two. -/
def fixShift (a : Int) (k : Int) : Int := if 0 ≤ k then a * ((2 ^ k.toNat : Nat) : Int) else a.ediv ((2 ^ (-k).toNat : Nat) : Int)

/-- e to the power of x, clamped to at most 2 ^ 20 in size, in fixed point. -/
def expOf (x : Int) : Int := let (m, k) := expFix (max (-600 * fixOne) (min (600 * fixOne) x)); fixShift m k

/-- The natural logarithm of `m * 2 ^ e`. -/
def logFix (m : Nat) (e : Int) : Int :=
  let k : Int := (Nat.log2 m : Int)
  let y := fixShift (m : Int) (fixP - k)
  let t := ((y - fixOne) * fixOne).ediv (y + fixOne)
  2 * atanFix 1 t + (k + e) * fixLn2

/-- x - x^3/3! + ... -/
def sinSeries (x2 : Int) : Nat → Nat → Int → Int → Int
  | 0, _, _, acc => acc
  | fuel + 1, k, term, acc =>
    let term' := (-(fixMul term x2)).ediv ((2 * k + 2) * (2 * k + 3) : Nat)
    sinSeries x2 fuel (k + 1) term' (acc + term')

def sinFix (x : Int) : Int :=
  let r := x.emod (2 * fixPi) - fixPi
  -- sin x = - sin (x - pi)
  Int.neg (sinSeries (fixMul r r) 130 0 r r)

/-- The series of R257's Φ: x^(2k+1) (-1)^k / (2^k k! (2k+1)); `pw` is the part without 2k+1. -/
def phiSeries (x2 : Int) : Nat → Nat → Int → Int → Int
  | 0, _, _, acc => acc
  | fuel + 1, k, pw, acc =>
    let pw' := (-(fixMul pw x2)).ediv (2 * (k + 1) : Nat)
    phiSeries x2 fuel (k + 1) pw' (acc + pw'.ediv (2 * k + 3 : Nat))

/-- The standard normal distribution function, for |x| at most 20. -/
def phiFix (x : Int) : Int :=
  let root : Int := (Nat.sqrt (2 * fixPi * fixOne).toNat : Int)
  fixOne / 2 + (phiSeries (fixMul x x) 900 0 x x * fixOne).ediv root

/-- The value of a function at a finite non-zero argument, nearly. -/
def SpFn.approx (f : SpFn) (neg : Bool) (m : Nat) (e : Int) : Approx :=
  let x := fixShift (signedAt neg m 0) (e + fixP)
  let small := max (-1000 * fixOne) (min (1000 * fixOne) x)
  match f with
  | .rcp => { n := signedAt neg (2 ^ fixP / m) 0, e := -(fixP : Int) - e }
  | .rsq =>
    let odd := e.emod 2
    let m' := if odd = 1 then 2 * m else m
    { n := ((2 ^ (2 * fixP) / Nat.sqrt (m' * 2 ^ (2 * fixP)) : Nat) : Int), e := -(fixP : Int) - (e - odd) / 2 }
  | .exp =>
    let (a, k) := expFix small
    { n := a, e := k - fixP }
  | .log => { n := logFix m e, e := -(fixP : Int) }
  | .tanh =>
    let a := expOf (max (-100 * fixOne) (min (100 * fixOne) (2 * small)))
    { n := ((a - fixOne) * fixOne).ediv (a + fixOne), e := -(fixP : Int) }
  | .sigm => { n := (fixOne * fixOne).ediv (fixOne + expOf (max (-300 * fixOne) (min (300 * fixOne) (-small)))), e := -(fixP : Int) }
  | .gelu =>
    if 20 * fixOne < x then { n := signedAt neg m 0, e := e }
    else if x < -20 * fixOne then { n := 0, e := -(fixP : Int) }
    else { n := fixMul x (phiFix x), e := -(fixP : Int) }
  | .sin => { n := sinFix x, e := -(fixP : Int) }

/-! ### The bound (R257) -/

/-- |a * 2 ^ e - b * 2 ^ f| is at most `bn * 2 ^ be`. -/
def nearBy (a : Int) (e : Int) (b : Int) (f : Int) (bn : Nat) (be : Int) : Bool :=
  let lo := min e (min f be)
  let up := fun (v : Int) (p : Int) => v * ((2 ^ (p - lo).toNat : Nat) : Int)
  decide ((up a e - up b f).natAbs ≤ (up (bn : Int) be).natAbs)

/-- |a * 2 ^ e - b * 2 ^ f| is less than 2 ^ be. -/
def nearerThan (a : Int) (e : Int) (b : Int) (f : Int) (be : Int) : Bool :=
  let lo := min e (min f be)
  let up := fun (v : Int) (p : Int) => v * ((2 ^ (p - lo).toNat : Nat) : Int)
  decide ((up a e - up b f).natAbs < (up 1 be).natAbs)

/-- Floor of log2 of a non-zero approximate value. -/
def Approx.log2 (t : Approx) : Int := (Nat.log2 t.n.natAbs : Int) + t.e

/-- A finite result lies within the bound of its grade. -/
def SpFn.within (f : SpFn) (acc : Bool) (neg : Bool) (m : Nat) (e : Int) (t : Approx) (y : Int) (ye : Int) : Bool :=
  let rel := nearBy y ye t.n t.e t.n.natAbs (t.e - 12)
  let abs12 := nearBy y ye t.n t.e 1 (-12)
  if acc then nearerThan y ye t.n t.e (if t.n = 0 then -149 else max (t.log2 - 23) (-149))
  else match f with
    | .rcp | .rsq | .exp => rel
    | .log => if (Nat.log2 m : Int) + e = -1 || (Nat.log2 m : Int) + e = 0 || (m = 2 ^ Nat.log2 m && (Nat.log2 m : Int) + e = 1)
        then abs12 else rel
    | .tanh | .sigm | .gelu => abs12 || nearBy y ye t.n t.e m (e - 12)
    | .sin => if (Nat.log2 m : Int) + e < 8 then abs12 else (if nearBy (signedAt neg m 0) e 0 0 256 0 then abs12 else nearBy y ye 0 0 1 0)

/-- A finite result that is the exact value: of all functions only the reciprocal of a power of two has one that is tiny (R60). -/
def SpFn.hits (f : SpFn) (neg : Bool) (m : Nat) (e : Int) (y : BitVec 32) : Bool :=
  f == .rcp && m == 2 ^ Nat.log2 m && match fp32.value y.toNat with
    | .num yn k ye =>
      let t := f.approx neg m e
      nearBy (signedAt yn k 0) ye t.n t.e 0 0
    | _ => false

/-- Below the smallest normal. -/
def Approx.tiny (t : Approx) : Bool := t.n == 0 || decide (t.log2 < -126)

/-- A finite result of a function at a finite non-zero argument, with its flags (R257, R258, R60). -/
def SpFn.finite (f : SpFn) (acc : Bool) (x : BitVec 32) (neg : Bool) (m : Nat) (e : Int) : BitVec 32 × Flags :=
  let t := f.approx neg m e
  let tn := decide (t.n < 0) || (t.n == 0 && neg)
  if t.n ≠ 0 ∧ (127 < t.log2 ∨ (t.log2 = 127 ∧ !nearBy 0 0 t.n t.e (2 ^ 24 - 1) 104)) then
    (BitVec.ofNat 32 (fp32.signed tn fp32.infCode), fOF ||| fNX)
  else if !acc && t.tiny then (BitVec.ofNat 32 (fp32.signed tn 0), fUF ||| fNX)
  else
    let pick := Config.special f.index acc x
    let y := match fp32.value pick.toNat with
      | .num yn k ye => if f.within acc neg m e t (signedAt yn k 0) ye then pick
          else BitVec.ofNat 32 (fp32.roundRat .rne tn t.n.natAbs 1 t.e).1
      | _ => BitVec.ofNat 32 (fp32.roundRat .rne tn t.n.natAbs 1 t.e).1
    if !acc && fp32.subnormal y.toNat then (BitVec.ofNat 32 (fp32.flush y.toNat), fUF ||| fNX)
    else (y, if t.tiny && !f.hits neg m e y then fUF ||| fNX else fNX)

def nan32 : BitVec 32 := 0x7FC00000

/-- A special function (R257, R258). -/
def SpFn.run (f : SpFn) (acc : Bool) (x : BitVec 32) : BitVec 32 × Flags :=
  let x := if acc then x else BitVec.ofNat 32 (fp32.flush x.toNat)
  let inf := fun (n : Bool) => BitVec.ofNat 32 (fp32.signed n fp32.infCode)
  let zero := fun (n : Bool) => BitVec.ofNat 32 (fp32.signed n 0)
  match fp32.value x.toNat with
  | .nan => (nan32, 0)
  | .inf n =>
    match f with
    | .rcp => (zero n, 0)
    | .rsq | .log => if n then (nan32, fNV) else (if f = .rsq then (zero false, 0) else (inf false, 0))
    | .exp => (if n then zero false else inf false, 0)
    | .tanh => (if n then 0xBF800000 else 0x3F800000, 0)
    | .sigm => (if n then zero false else 0x3F800000, 0)
    | .gelu => (if n then zero true else inf false, 0)
    | .sin => (nan32, fNV)
  | .num n 0 _ =>
    match f with
    | .rcp | .rsq => (inf n, fDZ)
    | .exp => (0x3F800000, 0)
    | .log => (inf true, fDZ)
    | .tanh | .gelu | .sin => (zero n, 0)
    | .sigm => (0x3F000000, 0)
  | .num n m e =>
    if n && (f == .rsq || f == .log) then (nan32, fNV)
    else if f == .log && x == 0x3F800000 then (zero false, 0)
    else f.finite acc x n m e

end Sys2Proof.Machine
end

