-- ==== Sys2Proof/Machine/VecOps.lean ====
section
/-! DEFINITION. Operands and results of the vector stream: lanes, elements, swizzles and masks (R174 to R179, R245, R246),
exposed-latency results (R237 to R243), and the frames of lane-wise instructions. -/
namespace Sys2Proof.Machine

/-- A vector-stream instruction. -/
def vecOp (len : Nat) (body : M Unit) (s : State) : Res := engineOp .vector len body s

/-! ### Lanes -/

/-- The 128 lanes of a register or latch as they stand. -/
def Shared.lanesOf (x : Shared) (r : Nat) : List (BitVec 32) :=
  let part := x.v.filter fun p => p.1 / 128 == r
  (List.range 128).map fun i => Sparse.get 0 part (laneKey r i)

/-- The 128 bits of a mask as they stand. -/
def Shared.maskOf (x : Shared) (m : Nat) : List Bool := (List.range 128).map fun i => Sparse.get false x.m (128 * m + i)

/-- Swizzles (R179), as the source unit of each unit from the high end: unit size in bits, and the list. -/
def swizzle (k : Nat) (w : BitVec 32) : BitVec 32 :=
  let pick := fun (n : Nat) (l : List Nat) =>
    BitVec.ofNat 32 (l.foldl (fun a i => a * 2 ^ n + w.toNat / 2 ^ (n * i) % 2 ^ n) 0)
  match k with
  | 1 => pick 8 [2, 3, 0, 1]
  | 2 => pick 8 [1, 0, 3, 2]
  | 3 => pick 8 [0, 1, 2, 3]
  | 4 => pick 4 [6, 7, 4, 5, 2, 3, 0, 1]
  | 5 => pick 8 [0, 0, 0, 0]
  | 6 => pick 8 [1, 0, 1, 0]
  | 7 => pick 4 [0, 1, 2, 3, 4, 5, 6, 7]
  | _ => w

/-- The lanes of VS1 after the swizzle. -/
def srcA (x : Shared) (v : V64) : List (BitVec 32) := (x.lanesOf v.r.vs1.toNat).map (swizzle v.swz.toNat)

/-- Active lanes (R177). -/
def activeLanes (x : Shared) (v : V64) : List Bool :=
  if v.men = 0 then List.replicate 128 true else x.maskOf v.msk.toNat

/-- Position and width of the elements of a 32-bit lane (R178, R245). -/
def elemsOf (ty : BitVec 4) (hs : BitVec 2) : List (Nat × Nat) :=
  match tyWidth ty with
  | 8 => [(0, 8), (8, 8), (16, 8), (24, 8)]
  | 16 => if hs = 1 then [(0, 16)] else if hs = 2 then [(16, 16)] else [(0, 16), (16, 16)]
  | _ => [(0, 32)]

/-- The register or latch that a result lands in (R175). -/
def dstReg (v : V32) : Nat := if v.wbs = 1 then 64 + v.vd.toNat % 4 else v.vd.toNat

/-- The full form of a short one (R170). -/
def vFull (v : V32) (ty : BitVec 4) : V64 :=
  { r := v, f := 0, l := 0, lv := 0, vs3 := 0, men := 0, msk := 0, ty := ty, rnd := 0, sq := 0, hs := 0, swz := 0, fn := 0 }

/-! ### Results -/

/-- A result of latency `lat`. -/
def addLanding (l : Landing) : M Unit := modShared fun x => { x with landings := x.landings ++ [l] }

/-- What a lane contributes to a result: the bits written, their value, the flags. -/
abbrev LaneOut := BitVec 32 × BitVec 32 × Flags

/-- The elements of one lane. -/
def laneElems (es : List (Nat × Nat)) (f : Nat → Nat → Nat → Nat × Flags) (a b c : BitVec 32) : LaneOut :=
  es.foldl (fun (m, v, fl) (lo, n) =>
    let e := fun (w : BitVec 32) => w.toNat / 2 ^ lo % 2 ^ n
    let r := f (e a) (e b) (e c)
    (m ||| BitVec.ofNat 32 ((2 ^ n - 1) * 2 ^ lo), v ||| BitVec.ofNat 32 (r.1 % 2 ^ n * 2 ^ lo), fl ||| r.2)) (0, 0, 0)

/-- Lists of lanes taken together: lane number, active, a, b, c. -/
def laneRows (act : List Bool) (a b c : List (BitVec 32)) : List (Nat × Bool × BitVec 32 × BitVec 32 × BitVec 32) :=
  (List.range 128).zip (act.zip (a.zip (b.zip c)))

def allFlags (fs : List Flags) : Flags := fs.foldl (· ||| ·) 0

/-- A lane-wise instruction (R245, R246, R248): `f` works on elements of the type; a 64-bit type uses pairs. -/
def laneWise (v : V64) (lat : Nat) (f : Nat → Nat → Nat → Nat × Flags) : M Unit := do
  let x <- shared
  let act := activeLanes x v
  let d := dstReg v.r
  if ty64 v.ty then
    let pair := fun (r : Nat) => ((x.lanesOf r).zip (x.lanesOf (r + 1))).map fun p => p.1.toNat + 2 ^ 32 * p.2.toNat
    let rows := (List.range 128).zip (act.zip ((pair v.r.vs1.toNat).zip ((pair v.r.vs2.toNat).zip (pair v.vs3.toNat))))
    let outs := (rows.filter fun r => r.2.1).map fun (i, _, a, b, c) => (i, f a b c)
    addLanding
      { rem := lat, sq := v.sq == 1,
        lanes := outs.flatMap fun (i, r) =>
          [(laneKey d i, 0xFFFFFFFF, BitVec.ofNat 32 r.1), (laneKey (d + 1) i, 0xFFFFFFFF, BitVec.ofNat 32 (r.1 / 2 ^ 32))],
        flags := allFlags (outs.map (·.2.2)) }
  else
    let rows := laneRows act (srcA x v) (x.lanesOf v.r.vs2.toNat) (x.lanesOf v.vs3.toNat)
    let outs := (rows.filter fun r => r.2.1).map fun (i, _, a, b, c) => (i, laneElems (elemsOf v.ty v.hs) f a b c)
    addLanding
      { rem := lat, sq := v.sq == 1, lanes := outs.map fun (i, m, w, _) => (laneKey d i, m, w),
        flags := allFlags (outs.map fun o => o.2.2.2) }

/-- A result of whole 32-bit lanes. -/
def wholeLanes (v : V64) (lat d : Nat) (ls : List (Nat × BitVec 32)) (fl : Flags := 0) : M Unit :=
  addLanding { rem := lat, sq := v.sq == 1, lanes := ls.map fun p => (laneKey d p.1, 0xFFFFFFFF, p.2), flags := fl }

/-- Only the active lanes of a list. -/
def keepActive {α : Type} (act : List Bool) (ls : List α) : List (Nat × α) :=
  (((List.range 128).zip (act.zip ls)).filter fun p => p.2.1).map fun p => (p.1, p.2.2)

/-- Bits of a mask as a result. -/
def maskResult (v : V64) (lat : Nat) (act : List Bool) (bs : List Bool) : M Unit :=
  addLanding { rem := lat, sq := v.sq == 1,
               bits := (keepActive act bs).map fun p => (128 * (v.r.vd.toNat % 16) + p.1, p.2) }

/-! ### Cycles, waits and branches (R237, R241, R242) -/

/-- The stream waits until nothing is pending (R242). -/
def waitLanded : M Unit := do
  let s <- get
  waitFor (s.landed (<- theCell))

/-- A cycle in which the stream issues nothing. -/
def idleCycle : M Unit := do
  let c <- theCell
  modify fun s => s.streamCycle c

def idleCycles : Nat → M Unit
  | 0 => pure ()
  | n + 1 => do
    idleCycle
    idleCycles n

/-- A taken branch kills squashable results that do not land in this cycle, and has two bubble cycles (R241, R237). -/
def takenBranch (off : Word) : M Unit := do
  modShared fun x => { x with landings := x.landings.filter fun l => !(l.sq && decide (1 < l.rem)) }
  jumpTo off
  idleCycles 2

end Sys2Proof.Machine
end

