-- ==== Sys2Proof/Machine/Matrix.lean ====
section
/-! DEFINITION. The matrix engine: tile slots as it reads them (R278 to R280), the checks of an instruction (R68, R281,
R301), products and generated matrices (R287 to R289), the other matrix instructions (R290 to R299), and the landing of a
product (R285, R302). -/
namespace Sys2Proof.Machine

/-- A matrix-stream instruction. -/
def matOp (len : Nat) (body : M Unit) (s : State) : Res := engineOp .matrix len body s

/-! ### Tile slots (R278 to R280) -/

def Team.tile (t : Team) (n : Nat) : Tile := Sparse.get {} t.tiles n
def Team.setTile (t : Team) (n : Nat) (x : Tile) : Team := { t with tiles := Sparse.set {} t.tiles n x }
def Team.modTile (t : Team) (n : Nat) (f : Tile → Tile) : Team := t.setTile n (f (t.tile n))
def Team.setFull (t : Team) (n : Nat) (b : Bool) : Team := t.modTile n fun x => { x with full := b }

/-- Exact vault offset of line `i`. -/
def Tile.line (x : Tile) (off : Int) (i : Nat) : Int := (x.base.toNat : Int) + off + i * x.pitch.toNat

/-- Elements per line of an instruction (R180) for two containers in bits. -/
def kOf (ca cb : Nat) : Nat := 1024 / max ca cb

/-- Physical entry of a logical one (R283). -/
def physRow (m r c : Nat) : Nat := r + m * (c / 128)

/-! ### Checks (R281, R301) -/

/-- Check 1 of R281. -/
def slotValid (x : Tile) : M Unit := need (x.valid && x.base.toNat % 64 == 0 && x.pitch.toNat % 64 == 0) .tileInvalid

/-- Check 3 of R281 for `n` bytes at an exact offset. -/
def bytesInside (off : Int) (n : Nat) : M Unit := do
  let t <- team
  need (decide (0 ≤ off ∧ off + n ≤ (t.valloc * 65536 : Nat))) .vaultBound { addr := offsetOf off }

/-- R281 for a slot of which `need_` rows are used, as lines of `len` bytes at the given row numbers. -/
def slotCheck (n : Nat) (rows : Nat) (off : Int) (lines : List Nat) (len : Nat) : M Unit := do
  let x := (<- team).tile n
  slotValid x
  need (decide (rows ≤ x.rows.toNat)) .tileExtent
  lines.forM fun i => bytesInside (x.line off i) len

/-- R281 for a run of bytes at a slot's base: an index slot, a row table or MOWN's destination. -/
def runCheck (n : Nat) (rows : Nat) (len : Nat) : M Unit := do
  let x := (<- team).tile n
  slotValid x
  need (decide (rows ≤ x.rows.toNat)) .tileExtent
  bytesInside (x.base.toNat : Int) len

/-- 16-bit entries of an index slot as the vault holds them. -/
def Team.idxRaw (t : Team) (n m : Nat) : List Nat :=
  let bs := t.vaultRaw (t.tile n).base.toNat (2 * m)
  (List.range m).map fun r => leNat ((bs.drop (2 * r)).take 2)

/-- What a product reads: precision fields and exact address-generator offsets. -/
structure PReq where
  /-- 0 MMA, 1 MMAZ, 2 MMAG, 3 MCONST. -/
  kind : Nat := 0
  pa : BitVec 32 := 0
  pb : BitVec 32 := 0
  aOff : Int := 0
  bOff : Int := 0
  deriving DecidableEq, Repr

/-- Chunks of one instruction (R180, R289). -/
def PReq.chunks (q : PReq) : Nat :=
  (if q.kind = 3 then 1024 / pfBits q.pb else kOf (pfBits q.pa) (pfBits q.pb)) / 64

def groupsOf (n : Nat) : Nat := ceilDiv n 128

/-- MCONST's .perm and .anc, and MMAG, read index entries (R286). -/
def readsIdx (kind : Nat) (x : M64) : Bool := kind == 2 || (kind == 3 && (x.sub == 1 || x.sub == 3))

/-- Check 2 of R301 for a product. -/
def precChecks (x : M64) (q : PReq) : M Unit := do
  if q.kind ≠ 3 then need (!precBad q.pa x.ta.toNat true) .illPrec
  need (!precBad q.pb x.tb.toNat false) .illPrec

/-- Checks 3 and 4 of R301 for a product. -/
def slotChecks (x : M64) (q : PReq) : M Unit := do
  let t <- team
  let m := x.rows
  let n := x.cols
  let j := q.chunks
  if q.kind = 2 then
    let named := (t.idxRaw x.tc.toNat m).filter fun i => decide (i < (t.tile x.ta.toNat).rows.toNat)
    slotCheck x.ta.toNat m q.aOff named 128
  else if q.kind ≠ 3 then slotCheck x.ta.toNat m q.aOff (List.range m) 128
  slotCheck x.tb.toNat n q.bOff (List.range n) 128
  if readsIdx q.kind x then runCheck x.tc.toNat m (2 * m)
  if q.kind ≠ 3 && pfScaled q.pa then
    let sl := t.tile (pfSslot q.pa)
    slotValid sl
    (List.range j).forM fun k => bytesInside ((sl.base.toNat : Int) + q.aOff * j + 128 * k) m
  if pfScaled q.pb then
    let sl := t.tile (pfSslot q.pb)
    let g := groupsOf n
    slotValid sl
    (List.range (g * j)).forM fun k =>
      bytesInside ((sl.base.toNat : Int) + q.bOff * (g * j : Nat) + 128 * k) (min 128 (n - 128 * (k / j)))
  if q.kind = 2 then
    let rows := (t.tile x.ta.toNat).rows.toNat
    need ((t.idxRaw x.tc.toNat m).all fun i => i == 0xFFFF || decide (i < rows)) .tileExtent

/-- Checks 2 to 4 of R301 for a product. -/
def productChecks (x : M64) (q : PReq) : M Unit := do
  precChecks x q
  slotChecks x q

/-- Row bytes of MCVT and MSCAT for a format. -/
def rowBytes (sub : BitVec 4) (n : Nat) : Nat := (if sub = 1 then 2 else 4) * n

/-- Check 3 of R301 for MCVT, and for MSCAT outside a pass cell. -/
def mcvtChecks (x : M64) (off : Int) : M Unit := slotCheck x.tc.toNat x.rows off (List.range x.rows) (rowBytes x.sub x.cols)
def mscatChecks (x : M64) : M Unit := do
  if (<- team).epilogue.isSome then need (x.tc == 0) .illRes
  else runCheck x.tc.toNat x.rows (8 * x.rows)

/-- Check 3 of R301 for MOWN: 128 entries of 8 bytes. -/
def mownChecks (x : M64) : M Unit := do
  slotValid ((<- team).tile x.tc.toNat)
  bytesInside (((<- team).tile x.tc.toNat).base.toNat : Int) 1024

/-! ### Products at issue (R282 to R289) -/

/-- A slot reads FULL. -/
def waitSlot (n : Nat) (full : Bool) : M Unit := do waitFor (((<- team).tile n).full == full)

/-- The bank is the matrix engine's (EMPTY). -/
def waitBank (bank : Bool) : M Unit := do waitFor (!(<- shared).full bank)

/-- No product into the bank is still to land (R284). -/
def waitProducts (bank : Bool) : M Unit := do waitFor (!(<- shared).array.any fun p => p.bank == bank)

/-- Tensor scale of an operand (R287). -/
def tensorOf (p ts : BitVec 32) : BitVec 32 := if pfSmode p = 2 then ts else 0x3F800000

/-- Issue a product: checks, waits, the bank's binding, the array queue of a running product and two more. -/
def issueProduct (kind : Nat) (x : M64) : M Unit := do
  let t <- team
  let ag <- agOffset (x.nra == 1) x.aga.toNat
  let bg <- agOffset (x.nrb == 1) x.agb.toNat
  let a := t.tile x.ta.toNat
  let b := t.tile x.tb.toNat
  let q : PReq := { kind := kind, pa := a.prec, pb := b.prec, aOff := ag, bOff := bg }
  productChecks x q
  if kind ≠ 3 then waitSlot x.ta.toNat true
  waitSlot x.tb.toNat true
  if readsIdx kind x then waitSlot x.tc.toNat true
  waitBank (x.ab == 1)
  waitFor (decide ((<- shared).array.length < 3))
  let idx <- if readsIdx kind x then
      (do let bs <- vaultLoad (t.tile x.tc.toNat).base.toNat (2 * x.rows)
          pure ((List.range x.rows).map fun r => leNat ((bs.drop (2 * r)).take 2)))
    else pure []
  let p : Product :=
    { kind := kind, sub := x.sub.toNat, bank := x.ab == 1, m := x.rows, n := x.cols, a := a, b := b,
      sa := t.tile (pfSslot a.prec), sb := t.tile (pfSslot b.prec), ta := x.ta.toNat, tb := x.tb.toNat,
      aOff := ag, bOff := bg, idx := idx }
  modShared fun sh =>
    { ((sh.setTensors (x.ab == 1) (if kind = 3 then 0x3F800000 else tensorOf a.prec a.tscale) (tensorOf b.prec b.tscale)).setDirty
        (x.ab == 1) true) with array := sh.array ++ [p] }

/-- MMA (R287). -/
def execMma (x : M64) (s : State) : Res := matOp 8 (issueProduct 0 x) s
/-- MMAZ (R287). -/
def execMmaz (x : M64) (s : State) : Res := matOp 8 (issueProduct 1 x) s
/-- MMAG (R287, R288). -/
def execMmag (x : M64) (s : State) : Res := matOp 8 (issueProduct 2 x) s
/-- MCONST (R289). -/
def execMconst (x : M64) (s : State) : Res := matOp 8 (issueProduct 3 x) s

/-! ### A product in the array (R287, R289, R302) -/

/-- Elements of a line: element `k` lies at bits [c(k+1)-1 : ck] (R279). -/
def lineElems (bs : List Byte) (c k : Nat) : List Nat :=
  let v := leNat bs
  (List.range k).map fun i => v / 2 ^ (c * i) % 2 ^ c

/-- The bytes of a line, and whether a poisoned word lies in it. -/
def lineOf (t : Team) (x : Tile) (off : Int) (i : Nat) : List Byte × Bool :=
  let o := (x.line off i).toNat
  (t.vaultRaw o 128, (t.vaultRd o 128).isNone)

/-- The chunks of a row or column from its elements. -/
def chunksOf (prec : BitVec 32) (j : Nat) (xs : List Nat) (bad : Bool) : List Chunk :=
  (List.range j).map fun k =>
    let c := enterChunk prec ((xs.drop (64 * k)).take 64)
    { c with bad := c.bad || bad }

/-- anc(r) of R289. -/
def ancOf (idx : List Nat) : Nat → Nat → List Nat
  | 0, x => [x]
  | fuel + 1, x => let y := idx.getD x 0xFFFF; if y < x then x :: ancOf idx fuel y else [x]

/-- The ones of a generated row (R289). -/
def genRow (sub r k : Nat) (idx : List Nat) : List Int :=
  let ones := fun (f : Nat → Bool) => (List.range k).map fun i => if f i then (1 : Int) else 0
  match sub with
  | 0 => ones fun i => i == r
  | 1 => ones fun i => i == idx.getD r 0xFFFF
  | 2 => ones fun _ => true
  | _ => let set := ancOf idx 128 r; ones fun i => set.contains i

/-- 64-element pieces of a generated row, of width 1 with X = 0. -/
def genChunks (j : Nat) (ms : List Int) : List Chunk :=
  (List.range j).map fun k => { ms := (ms.drop (64 * k)).take 64 }

def Product.chunks (p : Product) : Nat := ({ kind := p.kind, pa := p.a.prec, pb := p.b.prec } : PReq).chunks

/-- The A side: for each row its chunks, and whether it is a row of zeros (R288). -/
def Product.rowsA (p : Product) (t : Team) : List (List Chunk × Bool) :=
  let j := p.chunks
  let k := 64 * j
  (List.range p.m).map fun r =>
    if p.kind = 3 then (genChunks j (genRow p.sub r k p.idx), false)
    else
      let i := if p.kind = 2 then p.idx.getD r 0xFFFF else r
      if p.kind = 2 && i == 0xFFFF then (chunksOf p.a.prec j (List.replicate k 0) false, true)
      else
        let (bs, bad) := lineOf t p.a p.aOff i
        (chunksOf p.a.prec j (lineElems bs (pfBits p.a.prec) k) bad, false)

/-- The B side: for each column its chunks. -/
def Product.colsB (p : Product) (t : Team) : List (List Chunk) :=
  let j := p.chunks
  (List.range p.n).map fun c =>
    let (bs, bad) := lineOf t p.b p.bOff c
    chunksOf p.b.prec j (lineElems bs (pfBits p.b.prec) (64 * j)) bad

/-- A block-scale byte (R280); a poisoned one reads as a NaN. -/
def scaleByte (t : Team) (x : Tile) (off : Int) : Nat :=
  let o := ((x.base.toNat : Int) + off).toNat
  match t.vaultRd o 1 with
  | some bs => leNat bs
  | none => 0x7F

/-- Scale of A row `r` in chunk `k`. A row of zeros sets no INVALID bit (R71); the model takes 1.0 in place of a NaN scale there, which fixes
the exponents that the products of zero have (log 92). -/
def Product.scaleA (p : Product) (t : Team) (zero : Bool) (r k : Nat) : Option Nat :=
  if p.kind ≠ 3 && pfScaled p.a.prec then
    let v := scaleByte t p.sa (p.aOff * p.chunks + 128 * k + r)
    some (if zero && (scaleInt v).isNone then 0x38 else v)
  else none

/-- Scale of B column `c` in chunk `k`. -/
def Product.scaleB (p : Product) (t : Team) (c k : Nat) : Option Nat :=
  if pfScaled p.b.prec then
    let g := c / 128
    let j := p.chunks
    some (scaleByte t p.sb (p.bOff * (groupsOf p.n * j : Nat) + (128 * (g * j + k) + c - 128 * g : Nat)))
  else none

/-- One entry of a product: its chunks in ascending order (R75). -/
def Product.entry (p : Product) (t : Team) (r c : Nat) (ra : List Chunk × Bool) (cb : List Chunk) (e : AccE) : AccE :=
  let e := if p.kind = 1 || p.kind = 3 then {} else e
  ((ra.1.zip cb).zipIdx).foldl (fun e (ab, k) =>
    let (bad, q, ep) := partialOf ab.1 ab.2 (p.scaleA t ra.2 r k) (p.scaleB t c k)
    e.addPartial bad q ep) e

/-- The entries of a product land (R285, R287). -/
def Product.run (p : Product) (t : Team) (x : Shared) : Shared :=
  let as := p.rowsA t
  let bs := p.colsB t
  as.zipIdx.foldl (fun x (ra, r) => bs.zipIdx.foldl (fun x (cb, c) =>
    let row := physRow p.m r c
    x.setAcc p.bank row (c % 128) (p.entry t r c ra cb (x.accOf p.bank row (c % 128)))) x) x

/-- A byte at an exact vault offset of a slot lies in a poisoned word. -/
def illByte (t : Team) (x : Tile) (off : Int) : Bool := (t.vaultRd ((x.base.toNat : Int) + off).toNat 1).isNone

/-- A poisoned vault word lies in a line or a scale byte that feeds row `r` of a product from its A side (R302). -/
def Product.illRow (p : Product) (t : Team) (r : Nat) : Bool :=
  let i := if p.kind = 2 then p.idx.getD r 0xFFFF else r
  p.kind != 3 && (((p.kind != 2 || i != 0xFFFF) && (lineOf t p.a p.aOff i).2)
    || (pfScaled p.a.prec && (List.range p.chunks).any fun k => illByte t p.sa (p.aOff * p.chunks + 128 * k + r)))

/-- The same for column `c` from the B side. -/
def Product.illCol (p : Product) (t : Team) (c : Nat) : Bool :=
  let j := p.chunks
  let g := c / 128
  (lineOf t p.b p.bOff c).2 || (pfScaled p.b.prec && (List.range j).any fun k =>
    illByte t p.sb (p.bOff * (groupsOf p.n * j : Nat) + (128 * (g * j + k) + c - 128 * g : Nat)))

/-- Some line or scale byte that the product reads is poisoned (R302). -/
def Product.poisoned (p : Product) (t : Team) : Bool :=
  (List.range p.m).any (p.illRow t) || (List.range p.n).any (p.illCol t)

/-- The physical rows that hold an entry fed by such a line or byte (R302, R283). -/
def Product.illRows (p : Product) (t : Team) : List Nat :=
  (List.range p.m).flatMap fun r => (List.range (groupsOf p.n)).filterMap fun g =>
    if p.illRow t r || (span (128 * g) (min 128 (p.n - 128 * g))).any (p.illCol t) then some (physRow p.m r (128 * g)) else none

/-- PRODUCT_LAND (R285, R302): the oldest product of the cell that the event names lands. -/
def execProductLand (s : State) : Res :=
  let c := s.arg.a
  let x := s.cell c
  match x.sh.array, x.act with
  | p :: rest, some t =>
    if t.halted then .next s
    else
      let s := s.modCell c fun x => { x with sh := p.run t { x.sh with array := rest } }
      if p.poisoned t then
        (match t.epilogue with
         | some h =>
           let s := s.logError { cause := .mePoison, strm := 2, asid := t.asid, time := s.now, addr := h }
           let s := (p.illRows t).foldl (fun s r => s.raiseFlags c (some r) fNV) s
           .next s
         | none => .next (s.raiseAsync (.here c x.active) .mePoison))
      else .next s
  | _, _ => .next s

/-! ### The other instructions (R290 to R299) -/

/-- MPREC (R290). -/
def execMprec (x : M96) (s : State) : Res :=
  matOp 12 (modTeam fun t => t.modTile x.x.tc.toNat fun d => { d with prec := x.lit }) s

/-- MSCALE (R291). -/
def execMscale (x : M64) (s : State) : Res :=
  matOp 8 (modTeam fun t => t.modTile x.tc.toNat fun d => { d with tscale := (t.sreg x.sreg.toNat).extractLsb' 0 32 }) s

/-- The entries that MOWN writes (R292). -/
def State.ownerEntries (s : State) (c : Nat) (t : Team) : List Word :=
  match t.epilogue, Tab.find s.rm.passes c with
  | some _, some p => (List.range 128).map fun r => match p.rows[r]? with
      | some x => wd (at_ 1 63 + at_ x.parked.toNat 62 + at_ (x.owner % 1024) 32 + x.task.toNat)
      | none => 0
  | _, _ => List.replicate 128 (wd (at_ 1 63 + at_ (t.asid % 1024) 32 + 0xFFFFFFFF))

/-- MOWN (R292, R282). -/
def execMown (x : M64) (s : State) : Res :=
  matOp 8 (do
    mownChecks x
    waitSlot x.tc.toNat false
    let t <- team
    let c <- theCell
    let ws := (<- get).ownerEntries c t
    vaultStore (t.tile x.tc.toNat).base.toNat (wordsBytes ws)
    modTeam fun t => t.setFull x.tc.toNat true) s

/-- MCLR (R293). -/
def execMclr (x : M64) (s : State) : Res :=
  matOp 8 (do
    let bank := x.ab == 1
    waitBank bank
    waitProducts bank
    modShared fun sh => ({ sh with acc := sh.acc.filter fun p => p.1 / 16384 != bank.toNat }).setDirty bank false) s

/-- One converted row: its bytes and flags (R294). -/
def convRow (x : Shared) (bank : Bool) (m n r : Nat) (half : Bool) : List Byte × Flags :=
  (List.range n).foldl (fun (acc : List Byte × Flags) c =>
    let v := (x.accOf bank (physRow m r c) (c % 128)).toFp32 (x.tensorA bank) (x.tensorB bank)
    if half then
      let h := bf16.convert .rne false (fp32.value v.1.toNat)
      (acc.1 ++ leBytes 2 h.1, acc.2 ||| v.2 ||| h.2)
    else (acc.1 ++ leBytes 4 v.1.toNat, acc.2 ||| v.2)) ([], 0)

/-- The flags of a row's conversion in the columns that satisfy `p` (R78). -/
def convFlags (x : Shared) (bank : Bool) (m n r : Nat) (half : Bool) (p : Nat → Bool) : Flags :=
  ((List.range n).filter p).foldl (fun fl c =>
    let v := (x.accOf bank (physRow m r c) (c % 128)).toFp32 (x.tensorA bank) (x.tensorB bank)
    fl ||| v.2 ||| (if half then (bf16.convert .rne false (fp32.value v.1.toNat)).2 else 0)) 0

/-- Raise a row's conversion flags (R78). -/
def rowFlags (r : Nat) (f : Flags) : M Unit := do
  let c <- theCell
  if f != 0 then modify fun s => s.raiseFlags c (some r) f

/-- MCVT (R294). -/
def execMcvt (x : M64) (s : State) : Res :=
  matOp 8 (do
    let off <- agOffset (x.nra == 1) x.aga.toNat
    mcvtChecks x off
    let bank := x.ab == 1
    waitBank bank
    waitProducts bank
    waitSlot x.tc.toNat false
    let sh <- shared
    let d := (<- team).tile x.tc.toNat
    (List.range x.rows).forM fun r => do
      let (bs, f) := convRow sh bank x.rows x.cols r (x.sub == 1)
      vaultStore (d.line off r).toNat bs
      rowFlags (physRow x.rows r 0) f
    modTeam fun t => t.setFull x.tc.toNat true) s

/-- One row of MSCAT outside a pass cell (R295, R296): the row of the fault record is DETAIL. -/
def scatRow (w : Who) (entry : Word) (ag : Int) (r : Nat) (bs : List Byte) : M Unit := do
  let h := fld entry 52 12
  let off := offsetOf ((fld entry 0 48 : Nat) + ag)
  let go : M Unit := do
    need (fld entry 48 3 == 0) .handleInvalid
    let (fa, ord) <- handleAt w.asid h off bs.length true
    storeWhole w fa ord bs
  match <- attempt go with
  | .ok _ => pure ()
  | .error (k, i) => trap k { i with detail := r }

/-- MSCAT (R295 to R298). In a pass cell a row is written for the column groups that it ran (R447), and the stores wait for
the scatter of the pass. -/
def execMscat (x : M64) (s : State) : Res :=
  matOp 8 (do
    mscatChecks x
    let bank := x.ab == 1
    waitBank bank
    waitProducts bank
    let sh <- shared
    let t <- team
    let ag <- agOffset (x.nra == 1) x.aga.toNat
    match t.epilogue with
    | some _ =>
      let c <- theCell
      let es := if x.sub = 1 then 256 else 512
      match (<- get).pass c with
      | none => pure ()
      | some p =>
        ((p.rows.take x.rows).zipIdx.filter fun (w, _) => !w.parked).forM fun (w, r) => do
          let (bs, _) := convRow sh bank x.rows x.cols r (x.sub == 1)
          rowFlags r (convFlags sh bank x.rows x.cols r (x.sub == 1) fun col => decide (w.from_ ≤ col / 128 ∧ col / 128 < p.groups))
          let pieces := (span w.from_ (p.groups - w.from_)).map fun g => (r, es * g, (bs.drop (es * g)).take es)
          modify fun s => s.modPass c fun p => { p with out := p.out ++ pieces.filter fun y => !y.2.2.isEmpty }
    | none =>
      let w <- theWho
      let table <- vaultLoad (t.tile x.tc.toNat).base.toNat (8 * x.rows)
      whole <| (bytesWords x.rows table).zipIdx.forM fun (e, r) => do
        unless bitAt e 51 do
          let (bs, f) := convRow sh bank x.rows x.cols r (x.sub == 1)
          scatRow w e ag r bs
          rowFlags r f) s

/-- A queued product still reads a slot. -/
def Product.reads (p : Product) (n : Nat) : Bool :=
  p.tb == n || (pfScaled p.b.prec && pfSslot p.b.prec == n)
    || (p.kind != 3 && (p.ta == n || (pfScaled p.a.prec && pfSslot p.a.prec == n)))

/-- MFREE (R282, R299). -/
def execMfree (x : M64) (s : State) : Res :=
  matOp 8 (do
    let sh <- shared
    let bank := x.ab == 1
    let slots := (if x.sub.getLsbD 1 then [x.ta.toNat] else []) ++ (if x.sub.getLsbD 2 then [x.tb.toNat] else [])
    waitFor (!slots.any fun n => sh.array.any fun p => p.reads n)
    if x.sub.getLsbD 0 then
      waitBank bank
      waitProducts bank
    modTeam fun t => slots.foldl (fun t n => t.setFull n false) t
    if x.sub.getLsbD 0 then modShared fun sh => sh.setFull bank true) s

end Sys2Proof.Machine
end

