-- ==== Sys2Proof/Machine/Nest.lean ====
section
/-! DEFINITION. Streams and nests: FORK, JOIN and END (R153, R154, R156, R217, R218, R236), the nest instructions of the
strand (R157 to R160, R163, R219, R220) and the markers of the engine streams (R155, R159, R300). -/
namespace Sys2Proof.Machine

/-! ### FORK, JOIN and END -/

/-- In privileged mode FORK, JOIN and NEST.GO trap (R467). -/
def notPriv : M Unit := do need (!(<- team).priv) .illPriv

/-- The engines of a mask in MOD (R217). -/
def maskEngines (md : BitVec 3) : List Engine := engines.filter fun e => md.getLsbD e.index

/-- A stream is IDLE or AT_RDV. -/
def EStream.parked (x : EStream) : Bool := x.st != .run

/-- The entry of a stream in FORK (R217): a 21-bit field; `none` is "continue". -/
def forkEntry (x : S96) (e : Engine) : Option Int :=
  let v := (x.lit ++ x.imm).toNat / 2 ^ (21 * e.index) % 2 ^ 21
  if v = 2 ^ 20 then none else some (sextNat 21 v)

/-- FORK (R153, R217). -/
def execFork (x : S96) (s : State) : Res :=
  strandOp 12 x.r.pg (do
    notPriv
    let pc <- pcHere 12
    let es := maskEngines x.r.md
    let t <- team
    waitFor (es.all fun e => (t.eng e).parked)
    need (es.all fun e => !((forkEntry x e).isNone && (t.eng e).st == .idle)) .forkState
    modTeam fun t => es.foldl (fun t e =>
      let z := t.eng e
      let pc := match forkEntry x e with
        | some k => pc + BitVec.ofInt 64 (4 * k)
        | none => z.pc
      t.setEng e { st := .run, pc := pc }) t) s

/-- Every exposed-latency result of a stream has landed (R154, R300). -/
def State.settled (s : State) (c : Nat) (e : Engine) : Bool :=
  match e with
  | .vector => s.landed c
  | .matrix => (s.cell c).sh.array.isEmpty
  | .copy => true

/-- JOIN's condition for a mask (R154). -/
def waitJoin (es : List Engine) : M Unit := do
  let t <- team
  let s <- get
  let c <- theCell
  waitFor (es.all fun e => (t.eng e).parked && s.settled c e)

/-- JOIN (R154, R218). -/
def execJoin (x : S32) (s : State) : Res :=
  strandOp 4 x.pg (do
    notPriv
    waitJoin (maskEngines x.md)) s

/-- END of the strand (R156, R236): the join, the wait for the team's jobs, retirement. -/
def execEndTeam (_x : S32) (s : State) : Res :=
  strandOp 4 0 (do
    waitJoin engines
    waitFor (<- team).cardsDone
    let l <- theLoc
    modify fun s => s.retire l) s

/-! ### NEST.SET (R219) -/

/-- Read bytes through the code handle: the registered image in a pass cell's epilogue (R446). -/
def readCode (off n : Nat) : M (List Byte) := do
  let t <- team
  match t.epilogue with
  | some h =>
    let bs := (((<- get).image h).map (·.bytes)).getD []
    need (decide (off + n ≤ bs.length)) .handleBound
    pure ((bs.drop off).take n)
  | none => load (<- theWho) t.codeh off n

/-- NEST.SET (R219). -/
def execNestSet (x : S32) (s : State) : Res :=
  strandOp 4 x.pg (do
    let pc <- pcHere 4
    let off := (<- sreg x.rs1).toNat
    need (off % 64 == 0) .nestInvalid { addr := pc.toNat }
    let bs <- if x.rs2 = 0 then readCode off 256
      else (do load (<- theWho) (fld (<- sreg x.rs2) 0 12) off 256)
    let n := x.md.getLsbD 0
    modTeam fun t => t.setSlot n { t.slot n with shadow := bytesWords 32 bs }) s

/-! ### NEST.GO (R159, R160) -/

/-- The engine of ENG. -/
def engOf (k : Nat) : Option Engine := engines[k]?

/-- One level record of a table (R158). -/
def levelOf (tab : List Word) (i : Nat) : NestLevel :=
  let w := nth tab (4 + 4 * i)
  let s32 := fun (v : Word) (lo : Nat) => sextNat 32 (fld v lo 32)
  let a := nth tab (5 + 4 * i)
  let b := nth tab (6 + 4 * i)
  { trip := fld w 32 32, pro := fld w 24 8, epi := fld w 16 8, strides := [s32 a 0, s32 a 32, s32 b 0, s32 b 32] }

/-- The header and level records of a table (R157, R158, R160): `none` when something is wrong. -/
def tableOf (tab : List Word) : Option (Engine × Nat × List NestLevel) :=
  let h := nth tab 0
  let n := fld h 53 3
  let resLevel := fun i => resSet (nth tab (4 + 4 * i)) [(0, 16)] || nth tab (7 + 4 * i) != 0
  let zeroLevel := fun i => (span (4 + 4 * i) 4).all fun k => nth tab k == 0
  match engOf (fld h 51 2) with
  | none => none
  | some e =>
    if fld h 56 8 != 3 || n == 0 || decide (6 < n) || fld h 32 19 != 0 || fld h 0 32 % 4 != 0
        || (span 1 3).any (fun k => nth tab k != 0) || (span 28 4).any (fun k => nth tab k != 0)
        || (List.range n).any resLevel || !(span n (6 - n)).all zeroLevel then none
    else some (e, fld h 0 32, (List.range n).map (levelOf tab))

/-- A marker of an engine's class naming a slot. -/
def isMark (o : Op) (want : Op) (f : Fields) (e : Engine) (n : Bool) : Bool :=
  o == want && (match f.asMark with
    | some m => m.eng == e && (m.slot == 1) == n
    | none => false)

/-- A word of the code for NEST.GO: outside the window there is no instruction. -/
def nestWord (w : Who) (t : Team) (pc : Nat) (off : Nat) : M (Option W32) := do
  match <- attempt (fetchWord w t pc off) with
  | .ok v => pure (some v)
  | .error (.fetchBound, _) => pure none
  | .error (k, i) => trap k i

/-- The instructions from `off` up to the matching NEST.END, which begins within `left` words: offsets and words, and the
offset of the NEST.END. `fuel` bounds the instructions. A word of length 0b11, or one outside the code window, before it is a body without
its NEST.END (R160, log 94). -/
def bodyFrom (w : Who) (t : Team) (pc : Nat) (e : Engine) (n : Bool) : Nat → Nat → Nat → M (Option (List (Nat × List W32) × Nat))
  | 0, _, _ => pure none
  | fuel + 1, left, off => do
    if left = 0 then pure none
    else
      match <- nestWord w t pc off with
      | none => pure none
      | some w0 =>
        match wordCount w0 with
        | none => pure none
        | some k =>
          let more <- (span 1 (k - 1)).mapM fun i => nestWord w t pc (off + 4 * i)
          let ws := w0 :: more.filterMap id
          let ends := match parseWords ws with
            | some (o, f) => isMark o .nestEnd f e n
            | none => false
          if ends then pure (some ([], off))
          else
            match <- bodyFrom w t pc e n fuel (left - k) (off + 4 * k) with
            | some (rest, last) => pure (some ((off, ws) :: rest, last))
            | none => pure none

/-- An instruction that a body may not hold, or a level that is not there (R160). -/
def bodyBad (nlev : Nat) (ws : List W32) : Bool :=
  match parseWords ws with
  | none => false
  | some (o, f) =>
    let (fl, l, lv) := nestFlagsOf f
    (match o with
     | .nestBeg | .rdv | .engineEnd | .vbr | .vloop => true
     | _ => false)
    || ((fl || l) && (lv == 7 || (lv != 6 && decide (nlev ≤ lv))))

/-- The precision fields that a slot can hold during a nest (R160). -/
def precsOf (t : Team) (body : List (Nat × List W32)) (slot : Nat) : List (BitVec 32) :=
  (t.tile slot).prec :: body.filterMap fun (_, ws) =>
    match parseWords ws with
    | some (.mprec, .m96 x) => if x.x.tc.toNat = slot then some x.lit else none
    | _ => none

/-- The kind of a product. -/
def productKind : Op → Option Nat
  | .mma => some 0
  | .mmaz => some 1
  | .mmag => some 2
  | .mconst => some 3
  | _ => none

/-- Checks 1 to 4 of R301 at NEST.GO, with every address generator at 0: check 2 against every precision that the slots can hold, check 3
against the descriptors as they stand. -/
def bodyMatrixChecks (t : Team) (body : List (Nat × List W32)) (ws : List W32) : M Unit := do
  match parseWords ws with
  | some (o, .m64 x) =>
    match productKind o with
    | some k =>
      let pas := if k = 3 then [(0 : BitVec 32)] else precsOf t body x.ta.toNat
      let pbs := precsOf t body x.tb.toNat
      (pas.flatMap fun a => pbs.map fun b => (a, b)).forM fun (a, b) => precChecks x { kind := k, pa := a, pb := b }
      slotChecks x { kind := k, pa := (t.tile x.ta.toNat).prec, pb := (t.tile x.tb.toNat).prec }
    | none =>
      match o with
      | .mcvt => mcvtChecks x 0
      | .mscat => mscatChecks x
      | .mown => mownChecks x
      | _ => pure ()
  | _ => pure ()

/-- RST, RLD, LSEND and LRADD need a fabric (R4). -/
def remoteOp : Op → Bool
  | .rst | .rst96 | .rld | .rld96 | .lsend | .lsend96 | .lradd | .lradd96 => true
  | _ => false

/-- Decode and check one body instruction; a failure names its offset (R160). -/
def bodyCheck (t : Team) (e : Engine) (body : List (Nat × List W32)) (off : Nat) (ws : List W32) : M Unit := do
  match decodeOp e.stream t.priv true ws with
  | .error k => trap k { addr := off }
  | .ok (o, _) =>
    if remoteOp o && !(<- get).hasFabric then trap .unitAbsent { addr := off }
    match <- attempt (bodyMatrixChecks t body ws) with
    | .ok _ => pure ()
    | .error (k, i) => trap k { i with addr := off }

/-- NEST.GO (R159, R160, R220). -/
def execNestGo (x : S32) (s : State) : Res :=
  strandOp 4 x.pg (do
    notPriv
    let pc <- pcHere 4
    let n := x.md.getLsbD 0
    let t <- team
    let sl := t.slot n
    waitFor (sl.st == .idle || sl.st == .held)
    modTeam fun t => t.setSlot n { sl with st := .idle, saved := [] }
    let bad : M Unit := trap .nestInvalid { addr := pc.toNat }
    match tableOf sl.shadow with
    | none => bad
    | some (e, off, levels) =>
      let w <- theWho
      let w0 <- nestWord w t pc.toNat off
      let starts := match w0.bind fun v => parseWords [v] with
        | some (o, f) => isMark o .nestBeg f e n
        | none => false
      if !starts then bad
      else
        match <- bodyFrom w t pc.toNat e n 257 256 (off + 4) with
        | none => bad
        | some (body, last) =>
          if body.any fun p => bodyBad levels.length p.2 then bad
          else
            body.forM fun (o, ws) => bodyCheck t e body o ws
            modTeam fun t => t.setSlot n
              { sl with st := .armed, eng := e, bodyOff := off, endOff := last + 4, levels := levels, body := body,
                        start := levels.map fun _ => 0, saved := [], stop0 := none, preClamp := false }) s

/-! ### Clamps (R163) -/

/-- Between two iterations a slot goes on to the next one, where there is one. -/
def NestSlot.onward (n : NestSlot) : NestSlot :=
  if n.pos < n.body.length then n
  else match nextIdx n.levels n.idx 0 with
    | some (ix, k) => { n with idx := ix, pos := 0, resumed := n.resumed && k == 0 }
    | none => n

/-- A clamp on a slot, counted from the iteration whose body is being issued, or from the next one between two iterations; `pre`
when a pre-emption or a stage switch applies it. -/
def NestSlot.clamp (n : NestSlot) (pre : Bool) : NestSlot :=
  if n.st == .run && n.stop0.isNone then
    let n := n.onward
    let l := n.levels.getD 0 {}
    { n with stop0 := some (min (n.idx.getD 0 0 + l.epi) (l.trip - 1)), preClamp := pre }
  else n

/-- A clamp on a team's slot: the counter of the stream that runs it follows. -/
def Team.clamp (t : Team) (k pre : Bool) : Team :=
  let n := (t.slot k).clamp pre
  let t := t.setSlot k n
  if n.st == .run && (t.eng n.eng).nest == some k then t.modEng n.eng fun x => { x with pc := wd n.offset } else t

/-- NEST.CLAMP (R163, R220). -/
def execNestClamp (x : S32) (s : State) : Res :=
  strandOp 4 x.pg (modTeam fun t => t.clamp (x.md.getLsbD 0) false) s

/-! ### Markers (R155, R159) -/

/-- NEST.BEG (R159, R161). -/
def execNestBeg (x : Mark) (s : State) : Res :=
  engineOp x.eng 4 (do
    let pc := (<- team).pcOf x.eng.stream - 4
    let k := x.slot == 1
    let n := (<- team).slot k
    let i : Info := { addr := pc.toNat }
    waitFor (n.st != .idle)
    need (n.eng == x.eng && n.bodyOff == pc.toNat && n.st != .run) .nestMismatch i
    if n.levels.any fun l => l.trip == 0 then
      modTeam fun t => (t.setSlot k { n with st := .idle, saved := [] }).setPc x.eng.stream (wd n.endOff)
    else
      let held := n.st == .held
      let start := if held then n.saved else n.levels.map fun _ => 0
      let n := { n with st := .run, start := start, idx := start, pos := 0, stop0 := none, saved := [], preClamp := false,
                        resumed := held && decide (0 < start.getD 0 0) }
      modTeam fun t => (t.setSlot k n).modEng x.eng fun z => { z with nest := some k, pc := wd n.offset }) s

/-- NEST.END issued by the engine itself (R159). -/
def execNestEnd (x : Mark) (s : State) : Res :=
  engineOp x.eng 4 (do
    let pc <- pcHere 4
    trap .nestMismatch { addr := pc.toNat }) s

/-- What RDV and END of an engine stream wait for (R155, R242, R297, R300). -/
def waitSettled (e : Engine) : M Unit := do
  let s <- get
  let c <- theCell
  waitFor (s.settled c e)
  if e == .matrix then modify fun s => s.drainPosted fun p => p.src == c

/-- RDV (R155); a footprint of the copy stream is discarded (R370). -/
def execRdv (x : Mark) (s : State) : Res :=
  engineOp x.eng 4 (do
    waitSettled x.eng
    modTeam fun t =>
      { (t.modEng x.eng fun z => { z with st := .atRdv }) with footC := if x.eng == .copy then none else t.footC }) s

/-- END of an engine stream (R155). -/
def execEngineEnd (x : Mark) (s : State) : Res :=
  engineOp x.eng 4 (do
    waitSettled x.eng
    modTeam fun t => { t.setEng x.eng {} with footC := if x.eng == .copy then none else t.footC }) s

end Sys2Proof.Machine
end

