-- ==== Sys2Proof/Machine/Copy.lean ====
section
/-! DEFINITION. The instructions of vault queues (R365 to R367, R523) and of tile slots (R368, R369). -/
namespace Sys2Proof.Machine

/-! ### Vault offsets in the copy stream (R523) -/

/-- A literal with the address generator added, checked for `n` bytes and an alignment. -/
def copyOffset (c : C64) (lit n align : Nat) : M Nat := do
  let off := offsetOf ((lit : Int) + (<- agOffset (c.nr == 1) c.ag.toNat))
  inVault off n
  need (off % align == 0) .vaultAlign { addr := off }
  pure off

/-- The issuing stream is the copy stream. -/
def inCopy : M Bool := do pure ((<- theStream) == .copy)

/-! ### QINIT, QPUSH, QPOP and QPEEK (R366, R367) -/

/-- QINIT: first waits until no card names the queue word under .q. -/
def doQinit (c : C64) (lit : Option (BitVec 32)) : M Unit := do
  let ws <- if <- inCopy then
      let off <- copyOffset c (litOf c lit) 16 16
      pure (bytesWords 2 (<- vaultLoad off 16))
    else pure [<- sreg c.sa, <- sreg c.sb]
  let t <- team
  let n := c.qw.toNat
  waitFor (!t.cards.any fun k => jQ k.op k.md && k.qw == n && k.live)
  match qwordOf (nth ws 0) (nth ws 1) t.valloc with
  | none => trap .qwInvalid
  | some q => modTeam fun t => t.setQw n q

/-- QPUSH: waits while the queue is full. -/
def doQpush (c : C64) (lit : Option (BitVec 32)) : M Unit := do
  let n := c.qw.toNat
  let q <- validQw n
  if <- inCopy then
    let off <- copyOffset c (litOf c lit) q.size 4
    waitFor (decide (q.count < q.depth))
    let bs <- vaultLoad off q.size
    modTeam fun t => t.qPush n bs
  else
    waitFor (decide (q.count < q.depth))
    let v <- sreg c.sb
    modTeam fun t => t.qPush n ((leBytes 8 v.toNat).take (min 8 q.size))

/-- QPOP: waits while the queue is empty. -/
def doQpop (c : C64) (lit : Option (BitVec 32)) : M Unit := do
  let n := c.qw.toNat
  let q <- validQw n
  if <- inCopy then
    let off <- copyOffset c (litOf c lit) q.size 4
    waitFor (q.count != 0)
    let bs <- vaultLoad (q.place q.head) q.size
    modTeam fun t => (t.qDrop n 1).vaultWr off bs
  else
    waitFor (q.count != 0)
    let bs <- vaultLoad (q.place q.head) q.size
    modTeam fun t => t.qDrop n 1
    setSreg c.sb (wd (leNat (bs.take 8)))

/-- QPEEK: never changes the word. -/
def doQpeek (c : C64) : M Unit := do
  if <- inCopy then
    need (c.aux != 0) .illRes
    let q <- validQw c.qw.toNat
    waitFor (decide (c.aux.toNat ≤ q.count))
  else
    let q <- validQw c.qw.toNat
    setSreg c.sb (wd q.count)

/-- QINIT (R366). -/
def execQinit (x : C64) (s : State) : Res := copyOp none (doQinit x none) s
def execQinit96 (x : C96) (s : State) : Res := copyOp (some x.lit) (doQinit x.c (some x.lit)) s
/-- QPUSH (R367). -/
def execQpush (x : C64) (s : State) : Res := copyOp none (doQpush x none) s
def execQpush96 (x : C96) (s : State) : Res := copyOp (some x.lit) (doQpush x.c (some x.lit)) s
/-- QPOP (R367). -/
def execQpop (x : C64) (s : State) : Res := copyOp none (doQpop x none) s
def execQpop96 (x : C96) (s : State) : Res := copyOp (some x.lit) (doQpop x.c (some x.lit)) s
/-- QPEEK (R367). -/
def execQpeek (x : COpt) (s : State) : Res := copyOp x.lit (doQpeek x.c) s

/-! ### Tile slots (R368, R369) -/

/-- The slot that AUX names. -/
def slotNo (c : C64) : Nat := c.aux.toNat % 64

/-- TSLOT.SET: the copy stream's vault offset is LIT, or 0 in the 64-bit form (R523). FULL is not written. -/
def doTslotSet (c : C64) (lit : Nat) : M Unit := do
  let ws <- if <- inCopy then
      let off <- copyOffset c lit 16 16
      pure (bytesWords 2 (<- vaultLoad off 16))
    else pure [<- sreg c.sa, <- sreg c.sb]
  let w0 := nth ws 0
  let w1 := nth ws 1
  need (!resSet w0 [(55, 7), (0, 6)] && !resSet w1 [(0, 6)]) .illRes
  modTeam fun t => t.modTile (slotNo c) fun d =>
    { d with valid := bitAt w0 62, base := w0.extractLsb' 32 23, pitch := w0.extractLsb' 16 16, rows := w0.extractLsb' 6 10,
             tscale := w1.extractLsb' 32 32, prec := w1.extractLsb' 0 32 }

/-- TSLOT.SET (R368). -/
def execTslotSet (x : C64) (s : State) : Res := copyOp none (doTslotSet x 0) s
def execTslotSet96 (x : C96) (s : State) : Res := copyOp (some x.lit) (doTslotSet x.c x.lit.toNat) s

/-- Every card that the copy stream issued has completed. -/
def Team.copyDone (t : Team) : Bool := t.cards.all fun k => k.stream != .copy || !k.live

/-- Every earlier access of the issuing stream is performed: the engines' results have landed, and in the copy stream every
card that it issued has completed (R368). -/
def streamPerformed : M Unit := do
  match engineOf (<- theStream) with
  | none => pure ()
  | some .copy => waitFor (<- team).copyDone
  | some e => waitFor ((<- get).settled (<- theCell) e)

/-- TFULL, TEMPTY and TWAIT: decoded by every stream. -/
def slotOp (x : COpt) (body : M Unit) (s : State) : Res :=
  sharedOp (if x.lit.isSome then 12 else 8) 0 [.strand, .vector, .matrix, .copy] body s

/-- TFULL (R368). -/
def execTfull (x : COpt) (s : State) : Res :=
  slotOp x (do
    streamPerformed
    release (<- theWho) 0
    modTeam fun t => t.setFull (slotNo x.c) true) s

/-- TEMPTY (R368). -/
def execTempty (x : COpt) (s : State) : Res :=
  slotOp x (do
    streamPerformed
    release (<- theWho) 0
    modTeam fun t => t.setFull (slotNo x.c) false) s

/-- TWAIT (R368); in the vector stream every result lands first (R242). -/
def execTwait (x : COpt) (s : State) : Res :=
  slotOp x (do
    if (<- theStream) == .vector then waitFor ((<- get).landed (<- theCell))
    waitFor (((<- team).tile (slotNo x.c)).full != x.c.md.getLsbD 0)) s

end Sys2Proof.Machine
end

