-- ==== Sys2Proof/Machine/Strand.lean ====
section
/-! DEFINITION. Strand loads, stores and addresses (R209 to R213), control flow and the return-address store (R214 to
R216), events and semaphores (R224 to R227), control registers and time (R228 to R231, R458 to R460), traps (R233,
R234). -/
namespace Sys2Proof.Machine

/-! ### Loads and stores (R209 to R212) -/

/-- Size in bytes by MOD[1:0] (R209). -/
def sizeOf (md : BitVec 3) : Nat := 2 ^ (md.toNat % 4)

/-- The register value of loaded bytes: zero-extended under .u, else sign-extended. -/
def loadValue (md : BitVec 3) (bs : List Byte) : Word :=
  if md.getLsbD 2 then wd (leNat bs) else sext64 (8 * sizeOf md) (leNat bs)

/-- A load's value is outstanding until it returns: at most 8 (R197). A later load to the register replaces it. -/
def Team.addLoad (t : Team) (r : Nat) (v : Word) : Team :=
  { t with loads := (t.loads.map fun l => if l.reg == some r then { l with reg := none } else l)
      ++ [{ reg := if r = 0 then none else some r, value := v }] }

/-- Only when fewer than 8 loads are outstanding can another issue (R197). -/
def loadRoom : M Unit := do waitFor (decide ((<- team).loads.length < 8))

/-- The value of an instruction is outstanding. Data asked of a peer has been waited for at the instruction (R441, log 105). -/
def outstanding (rd : BitVec 5) (v : Word) : M Unit := modTeam fun t => t.addLoad rd.toNat v

/-- LD (R210): checks, the access, and the outstanding value. -/
def doLoad (md : BitVec 3) (rd : BitVec 5) (h off : Nat) : M Unit := do
  loadRoom
  let bs <- load (<- theWho) h off (sizeOf md)
  outstanding rd (loadValue md bs)

/-- A posted store of the strand: it waits while 16 are outstanding in the cell (R197). -/
def strandStore (h off : Nat) (bs : List Byte) : M Unit := do
  let c <- theCell
  let n := (<- get).mem.posted.length
  waitFor (decide (((<- get).mem.posted.filter fun p => p.strand && p.src == c).length < 16))
  store (<- theWho) h off true bs
  modify fun s => { s with mem := { s.mem with posted := s.mem.posted.take n ++ (s.mem.posted.drop n).map fun p => { p with strand := true } } }

/-- ST (R210). -/
def doStore (md : BitVec 3) (rd : BitVec 5) (h off : Nat) : M Unit := do
  let v <- sreg rd
  strandStore h off (leBytes (sizeOf md) v.toNat)

/-- An ordered access is aligned to its size (R211). -/
def ordAligned (ord off n : Nat) : M Unit := need (ord == 0 || off % n == 0) .ldstAlign { addr := off }

/-- LD, register offset (R209, R210). -/
def execLd (x : S32) (s : State) : Res :=
  strandOp 4 x.pg (do
    let (h, off) <- memOp32 x
    doLoad x.md x.rd h off) s
/-- LD, immediate offset, with .acq (R209 to R212). -/
def execLdImm (x : S64) (s : State) : Res :=
  strandOp 8 x.r.pg (do
    let (h, off) <- memOp64 x
    ordAligned (ordOf x) off (sizeOf x.r.md)
    if ordOf x == 1 then wholeOrNone do
      acquire (<- theWho) (scopeOf x)
      doLoad x.r.md x.r.rd h off
    else doLoad x.r.md x.r.rd h off) s
/-- ST, register offset (R209, R210). -/
def execSt (x : S32) (s : State) : Res :=
  strandOp 4 x.pg (do
    let (h, off) <- memOp32 x
    doStore x.md x.rd h off) s
/-- ST, immediate offset, with .rel (R209 to R212). -/
def execStImm (x : S64) (s : State) : Res :=
  strandOp 8 x.r.pg (do
    let (h, off) <- memOp64 x
    ordAligned (ordOf x) off (sizeOf x.r.md)
    if ordOf x == 2 then release (<- theWho) (scopeOf x)
    doStore x.r.md x.r.rd h off) s
/-- LEA (R213): checks 1 and 2 of R27, no access. -/
def execLea (x : S64) (s : State) : Res :=
  strandOp 8 x.r.pg (do
    let (h, off) <- memOp64 x
    let w <- theWho
    let (fa, _) <- handleAt w.asid h off (sizeOf x.r.md) false
    setSreg x.r.rd (if x.r.md.getLsbD 2 then wd fa else wd off)) s

/-! ### Control flow (R214 to R216) -/

/-- Target of a branch at `pc`. -/
def branchTo (pc : Word) (imm : BitVec 32) : Word := pc + sext64 32 imm.toNat

/-- Push a return offset, spilling the oldest entry when the store is full (R216). -/
def pushRas (ret : Word) : M Unit := do
  let t <- team
  if 16 ≤ t.ras.length then
    need (decide (t.rasbase ≤ t.rasp ∧ t.rasp.toNat + 8 ≤ t.raslim.toNat)) .rasSpillBound { addr := t.rasp.toNat }
    strandStore t.spillh t.rasp.toNat (leBytes 8 (t.ras.headD 0).toNat)
    modTeam fun t => { t with ras := t.ras.drop 1 ++ [ret], rasp := t.rasp + 8 }
  else modTeam fun t => { t with ras := t.ras ++ [ret] }

/-- Pop a return offset, refilling from the spill area (R216). -/
def popRas : M Word := do
  let t <- team
  match t.ras.reverse with
  | v :: rest =>
    modTeam fun t => { t with ras := rest.reverse }
    pure v
  | [] =>
    need (t.rasp != t.rasbase) .retUnderflow
    need (decide (t.rasbase.toNat + 8 ≤ t.rasp.toNat ∧ t.rasp ≤ t.raslim)) .rasSpillBound { addr := t.rasp.toNat }
    let bs <- load (<- theWho) t.spillh (t.rasp.toNat - 8) 8
    modTeam fun t => { t with rasp := t.rasp - 8 }
    pure (wd (leNat bs))

/-- BR (R214). -/
def execBr (x : S64) (s : State) : Res :=
  strandOp 8 x.r.pg (do
    let pc <- pcHere 8
    if (<- team).pred x.r.md.toNat != x.r.rd.getLsbD 0 then jumpTo (branchTo pc x.imm)) s
/-- JMP (R214). -/
def execJmp (x : S64) (s : State) : Res :=
  strandOp 8 x.r.pg (do
    let pc <- pcHere 8
    jumpTo (branchTo pc x.imm)) s
/-- CALL (R214, R216). -/
def execCall (x : S64) (s : State) : Res :=
  strandOp 8 x.r.pg (do
    let pc <- pcHere 8
    pushRas (pc + 8)
    jumpTo (branchTo pc x.imm)) s
/-- LOOP (R214). -/
def execLoop (x : S64) (s : State) : Res :=
  strandOp 8 x.r.pg (do
    let pc <- pcHere 8
    let n <- sreg x.r.rd
    setSreg x.r.rd (n - 1)
    if n != 1 then jumpTo (branchTo pc x.imm)) s
/-- JMPX, with .call (R215). -/
def execJmpx (x : S32) (s : State) : Res :=
  strandOp 4 x.pg (do
    let pc <- pcHere 4
    let a <- sreg x.rs1
    if x.md.getLsbD 0 then pushRas (pc + 4)
    jumpTo a) s
/-- RET (R215, R216). -/
def execRet (x : S32) (s : State) : Res :=
  strandOp 4 x.pg (do
    let a <- popRas
    jumpTo a) s

/-! ### Events (R224) -/

/-- Mark what of the vector stream is in flight: a strand that blocks waits for it first (R199). -/
def markDrain : M Unit := modShared fun x => { x with landings := x.landings.map fun l => { l with drain := true } }

/-- The strand blocks as waiter number `i` for `n`; it joins the end of the line once. -/
def blockOn (i : Nat) (n : BitVec 32) : M Unit := do
  let t <- team
  unless t.waiters.any (fun w => w.1 == i && w.2.1 == .strand) do
    markDrain
    modTeam fun t => { t with waiters := t.waiters ++ [(i, .strand, n)] }
  wait

/-- A strand that has blocked goes on only when the results marked have landed (R199). -/
def drained (i : Nat) : M Bool := do
  let t <- team
  let x <- shared
  pure (!t.waiters.any (fun w => w.1 == i && w.2.1 == .strand) || !x.landings.any (·.drain))

/-- RST, RLD, LSEND and LRADD: their completion is a release at POD scope (R354), and they are absent without a fabric (R4). -/
def remoteJob (op : Nat) : Bool := decide (0x0D ≤ op ∧ op ≤ 0x10)

/-- The scope of the operation that produced a record, at which a pop acquires (R224): of a job R354, of a task R39, of a grid
R393; of a graph and of what else the hub writes it is SYSTEM (log 100). -/
def recScope (r : CRec) : Nat :=
  let src := fld (nth r 0) 60 4
  if src = 0 then (if remoteJob (fld (nth r 0) 54 6) then scopePod else 3) else if src = 1 then 2 else 5

/-- Pop the oldest record into eight registers from `rd`, and let what waited behind it take effect (R223, R224). -/
def popEvent (rd : Nat) : M Bool := do
  let s <- get
  let t <- team
  match t.popEv s.now with
  | none => pure false
  | some (r, t, a) =>
    modTeam fun _ => (List.range 8).foldl (fun t i => t.setSreg (rd + i) (nth r i)) (t.dropWaiter 256 .strand)
    modify fun s => s.applyAfter a
    acquire (<- theWho) (recScope r)
    pure true

/-- EVQ.POP (R224). -/
def execEvqPop (x : S32) (s : State) : Res :=
  strandOp 4 x.pg (do
    let got <- popEvent x.rd.toNat
    setPred x.md.toNat got) s
/-- EVQ.WAIT (R224, R199). -/
def execEvqWait (x : S32) (s : State) : Res :=
  strandOp 4 x.pg (do
    let t <- team
    let ok <- drained 256
    if t.evq.isEmpty || !ok then blockOn 256 0
    else
      let _ <- popEvent x.rd.toNat) s

/-! ### Semaphores (R225 to R227) -/

/-- SEM.SIG's effect. -/
def doSig (scope i : Nat) (c : BitVec 32) : M Unit := do
  release (<- theWho) scope
  let l <- theLoc
  modify fun s => s.semSignal l i c

/-- SEM.WAIT's effect: strictly in arrival order; a count of 0 completes at once (R226). -/
def doWait (scope i : Nat) (c : BitVec 32) : M Unit := do
  let t <- team
  if c != 0 then
    let first := match t.oldestWaiter i with
      | none => true
      | some (w, _) => w == .strand
    let ok <- drained i
    if !(first && decide (c ≤ t.sem i) && ok) then blockOn i c
  modTeam fun t => if c = 0 then t else ((t.setSem i (t.sem i - c)).dropWaiter i .strand).serveSem i 65
  acquire (<- theWho) scope

/-- The low 32 bits of a register as a count. -/
def countOf (v : Word) : BitVec 32 := v.extractLsb' 0 32

/-- SEM.SIG, register form (R225, R226). -/
def execSemSig (x : S32) (s : State) : Res :=
  strandOp 4 x.pg (do
    let i <- sreg x.rs1
    let c <- sreg x.rs2
    doSig x.md.toNat (i.toNat % 256) (countOf c)) s
/-- SEM.SIG, immediate form (R225, R226). -/
def execSemSigImm (x : S64) (s : State) : Res :=
  strandOp 8 x.r.pg (doSig x.r.md.toNat (x.imm.toNat / 2 ^ 24) (x.imm &&& 0xFFFFFF)) s
/-- SEM.WAIT, register form (R225, R226). -/
def execSemWait (x : S32) (s : State) : Res :=
  strandOp 4 x.pg (do
    let i <- sreg x.rs1
    let c <- sreg x.rs2
    doWait x.md.toNat (i.toNat % 256) (countOf c)) s
/-- SEM.WAIT, immediate form (R225, R226). -/
def execSemWaitImm (x : S64) (s : State) : Res :=
  strandOp 8 x.r.pg (doWait x.r.md.toNat (x.imm.toNat / 2 ^ 24) (x.imm &&& 0xFFFFFF)) s
/-- SEM.SET (R225, R226): waiting waiters are tested again. -/
def execSemSet (x : S64) (s : State) : Res :=
  strandOp 8 x.r.pg (do
    let a <- sreg x.r.rs1
    let i := x.imm.toNat / 2 ^ 24
    release (<- theWho) 0
    modTeam fun t => (t.setSem i (countOf a + (x.imm &&& 0xFFFFFF))).serveSem i 65) s
/-- SEM.RSIG (R225, R227): the target's team number is checked against the grid's count. -/
def execSemRsig (x : S64) (s : State) : Res :=
  strandOp 8 x.r.pg (do
    let n <- sreg x.r.rs1
    let t <- team
    let no := n.toNat % 2 ^ 32
    match t.epilogue, (<- get).grid t.grid with
    | none, some g =>
      need (decide (no < g.total)) .semTarget
      release (<- theWho) 3
      modify fun s => s.semRemote t.grid no (x.imm.toNat / 2 ^ 24) (x.imm &&& 0xFFFFFF)
    | _, _ => trap .semTarget) s

/-! ### Control registers (R228 to R230, R458 to R460) -/

def slotCode : SlotSt -> Nat
  | .idle => 0
  | .armed => 1
  | .run => 2
  | .held => 3

/-- STRSTAT (R230). -/
def Team.strstat (t : Team) (stage : Bool) : Word :=
  wd (at_ t.ras.length 27 + at_ t.evq.length 20 + at_ stage.toNat 19 + at_ t.priv.toNat 18 + at_ (slotCode t.nt1.st) 16
    + at_ (slotCode t.nt0.st) 14 + at_ (t.cpy.st != .idle).toNat 13 + at_ (t.mat.st != .idle).toNat 12
    + at_ (t.vec.st != .idle).toNat 11)

/-- TSTATE (R460). -/
def Team.tstate (t : Team) : Word :=
  wd (at_ t.tstrm 10 + at_ t.priv.toNat 9 + at_ t.cpy.held.toNat 6 + at_ t.mat.held.toNat 5 + at_ t.vec.held.toNat 4)

/-- FQCTL (R458). -/
def Ctx.fqctl (c : Ctx) : Word := wd (at_ c.pend.fqv.toNat 63 + at_ c.pend.fqlogd.toNat 59 + c.drop.toNat)

/-- TEAMNO (R25); the epilogue of a pass cell reads all ones (R448). -/
def Team.teamno (t : Team) : Nat := if t.epilogue.isSome then 0xFFFFFFFF else t.no

/-- What CTL.RD reads; `none` for a number that is not assigned. -/
def State.ctlRead (s : State) (cell : Nat) (stage : Bool) (t : Team) (n : Nat) : Option Word :=
  let x := s.ctx t.asid
  if n = 0 then some (wd s.caps.toNat)
  else if n = 1 then some (wd cell)
  else if n = 2 then some (wd t.teamno)
  else if 8 ≤ n ∧ n ≤ 15 then some (wd (t.lvl.getD (n - 8) 0x10000).toNat)
  else if n = 0x10 then some (wd t.vflags.toNat)
  else if n = 0x11 then some t.rasp
  else if n = 0x12 then some t.rasbase
  else if n = 0x13 then some t.raslim
  else if n = 0x14 then some (t.strstat stage)
  else if n = 0x15 then some (wd t.vrstidx.toNat)
  else if n = 0x80 then some x.pend.htbase
  else if n = 0x81 then some x.pend.htsize
  else if n = 0x82 then some x.pend.ptroot
  else if n = 0x83 then some x.fqctl
  else if n = 0x84 then some x.pend.fqbase
  else if n = 0x85 then some x.pend.spillqbase
  else if n = 0x86 then some x.pend.spillqsize
  else if n = 0x87 then some x.pend.swapbase
  else if n = 0x88 then some x.pend.swapstride
  else if n = 0x89 then some x.pend.pinlim
  else if n = 0x8A then some x.pend.collallot
  else if n = 0x8B then some x.pend.tvec
  else if n = 0x8C then some (wd t.asid)
  else if n = 0x90 then some (wd x.fqhead.toNat)
  else if n = 0x91 then some (wd x.fqtail.toNat)
  else if n = 0xA0 then some t.epc
  else if n = 0xA1 then some t.epcv
  else if n = 0xA2 then some t.epcm
  else if n = 0xA3 then some t.epcc
  else if n = 0xA4 then some t.tstate
  else if 0xA5 ≤ n ∧ n ≤ 0xAC then some (nth t.frec (n - 0xA5))
  else if n = 0xAD then some (wd t.apend.length)
  else if n = 0xAE then some t.scratch0
  else if n = 0xAF then some t.scratch1
  else none

/-- CTL.WR of a context register: the pending value (R459), where R522 and the register allow it. -/
def ctlWriteCtx (n : Nat) (v : Word) (x : CtxRegs) : Except Cause CtxRegs :=
  let path := fld v 52 4
  let addr := fun (r : CtxRegs) => if path == 0 || path == 6 then Except.ok r else .error .pathRes
  if n = 0x80 then (if fld v 0 6 != 0 then .error .illRes else addr { x with htbase := v })
  else if n = 0x81 then (if v == 0 || decide (4096 < v.toNat) then .error .illRes else .ok { x with htsize := v })
  else if n = 0x82 then (if path == 0 then .ok { x with ptroot := v } else .error .pathRes)
  else if n = 0x83 then
    (if resSet v [(32, 27)] || decide (13 ≤ fld v 59 4) then .error .illRes
     else .ok { x with fqv := bitAt v 63, fqlogd := BitVec.ofNat 4 (fld v 59 4) })
  else if n = 0x84 then (if fld v 0 6 != 0 then .error .illRes else addr { x with fqbase := v })
  else if n = 0x85 then addr { x with spillqbase := v }
  else if n = 0x86 then .ok { x with spillqsize := v }
  else if n = 0x87 then (if fld v 0 16 != 0 then .error .illRes else addr { x with swapbase := v })
  else if n = 0x88 then
    (if decide (v.toNat < 10) || decide (138 < v.toNat) then .error .illRes else .ok { x with swapstride := v })
  else if n = 0x89 then .ok { x with pinlim := v }
  else if n = 0x8A then (if decide (16 < v.toNat) then .error .illRes else .ok { x with collallot := v })
  else (if resSet v [(32, 31)] || fld v 0 2 != 0 then .error .illRes else .ok { x with tvec := v })

/-- The RES0 fields of read-only registers, as low bit and width: CAPS (R1), RASBASE and RASLIM (R229), STRSTAT (R230), FREC0 and
FREC6 (R456). -/
def roRes (n : Nat) : List (Nat × Nat) :=
  if n = 0 then [(16, 12)]
  else if n = 0x12 ∨ n = 0x13 then [(48, 16), (0, 3)]
  else if n = 0x14 then [(32, 32), (0, 11)]
  else if n = 0xA5 then [(32, 8)]
  else if n = 0xAB then [(0, 44)]
  else []

/-- CTL.WR (R228, R10): the register's effect; writes to the fields of read-only registers are ignored (R9), but not to those that are
RES0. -/
def ctlWrite (n : Nat) (v : Word) : M Unit := do
  let t <- team
  if n = 0x10 then
    need (!resSet v [(5, 27)]) .illRes
    modTeam fun t => { t with vflags := t.vflags &&& ~~~(v.extractLsb' 0 5) }
  else if n = 0x11 then
    need (!resSet v [(48, 16), (0, 3)]) .illRes
    modTeam fun t => { t with rasp := v }
  else if n = 0x15 then
    need (!resSet v [(8, 56)]) .illRes
    modTeam fun t => { t with vrstidx := v.extractLsb' 0 8 }
  else if 0x80 ≤ n ∧ n ≤ 0x8B then
    match ctlWriteCtx n v ((<- get).ctx t.asid).pend with
    | .error k => trap k
    | .ok r =>
      modify fun s => s.modCtx t.asid fun c => { c with pend := r }
      if n = 0x8B && !bitAt v 63 then
        modify fun s => s.modCtx t.asid fun c => { c with regs := { c.regs with tvec := v } }
  else if n = 0x90 then modify fun s => s.modCtx t.asid fun c => { c with fqhead := v.extractLsb' 0 32 }
  else if n = 0xA0 then modTeam fun t => { t with epc := v }
  else if n = 0xA1 then modTeam fun t => { t with epcv := v }
  else if n = 0xA2 then modTeam fun t => { t with epcm := v }
  else if n = 0xA3 then modTeam fun t => { t with epcc := v }
  else if n = 0xA4 then
    need (!resSet v [(12, 52), (7, 2), (0, 4)]) .illRes
    modTeam fun t => { t with
      vec := { t.vec with held := t.vec.held && !bitAt v 4 }, mat := { t.mat with held := t.mat.held && !bitAt v 5 },
      cpy := { t.cpy with held := t.cpy.held && !bitAt v 6 } }
  else if n = 0xAE then modTeam fun t => { t with scratch0 := v }
  else if n = 0xAF then modTeam fun t => { t with scratch1 := v }
  else need (!resSet v (roRes n)) .illRes

/-- The register number of CTL.RD and CTL.WR: bits [31:24]. -/
def ctlNo (x : S32) : Nat := x.md.toNat * 32 + x.rs2.toNat

/-- Privilege, then assignment (R228). -/
def ctlCheck (n : Nat) : M Word := do
  let t <- team
  need (decide (n < 0x80) || t.priv) .illPriv
  let c <- theCell
  let s <- get
  match s.ctlRead c (s.cell c).active t n with
  | some v => pure v
  | none => trap .ctlInvalid

/-- CTL.RD (R228). -/
def execCtlRd (x : S32) (s : State) : Res :=
  strandOp 4 x.pg (do
    let v <- ctlCheck (ctlNo x)
    setSreg x.rd v) s
/-- CTL.WR (R228). -/
def execCtlWr (x : S32) (s : State) : Res :=
  strandOp 4 x.pg (do
    let _ <- ctlCheck (ctlNo x)
    ctlWrite (ctlNo x) (<- sreg x.rs1)) s
/-- TSTAMP (R231). -/
def execTstamp (x : S32) (s : State) : Res :=
  strandOp 4 x.pg (do setSreg x.rd (wd (<- get).now)) s

/-! ### Traps (R233, R234) -/

/-- TRAP (R233): takes SOFT n, with EPC past it. -/
def execTrap (x : S32) (s : State) : Res :=
  strandOp 4 x.pg (do
    let pc <- pcHere 4
    trap (.soft x.rs1) { epc := some (pc + 4).toNat }) s
/-- ERET (R234, R466). -/
def execEret (x : S32) (s : State) : Res :=
  strandOp 4 x.pg (do
    need (<- team).priv .illPriv
    let c <- theCell
    modify fun s => s.eret c) s

end Sys2Proof.Machine
end

