-- ==== Sys2Proof/Machine/Vector.lean ====
section
/-! DEFINITION. Lane-wise vector instructions: arithmetic (R247, R248), comparison, selection and moves (R249 to R251),
conversion and packing (R252 to R256), special functions and refinement steps (R257 to R259). -/
namespace Sys2Proof.Machine

/-! ### Arithmetic (R247, R248) -/

inductive VArith where
  | add | sub | mul | fma | min | max | abs | neg | and | or | xor | shl | shr
  deriving DecidableEq, Repr

/-- Clamp to the range of an integer type. -/
def clampTy (ty : BitVec 4) (sat : Bool) (t : Int) : Int :=
  if sat then max (intMin (tyWidth ty) (tySigned ty)) (min (intMax (tyWidth ty) (tySigned ty)) t) else t

/-- Shifts of R248: `fill` is .a. -/
def vShift (left fill : Bool) (n a s : Nat) : Int :=
  let neg := fill && decide (a / 2 ^ (n - 1) % 2 = 1)
  if n ≤ s then (if neg then -1 else 0)
  else if left then ((a * 2 ^ s : Nat) : Int)
  else if fill then (sextNat n a).ediv ((2 ^ s : Nat) : Int)
  else ((a / 2 ^ s : Nat) : Int)

/-- Integer elements. -/
def vArithInt (op : VArith) (ty : BitVec 4) (fn : BitVec 3) (a b c : Nat) : Nat × Flags :=
  let n := tyWidth ty
  let x := tyIntVal ty a
  let y := tyIntVal ty b
  let z := tyIntVal ty c
  let sat := fn.getLsbD 0
  let t : Int := match op with
    | .add => clampTy ty sat (x + y)
    | .sub => clampTy ty sat (x - y)
    | .mul => clampTy ty sat (x * y)
    | .fma => clampTy ty sat (x * y + z)
    | .abs => clampTy ty sat (x.natAbs : Int)
    | .neg => clampTy ty sat (-x)
    | .min => if x ≤ y then x else y
    | .max => if x ≤ y then y else x
    | .shl => vShift true false n a b
    | .shr => vShift false sat n a b
    | .and => ((a &&& b : Nat) : Int)
    | .or => ((a ||| b : Nat) : Int)
    | .xor => ((a ^^^ b : Nat) : Int)
  (lowBits n t, 0)

/-- Floating minimum or maximum: −0 counts below +0. -/
def fMinMax (f : Fmt) (isMax : Bool) (a b : Nat) : Nat :=
  let x := f.value a
  let y := f.value b
  if x.isNan || y.isNan then f.nanCode
  else if isMax then (if x.lt true y then b else a) else (if y.lt true x then b else a)

/-- Floating elements. -/
def vArithFloat (op : VArith) (f : Fmt) (rm : Rnd) (a b c : Nat) : Nat × Flags :=
  let fl := fun n => if f = fp32 then n else f.flush n
  let (a, b, c) := (fl a, fl b, fl c)
  let sign := 2 ^ (f.ew + f.fw)
  match op with
  | .add => f.add rm a b
  | .sub => f.deliver rm (addExact rm (f.value a) (f.value b).negate)
  | .mul => f.mul rm a b
  | .fma => f.fma rm a b c
  | .min => (fMinMax f false a b, 0)
  | .max => (fMinMax f true a b, 0)
  | .abs => (if (f.value a).isNan then f.nanCode else a % sign, 0)
  | .neg => (if (f.value a).isNan then f.nanCode else (a + sign) % (2 * sign), 0)
  | _ => (a, 0)

def vArith (op : VArith) (v : V64) (a b c : Nat) : Nat × Flags :=
  match tyFmt v.ty with
  | some f => vArithFloat op f (Rnd.of v.rnd) a b c
  | none => vArithInt op v.ty v.fn a b c

/-- Latency (R240). -/
def vArithLat (op : VArith) (ty : BitVec 4) : Nat :=
  match op with
  | .mul | .fma => if tyInt ty then 3 else 4
  | .add | .sub => if !tyInt ty then 4 else if ty64 ty then 2 else 1
  | _ => if !tyInt ty || ty64 ty then 2 else 1

/-- An arithmetic instruction of `len` bytes. -/
def vArithOp (op : VArith) (len : Nat) (v : V64) (s : State) : Res :=
  vecOp len (laneWise v (vArithLat op v.ty) (vArith op v)) s

/-- VADD, short form: .f32 (R170, R247). -/
def execVadd (x : V32) (s : State) : Res := vArithOp .add 4 (vFull x 8) s
/-- VADD (R247). -/
def execVaddFull (x : V64) (s : State) : Res := vArithOp .add 8 x s
/-- VSUB, short form. -/
def execVsub (x : V32) (s : State) : Res := vArithOp .sub 4 (vFull x 8) s
/-- VSUB (R247). -/
def execVsubFull (x : V64) (s : State) : Res := vArithOp .sub 8 x s
/-- VMUL, short form. -/
def execVmul (x : V32) (s : State) : Res := vArithOp .mul 4 (vFull x 8) s
/-- VMUL (R247). -/
def execVmulFull (x : V64) (s : State) : Res := vArithOp .mul 8 x s
/-- VFMA (R247). -/
def execVfma (x : V64) (s : State) : Res := vArithOp .fma 8 x s
/-- VMIN, short form. -/
def execVmin (x : V32) (s : State) : Res := vArithOp .min 4 (vFull x 8) s
/-- VMIN (R247). -/
def execVminFull (x : V64) (s : State) : Res := vArithOp .min 8 x s
/-- VMAX, short form. -/
def execVmax (x : V32) (s : State) : Res := vArithOp .max 4 (vFull x 8) s
/-- VMAX (R247). -/
def execVmaxFull (x : V64) (s : State) : Res := vArithOp .max 8 x s
/-- VABS (R247). -/
def execVabs (x : V64) (s : State) : Res := vArithOp .abs 8 x s
/-- VNEG (R247). -/
def execVneg (x : V64) (s : State) : Res := vArithOp .neg 8 x s
/-- VAND, short form: .n32 (R170). -/
def execVand (x : V32) (s : State) : Res := vArithOp .and 4 (vFull x 6) s
/-- VAND (R247). -/
def execVandFull (x : V64) (s : State) : Res := vArithOp .and 8 x s
/-- VOR, short form. -/
def execVor (x : V32) (s : State) : Res := vArithOp .or 4 (vFull x 6) s
/-- VOR (R247). -/
def execVorFull (x : V64) (s : State) : Res := vArithOp .or 8 x s
/-- VXOR, short form. -/
def execVxor (x : V32) (s : State) : Res := vArithOp .xor 4 (vFull x 6) s
/-- VXOR (R247). -/
def execVxorFull (x : V64) (s : State) : Res := vArithOp .xor 8 x s
/-- VSHL (R247). -/
def execVshl (x : V64) (s : State) : Res := vArithOp .shl 8 x s
/-- VSHR, with .a (R247, R248). -/
def execVshr (x : V64) (s : State) : Res := vArithOp .shr 8 x s

/-! ### Comparison, selection, moves and literals (R249 to R251) -/

/-- The condition of R249 on two elements. -/
def vCond (fn : BitVec 3) (ty : BitVec 4) (a b : Nat) : Bool :=
  match tyFmt ty with
  | some f =>
    let x := f.value a
    let y := f.value b
    let un := x.isNan || y.isNan
    let lt := x.lt false y
    let gt := y.lt false x
    match fn.toNat with
    | 0 => !un && !lt && !gt
    | 1 => un || lt || gt
    | 2 => !un && lt
    | 3 => !un && !gt
    | 4 => !un && gt
    | 5 => !un && !lt
    | 6 => !un
    | _ => un
  | none =>
    let x := tyIntVal ty a
    let y := tyIntVal ty b
    match fn.toNat with
    | 0 => x == y
    | 1 => x != y
    | 2 => decide (x < y)
    | 3 => decide (x ≤ y)
    | 4 => decide (y < x)
    | _ => decide (y ≤ x)

/-- VCMP (R249). -/
def execVcmp (x : V64) (s : State) : Res :=
  vecOp 8 (do
    let sh <- shared
    let act := activeLanes sh x
    let val := fun (sw : Bool) (r : Nat) =>
      if ty64 x.ty then ((sh.lanesOf r).zip (sh.lanesOf (r + 1))).map fun p => p.1.toNat + 2 ^ 32 * p.2.toNat
      else
        let ls := if sw then srcA sh x else sh.lanesOf r
        ls.map fun w =>
          match elemsOf x.ty x.hs with
          | (lo, n) :: _ => w.toNat / 2 ^ lo % 2 ^ n
          | [] => 0
    maskResult x 2 act (((val true x.r.vs1.toNat).zip (val false x.r.vs2.toNat)).map fun p => vCond x.fn x.ty p.1 p.2)) s

/-- VSEL (R250). -/
def execVsel (x : V64) (s : State) : Res :=
  vecOp 8 (do
    let sh <- shared
    let act := activeLanes sh x
    let sel := sh.maskOf (x.vs3.toNat % 16)
    let pick := fun (a b : List (BitVec 32)) => (sel.zip (a.zip b)).map fun p => if p.1 then p.2.1 else p.2.2
    let d := dstReg x.r
    let lo := pick (srcA sh x) (sh.lanesOf x.r.vs2.toNat)
    if ty64 x.ty then
      let hi := pick (sh.lanesOf (x.r.vs1.toNat + 1)) (sh.lanesOf (x.r.vs2.toNat + 1))
      addLanding { rem := 2, sq := x.sq == 1,
                   lanes := ((keepActive act lo).map fun p => (laneKey d p.1, 0xFFFFFFFF, p.2)) ++
                     ((keepActive act hi).map fun p => (laneKey (d + 1) p.1, 0xFFFFFFFF, p.2)) }
    else wholeLanes x 1 d (keepActive act lo)) s

/-- VMOV: a copy of a (R251). -/
def vMovOp (len : Nat) (v : V64) (s : State) : Res :=
  vecOp len (laneWise v (if ty64 v.ty then 2 else 1) fun a _ _ => (a, 0)) s
/-- VMOV, short form: .n32 (R170). -/
def execVmov (x : V32) (s : State) : Res := vMovOp 4 (vFull x 6) s
/-- VMOV (R251). -/
def execVmovFull (x : V64) (s : State) : Res := vMovOp 8 x s

/-- VLI (R251). -/
def execVli (x : V96) (s : State) : Res :=
  vecOp 12 (do
    let sh <- shared
    let act := activeLanes sh x.v
    let (m, w) : BitVec 32 × BitVec 32 :=
      if x.v.hs = 1 then (0xFFFF, x.lit &&& 0xFFFF)
      else if x.v.hs = 2 then (0xFFFF0000, x.lit <<< 16)
      else (0xFFFFFFFF, x.lit)
    addLanding { rem := 1, sq := x.v.sq == 1,
                 lanes := (keepActive act (List.replicate 128 w)).map fun p => (laneKey (dstReg x.v.r) p.1, m, p.2) }) s

/-! ### Conversion and packing (R252 to R256) -/

/-- STY (R252). -/
def styOf (x : V64) : BitVec 4 := x.vs3.extractLsb' 0 4

/-- VCVT (R253). -/
def execVcvt (x : V64) (s : State) : Res :=
  vecOp 8 (laneWise x 3 fun a _ _ => tyConvert (styOf x) x.ty (Rnd.of x.rnd) (x.fn.getLsbD 0) false a) s

/-- Elements per lane of a wide type (R254). -/
def widePerLane (ty : BitVec 4) : Nat := if tyWidth ty = 16 then 2 else 1

/-- Registers of a group of wide elements for a narrow type. -/
def groupCount (narrow wide : BitVec 4) : Nat := 32 / tyWidth narrow / widePerLane wide

/-- VWID (R254, R255): the interleave order. -/
def execVwid (x : V64) (s : State) : Res :=
  vecOp 8 (do
    let sh <- shared
    let act := activeLanes sh x
    let src := keepActive act (srcA sh x)
    let n := tyWidth (styOf x)
    let w := tyWidth x.ty
    let p := widePerLane x.ty
    let d := x.r.vd.toNat
    let one := fun (i : Nat) (a : BitVec 32) => (List.range (32 / n)).flatMap fun e =>
      let v := (tyConvert (styOf x) x.ty .rne false false (a.toNat / 2 ^ (n * e) % 2 ^ n)).1
      if w = 64 then
        [(laneKey d i, (0xFFFFFFFF : BitVec 32), BitVec.ofNat 32 v),
         (laneKey (d + 1) i, 0xFFFFFFFF, BitVec.ofNat 32 (v / 2 ^ 32))]
      else
        let lo := w * (e % p)
        [(laneKey (d + e / p) i, BitVec.ofNat 32 ((2 ^ w - 1) * 2 ^ lo), BitVec.ofNat 32 (v * 2 ^ lo))]
    addLanding { rem := 3, sq := x.sq == 1, lanes := src.flatMap fun (i, a) => one i a }) s

/-- VNAR (R254, R255). -/
def execVnar (x : V64) (s : State) : Res :=
  vecOp 8 (do
    let sh <- shared
    let act := activeLanes sh x
    let n := tyWidth x.ty
    let w := tyWidth (styOf x)
    let p := widePerLane (styOf x)
    let regs := (List.range (if w = 64 then 2 else groupCount x.ty (styOf x))).map fun k => sh.lanesOf (x.r.vs1.toNat + k)
    let lane := fun (k i : Nat) => ((regs.getD k []).getD i 0).toNat
    let one := fun (i : Nat) => (List.range (32 / n)).foldl (fun (r : Nat × Flags) e =>
      let a := if w = 64 then lane 0 i + 2 ^ 32 * lane 1 i else lane (e / p) i / 2 ^ (w * (e % p)) % 2 ^ w
      let v := tyConvert (styOf x) x.ty (Rnd.of x.rnd) (x.fn.getLsbD 0) (x.fn.getLsbD 1) a
      (r.1 + v.1 % 2 ^ n * 2 ^ (n * e), r.2 ||| v.2)) (0, 0)
    let outs := (keepActive act (List.range 128)).map fun q => (q.1, one q.1)
    wholeLanes x 3 (dstReg x.r) (outs.map fun o => (o.1, BitVec.ofNat 32 o.2.1)) (allFlags (outs.map fun o => o.2.2))) s

/-- Field width of VPACK and VUNPK (R256). -/
def packWidth (fn : BitVec 3) : Nat := 16 / 2 ^ (fn.toNat % 4)

/-- VPACK (R256). -/
def execVpack (x : V64) (s : State) : Res :=
  vecOp 8 (do
    let sh <- shared
    let act := activeLanes sh x
    let n := packWidth x.fn
    let signed := x.ty == 2
    let regs := (List.range (32 / n)).map fun j => sh.lanesOf (x.r.vs1.toNat + j)
    let one := fun (i : Nat) => regs.zipIdx.foldl (fun r (ls, j) =>
      let t := tyIntVal x.ty (ls.getD i 0).toNat
      let t := if x.fn.getLsbD 2 then max (intMin n signed) (min (intMax n signed) t) else t
      r + lowBits n t * 2 ^ (n * j)) 0
    wholeLanes x 3 (dstReg x.r) (((keepActive act (List.range 128))).map fun q => (q.1, BitVec.ofNat 32 (one q.1)))) s

/-- VUNPK (R256). -/
def execVunpk (x : V64) (s : State) : Res :=
  vecOp 8 (do
    let sh <- shared
    let act := activeLanes sh x
    let n := packWidth x.fn
    let src := keepActive act (srcA sh x)
    addLanding
      { rem := 3, sq := x.sq == 1,
        lanes := src.flatMap fun (i, a) => (List.range (32 / n)).map fun j =>
          let u := a.toNat / 2 ^ (n * j) % 2 ^ n
          (laneKey (x.r.vd.toNat + j) i, 0xFFFFFFFF,
            if x.ty == 2 then BitVec.ofInt 32 (sextNat n u) else BitVec.ofNat 32 u) }) s

/-! ### Special functions and refinement steps (R257 to R259) -/

/-- A special function: FN[0] selects the accurate grade. -/
def vSpecial (f : SpFn) (x : V64) (s : State) : Res :=
  let acc := x.fn.getLsbD 0
  vecOp 8 (laneWise x (if acc then 20 else 8) fun a _ _ =>
    let r := f.run acc (BitVec.ofNat 32 a)
    (r.1.toNat, r.2)) s

/-- VRCP (R257). -/
def execVrcp (x : V64) (s : State) : Res := vSpecial .rcp x s
/-- VRSQ (R257). -/
def execVrsq (x : V64) (s : State) : Res := vSpecial .rsq x s
/-- VEXP (R257). -/
def execVexp (x : V64) (s : State) : Res := vSpecial .exp x s
/-- VLOG (R257). -/
def execVlog (x : V64) (s : State) : Res := vSpecial .log x s
/-- VTANH (R257). -/
def execVtanh (x : V64) (s : State) : Res := vSpecial .tanh x s
/-- VSIGM (R257). -/
def execVsigm (x : V64) (s : State) : Res := vSpecial .sigm x s
/-- VGELU (R257). -/
def execVgelu (x : V64) (s : State) : Res := vSpecial .gelu x s
/-- VSIN (R257). -/
def execVsin (x : V64) (s : State) : Res := vSpecial .sin x s

def oneFV : FV := .num false 1 0
def halfFV : FV := .num false 1 (-1)

/-- R259: y is passed through when it is a NaN, a zero or an infinity. -/
def refine (root : Bool) (rm : Rnd) (x y : Nat) : Nat × Flags :=
  let xv := fp32.value x
  let yv := fp32.value y
  let dlv := fp32.deliver rm
  match yv with
  | .nan => (fp32.nanCode, 0)
  | .inf _ => (y, 0)
  | .num _ m _ =>
    if m = 0 then (y, 0)
    else
      let (h, f0) := if root then dlv (mulExact xv yv) else (x, 0)
      let (e, f1) := dlv (fmaExact rm (fp32.value h).negate yv oneFV)
      let ev := fp32.value e
      let scaled := if root then (mulExact halfFV yv).1 else yv
      let (d, f2) := dlv (fmaExact rm scaled ev yv)
      (d, f0 ||| f1 ||| f2)

/-- VRCPS (R259). -/
def execVrcps (x : V64) (s : State) : Res :=
  vecOp 8 (laneWise x 8 fun a b _ => refine false (Rnd.of x.rnd) a b) s
/-- VRSQS (R259). -/
def execVrsqs (x : V64) (s : State) : Res :=
  vecOp 8 (laneWise x 12 fun a b _ => refine true (Rnd.of x.rnd) a b) s

end Sys2Proof.Machine
end

