-- ==== Sys2Proof/Machine/Sync.lean ====
section
/-! DEFINITION. Scalar and vector atomics (R398 to R403), FENCE (R404, R385), and byte-counting barriers (R405 to R408). -/
namespace Sys2Proof.Machine

/-! ### Atomics (R398 to R400) -/

/-- The operations of the AMO family. -/
inductive AmoFn where
  | add | min | max | xchg | cas | and | or
  deriving DecidableEq, Repr

/-- The new value of `n` bits (R400): `v` the operand, `c` the second operand of CAS. -/
def amoNew (f : AmoFn) (u : Bool) (n old v c : Nat) : Nat :=
  let less := fun (a b : Nat) => if u then decide (a < b) else decide (sextNat n a < sextNat n b)
  match f with
  | .add => (old + v) % 2 ^ n
  | .min => if less v old then v else old
  | .max => if less old v then v else old
  | .xchg => v
  | .and => old &&& v
  | .or => old ||| v
  | .cas => if old = v then c else old

/-- The number by which a packet names an operation: 0 to 6 for those above, and from 16 on an FP32 one of VAMO, 16 + 8 x FN + RND (R402). -/
def AmoFn.no : AmoFn → Nat
  | .add => 0
  | .min => 1
  | .max => 2
  | .xchg => 3
  | .cas => 4
  | .and => 5
  | .or => 6
def amoFnOf : Nat → AmoFn
  | 0 => .add
  | 1 => .min
  | 2 => .max
  | 3 => .xchg
  | 4 => .cas
  | 5 => .and
  | _ => .or

/-- The new value of `n` bits that a numbered operation writes, if it writes, and its flags: CAS writes only where it compares equal
(R400), and VAMO's FP32 operations are those of R402. -/
def atomicNew (f : Nat) (u : Bool) (n old v c : Nat) : Option Nat × Flags :=
  if 16 ≤ f then
    if f < 24 then let r := fp32.add (Rnd.of (BitVec.ofNat 2 (f % 8))) old v; (some r.1, r.2)
    else (some (fMinMax fp32 (decide (32 ≤ f)) old v), 0)
  else if f = 4 ∧ old ≠ v then (none, 0)
  else (some (amoNew (amoFnOf f) u n old v c), 0)

/-- R400's checks: alignment, R27 as a write, the host path, R309 as a write. Answers the flat address, the ordering kind of
the handle, and the destination. -/
def atomicDest (w : Who) (h off n : Nat) (i : Nat) : M (Nat × Nat × Dest) := do
  need (off % n == 0) .ldstAlign { addr := off, detail := i }
  let (fa, ord) <- handleAt w.asid h off n true
  need (fa / 2 ^ 52 % 16 != 6) .syncPath { addr := fa, detail := i }
  let d <- destOf w fa n true
  pure (fa, ord, d)

/-- Before an atomic goes to a peer, every copy of its line in this device's L2 is written back, which the atomic waits for, and
invalidated (R398). -/
def flushLine (w : Who) (d line : Nat) : M Unit := do
  let here := fun (x : PeerLine) => x.peer == d && x.addr == line
  writeBackLines w here
  modify fun s => { s with mem := { s.mem with lines := s.mem.lines.filter fun x => !here x } }
  waitFor (!((<- get).packets.any fun p => p.1 == d && p.2.key.1 == (backKey 0).1 && (match p.2.op with
    | .write a _ => a / 64 == line
    | .poison a _ => a / 64 == line
    | _ => false)))

/-- One indivisible read-modify-write of `n` bytes by a numbered operation, performed where R398 says: one packet where that is a peer.
Answers the old value. -/
def readModifyWrite (w : Who) (h off n i : Nat) (f : Nat) (u : Bool) (v c : Nat) : M Nat := whole do
  let (fa, ord, d) <- atomicDest w h off n i
  match d with
  | .peer p pa leaf _ =>
    flushLine w p (pa / 64)
    let op := PktOp.amo pa f u n v c
    ask w p (kindOf ord leaf) op ((<- get).keyNo (leafKey leaf))
    match <- answer w p op with
    | some bs => pure (leNat bs)
    | none => trap .poison { addr := fa }
  | _ =>
    let old := leNat (<- readDest w fa d n)
    match (atomicNew f u (8 * n) old v c).1 with
    | some x => writeDest w d ord false (leBytes n x)
    | none => pure ()
    pure old

/-- An AMO's effect (R400). `ord` and `scope` are ORD and SCOPE. -/
def doAmo (f : AmoFn) (md : BitVec 3) (rd : BitVec 5) (h off ord scope : Nat) : M Unit := do
  loadRoom
  let w <- theWho
  let n := sizeOf md
  let v := (<- sreg rd).toNat % 2 ^ (8 * n)
  let c := (<- sreg (rd + 1)).toNat % 2 ^ (8 * n)
  if 2 ≤ ord then release w scope
  let old <- readModifyWrite w h off n 0 f.no (md.getLsbD 2) v c
  if ord % 2 = 1 then acquire w scope
  outstanding rd (loadValue md (leBytes n old))

/-- The 32-bit form is plain. -/
def amoOp (f : AmoFn) (x : S32) (s : State) : Res :=
  strandOp 4 x.pg (do
    let (h, off) <- memOp32 x
    doAmo f x.md x.rd h off 0 0) s
def amoImmOp (f : AmoFn) (x : S64) (s : State) : Res :=
  strandOp 8 x.r.pg (do
    let (h, off) <- memOp64 x
    doAmo f x.r.md x.r.rd h off (ordOf x) (scopeOf x)) s

/-- AMO.ADD (R399, R400). -/
def execAmoAdd (x : S32) (s : State) : Res := amoOp .add x s
def execAmoAddImm (x : S64) (s : State) : Res := amoImmOp .add x s
/-- AMO.MIN (R399, R400). -/
def execAmoMin (x : S32) (s : State) : Res := amoOp .min x s
def execAmoMinImm (x : S64) (s : State) : Res := amoImmOp .min x s
/-- AMO.MAX (R399, R400). -/
def execAmoMax (x : S32) (s : State) : Res := amoOp .max x s
def execAmoMaxImm (x : S64) (s : State) : Res := amoImmOp .max x s
/-- AMO.XCHG (R399, R400). -/
def execAmoXchg (x : S32) (s : State) : Res := amoOp .xchg x s
def execAmoXchgImm (x : S64) (s : State) : Res := amoImmOp .xchg x s
/-- AMO.CAS (R399, R400). -/
def execAmoCas (x : S32) (s : State) : Res := amoOp .cas x s
def execAmoCasImm (x : S64) (s : State) : Res := amoImmOp .cas x s
/-- AMO.AND (R399, R400). -/
def execAmoAnd (x : S32) (s : State) : Res := amoOp .and x s
def execAmoAndImm (x : S64) (s : State) : Res := amoImmOp .and x s
/-- AMO.OR (R399, R400). -/
def execAmoOr (x : S32) (s : State) : Res := amoOp .or x s
def execAmoOrImm (x : S64) (s : State) : Res := amoImmOp .or x s

/-! ### VAMO (R401 to R403) -/

/-- The number of VAMO's operation: FN and TY. -/
def vamoOp (x : V64) : Nat :=
  let fn := x.fn.toNat
  if x.ty = 8 then (if fn ≤ 2 then 16 + 8 * fn + x.rnd.toNat else AmoFn.xchg.no)
  else if fn ≤ 3 then fn else if fn = 4 then AmoFn.and.no else AmoFn.or.no

/-- Write a whole lane at once. -/
def setLane (r i : Nat) (v : BitVec 32) : M Unit := modShared fun x => { x with v := Sparse.set 0 x.v (laneKey r i) v }

/-- Apply element `i` of a VAMO. -/
def vamoElement (x : V64) (i : Nat) : M Unit := do
  let sh <- shared
  let lane := fun (r k : Nat) => Sparse.get 0 sh.v (laneKey r k)
  let d := x.vs3.toNat % 64
  let base := (lane d 1).toNat + 2 ^ 32 * (lane d 2).toNat
  let off := (base + (lane x.r.vs2.toNat i).toNat) % 2 ^ 64
  let v := (lane x.r.vs1.toNat i).toNat
  let w <- theWho
  let old <- readModifyWrite w ((lane d 0).toNat % 4096) off 4 i (vamoOp x) (!tySigned x.ty) v 0
  let fl := (atomicNew (vamoOp x) (!tySigned x.ty) 32 old v 0).2
  modTeam fun t => { t with vflags := t.vflags ||| fl }
  setLane (dstReg x.r) i (BitVec.ofNat 32 old)

/-- VAMO (R402): one active element at a time, so that it can be interrupted between two (R403). VRSTIDX is written at a fault and at the
end; what stops the VAMO between two elements leaves it in VRSTIDX (`Team.parkVamo`). -/
def execVamo (x : V64) (s : State) : Res :=
  vecOp 8 (do
    waitLanded
    let t <- team
    let i0 := if t.vpos = 0 then t.vrstidx.toNat else t.vpos
    need (decide (i0 < 128)) .illRes
    let act := activeLanes (<- shared) x
    let left := (span i0 (128 - i0)).filter fun i => act.getD i false
    match left with
    | [] => modTeam fun t => { t with vrstidx := 0, vpos := 0 }
    | i :: rest =>
      match <- attempt (vamoElement x i) with
      | .error (k, info) =>
        modTeam fun t => { t with vrstidx := BitVec.ofNat 8 i, vpos := 0 }
        trap k { info with detail := i }
      | .ok _ =>
        modify fun s => s.usedReplies (t.key .vector)
        if rest.isEmpty then modTeam fun t => { t with vrstidx := 0, vpos := 0 }
        else
          modTeam fun t => { t with vpos := i + 1 }
          wait) s

/-! ### FENCE (R404, R385, R386) -/

/-- The first issue of a FENCE marks what was issued before it: results and products in flight, job cards and packets (R385). -/
def markFence (me : Stream) : M Fence := do
  let t <- team
  match Tab.find t.fences me.code with
  | some x => pure x
  | none =>
    let s <- get
    let x : Fence := { cards := (t.cards.filter fun k => k.live).map (·.seq), pkt := s.fab.nextPkt }
    modTeam fun t => { t with fences := Tab.put t.fences me.code x }
    modShared fun z => { z with landings := z.landings.map fun l => { l with fence := me :: l.fence },
                                array := z.array.map fun p => { p with fence := me :: p.fence } }
    pure x

/-- The FENCE of a stream is over. -/
def endFence (me : Stream) : M Unit := do
  modTeam fun t => { t with fences := Tab.del t.fences me.code }
  modShared fun z => { z with landings := z.landings.map fun l => { l with fence := l.fence.filter (· != me) },
                              array := z.array.map fun p => { p with fence := p.fence.filter (· != me) } }

/-- A packet to a peer that the FENCE of stream `me` with mask `es` waits for (R385): of a stream that it covers or of a job card, issued
before it. The jobs that the copy stream issued are its own accesses (R404). -/
def Packet.fenced (p : Packet) (t : Team) (x : Fence) (me : Stream) (es : List Stream) : Bool :=
  let code := p.key.2.2
  p.key.1 == t.grid && p.key.2.1 == t.no &&
    if code < 4 then (code == me.code || es.any fun e => e.code == code) && decide (p.no < x.pkt)
    else (es.contains .copy || (me == .copy && code % 2 == 1)) && (decide (p.no < x.pkt) || x.cards.contains ((code - 4) / 2))

/-- Wait for what a stream that the FENCE covers had issued before it; of the copy engine's job cards the mask names all, and the copy
stream's own FENCE those that it issued (R404). -/
def fenceStream (x : Fence) (me : Stream) (es : List Stream) (st : Stream) : M Unit := do
  let t <- team
  let z <- shared
  let c <- theCell
  match st with
  | .strand => pure ()
  | .copy => waitFor (t.cards.all fun k => !(k.live && x.cards.contains k.seq && (es.contains .copy || k.stream == .copy)))
  | .vector => waitFor (!z.landings.any fun l => l.fence.contains me)
  | .matrix =>
    waitFor (!z.array.any fun p => p.fence.contains me)
    modify fun s => s.drainPosted fun p => p.src == c

/-- FENCE (R404, R385): it waits for what was issued before it, an RST's acknowledgement on its peer (R441), and is a release and an
acquire at its scope. -/
def execFence (x : S32) (s : State) : Res :=
  sharedOp 4 x.pg [.strand, .vector, .matrix, .copy] (do
    let me <- theStream
    let scope := x.md.toNat
    let es := [Stream.strand, .vector, .matrix, .copy].filter fun st => x.rs1.getLsbD st.code
    let f <- markFence me
    ([Stream.strand, .vector, .matrix, .copy].filter fun st => st == me || es.contains st).forM (fenceStream f me es)
    let w <- theWho
    release w scope
    if scopePod ≤ scope then
      let t <- team
      match ((<- get).packets.filter fun p => p.2.fenced t f me es).head? with
      | some (d, p) => if p.rst then waitPeer d else wait
      | none => pure ()
    endFence me
    acquire w scope) s

/-! ### Barriers (R405 to R408) -/

/-- A barrier object. -/
structure Bar where
  phase : BitVec 16 := 0
  posted : Bool := false
  ovr : Bool := false
  exp : Nat := 0
  arr : Nat := 0
  next : Nat := 0
  fire : Nat := 0
  deriving DecidableEq, Repr

def Bar.ofWords (ws : List Word) : Bar :=
  { phase := BitVec.ofNat 16 (fld (nth ws 0) 48 16), posted := bitAt (nth ws 0) 47, ovr := bitAt (nth ws 0) 46,
    exp := fld (nth ws 0) 0 32, arr := (nth ws 1).toNat, next := (nth ws 2).toNat, fire := (nth ws 3).toNat }
def Bar.words (b : Bar) : List Word :=
  [wd (at_ b.phase.toNat 48 + at_ b.posted.toNat 47 + at_ b.ovr.toNat 46 + b.exp), wd b.arr, wd b.next, wd b.fire]

def sat64 (n : Nat) : Nat := min n (2 ^ 64 - 1)

/-- fire(); answers whether it overran. -/
def Bar.fires (b : Bar) (now : Nat) : Bar × Bool :=
  let surplus := decide (b.exp < b.arr)
  ({ b with ovr := b.ovr || surplus, phase := b.phase + 1, arr := b.next, next := 0, posted := false, fire := now }, surplus)

/-- BAR.ARR's effect (R407): the barrier, and whether it overran. -/
def Bar.arrive (b : Bar) (p : BitVec 16) (n now : Nat) : Bar × Bool :=
  if p = b.phase then
    let b := { b with arr := sat64 (b.arr + n) }
    if b.posted && decide (b.exp ≤ b.arr) then b.fires now else (b, false)
  else if p = b.phase + 1 then ({ b with next := sat64 (b.next + n) }, false)
  else ({ b with ovr := true }, true)

/-- BAR.EXP's effect: `none` when the barrier is not in the state for it. -/
def Bar.expect (b : Bar) (p : BitVec 16) (c now : Nat) : Option (Bar × Bool) :=
  if b.posted || p != b.phase then none
  else
    let b := { b with exp := c, posted := true }
    some (if c ≤ b.arr then b.fires now else (b, false))

/-- A phase has passed (R407). -/
def Bar.passed (b : Bar) (p : BitVec 16) : Bool := decide (1 ≤ (b.phase - p).toNat ∧ (b.phase - p).toNat ≤ 32767)

/-- The checks of R406. Answers the flat address and where the barrier is. -/
def barDest (w : Who) (h off : Nat) : M (Nat × Dest) := do
  let (fa, _) <- handleAt w.asid h off 32 true
  need (fa % 32 == 0) .ldstAlign { addr := off }
  need (fa / 2 ^ 52 % 16 == 2) .syncPath { addr := fa }
  let d <- destOf w fa 32 true
  pure (fa, d)

def barRead (w : Who) (fa : Nat) (d : Dest) : M Bar := do pure (Bar.ofWords (bytesWords 4 (<- readDest w fa d 32)))

/-- The memory controller tells the strands that wait on the barrier at a physical address what phase it has now (R407). -/
def State.tellBar (s : State) (pa : Nat) (b : Bar) : State :=
  (s.teams.filter fun p => p.2.barWait.any fun x => x.pa == pa && b.passed x.phase).foldl (fun s p =>
    s.modTeam p.1 fun t => { t with barWait := t.barWait.map fun x => { x with told := true } }) s

def barWrite (w : Who) (d : Dest) (b : Bar) : M Unit := do
  writeDest w d 0 false (wordsBytes b.words)
  match d with
  | .loc pa _ => modify fun s => s.tellBar pa b
  | _ => pure ()

/-- An overrun raised by the issuing team (R408). -/
def barOverrun (surplus : Bool) : M Unit := do
  if surplus then
    let l <- theLoc
    modify fun s => s.raiseAsync l .barOverrun

/-- The phase in a register. -/
def phaseReg (r : BitVec 5) : M (BitVec 16) := do pure ((<- sreg r).extractLsb' 0 16)

/-- BAR.EXP (R406, R407). -/
def execBarExp (x : S64) (s : State) : Res :=
  strandOp 8 x.r.pg (do
    let (h, off) <- memOp64 x
    let w <- theWho
    let (fa, d) <- whole (barDest w h off)
    let b <- barRead w fa d
    let c <- sreg x.r.rs2
    match b.expect (<- phaseReg x.r.rd) (c.toNat % 2 ^ 32) (<- get).now with
    | none => trap .barState { addr := fa }
    | some (b, surplus) =>
      barWrite w d b
      barOverrun surplus) s

/-- BAR.WAIT (R406, R407): blocks as number 257 of the strand's waits, or with .try writes a predicate. A blocked one reads the barrier no
more: the memory controller tells it. -/
def execBarWait (x : S64) (s : State) : Res :=
  strandOp 8 x.r.pg (do
    let w <- theWho
    match (<- team).barWait with
    | some z =>
      let ok <- drained 257
      waitFor (z.told && ok)
      modTeam fun t => { t.dropWaiter 257 .strand with barWait := none }
      acquire w x.r.md.toNat
    | none =>
      let (h, off) <- memOp64 x
      let (p, passed, pa) <- whole do
        let (fa, d) <- barDest w h off
        let b <- barRead w fa d
        let p <- phaseReg x.r.rs2
        pure (p, b.passed p, match d with
          | .loc pa _ => pa
          | _ => 0)
      if x.r.rd.getLsbD 4 then
        setPred (x.r.rd.toNat % 8) passed
        if passed then acquire w x.r.md.toNat
      else if passed then acquire w x.r.md.toNat
      else
        modTeam fun t => { t with barWait := some { pa := pa, phase := p } }
        blockOn 257 0) s

/-- An arrival at a barrier. -/
def doArrive (w : Who) (h off scope : Nat) (p : BitVec 16) (n : Nat) : M Unit := whole do
  let (fa, d) <- barDest w h off
  release w scope
  let b <- barRead w fa d
  let (b, surplus) := b.arrive p n (<- get).now
  barWrite w d b
  barOverrun surplus

/-- BAR.ARR (R406, R407): in the copy stream the operands lie in an arrival block. -/
def execBarArr (x : S64) (s : State) : Res :=
  sharedOp 8 x.r.pg [.strand, .copy] (do
    let w <- theWho
    if (<- theStream) == .copy then
      let off : Nat := x.imm.toNat % 2 ^ 20
      need (off % 16 == 0) .vaultAlign { addr := off }
      inVault off 16
      waitFor (<- team).copyDone
      let ws := bytesWords 2 (<- vaultLoad off 16)
      let w0 := nth ws 0
      let w1 := nth ws 1
      need (!resSet w0 [(48, 4)] && !resSet w1 [(32, 16)]) .illRes
      doArrive w (fld w0 52 12) (fld w0 0 48) x.r.md.toNat (BitVec.ofNat 16 (fld w1 48 16)) (fld w1 0 32)
    else
      let (h, off) <- memOp64 x
      let p <- phaseReg x.r.rd
      let n <- sreg x.r.rs2
      doArrive w h off x.r.md.toNat p (n.toNat % 2 ^ 32)) s

end Sys2Proof.Machine
end

