-- ==== Sys2Proof/Machine/Coll.lean ====
section
/-! DEFINITION. Collectives (R409 to R416, R438 to R440), and what arrives at receive ports (R364, R439). -/
namespace Sys2Proof.Machine

/-! ### Blocks (R409 to R411) -/

/-- The block that a collective instruction names, read whole. A block that is not aligned has the cause of a block that is not well
formed (log 36). -/
def collBlock (x : S64) (n : Nat) : M (List Word) := whole do
  let (h, off) <- memOp64 x
  let w <- theWho
  let (fa, _) <- handleAt w.asid h off n false
  need (fa % 64 == 0) .collInvalid
  let bs <- loadFlat w fa n
  acquire w 3
  pure (bytesWords (n / 8) bs)

def cbName (b : List Word) : Nat := fld (nth b 0) 32 32
def cbDtype (b : List Word) : Nat := fld (nth b 0) 28 4
def cbOff (b : List Word) : Nat := fld (nth b 3) 0 48
def cbCount (b : List Word) : Nat := fld (nth b 4) 32 32
def cbNdev (b : List Word) : Nat := fld (nth b 4) 0 10

/-- Bytes of an element in the buffer. -/
def elemBytes (dtype : Nat) : Nat := if dtype = 4 then 2 else 4

def State.collReg (s : State) (a name : Nat) : Option CollReg := Tab.find (s.ctx a).colls name
def State.collRun (s : State) (a name : Nat) : Option Coll := s.fab.colls.find? fun x => x.asid == a && x.name.toNat == name

/-- Change a running collective. -/
def State.modColl (s : State) (a name : Nat) (f : Coll → Coll) : State :=
  { s with fab := { s.fab with colls := s.fab.colls.map fun x => if x.asid == a && x.name.toNat == name then f x else x } }

/-- Cell and port of a registration word (R410). -/
def CollReg.cell (r : CollReg) : Nat := 64 * fld r.port 20 2 + fld r.port 14 6
def CollReg.portNo (r : CollReg) : Nat := fld r.port 8 6

/-! ### COLL.REG and COLL.FREE (R410, R416) -/

/-- A member of a buffer meets R410. -/
def collMember (w : Who) (fa : Nat) : M Unit := do
  let path := fa / 2 ^ 52 % 16
  need (path == 0 || path == 2) .collBuf
  match <- lookupLeaf w.cell w.asid fa with
  | none => trap .collBuf
  | some leaf =>
    let s <- get
    need (s.leafOk path leaf && pathAgrees path leaf && leafPeer leaf == 1023 && (leafPin leaf || leafMs leaf)) .collBuf
    if leafMs leaf then need (<- lockMs leaf (frameAt leaf fa)) .collBuf

/-- COLL.REG (R410). -/
def execCollReg (x : S64) (s : State) : Res :=
  gatedOp State.hasSkidway (strandOp 8 x.r.pg <| whole do
    let b <- collBlock x 64
    let w <- theWho
    let name := cbName b
    need (name != 0 && !resSet (nth b 0) [(22, 10), (0, 8)] && !resSet (nth b 1) [(48, 4)] && !resSet (nth b 2) [(48, 16)]
      && (span 3 5).all fun i => nth b i == 0) .collInvalid
    let s <- get
    need (s.collReg w.asid name).isNone .collName
    need (decide ((s.ctx w.asid).colls.length < 256)) .collTable
    let off := fld (nth b 1) 0 48
    let size := fld (nth b 2) 0 48
    need (off % 64 == 0 && size % 64 == 0 && size != 0) .collBuf
    match <- attempt (handleAt w.asid (fld (nth b 1) 52 12) off size true) with
    | .error _ => trap .collBuf
    | .ok (fa, _) =>
      (parts fa size).forM fun (a, _) => collMember w a
      modify fun s => s.modCtx w.asid fun c => { c with colls := Tab.put c.colls name { port := nth b 0, buf := wd fa, size := size } }) s

/-- COLL.FREE (R416). -/
def execCollFree (x : S64) (s : State) : Res :=
  gatedOp State.hasSkidway (strandOp 8 x.r.pg <| whole do
    let b <- collBlock x 8
    let w <- theWho
    let name := cbName b
    let s <- get
    need (s.collReg w.asid name).isSome .collName
    waitFor (s.collRun w.asid name).isNone
    modify fun s => s.modCtx w.asid fun c => { c with colls := Tab.del c.colls name }) s

/-! ### Ring steps (R413) -/

def Coll.n (c : Coll) : Nat := c.group.length
/-- Reduce steps, and all steps. -/
def Coll.reduces (c : Coll) : Nat := if c.op = 0x0E then 0 else c.n - 1
def Coll.steps (c : Coll) : Nat := c.reduces + (if c.op = 0x0F then 0 else c.n - 1)
/-- A difference modulo N. -/
def Coll.back (c : Coll) (k : Nat) : Nat := (c.rank + 2 * c.n - k) % max 1 c.n
/-- The chunk that step `s` sends, and the one it receives. -/
def Coll.sends (c : Coll) (s : Nat) : Nat := if s < c.reduces then c.back (s + 1) else c.back (s - c.reduces)
def Coll.receives (c : Coll) (s : Nat) : Nat := if s < c.reduces then c.back (s + 2) else c.back (s - c.reduces + 1)

/-- Elements of chunk `j` of the working copy. -/
def Coll.chunk (c : Coll) (j : Nat) : List (BitVec 32) := (List.range c.count).map fun k => Sparse.get 0 c.work (j * c.count + k)
def Coll.setChunk (c : Coll) (j : Nat) (vs : List (BitVec 32)) : Coll :=
  { c with work := vs.zipIdx.foldl (fun m (v, k) => Sparse.set 0 m (j * c.count + k) v) c.work }

/-- An element of the buffer in the working copy, and back (R413): a BF16 NaN widens to the canonical one (R62). -/
def collIn (dtype v : Nat) : BitVec 32 :=
  BitVec.ofNat 32 (if dtype = 4 then (if v / 128 % 256 = 255 ∧ v % 128 ≠ 0 then 0x7FC00000 else v * 65536) else v)
def collOut (dtype : Nat) (v : BitVec 32) : List Byte :=
  if dtype = 4 then leBytes 2 (bf16.convert .rne false (fp32.value v.toNat)).1 else leBytes 4 v.toNat

/-- Add a received element (R413). -/
def collAdd (dtype : Nat) (a b : BitVec 32) : BitVec 32 := if dtype = 0 then a + b else (fadd32 .rne a b).1

/-- The accessor of a base die: it acts for the context. -/
def Coll.who (c : Coll) : Who := { asid := c.asid, key := hubKey c.asid }

/-- An arrival posted by a collective: an overrun gives the record only (R408). -/
def collArrive (c : Coll) (n : Nat) : M Unit := do
  let w := c.who
  let fa := c.barrier.toNat
  let d <- destOf w fa 32 true
  let b <- barRead w fa d
  let s <- get
  let (b, surplus) := b.arrive c.phase n s.now
  barWrite w d b
  if surplus then modify fun s => s.offer { cause := .barOverrun, asid := c.asid, time := s.now, addr := wd fa }

/-- Fresh bytes that nothing fixes (log 3). -/
def freshBytes (n : Nat) : M (List Byte) := do
  let s <- get
  let k := (n + 7) / 8
  set { s with free := s.free + k }
  pure ((wordsBytes ((List.range k).map fun i => Config.freeWord (s.free + i))).take n)

/-- Write a final chunk to the buffer and post its bytes (R413). COLL.RS leaves every other chunk undefined. -/
def collFinal (c : Coll) (j : Nat) : M Unit := whole do
  match (<- get).collReg c.asid c.name.toNat with
  | none => pure ()
  | some r =>
    let e := elemBytes c.dtype
    let place := fun (i : Nat) => r.buf.toNat + c.off + i * c.count * e
    if c.op = 0x0F then
      ((List.range c.n).filter (· != j)).forM fun i => do
        storeFlat c.who (place i) 0 false (<- freshBytes (c.count * e))
    storeFlat c.who (place j) 0 false ((c.chunk j).flatMap (collOut c.dtype))
    release c.who 4
    collArrive c (c.count * e)

/-- Write the final chunks that are due, in order; one that waits is tried again. -/
def State.collWrite (s : State) (a name : Nat) : Nat → State
  | 0 => s
  | fuel + 1 =>
    match s.collRun a name with
    | none => s
    | some c =>
      match c.finals with
      | [] => s
      | j :: rest =>
        let next := fun (s : State) => (s.modColl a name fun c => { c with finals := rest }).collWrite a name fuel
        match (collFinal c j).run s with
        | .ok _ s => next s
        | .error (.trap _ _) s => next s
        | .error (.wait _) s => s

/-- The stack whose base die handles the line of the buffer at a flat address: that of its fast frame (R438, R327). -/
def State.stackOf (s : State) (a fa : Nat) : Nat :=
  match s.walk a fa with
  | some (leaf, _) => groupOf (frameAt leaf fa) % 8
  | none => 0

/-- Send the next step's chunk when the one before is acknowledged and the chunk is there (R414), line by line from the base dies, over one
hop or two (R438, log 119). Nothing leaves in a quiesce (R441). -/
def State.collSend (s : State) (a name : Nat) : State :=
  match s.collRun a name with
  | none => s
  | some c =>
    if !c.sent && decide (c.step < c.steps ∧ c.step ≤ c.received) && !s.silent a then
      let g := c.group.getD ((c.rank + 1) % max 1 c.n) 0
      let d := c.successor
      let j := c.sends c.step
      let e := elemBytes c.dtype
      let per := 64 / e
      let at_ := fun (k : Nat) => ((s.collReg a name).elim 0 fun r => r.buf.toNat) + c.off + j * c.count * e + 64 * k
      let lines := chunks (4 * per) 0 ((c.chunk j).flatMap fun v => leBytes 4 v.toNat)
      let s := lines.zipIdx.foldl (fun s p =>
        s.emit (.chunk d c.name g (s.stackOf a (at_ p.2)) (if neighbours s.fab.devno d then 1 else 2) p.2 p.1.2)) s
      (s.modColl a name fun c => { c with sent := true }).startWait d
    else s

/-- Bytes of a collective's result (R413), which it is charged for (R100, log 106). -/
def Coll.resultBytes (c : Coll) : Nat := (if c.op = 0x0F then 1 else c.n) * c.count * elemBytes c.dtype

/-- A collective whose last chunk is written and acknowledged is over (R415), and charged (R100). -/
def State.collDone (s : State) (a name : Nat) : State :=
  match s.collRun a name with
  | none => s
  | some c =>
    if c.steps ≤ c.step ∧ c.steps ≤ c.received ∧ c.finals.isEmpty then
      let units := unitsFor c.resultBytes s.hub.collRate
      let s := if (s.grid c.team.grid).isSome then s.chargeGrid c.team.grid units else s.charge a c.acct units
      { s with fab := { s.fab with colls := s.fab.colls.filter fun x => !(x.asid == a && x.name.toNat == name) } }
    else s

/-- What a collective can do now: write, send, end. -/
def State.collGo (s : State) (a name : Nat) : State :=
  let n := ((s.collRun a name).map fun c => c.finals.length).getD 0
  ((s.collWrite a name (n + 1)).collSend a name).collDone a name

/-- Take one whole chunk for the next step received. -/
def State.collTake (s : State) (c : Coll) (vs : List (BitVec 32)) : State :=
  let k := c.received
  let j := c.receives k
  let reduce := decide (k < c.reduces)
  let c' := if reduce then c.setChunk j (((c.chunk j).zip vs).map fun p => collAdd c.dtype p.1 p.2) else c.setChunk j vs
  let c' := { c' with received := k + 1 }
  let c' := if !reduce || k + 1 == c.reduces then { c' with finals := c'.finals ++ [j] } else c'
  (s.modColl c.asid c.name.toNat fun _ => c').collGo c.asid c.name.toNat

/-- Take every whole chunk that has arrived; `fuel` bounds them. -/
def State.collFeed (s : State) (a name : Nat) : Nat → State
  | 0 => s
  | fuel + 1 =>
    match s.collRun a name with
    | none => s
    | some c =>
      let len := 4 * c.count
      if c.count ≠ 0 ∧ len ≤ c.part.length ∧ c.received < c.steps then
        let vs := (byGroups 4 (c.part.take len)).map fun b => BitVec.ofNat 32 (leNat b)
        let c' := { c with part := c.part.drop len }
        ((s.modColl a name fun _ => c').collTake c' vs).collFeed a name fuel
      else s

/-- The running collective that takes the bytes of a port (R414). -/
def State.collPort (s : State) (cell port : Nat) : Option Coll :=
  s.fab.colls.find? fun x =>
    match s.collReg x.asid x.name.toNat with
    | some r => r.cell == cell && r.portNo == port
    | none => false

/-- Bytes that a collective still takes from its port. -/
def Coll.wants (c : Coll) : Nat := 4 * c.count * (c.steps - c.received) - c.part.length

/-- A running collective takes from a port what it needs; the rest stays there (R414). -/
def State.portToColl (s : State) (cell port : Nat) : State :=
  match s.collPort cell port with
  | none => s
  | some c =>
    let bs := s.port cell port
    let s := (s.setPort cell port (bs.drop c.wants)).modColl c.asid c.name.toNat fun c => { c with part := c.part ++ bs.take c.wants }
    s.collFeed c.asid c.name.toNat (2 * c.steps + 1)

/-- Running LRADD cards of a port consume what it holds (R364). -/
def State.portToCards (s : State) (cell port : Nat) : State :=
  let mine := (s.cellCards cell).filter fun (_, k) => k.op == jLRADD && jPort k.block == port && k.st == .running
  mine.foldl (fun s (l, k) => s.jobStart l k.seq 0) s

/-- Bytes arrive at a receive port of a cell (R364, R439). They wait at the sender when the buffer has no room. -/
def State.portArrive (s : State) (cell port : Nat) (bs : List Byte) : State :=
  let held := s.port cell port
  let room := portRoom + ((s.collPort cell port).map Coll.wants).getD 0
  if room < held.length + bs.length then s
  else ((s.setPort cell port (held ++ bs)).portToColl cell port).portToCards cell port

/-! ### COLL.AR, COLL.AG and COLL.RS (R412, R413) -/

/-- The checks of R412; answers the block's registration, the group and the flat address of the barrier. -/
def collChecks (w : Who) (b : List Word) : M (CollReg × List (BitVec 32) × Nat) := do
  let dt := cbDtype b
  let n := cbNdev b
  need (!(resSet (nth b 0) [(16, 12)] || resSet (nth b 1) [(48, 4)] || resSet (nth b 2) [(48, 4)] || resSet (nth b 3) [(48, 16)]
      || resSet (nth b 4) [(10, 22)] || (span 5 3).any fun i => nth b i != 0)
    && (dt == 0 || dt == 4 || dt == 6) && cbCount b != 0 && decide (2 ≤ n ∧ n ≤ 993)) .collInvalid
  let s <- get
  match s.collReg w.asid (cbName b) with
  | none => trap .collName
  | some r =>
    need (s.collRun w.asid (cbName b)).isNone .collName
    let e := elemBytes dt
    need (cbCount b * e % 64 == 0 && cbOff b % 64 == 0 && decide (cbOff b + n * cbCount b * e ≤ r.size)) .collBuf
    let list <- match <- attempt (handleAt w.asid (fld (nth b 1) 52 12) (fld (nth b 1) 0 48) (4 * n) false) with
      | .error _ => trap .collInvalid
      | .ok (fa, _) => loadFlat w fa (4 * n)
    let group := (byGroups 4 list).map fun bs => BitVec.ofNat 32 (leNat bs)
    let devs := group.map fun g => g.toNat / 2 ^ 22
    need (group.all (fun g => g.toNat % 256 == 0) && devs.eraseDups.length == n && devs.contains s.fab.devno) .collInvalid
    let (bar, _) <- handleAt w.asid (fld (nth b 2) 52 12) (fld (nth b 2) 0 48) 32 true
    need (bar / 2 ^ 52 % 16 == 2) .syncPath { addr := bar }
    pure (r, group, bar)

/-- Start a collective, or say that no reduction context is free (R412, R440). -/
def doColl (op : Nat) (x : S64) : M Unit := whole do
  let b <- collBlock x 64
  let w <- theWho
  let (r, group, bar) <- collChecks w b
  let s <- get
  let mine := (s.fab.colls.filter fun c => c.asid == w.asid).length
  if decide ((s.regsOf w.asid).collallot.toNat ≤ mine) || decide (16 ≤ s.fab.colls.length) then setPred x.r.rd.toNat false
  else
    let dt := cbDtype b
    let e := elemBytes dt
    let rank := (group.findIdx? fun g => g.toNat / 2 ^ 22 == s.fab.devno).getD 0
    let bs <- loadFlat w (r.buf.toNat + cbOff b) (group.length * cbCount b * e)
    let work := ((byGroups e bs).zipIdx.foldl (fun m (v, k) => Sparse.set 0 m k (collIn dt (leNat v))) ([] : Sparse (BitVec 32)))
    let c : Coll :=
      { asid := w.asid, name := BitVec.ofNat 32 (cbName b), op := op, dtype := dt, phase := BitVec.ofNat 16 (fld (nth b 0) 0 16),
        barrier := wd bar, off := cbOff b, count := cbCount b, group := group, rank := rank, work := work,
        team := (<- team).ref, finals := if op = 0x0E then [rank] else [],
        acct := ((s.grid (<- team).grid).map fun g => fld (nth g.lrec 3) 16 16).getD 0 }
    modify fun s => { s with fab := { s.fab with colls := s.fab.colls ++ [c] } }
    setPred x.r.rd.toNat true
    modify fun s => (s.collGo w.asid c.name.toNat).portToColl r.cell r.portNo

/-- COLL.AR (R412, R413). -/
def execCollAr (x : S64) (s : State) : Res := gatedOp State.hasSkidway (strandOp 8 x.r.pg (doColl 0x0D x)) s
/-- COLL.AG (R412, R413). -/
def execCollAg (x : S64) (s : State) : Res := gatedOp State.hasSkidway (strandOp 8 x.r.pg (doColl 0x0E x)) s
/-- COLL.RS (R412, R413). -/
def execCollRs (x : S64) (s : State) : Res := gatedOp State.hasSkidway (strandOp 8 x.r.pg (doColl 0x0F x)) s

/-! ### Events -/

/-- PORT_RECEIVE (R364): cell `a`, port `b`, bytes. -/
def execPortReceive (s : State) : Res := .next (s.portArrive (s.arg.a % 256) (s.arg.b % 64) s.arg.bytes)

/-- COLL_CHUNK_RECEIVE (R414): stack-plane bytes addressed to the fallback port: cell `a`, port `b` (R439). -/
def execCollChunkReceive (s : State) : Res := .next (s.portArrive (s.arg.a % 256) (s.arg.b % 64) s.arg.bytes)

/-- COLL_CHUNK_ACK (R414): context `a`, name `b`. -/
def execCollChunkAck (s : State) : Res :=
  let a := s.arg.a
  let n := s.arg.b
  match s.collRun a n with
  | none => .next s
  | some c =>
    if !c.sent then .next s
    else .next (((s.modColl a n fun c => { c with sent := false, step := c.step + 1 }).heard c.successor).collGo a n)

/-- Abandon the collectives of a context (R415): their regions become undefined, so the model writes what free values give. -/
def State.abandonColl (s : State) (c : Coll) : State :=
  match s.collReg c.asid c.name.toNat with
  | none => s
  | some r =>
    let undefine : M Unit := do
      storeFlat c.who (r.buf.toNat + c.off) 0 false (<- freshBytes (c.n * c.count * elemBytes c.dtype))
    match undefine.run s with
    | .ok _ s => s
    | .error _ s => s

/-- Abandon every collective of a context. -/
def State.abandonColls (s : State) (a : Nat) : State :=
  let mine := s.fab.colls.filter fun c => c.asid == a
  let s := mine.foldl State.abandonColl s
  { s with fab := { s.fab with colls := s.fab.colls.filter fun c => c.asid != a } }

end Sys2Proof.Machine
end

