-- ==== Sys2Proof/Machine/Bank.lean ====
section
/-! DEFINITION. Near-bank work: BANK.RUN and BANK.STAT (R419 to R423), the microcode (R424), its acceptance (R425), and
suspension (R342, R501). -/
namespace Sys2Proof.Machine

/-! ### A microprogram's words (R188, R425) -/

/-- The instruction at word `j` of a microprogram, with its number of words. -/
def nbAt (prog : List W32) (j : Nat) : Option (Op × Fields × Nat) :=
  let ws := ({ prog := prog, pc := j } : NbUnit).words
  match decodeUnitOp ws with
  | some (o, f) => some (o, f, ws.length)
  | none => none

/-- Time of an instruction in ns (R424). -/
def nbTime : Op → Nat
  | .nbOpen | .nbScadd | .nbScadd64 | .nbScale | .nbScale64 => 16
  | .nbLdacc | .nbMac | .nbMac64 | .nbWr => 32
  | .nbClr => 8
  | _ => 2

/-- IMM15 of a near-bank word. -/
def nbImm (f : Fields) : Nat :=
  match f.nopt, f.asN32 with
  | some x, _ => x.n.imm15.toNat
  | none, some x => x.imm15.toNat
  | none, none => 0

/-- The words at which an instruction or an undecoded word stands, going on from each word of `todo`; `fuel` bounds them. -/
def nbWalk (prog : List W32) : Nat → List Nat → List Nat → List Nat
  | 0, _, seen => seen
  | _ + 1, [], seen => seen
  | fuel + 1, j :: todo, seen =>
    if seen.contains j || decide (prog.length ≤ j) then nbWalk prog fuel todo seen
    else match nbAt prog j with
      | none => nbWalk prog fuel ((j + 1) :: todo) (seen ++ [j])
      | some (o, f, n) =>
        nbWalk prog fuel ((j + n) :: (if o == .nbLoop then nbImm f % 64 :: todo else todo)) (seen ++ [j])

/-- Time from a word to the next NB.OPEN or NB.END, excluded; words that do not decode are passed over. -/
def nbStep (prog : List W32) : Nat → Nat → Nat
  | 0, _ => 0
  | fuel + 1, j =>
    match nbAt prog j with
    | none => if prog.length ≤ j then 0 else nbStep prog fuel (j + 1)
    | some (o, _, n) => if o == .nbOpen || o == .nbEnd then 0 else nbTime o + nbStep prog fuel (j + n)

/-- The microprogram is accepted for the operands present (R425). -/
def nbAccepted (prog : List W32) (present : Nat → Bool) : Bool :=
  let isOpen := fun j => (nbAt prog j).any fun x => x.1 == .nbOpen
  isOpen 0 && (nbWalk prog 260 [0] []).all fun j =>
    match nbAt prog j with
    | none => true
    | some (o, f, n) =>
      if o == .nbOpen then present (nbImm f % 4) && decide (16 + nbStep prog 65 (j + n) ≤ 96)
      else if o == .nbLoop then isOpen (nbImm f % 64)
      else true

/-- The words that a run can reach, each with the operand whose row is open there (4: none), going on from each of `todo`; `fuel` bounds
them. -/
def nbReach (prog : List W32) : Nat → List (Nat × Nat) → List (Nat × Nat) → List (Nat × Nat)
  | 0, _, seen => seen
  | _ + 1, [], seen => seen
  | fuel + 1, (j, k) :: todo, seen =>
    if seen.contains (j, k) || decide (prog.length ≤ j) then nbReach prog fuel todo seen
    else match nbAt prog j with
      | none => nbReach prog fuel ((j + 1, k) :: todo) (seen ++ [(j, k)])
      | some (o, f, n) =>
        let k' := if o == .nbOpen then nbImm f % 4 else k
        nbReach prog fuel ((j + n, k') :: (if o == .nbLoop then (nbImm f % 64, k') :: todo else todo)) (seen ++ [(j, k)])

/-- The operands whose rows NB.WR writes: those that can be open where one stands. -/
def nbWritten (prog : List W32) : List Nat :=
  ((nbReach prog 700 [(0, 4)] []).filter fun p => (nbAt prog p.1).any fun x => x.1 == .nbWr).map (·.2)

/-! ### BANK.RUN (R419 to R422) -/

def rbNwords (b : List Word) : Nat := fld (nth b 1) 56 8
def rbNrows (b : List Word) : Nat := fld (nth b 1) 45 11
def rbMask (b : List Word) : Nat := fld (nth b 1) 0 32
def rbOp (b : List Word) (k : Nat) : Word := nth b (2 + k)

/-- Check 1 of R421. -/
def rbBad (b : List Word) : Bool :=
  resSet (nth b 0) [(48, 4)] || resSet (nth b 1) [(32, 13)] || resSet (nth b 7) [(0, 55)]
    || (List.range 4).any (fun k => resSet (rbOp b k) [(48, 4)]) || fld (nth b 0) 0 48 % 4 != 0
    || rbNwords b == 0 || decide (64 < rbNwords b) || rbNrows b == 0 || decide (1024 < rbNrows b) || rbMask b == 0

/-- One member of an operand: its frame and key slot, from the translation that the run uses to the end. One that cannot be locked has
no place in check 4 (R331). -/
def bankMember (w : Who) (fa : Nat) (write : Bool) : M (Option (Nat × Nat)) := do
  match <- lookupLeaf w.cell w.asid fa with
  | none => trap .pageFault { addr := fa }
  | some leaf =>
    let s <- get
    if fa / 2 ^ 52 % 16 == 2 && s.leafOk 2 leaf && pathAgrees 2 leaf && !s.lockable (frameAt leaf fa) then
      need (!write || !leafRo leaf) .pageRo { addr := fa }
      need (!s.boot.on || s.keyOk w.asid (leafKey leaf)) .keyNone { addr := fa }
      pure none
    else
      match <- destOf w fa 65536 write with
      | .loc pa leaf => pure (if leafMs leaf && pa % 65536 == 0 then some (pa / 65536, leafKey leaf) else none)
      | _ => pure none

/-- Check 3 of R421 for an operand: R27 and R309 on its whole span. -/
def bankOperand (w : Who) (b : List Word) (write : Bool) (k : Nat) : M (List (Option (Nat × Nat))) := do
  let o := rbOp b k
  if o = 0 then pure []
  else
    let (fa, _) <- handleAt w.asid (fld o 52 12) (fld o 0 48) (65536 * rbNrows b) write
    if fa % 65536 != 0 || fld o 0 48 % 65536 != 0 then pure [none]
    else (List.range (rbNrows b)).mapM fun i => bankMember w (fa + 65536 * i) write

/-- Check 4 of R421. -/
def bankMembersOk (ops : List (List (Option (Nat × Nat)))) : Bool :=
  let gs := ops.map fun o => o.map fun m => m.map fun p => groupOf p.1
  match (gs.find? fun o => !o.isEmpty) with
  | none => true
  | some first =>
    let st := (first.headD none).map (· % 8)
    gs.all fun o => (o.zip first).all fun (g, h) =>
      match g, h with
      | some x, some y => some (x % 8) == st && x % 512 == y % 512
      | _, _ => false

/-- BANK.RUN (R419, R421). -/
def execBankRun (x : S64) (s : State) : Res :=
  gatedOp State.hasNearBank (strandOp 8 x.r.pg <| whole do
    let (h, off) <- memOp64 x
    let w <- theWho
    let (fa, _) <- handleAt w.asid h off 64 false
    need (fa % 64 == 0) .bankProg
    let b := bytesWords 8 (<- loadFlat w fa 64)
    need (!rbBad b) .bankProg
    let code <- load w (fld (nth b 0) 52 12) (fld (nth b 0) 0 48) (4 * rbNwords b)
    let prog := (byGroups 4 code).map fun bs => BitVec.ofNat 32 (leNat bs)
    need (nbAccepted prog fun k => rbOp b k != 0) .bankProg
    let wr := nbWritten prog
    let ops <- (List.range 4).mapM fun k => bankOperand w b (wr.contains k) k
    need (bankMembersOk ops) .bankAddr
    let ms := ops.map fun o => o.filterMap id
    let stack := (((ms.find? fun o => !o.isEmpty).bind List.head?).map fun p => groupOf p.1 % 8).getD 0
    let units := ((List.range 32).filter fun c => (rbMask b).testBit c).map (32 * stack + ·)
    let s <- get
    let busy := fun n => (s.unit n).st == .run || (s.unit n).st == .suspended
    if units.any busy then setPred x.r.rd.toNat false
    else
      let t <- team
      let id := s.nextRun
      let run : BankRun :=
        { team := t.ref, stage := w.stage, ssem := if bitAt (nth b 7) 55 then some (fld (nth b 7) 56 8) else none, left := units }
      let start := fun (u : NbUnit) =>
        { u with st := .run, vfl := 0, stop := 0, pc := 0, susp := 0, ri := 0, nrows := rbNrows b, prog := prog,
                 sc0 := BitVec.ofNat 32 (fld (nth b 6) 0 32), sc1 := BitVec.ofNat 32 (fld (nth b 6) 32 32), ops := ms,
                 asid := w.asid, run := some id }
      let s := units.foldl (fun s n => s.setUnit n (start (s.unit n))) s
      set { s with runs := Tab.put s.runs id run, nextRun := id + 1 }
      setPred x.r.rd.toNat true) s

/-! ### BANK.STAT (R423, R502) -/

def nbCode : NbSt → Nat
  | .idle => 0
  | .run => 1
  | .suspended => 2
  | .done => 3
  | .stopped => 4

/-- The status word (R423). -/
def NbUnit.status (u : NbUnit) : Word :=
  wd (at_ (nbCode u.st) 61 + at_ u.vfl.toNat 56 + at_ (u.stop % 256) 48 + at_ (u.pc % 64) 32 + at_ (min 2047 u.susp) 21
    + at_ (u.ri % 2048) 10)

/-- BANK.STAT (R423, R502). -/
def execBankStat (x : S64) (s : State) : Res :=
  gatedOp State.hasNearBank (strandOp 8 x.r.pg (do
    let s <- get
    let u := s.unit ((<- sreg x.r.rs1).toNat % 256)
    let t <- team
    setSreg x.r.rd (if u.asid == t.asid && u.st != .idle then u.status else 0))) s

/-! ### The end of a unit's part of a run (R422) -/

/-- A unit has reached NB.END or stopped: the last one of a run signals. -/
def State.unitEnds (s : State) (n : Nat) : State :=
  match (s.unit n).run with
  | none => s
  | some id =>
    match Tab.find s.runs id with
    | none => s
    | some r =>
      let left := r.left.filter (· != n)
      if left.isEmpty then
        let s := { s with runs := Tab.del s.runs id }
        match r.ssem with
        | some i => s.semSignalRef r.team i 1
        | none => s
      else { s with runs := Tab.put s.runs id { r with left := left } }

/-- A unit stops (R422, R423): `BANK_STOP` for the issuing team. -/
def State.stopUnit (s : State) (n code : Nat) : State :=
  let u := s.unit n
  let s := s.setUnit n { u with st := .stopped, stop := code }
  let s := match (u.run.bind fun id => Tab.find s.runs id).bind fun r => s.locate r.team with
    | some l => s.raiseAsync l .bankStop { detail := n }
    | none => s
  s.unitEnds n

/-! ### The microcode (R424) -/

/-- An instruction of a running unit. -/
def unitOp (body : Nat → NbUnit → State → State) (s : State) : Res :=
  match s.cur with
  | .unit n => if (s.unit n).st == .run then .next (body n (s.unit n) s) else .next s
  | .stream _ _ => .next s

/-- Past an instruction. -/
def NbUnit.past (u : NbUnit) (words : Nat) : NbUnit := { u with pc := u.pc + words }

/-- Words of a row that stands for both lengths. -/
def NOpt.words (x : NOpt) : Nat := if x.imm32.isSome then 2 else 1

/-- The two 1 KiB spans of a member that a unit's channel holds, the lower address first (R420, R327). -/
def nbSpans (n frame : Nat) : List Nat :=
  let r := groupOf frame / 8 % 64
  let k0 := (2 * (n % 32) + 64 - r) % 64
  let k1 := (2 * (n % 32) + 65 - r) % 64
  [frame * 65536 + 1024 * min k0 k1, frame * 65536 + 1024 * max k0 k1]

/-- Bytes of a row; `none` when poisoned (R425). -/
def State.nbRow (s : State) (n : Nat) (m : Nat × Nat) : Option (List Byte) :=
  match (nbSpans n m.1).map fun pa => s.locRd pa 1024 m.2 with
  | [some a, some b] => some (a ++ b)
  | _ => none

/-- NB.OPEN and NB.END are row boundaries: with ordinary requests waiting the unit suspends (R342, R501). -/
def atBoundary (body : Nat → NbUnit → State → State) (n : Nat) (u : NbUnit) (s : State) : State :=
  if u.waiting then s.setUnit n { u with st := .suspended, susp := min 2047 (u.susp + 1) } else body n u s

/-- NB.OPEN (R424, R425): an access like any other, which waits for a swap (R329). A row that is no row of the operand has free elements (log 40). -/
def execNbOpen (x : NOpt) (s : State) : Res :=
  unitOp (atBoundary fun n u s =>
    let k := x.n.imm15.toNat % 4
    let v := { u.past (NOpt.words x) with openOp := k, openRow := u.ri }
    match (u.ops.getD k [])[u.ri]? with
    | none =>
      let row := (List.range 512).map fun i => (Config.freeWord (s.free + i)).extractLsb' 0 32
      ({ s with free := s.free + 512 } : State).setUnit n { v with row := row }
    | some m =>
      if s.swapBlocks m.1 then s
      else
      let s := s.countAccess m.1
      match s.nbRow n m with
      | none => s.stopUnit n 2
      | some bs => s.setUnit n { v with row := (byGroups 4 bs).map fun b => BitVec.ofNat 32 (leNat b) }) s

/-- Element `e` of accumulator `a`, and a whole accumulator. -/
def NbUnit.baOf (u : NbUnit) (a e : Nat) : BitVec 32 := Sparse.get 0 u.ba (512 * a + e)
def NbUnit.setBa (u : NbUnit) (a : Nat) (vs : List (BitVec 32)) : NbUnit :=
  { u with ba := vs.zipIdx.foldl (fun m (v, e) => Sparse.set 0 m (512 * a + e) v) u.ba }

/-- ba[A] element by element with the flags of the run. -/
def NbUnit.mapBa (u : NbUnit) (a : Nat) (f : Nat → BitVec 32 × Flags) : NbUnit :=
  let rs := (List.range 512).map f
  { u.setBa a (rs.map (·.1)) with vfl := rs.foldl (fun v r => v ||| r.2) u.vfl }

/-- a × b + c in FP32, rounded once. -/
def nbFma (a b c : BitVec 32) : BitVec 32 × Flags :=
  let r := fp32.fma .rne a.toNat b.toNat c.toNat
  (BitVec.ofNat 32 r.1, r.2)

/-- SC0 or SC1 by IMM15[0]. -/
def NbUnit.sc (u : NbUnit) (imm15 : BitVec 15) : BitVec 32 := if imm15.getLsbD 0 then u.sc1 else u.sc0

/-- NB.LDACC (R424). -/
def execNbLdacc (x : NOpt) (s : State) : Res :=
  unitOp (fun n u s => s.setUnit n ((u.setBa x.n.a.toNat ((List.range 512).map fun e => u.row.getD e 0)).past (NOpt.words x))) s

/-- ba[A] := fma(ba[B], sc, ba[A]). -/
def nbScaddOp (a b : BitVec 3) (sc : BitVec 32) (u : NbUnit) : NbUnit :=
  u.mapBa a.toNat fun e => nbFma (u.baOf b.toNat e) sc (u.baOf a.toNat e)
/-- ba[A] := fma(open row, sc, ba[A]). -/
def nbMacOp (a : BitVec 3) (sc : BitVec 32) (u : NbUnit) : NbUnit :=
  u.mapBa a.toNat fun e => nbFma (u.row.getD e 0) sc (u.baOf a.toNat e)
/-- ba[A] := ba[A] × sc. -/
def nbScaleOp (a : BitVec 3) (sc : BitVec 32) (u : NbUnit) : NbUnit :=
  u.mapBa a.toNat fun e => fmul32 .rne (u.baOf a.toNat e) sc

/-- NB.SCADD (R424). -/
def execNbScadd (x : N32) (s : State) : Res :=
  unitOp (fun n u s => s.setUnit n ((nbScaddOp x.a x.b (u.sc x.imm15) u).past 1)) s
def execNbScadd64 (x : N64) (s : State) : Res :=
  unitOp (fun n u s => s.setUnit n ((nbScaddOp x.n.a x.n.b x.imm32 u).past 2)) s
/-- NB.MAC (R424). -/
def execNbMac (x : N32) (s : State) : Res :=
  unitOp (fun n u s => s.setUnit n ((nbMacOp x.a (u.sc x.imm15) u).past 1)) s
def execNbMac64 (x : N64) (s : State) : Res :=
  unitOp (fun n u s => s.setUnit n ((nbMacOp x.n.a x.imm32 u).past 2)) s
/-- NB.SCALE (R424). -/
def execNbScale (x : N32) (s : State) : Res :=
  unitOp (fun n u s => s.setUnit n ((nbScaleOp x.a (u.sc x.imm15) u).past 1)) s
def execNbScale64 (x : N64) (s : State) : Res :=
  unitOp (fun n u s => s.setUnit n ((nbScaleOp x.n.a x.imm32 u).past 2)) s

/-- Write a unit's open row to memory. -/
def State.nbStore (s : State) (n : Nat) (m : Nat × Nat) (row : List (BitVec 32)) : State :=
  let bs := row.flatMap fun v => leBytes 4 v.toNat
  match nbSpans n m.1 with
  | [a, b] => (s.locWr a (bs.take 1024) m.2).locWr b (bs.drop 1024) m.2
  | _ => s

/-- NB.WR (R424, R329). -/
def execNbWr (x : NOpt) (s : State) : Res :=
  unitOp (fun n u s =>
    let row := (List.range 512).map fun e => u.baOf x.n.a.toNat e
    let v := { u.past (NOpt.words x) with row := row }
    match (u.ops.getD u.openOp [])[u.openRow]? with
    | some m => if s.swapBlocks m.1 then s else ((s.countAccess m.1).nbStore n m row).setUnit n v
    | none => s.setUnit n v) s

/-- NB.LOOP (R424); RI goes to NROWS and no further (R423). -/
def execNbLoop (x : NOpt) (s : State) : Res :=
  unitOp (fun n u s =>
    let u := { u with ri := min u.nrows (u.ri + 1) }
    s.setUnit n (if u.ri < u.nrows then { u with pc := x.n.imm15.toNat % 64 } else u.past (NOpt.words x))) s

/-- NB.CLR (R424). -/
def execNbClr (x : NOpt) (s : State) : Res :=
  unitOp (fun n u s => s.setUnit n ((u.setBa x.n.a.toNat (List.replicate 512 0)).past (NOpt.words x))) s

/-- NB.END (R424, R422). -/
def execNbEnd (_x : NOpt) (s : State) : Res :=
  unitOp (atBoundary fun n u s => (s.setUnit n { u with st := .done }).unitEnds n) s

/-- A word that the unit does not decode, or a counter past NWORDS, stops it (R423, R425). -/
def State.nbIll (s : State) (n : Nat) : State :=
  let u := s.unit n
  s.stopUnit n (if u.prog.length ≤ u.pc then 3 else 1)

/-- NB_ILLEGAL_WORD (R425), an event: unit `a` stands at such a word. -/
def execNbIllegalWord (s : State) : Res :=
  let n := s.arg.a
  let u := s.unit n
  if u.st == .run && (decodeUnitOp u.words).isNone then .next (s.nbIll n) else .next s

/-- NB_RESUME (R342, R501), an event: unit `a` goes on when its channel's ordinary queue is empty. -/
def execNbResume (s : State) : Res :=
  let u := s.unit s.arg.a
  if u.st == .suspended && !u.waiting then .next (s.setUnit s.arg.a { u with st := .run }) else .next s

end Sys2Proof.Machine
end

