-- ==== Sys2Proof/Machine/Fabric.lean ====
section
/-! DEFINITION. Wavelength leases (R417, R418, R434 to R437), the fabric's registers (R429), packets and acknowledgements
(R431 to R433, R363), and the loss of a peer (R441, R442). -/
namespace Sys2Proof.Machine

/-- One microsecond in ns. -/
def us : Nat := 1000

/-! ### Leases (R417, R418) -/

def leaseCode : LeaseSt → Nat
  | .none => 0
  | .pending => 1
  | .retuning => 2
  | .active => 3
  | .notice => 4
  | .refused => 5
  | .ended => 6

/-- A lease that counts: neither ENDED nor REFUSED (R436). -/
def Lease.live (x : Lease) : Bool := x.st == .pending || x.st == .retuning || x.st == .active || x.st == .notice

/-- A lease holds wavelengths. -/
def Lease.holds (x : Lease) : Bool := x.st == .retuning || x.st == .active || x.st == .notice

/-- Nanoseconds left before a lease ends; 0 for "until returned". -/
def Lease.left (x : Lease) (now : Nat) : Nat :=
  match x.st with
  | .active => if x.duration = 0 then 0 else x.since + x.duration * 10 * us - now
  | .notice => x.since + 10 * us - now
  | _ => 0

/-- The state word (R418). -/
def Lease.word (x : Lease) (now : Nat) : Word :=
  wd (at_ (leaseCode x.st) 61 + at_ (if x.holds then x.granted else 0) 52 + at_ (x.peer % 1024) 42
    + min (x.left now / us) (2 ^ 32 - 1))

def State.lease (s : State) (i : Nat) : Option Lease := Tab.find s.fab.leases i
def State.modLease (s : State) (i : Nat) (f : Lease → Lease) : State :=
  { s with fab := { s.fab with leases := Tab.upd s.fab.leases i f } }

/-- A lease of a context (R417). -/
def State.leaseOf (s : State) (a i : Nat) : Option Lease := (s.lease i).filter fun x => x.asid == a

/-- Stack-plane wavelengths per neighbour: none on a part without a Skidway (R440). -/
def State.skwl (s : State) : Nat := if s.hasSkidway then s.fab.skwl else 0

/-- Sum of BASE and SKWL over the valid entries (R429). -/
def boundSum (nbrs : Sparse Nbr) (skwl : Nat) : Nat :=
  ((nbrs.filter fun p => p.2.v).map fun p => p.2.base.toNat + skwl).foldl (· + ·) 0

/-- Wavelengths of a lease that came from the free pool. -/
def Lease.pooled (x : Lease) : Nat := x.taken - (x.lent.map (·.2)).foldl (· + ·) 0

/-- The free pool (R435). -/
def State.pool (s : State) : Nat :=
  1024 - boundSum s.fab.nbrs s.skwl - (s.fab.leases.map fun p => p.2.pooled).foldl (· + ·) 0

/-- Contexts with packets queued for the link of an entry that do not go on leased wavelengths (R435). -/
def State.unleased (s : State) (i : Nat) : Nat :=
  ((s.packets.map fun p => p.2.asid).eraseDups.filter fun a => !(s.forBase i a).isEmpty).length

/-- The floor of the bundle of an entry (R435). -/
def State.floorOf (s : State) (i : Nat) : Nat := max (max 4 s.fab.floor) (s.unleased i)

/-- The next lease id: ascending, wrapping after 65,535, past those in use (R436). -/
def freeLease (used : List Nat) : Nat → Nat → Nat
  | i, 0 => i
  | i, fuel + 1 => if used.contains i then freeLease used (i % 65535 + 1) fuel else i

/-- A lease whose id cannot be used again yet. -/
def Lease.inUse (x : Lease) : Bool := x.live || x.taken != 0

/-- LEASE.REQ (R417). -/
def execLeaseReq (x : S64) (s : State) : Res :=
  gatedOp State.hasFabric (strandOp 8 x.r.pg (do
    let d := (<- sreg x.r.rs1).toNat % 1024
    let k := (<- sreg x.r.rs2).toNat
    let t <- team
    let s <- get
    let ls := s.fab.leases
    if (s.entryOf d).isNone || k == 0 || decide (256 < k) || decide (256 ≤ (ls.filter fun p => p.2.live).length)
        || ls.any (fun p => p.2.asid == t.asid && p.2.peer == d && p.2.st != .ended) then setSreg x.r.rd 0
    else
      let used := (ls.filter fun p => p.2.inUse).map (·.1)
      let id := freeLease used s.fab.nextLease (used.length + 1)
      let l : Lease :=
        { asid := t.asid, peer := d, st := .pending, want := k, all := x.r.md.getLsbD 0, duration := x.imm.toNat % 2 ^ 20,
          since := s.now, sem := if x.imm.getLsbD 23 then some (x.imm.toNat / 2 ^ 24) else none, team := t.ref }
      set { s with fab := { s.fab with leases := Tab.put ls id l, nextLease := id % 65535 + 1 } }
      setSreg x.r.rd (wd id))) s

/-- Move wavelengths into or out of LEASED of a neighbour's entry (R429). -/
def State.countLeased (s : State) (d : Nat) (n : Int) : State :=
  match s.entryOf d with
  | some i => s.modNbr i fun y => { y with leased := BitVec.ofInt 8 ((y.leased.toNat : Int) + n) }
  | none => s

/-- A lease ends (R436): its wavelengths stop, and retune back. -/
def State.endLease (s : State) (i : Nat) : State :=
  match s.lease i with
  | none => s
  | some x =>
    if !x.live then s
    else (if x.holds then s.countLeased x.peer (-(x.granted : Int)) else s).modLease i fun x =>
      { x with st := .ended, granted := 0, since := s.now }

/-- LEASE.RET (R417, R436). -/
def execLeaseRet (x : S64) (s : State) : Res :=
  gatedOp State.hasFabric (strandOp 8 x.r.pg (do
    let i := (<- sreg x.r.rs1).toNat % 65536
    let t <- team
    if ((<- get).leaseOf t.asid i).isSome then modify fun s => s.endLease i)) s

/-- LEASE.Q (R417, R418). -/
def execLeaseQ (x : S64) (s : State) : Res :=
  gatedOp State.hasFabric (strandOp 8 x.r.pg (do
    let i := (<- sreg x.r.rs1).toNat % 65536
    let t <- team
    let s <- get
    setSreg x.r.rd (((s.leaseOf t.asid i).map fun x => x.word s.now).getD 0))) s

/-- Signal a lease's semaphore (R417). -/
def State.signalLease (s : State) (x : Lease) : State :=
  match x.sem with
  | some i => s.semSignalRef x.team i 1
  | none => s

/-- No flit for 10 µs (R435). -/
def idleSince (now : Nat) (t : Option Nat) : Bool := t.all fun t => decide (t + 10 * us ≤ now)

/-- When each base wavelength that an entry still has last carried a flit. -/
def State.baseTimes (s : State) (i : Nat) : List (Option Nat) :=
  (List.range ((s.nbr i).base.toNat - s.lentFrom i)).map fun k => Sparse.get none s.fab.wlLast (256 * i + k)

def State.setTimes (s : State) (i : Nat) (ts : List (Option Nat)) : State :=
  { s with fab := { s.fab with wlLast := ts.zipIdx.foldl (fun m p => Sparse.set none m (256 * i + p.2) p.1)
                                           (s.fab.wlLast.filter fun p => p.1 / 256 != i) } }

/-- Base wavelengths that an entry can lend: idle ones, above its floor (R435). -/
def State.lendable (s : State) (i : Nat) : Nat :=
  min ((s.baseTimes i).filter (idleSince s.now)).length ((s.nbr i).base.toNat - s.lentFrom i - s.floorOf i)

/-- Take the first `n` idle ones out. -/
def dropIdle (now : Nat) : Nat → List (Option Nat) → List (Option Nat)
  | 0, ts => ts
  | _, [] => []
  | n + 1, t :: ts => if idleSince now t then dropIdle now n ts else t :: dropIdle now (n + 1) ts

/-- Base wavelengths that a grant takes, as the event lists them (entry in [62:32], count in [31:0]): each from another valid
bundle, idle ones above its floor, each entry once. -/
def State.grantList (s : State) (x : Lease) (ws : List Word) : Option (List (Nat × Nat)) :=
  let ys := ((ws.filter fun w => !bitAt w 63).map fun w => (fld w 32 31, fld w 0 32)).filter fun y => y.2 != 0
  if ys.all (fun y => (s.nbr y.1).v && (s.nbr y.1).peer.toNat != x.peer && decide (y.2 ≤ s.lendable y.1))
    && (ys.map (·.1)).eraseDups.length == ys.length then some ys else none

/-- The bundles other than a neighbour's have nothing more to lend than what is listed. -/
def State.baseSpent (s : State) (x : Lease) (ys : List (Nat × Nat)) : Bool :=
  s.fab.nbrs.all fun p => !p.2.v || p.2.peer.toNat == x.peer || s.lendable p.1 == ((ys.find? fun y => y.1 == p.1).map (·.2)).getD 0

/-- Leases that a grant revokes, as the event lists them (bit 63, lease in [62:32], count in [31:0]): of other contexts, ACTIVE for
100 µs, idle for 10 µs, each once (R435). -/
def State.revokeList (s : State) (x : Lease) (ws : List Word) : Option (List (Nat × Nat)) :=
  let ys := ((ws.filter fun w => bitAt w 63).map fun w => (fld w 32 31, fld w 0 32)).filter fun y => y.2 != 0
  if ys.all (fun y => (s.lease y.1).any fun v => v.asid != x.asid && v.st == .active && decide (y.2 ≤ v.granted)
        && decide (v.since + 100 * us ≤ s.now ∧ v.last + 10 * us ≤ s.now))
    && (ys.map (·.1)).eraseDups.length == ys.length then some ys else none

/-- Split off `n` wavelengths from those lent by entries. -/
def splitLent : Nat → List (Nat × Nat) → List (Nat × Nat) × List (Nat × Nat)
  | _, [] => ([], [])
  | n, (i, k) :: ys =>
    let g := min n k
    let (a, b) := splitLent (n - g) ys
    (if g = 0 then a else (i, g) :: a, if g = k then b else (i, k - g) :: b)

/-- Give notice of revocation to a lease (R437, R418). -/
def State.noticeLease (s : State) (i : Nat) : State :=
  match s.lease i with
  | none => s
  | some x =>
    (s.modLease i fun x => { x with st := .notice, since := s.now }).offer
      { cause := .leaseNotice, asid := x.asid, time := s.now, peer := x.peer, ids := [BitVec.ofNat 32 i] }

/-- Lease `i` gets `n` wavelengths of lease `v`, which is revoked: those from the pool first. -/
def State.passOn (s : State) (i v n : Nat) : State :=
  match s.lease v with
  | none => s
  | some x =>
    let (give, keep) := splitLent (n - min n x.pooled) x.lent
    ((s.modLease v fun x => { x with taken := x.taken - n, lent := keep }).modLease i fun y =>
      { y with taken := y.taken + n, lent := y.lent ++ give }).noticeLease v

/-- LEASE_GRANT (R435, R436), an event: lease `a`; `b` wavelengths, in R435's order: the pool's, then the idle base wavelengths that the list
names, and where those are spent, the idle leased ones that it names, whose leases have notice first (log 107). 0 is a refusal. -/
def execLeaseGrant (s : State) : Res :=
  match s.lease s.arg.a with
  | none => .next s
  | some x =>
    let n := s.arg.b
    if x.st != .pending then .next s
    else if n = 0 then .next ((s.modLease s.arg.a fun x => { x with st := .refused }).signalLease x)
    else
      match s.grantList x s.arg.w, s.revokeList x s.arg.w with
      | some ys, some vs =>
        let base := (ys.map (·.2)).foldl (· + ·) 0
        let revoked := (vs.map (·.2)).foldl (· + ·) 0
        let fromPool := min n s.pool
        if x.want < n ∨ (x.all = true ∧ n ≠ x.want) ∨ fromPool + base + revoked ≠ n ∨ (vs ≠ [] ∧ s.baseSpent x ys = false) then .next s
        else
          let s := ys.foldl (fun s y => s.setTimes y.1 (dropIdle s.now y.2 (s.baseTimes y.1))) s
          let from_ := if vs.isEmpty then s.now else s.now + 10 * us
          let s := (s.modLease s.arg.a fun x =>
            { x with st := .retuning, granted := n, taken := n - revoked, lent := ys, since := from_ }).countLeased x.peer n
          .next (vs.foldl (fun s v => s.passOn s.arg.a v.1 v.2) s)
      | _, _ => .next s

/-- LEASE_RETUNE_DONE (R436), an event: 5 µs after the grant the lease is ACTIVE. -/
def execLeaseRetuneDone (s : State) : Res :=
  match s.lease s.arg.a with
  | none => .next s
  | some x =>
    if x.st == .retuning && decide (x.since + 5 * us ≤ s.now) then
      .next ((s.modLease s.arg.a fun x => { x with st := .active, since := s.now }).signalLease x)
    else .next s

/-- LEASE_DURATION_END (R436), an event. -/
def execLeaseDurationEnd (s : State) : Res :=
  match s.lease s.arg.a with
  | none => .next s
  | some x =>
    if x.st == .active && x.duration != 0 && decide (x.since + x.duration * 10 * us ≤ s.now) then .next (s.endLease s.arg.a)
    else .next s

/-- LEASE_REVOKE_NOTICE (R437, R418), an event: only a lease ACTIVE for 100 µs. -/
def execLeaseRevokeNotice (s : State) : Res :=
  match s.lease s.arg.a with
  | none => .next s
  | some x =>
    if x.st == .active && decide (x.since + 100 * us ≤ s.now) then
      .next (s.noticeLease s.arg.a)
    else .next s

/-- LEASE_NOTICE_EXPIRE (R436), an event: 10 µs after the notice. -/
def execLeaseNoticeExpire (s : State) : Res :=
  match s.lease s.arg.a with
  | none => .next s
  | some x =>
    if x.st == .notice && decide (x.since + 10 * us ≤ s.now) then .next (s.endLease s.arg.a) else .next s

/-- A lease's wavelengths are back in their bundles and in the pool (R436). -/
def State.giveBack (s : State) (i : Nat) : State :=
  match s.lease i with
  | none => s
  | some x =>
    let last := if x.last = 0 then none else some x.last
    let s := x.lent.foldl (fun s y => s.setTimes y.1 (s.baseTimes y.1 ++ List.replicate y.2 last)) s
    s.modLease i fun x => { x with taken := 0, lent := [] }

/-- LEASE_RETUNE_BACK_DONE (R436), an event: 5 µs after the end the wavelengths are back where they came from. -/
def execLeaseRetuneBackDone (s : State) : Res :=
  match s.lease s.arg.a with
  | none => .next s
  | some x => if x.st == .ended && decide (x.since + 5 * us ≤ s.now) then .next (s.giveBack s.arg.a) else .next s

/-! ### The fabric's registers (R429, R442) -/

/-- FABCFG as it reads: 0 on an N4-E, and SKWL 0 on an N4-S (R429, R440). -/
def State.fabcfgWord (s : State) : Word :=
  if s.hasFabric then wd (at_ s.fab.fv.toNat 63 + at_ s.fab.qui.toNat 62 + at_ s.fab.devno 52 + at_ s.skwl 44 + at_ s.fab.floor 36) else 0

/-- A neighbour-table entry as it reads (R429). -/
def State.nbrWord (s : State) (i : Nat) : Word :=
  let e := s.nbr i
  if s.hasFabric then wd (at_ e.v.toNat 63 + at_ e.peer.toNat 53 + at_ e.base.toNat 45 + at_ e.leased.toNat 37) else 0

/-- What waits in a context goes on: packets that have no path, and collectives. -/
def State.fabricGo (s : State) : State := (s.fab.colls.map fun c => (c.asid, c.name.toNat)).foldl (fun s c => s.collGo c.1 c.2) s.reroute

/-- FABCFG_WRITE (R429), an event: with `a` 0 FABCFG, with `a` 1 to 32 neighbour entry `a` - 1, from the first word; with `a` 100
system software writes the routes of context `c` to device `b` (R442). -/
def execFabcfgWrite (s : State) : Res :=
  let w := nth s.arg.w 0
  let f := s.fab
  if !s.hasFabric then .next s
  else if s.arg.a = 0 then
    let skwl := fld w 44 8
    if 1024 < boundSum f.nbrs (if s.hasSkidway then skwl else 0) then .next s
    else .next { s with fab := { f with fv := bitAt w 63, devno := fld w 52 10, skwl := skwl, floor := max 4 (fld w 36 8) } }
  else if s.arg.a ≤ 32 then
    let i := s.arg.a - 1
    let e : Nbr := { v := bitAt w 63, peer := BitVec.ofNat 10 (fld w 53 10), base := BitVec.ofNat 8 (fld w 45 8), leased := (s.nbr i).leased }
    let nbrs := Sparse.set {} f.nbrs i e
    if 1024 < boundSum nbrs s.skwl then .next s
    else .next ({ s with fab := { f with nbrs := nbrs } } : State).fabricGo
  else if s.arg.a = 100 then
    let s := { s with fab := { f with routes := f.routes.ins s.arg.b } }
    .next ((s.modPeer s.arg.b fun p => { p with lost := false }).modCtx s.arg.c fun x =>
      if x.cut then { x with cut := false, quiesced := false } else x).fabricGo
  else .next s

/-! ### Atomics at their destination (R398) -/

/-- The bytes that a numbered operation writes over `old`, if it writes. -/
def amoBytes (f : Nat) (u : Bool) (n v c : Nat) (old : List Byte) : Option (List Byte) :=
  (atomicNew f u (8 * n) (leNat old) v c).1.map (leBytes n)

/-! ### Packets that arrive (R431, R433) -/

/-- The local frames that a packet touches. -/
def PktOp.frames : PktOp → List Nat
  | .write pa bs => (parts pa bs.length).map (·.1 / 65536)
  | .poison pa bs => (parts pa bs.length).map (·.1 / 65536)
  | .read pa n => (parts pa n).map (·.1 / 65536)
  | .amo pa _ _ n _ _ => (parts pa n).map (·.1 / 65536)
  | .port _ _ => []

/-- A packet waits for a swap like any access (R329). -/
def State.pktBlocked (s : State) (p : PktOp) : Bool := p.frames.any s.swapBlocks

/-- Bytes that a packet brings for a local frame: in confidential mode they are ciphertext under the key of the frame's key-map byte (R337,
R490, log 108). -/
def State.inWr (s : State) (pa : Nat) (bs : List Byte) : State :=
  let slot := (s.keyMapOf (pa / 65536)).slot.toNat
  let k := s.keyNo slot
  let l := pa / 64
  let m := 64 * (linesOf pa bs.length).length
  let s := s.countAccess (pa / 65536)
  if k = 0 then s.locWr pa bs slot
  else
    let old := cryptLines false k l ((s.locRd (64 * l) m slot).getD (zeros m))
    s.locWr (64 * l) (cryptLines true k l (overLines l old pa bs)) slot

/-- Bytes of a local frame as a packet carries them away; `none` for a line in error. -/
def State.inRd (s : State) (pa n : Nat) : Option (List Byte) :=
  let slot := (s.keyMapOf (pa / 65536)).slot.toNat
  let k := s.keyNo slot
  if k = 0 then s.locRd pa n slot
  else
    let l := pa / 64
    (s.locRd (64 * l) (64 * (linesOf pa n).length) slot).map fun bs => ((cryptLines false k l bs).drop (pa % 64)).take n

def State.inWrAll (s : State) (pa : Nat) (bs : List Byte) : State :=
  (parts pa bs.length).foldl (fun s p => s.inWr p.1 ((bs.drop (p.1 - pa)).take p.2)) s

/-- Perform a packet of peer `d` on local frames; a frame that does not exist, and a line in error, are reported back (R363, R340). -/
def State.performPkt (s : State) (d : Nat) (p : PktOp) : State :=
  if !p.frames.all s.frameExists then s.emit (.fault d)
  else match p with
  | .write pa bs => (s.inWrAll pa bs).emit (.ack d)
  | .poison pa bs =>
    let s := s.inWrAll pa bs
    ({ s with mem := { s.mem with bad := (wholeUnits 64 pa bs.length).foldl (fun b l => b.ins l) s.mem.bad } } : State).emit (.ack d)
  | .read pa n =>
    let s' := p.frames.foldl State.countAccess s
    match (parts pa n).mapM fun p => s.inRd p.1 p.2 with
    | some bs => s'.emit (.reply d bs.flatten)
    | none => s'.emit (.fault d)
  | .amo pa f u n v c =>
    let slot := (s.keyMapOf (pa / 65536)).slot.toNat
    let s' := s.countAccess (pa / 65536)
    match s.locRd pa n slot with
    | none => s'.emit (.fault d)
    | some bs => ((amoBytes f u n v c bs).elim s' fun xs => s'.locWr pa xs slot).emit (.reply d bs)
  | .port _ _ => s

/-- Perform the strong packets that are next in sequence; `fuel` bounds them. -/
def State.drainStrong (s : State) (d : Nat) : Nat → State
  | 0 => s
  | fuel + 1 =>
    let p := s.peerOf d
    match Tab.find p.reorder p.recvSeq with
    | none => s
    | some k =>
      if s.pktBlocked k.op then s
      else
        let s := s.modPeer d fun p => { p with recvSeq := p.recvSeq + 1, reorder := Tab.del p.reorder p.recvSeq }
        (s.performPkt d k.op).drainStrong d fuel

/-- Perform what reorder buffers hold and nothing blocks. -/
def State.drainAll (s : State) : State := (s.fab.peers.map (·.1)).foldl (fun s d => s.drainStrong d 257) s

/-- The packet of an event: kind in the first word (0 write, 1 read, 2 atomic, 3 a poisoned line), address `d`. -/
def EvArg.packet (x : EvArg) : PktOp :=
  let n := fun i => (nth x.w i).toNat
  if n 0 = 0 then .write x.d x.bytes
  else if n 0 = 1 then .read x.d (n 1)
  else if n 0 = 3 then .poison x.d x.bytes
  else .amo x.d (n 1) (n 2 == 1) (n 3) (n 4) (n 5)

/-- FABRIC_PACKET_RECEIVE (R433, R431), an event: from peer `a`; `b` 1 for a strong packet of sequence number `c`. Another packet that has
to wait for a swap has not arrived yet (R329). -/
def execFabricPacketReceive (s : State) : Res :=
  let d := s.arg.a
  if !s.hasFabric then .next s
  else if s.arg.b != 1 then .next (if s.pktBlocked s.arg.packet then s else s.performPkt d s.arg.packet)
  else
    let p := s.peerOf d
    let q := s.arg.c
    if p.recvSeq ≤ q ∧ q < p.recvSeq + 256 then
      .next ((s.modPeer d fun p => { p with reorder := Tab.put p.reorder q { op := s.arg.packet } }).drainStrong d 257)
    else .next s

/-! ### Acknowledgements (R432, R433, R363, R504) -/

/-- The keys of a peer's lines. -/
def peerLineKey (d l : Nat) : Nat := 2 ^ 46 * d + l

/-- Lines of a peer's memory that are in error. -/
def State.peerIll (s : State) (d a n : Nat) : Bool := (linesOf a n).any fun l => s.mem.peerBad.mem (peerLineKey d l)

/-- Bytes written at a peer; whole lines lose their poison (R340). -/
def State.writeAt (s : State) (d a : Nat) (bs : List Byte) : State :=
  let s := s.peerWr d a bs
  { s with mem := { s.mem with peerBad := (wholeUnits 64 a bs.length).foldl (fun b l => b.rem (peerLineKey d l)) s.mem.peerBad } }

/-- What a packet does at its peer, and what a read or an atomic finds there. -/
def State.doAt (s : State) (d : Nat) (p : Packet) : State × Option (List Byte) :=
  match p.op with
  | .write a bs => (s.writeAt d a bs, none)
  | .poison a bs =>
    let s := s.writeAt d a bs
    ({ s with mem := { s.mem with peerBad := (linesOf a bs.length).foldl (fun b l => b.ins (peerLineKey d l)) s.mem.peerBad } }, none)
  | .read a n => (s, if s.peerIll d a n then none else some ((s.peerMem d).rdBytes a n))
  | .amo a f u n v c =>
    if s.peerIll d a n then (s, none)
    else
      let old := (s.peerMem d).rdKey p.crypt a n
      match amoBytes f u n v c old with
      | none => (s, some old)
      | some xs => ({ s with mem := { s.mem with peer := Tab.put s.mem.peer d ((s.peerMem d).wrKey p.crypt a xs) } }, some old)
  | .port _ _ => (s, none)

/-- A packet may be performed at its peer: it has left, and of a strong one every earlier one is performed (R433). -/
def State.mayPerform (s : State) (d : Nat) (p : Packet) : Bool :=
  p.left && (!p.strong || !(s.peerOf d).unacked.any fun q => q.strong && decide (q.seq < p.seq) && !q.done)

/-- A packet is performed at its peer. -/
def State.perform (s : State) (d : Nat) (p : Packet) : State :=
  if p.done || !s.mayPerform d p then s
  else
    let (s, found) := s.doAt d p
    s.modPeer d fun x => { x with unacked := x.unacked.map fun u => if u.no == p.no then { u with done := true, found := found } else u }

/-- The packet with a number. -/
def State.packetNo (s : State) (d no : Nat) : Option Packet := (s.peerOf d).unacked.find? fun u => u.no == no

/-- A peer acknowledges a packet: it is performed, and what it found is there for the agent that asked. -/
def State.acked (s : State) (d : Nat) (p : Packet) : State :=
  let s := s.perform d p
  match s.packetNo d p.no with
  | none => s
  | some u =>
    if !u.done then s
    else
      let s := s.modPeer d fun x => { x with unacked := x.unacked.filter fun y => y.no != u.no }
      let tell := match u.op with
        | .read .. => true
        | .amo .. => true
        | _ => false
      if tell then { s with fab := { s.fab with replies := s.fab.replies ++ [{ peer := d, key := u.key, op := u.op, bytes := u.found }] } }
      else s

/-- A peer performs the packet at a place of those unacknowledged, and has not acknowledged it yet. -/
def State.peerPerform (s : State) (d i : Nat) : State :=
  match (s.peerOf d).unacked[i]? with
  | some p => s.perform d p
  | none => s

/-- FABRIC_ACK_RECEIVE (R432, R433), an event, from peer `a`. With `b` 0 it acknowledges `d` packets from place `c` of those
unacknowledged; with `b` 2 it gives `d` credits of its link (R432). -/
def execFabricAckReceive (s : State) : Res :=
  let x := s.arg
  let s := if x.b = 0 then (((s.peerOf x.a).unacked.drop x.c).take x.d).foldl (fun s p => s.acked x.a p) s
    else if x.b = 2 then
      match s.entryOf x.a with
      | some i =>
        let f := s.fab
        ({ s with fab := { f with credits := Sparse.set 0 f.credits i (Sparse.get 0 f.credits i + x.d) } } : State).reroute
      | none => s
    else s
  .next (s.heard x.a)

/-- RST_ACKNOWLEDGE (R504), an event: peer `a` has performed every RST packet of team `c` of grid `b` that has left. -/
def execRstAcknowledge (s : State) : Res :=
  let x := s.arg
  let r : TeamRef := { grid := x.b, no := x.c }
  let mine := (s.peerOf x.a).unacked.filter fun u => u.rst && u.team == some r
  .next ((mine.foldl (fun s p => s.acked x.a p) s).heard x.a)

/-- The first RST packet of a team to a peer that covers an address goes, unperformed (R363). -/
def State.dropFault (s : State) (d : Nat) (r : TeamRef) (a : Nat) : State :=
  let hit := fun (u : Packet) => u.rst && u.left && !u.done && u.team == some r && match u.op with
    | .write x bs => decide (x ≤ a ∧ a < x + bs.length)
    | _ => false
  (s.modPeer d fun x => { x with unacked := x.unacked.eraseP hit }).heard d

/-- REMOTE_FAULT (R363), an event: peer `a` reports a failed RST of a team of grid `b` at address `d`. -/
def execRemoteFault (s : State) : Res :=
  let x := s.arg
  match s.grid x.b with
  | none => .next s
  | some g =>
    let s := (s.modGrid x.b fun g => { g with remoteFault := true }).dropFault x.a { grid := x.b, no := x.c } x.d
    .next (s.offer { cause := .remoteFault, asid := g.asid, team := BitVec.ofNat 32 x.c, time := s.now, addr := wd x.d,
                     peer := x.a, grid := BitVec.ofNat 32 x.b })

/-! ### Peer loss (R441, R442) -/

/-- PEER_LOSS_TIMEOUT (R441), an event: peer `a` has been silent for 20 µs of waiting. -/
def execPeerLossTimeout (s : State) : Res :=
  match (s.peerOf s.arg.a).waitFrom with
  | none => .next s
  | some t =>
    if max t (s.peerOf s.arg.a).lastAck + 20 * us ≤ s.now then .next (s.modPeer s.arg.a fun p => { p with lost := true })
    else .next s

/-- PEER_LOST_DECLARE (R441), an event: the fabric manager declares peer `a` lost. -/
def execPeerLostDeclare (s : State) : Res := .next (s.modPeer s.arg.a fun p => { p with lost := true })

/-- The contexts of a fabric partition that have state of their own. -/
def State.partCtxs (s : State) (p : Nat) : List Nat := (s.ctxs.filter fun x => x.2.part == p).map (·.1)

/-- A packet that has left and is not acknowledged when its partition is quiesced: each of its flits may be performed still
(log 109). -/
def State.mayLand (s : State) (d : Nat) (p : Packet) : State :=
  if !p.left || p.done then s
  else match p.op with
    | .write a bs =>
      (linesOf a bs.length).foldl (fun s l =>
        let s' := { s with free := s.free + 1 }
        let lo := max a (64 * l)
        let hi := min (a + bs.length) (64 * l + 64)
        if (Config.freeWord s.free).getLsbD 0 then s'.writeAt d lo ((bs.drop (lo - a)).take (hi - lo)) else s') s
    | _ =>
      let s' := { s with free := s.free + 1 }
      if (Config.freeWord s.free).getLsbD 0 then (s'.doAt d p).1 else s'

/-- Step 1 for the partition's packets: none stays here, and the grids of those that were queued or were RSTs have lost them
(R394); later strong packets go on without them (log 122). -/
def State.discardPackets (s : State) (as_ : List Nat) : State :=
  let gone := s.packets.filter fun p => as_.contains p.2.asid
  let grids := (gone.filter fun p => !p.2.left || p.2.rst).filterMap fun p => p.2.team.map (·.grid)
  let mark := fun (k : Nat) (g : Grid) => if grids.contains k then { g with discarded := true } else g
  let s := { s with hub := { s.hub with grids := Tab.mapv s.hub.grids mark } }
  let s := gone.foldl (fun s p => s.mayLand p.1 p.2) s
  let s := (gone.map (·.1)).eraseDups.foldl (fun s d =>
    (s.modPeer d fun x => { x with unacked := x.unacked.filter fun u => !as_.contains u.asid }).endWait d) s
  s.reroute

/-- A running job to a peer (R441): a remote one, or one with packets of its own under way, by the keys of those. -/
def State.cardRemote (s : State) (keys : List AgentKey) (l : Loc) (c : Card) : Bool :=
  c.st == .running && (c.op == jRST || c.op == jRLD || (c.op == jLSEND && !s.portLocal c.block) || keys.contains (s.cardWho l c).key)

/-- Step 4 for one team: its jobs to peers end, and it takes `PEER_LOST`, precisely where its strand waits on a lost peer.
`keys` are those of the packets that were discarded. -/
def State.teamLost (s : State) (keys : List AgentKey) (l : Loc) (d : Nat) : State :=
  match s.teamAt l with
  | none => s
  | some t =>
    let s := s.dropReplies t
    let s := s.putTeam l { t with cards := t.cards.map fun c => if s.cardRemote keys l c then c.remoteLost else c }
    let r : FRec :=
      { cause := .peerLost, stage := s.stageAt l t, asid := t.asid, team := BitVec.ofNat 32 t.no, time := s.now,
        epc := BitVec.ofNat 32 t.pc.toNat, detail := BitVec.ofNat 32 d, peer := d, grid := BitVec.ofNat 32 t.grid,
        seq := (s.ctx t.asid).seq }
    match l with
    | .here c _ =>
      if s.isActive l && !t.ended && !t.midVamo && (t.waitPeer.any fun p => (s.peerOf p).lost) then
        s.takeTrap c .strand .peerLost true t.pc { detail := d, peer := d }
      else s.modTeam l fun t => t.pend r
    | .kept _ => s.modTeam l fun t => t.pend r

/-- PARTITION_QUIESCE (R441), an event: partition `a`, lost device `b`. A further loss adds the records only. -/
def execPartitionQuiesce (s : State) : Res :=
  let d := s.arg.b
  let as_ := s.partCtxs s.arg.a
  let again := s.fab.qui && as_.all fun a => (s.ctx a).quiesced
  let s := s.modPeer d fun p => { p with lost := true }
  let s := as_.foldl (fun s a => s.offer { cause := .peerLost, asid := a, time := s.now, detail := BitVec.ofNat 32 d, peer := d }) s
  if again then .next s
  else
    let s := { s with fab := { s.fab with qui := true } }
    let s := as_.foldl (fun s a => s.modCtx a fun x => { x with quiesced := true, cut := false }) s
    let keys := (s.packets.filter fun p => as_.contains p.2.asid).map fun p => p.2.key
    let s := s.discardPackets as_
    let s := as_.foldl State.abandonColls s
    let s := (s.fab.leases.filter fun p => as_.contains p.2.asid).foldl (fun s p => s.endLease p.1) s
    .next ((s.teams.filter fun p => as_.contains p.2.asid && p.2.epilogue.isNone).foldl (fun s p => s.teamLost keys p.1 d) s)

/-- QUIESCE_LIFT (R442), an event: partition `a`. Its contexts wait for new routes; QUI stays 1 while another partition is
quiesced. -/
def execQuiesceLift (s : State) : Res :=
  let s := (s.partCtxs s.arg.a).foldl (fun s a => s.modCtx a fun x => if x.quiesced then { x with cut := true } else x) s
  .next { s with fab := { s.fab with qui := s.ctxs.any fun x => x.2.quiesced && !x.2.cut } }

/-! ### Fail-operational hardware (R494) -/

/-- WAVELENGTH_FAIL (R494), an event: the spare takes over, and no flit is lost; software sees nothing. -/
def execWavelengthFail (s : State) : Res := .next s

/-- HBM_CHANNEL_SPARE (R494), an event: the spare channel of stack `a` takes over; lines that could not be copied, listed in the
words, are poisoned. -/
def execHbmChannelSpare (s : State) : Res :=
  let s := { s with boot := { s.boot with hbmSpare := s.boot.hbmSpare ||| BitVec.ofNat 8 (2 ^ (s.arg.a % 8)) } }
  .next { s with mem := { s.mem with bad := s.arg.w.foldl (fun b w => b.ins w.toNat) s.mem.bad } }

end Sys2Proof.Machine
end

