-- ==== Sys2Proof/Machine/Hub.lean ====
section
/-! DEFINITION. The hub's side of work: submission queues (R81 to R86), the choice of what goes next (R91 to R97), what
taking an item does (R17 to R21, R37, R44, R87, R88, R103), graph nodes that the hub completes itself (R45, R46, R89), and
the write-back of accounts (R99). -/
namespace Sys2Proof.Machine

/-! ### The hub as an accessor of memory -/

/-- The hub reads and writes for a context, from no cell. -/
def hubWho (a : Nat) : Who := { asid := a, cell := 256, key := hubKey a }

/-- What a piece of the hub's work came to: done, failed with a cause, or nothing yet. -/
inductive HubRes (α : Type) where
  | done (x : α)
  | fails (c : Cause) (i : Info)
  | waits

/-- Run a piece of the hub's work whole, or begin it and wait; peers answer it under its key. -/
def State.hubTry {α : Type} (s : State) (key : AgentKey) (m : M α) : State × HubRes α :=
  match (whole m).run s with
  | .ok x s => (s.usedReplies key, .done x)
  | .error (.trap k i) s => (s.usedReplies key, .fails k i)
  | .error (.wait _) s => (s, .waits)

/-- Read a record whole, as an acquire at DEVICE scope: its bytes, and whether it is aligned. -/
def hubRead (a h off n align : Nat) : M (List Byte × Bool) := do
  let (fa, _) <- handleAt a h off n false
  let bs <- loadFlat (hubWho a) fa n
  acquire (hubWho a) 3
  pure (bs, fa % align == 0)

/-- A free value (log 3). -/
def State.fresh (s : State) : State × Word := ({ s with free := s.free + 1 }, Config.freeWord s.free)

/-- The hub takes new work: a start is complete (R487, R519). -/
def State.hubUp (s : State) : Bool := s.boot.start == .up && s.boot.ready

/-- A context whose work may be taken: it is not being stopped and is not stopped (R515). -/
def State.mayRun (s : State) (a : Nat) : Bool :=
  match (Sparse.get {} s.hub.tenants a).st with
  | .running | .free => true
  | _ => false

/-! ### Queues (R81 to R86) -/

/-- The class to which waiting has raised a queue (R96). -/
def Queue.level (q : Queue) : Nat := min 7 (q.cls.toNat + q.rise)

/-- A queue error's entry for ring ERING (R85, R86): the fields that no rule gives are free values. -/
def State.queueError (s : State) (k : Nat) (st : Status) (a : After) : State :=
  let (s, v) := s.fresh
  let r : CR := { src := fld v 60 4, st := st, tag := fld v 0 32, id := fld v 28 32 }
  s.toRing (k / 32) (s.queue k).ering.toNat { cr := r.words, after := a }

/-- TAIL exceeds HEAD by more than the ring (R86). -/
def State.checkOverrun (s : State) (k : Nat) : State :=
  let q := s.queue k
  if q.en && decide (q.places < (q.tail - q.head).toNat) then
    (s.modQueue k fun q => { q with en := false, lim := some (q.head + BitVec.ofNat 32 q.places) }).queueError k
      .queueOverrun .nothing
  else s

/-- A queue block exists and may be written (R81, R487). -/
def State.queueBlock (s : State) (fn q : Nat) : Bool := decide (fn ≤ 64 ∧ q < 32) && s.boot.start == .up

/-- QUEUE_DOORBELL (R81, R86), an event: function `a`, queue `b`, the new TAIL `c`. -/
def execQueueDoorbell (s : State) : Res :=
  let x := s.arg
  if !s.queueBlock x.a x.b then .next s
  else
    let k := qKey x.a x.b
    let s := s.modQueue k fun q => { q with tail := BitVec.ofNat 32 x.c }
    .next ((s.noteReady k).checkOverrun k)

/-- The context becomes RUNNING (R514). -/
def State.tenantRuns (s : State) (a : Nat) : State :=
  let t := Sparse.get {} s.hub.tenants a
  if t.st == .free && a != 0 then
    { s with hub := { s.hub with tenants := Sparse.set {} s.hub.tenants a { t with st := .running } } }
  else s

/-- QUEUE_ENABLE (R82), an event: function `a`, queue `b`. -/
def execQueueEnable (s : State) : Res :=
  let x := s.arg
  let k := qKey x.a x.b
  let q := s.queue k
  if !s.queueBlock x.a x.b || q.en || decide (10 < q.size.toNat) || q.asid == 0 then .next s
  else
    let s := s.modQueue k fun q => { q with en := true, lim := none, since := none, rise := 0 }
    .next (((s.tenantRuns q.asid).noteReady k).checkOverrun k)

/-- QUEUE_DISABLE (R82), an event. -/
def execQueueDisable (s : State) : Res :=
  let x := s.arg
  if !s.queueBlock x.a x.b then .next s
  else .next (s.modQueue (qKey x.a x.b) fun q => { q with en := false, lim := none })

/-! ### Entries (R83, R85) -/

/-! ### Placement as arbitration sees it -/

/-- A cell is free for a team of a context (R118): of its stage and allotment. A cell with a change pending takes none. -/
def State.cellFree (s : State) (a : Nat) (stage : Bool) (vallot c : Nat) : Bool :=
  let x := s.cell c
  let al := s.allotOf c
  al.1 == 1 && al.2.toNat == a && !x.lost && (Tab.find s.hub.allotPend c).isNone && (x.team stage).isNone
    && (match x.team !stage with
        | some t => t.asid == a && decide (t.valloc + vallot ≤ 128)
        | none => true)

/-- The record of a launch that can be read and that passes R19; `none` for another, and while its read must wait. -/
def State.readGrid (s : State) (a h off : Nat) : Option (List Word) :=
  match (s.hubTry (hubKey a) (hubRead a h off 128 128)).2 with
  | .done (bs, al) =>
    let r := bytesWords 16 bs
    if (s.checkLaunch a (s.ctx a).fn r al false).isNone then some r else none
  | _ => none

/-- Placement accepts a grid: a cell is free for its first team. -/
def State.acceptsGrid (s : State) (a : Nat) (r : List Word) : Bool :=
  (s.cellsHeld a).any fun c => s.cellFree a (lrStage r) (lrVallot r) c

/-- Room in a tile queue (R124): a task holds its place until it leaves the queue. -/
def State.tileRoom (s : State) (die : Nat) (bulk : Bool) : Bool :=
  decide ((s.rm.tasks.filter fun t => t.die == die && t.st == .queued && tkBulk t.desc == bulk).length < 1024)

/-! ### What is ready (R88, R95, R103) -/

/-- The oldest pending child of a class, unless an older one of the class is still spilled (R103, R104). -/
def State.childFront (s : State) (a cls : Nat) : Option Child :=
  match s.hub.pool.find? fun c => c.asid == a && c.cls == cls && !c.started with
  | some c => if c.spilled then none else some c
  | none => none

/-- The children's items of a context, highest class first. -/
def State.childItems (s : State) (a : Nat) : List (Nat × Item) :=
  ((List.range 8).reverse.filterMap fun k => (s.childFront a k).map fun c => (k, .child c.order))

/-- Queues that can hold work of a context, ascending. -/
def State.queuesOf (s : State) (a : Nat) : List Nat :=
  (span 0 2080).filter fun k => (s.hub.queues.any fun p => p.1 == k && p.2.asid == a)
    || s.hub.graphs.any fun p => p.2.asid == a && p.2.queue == k

/-- All ready items of a context: place among its queues (32 for the children), class, item. -/
def State.readyItems (s : State) (a : Nat) : List (Nat × Nat × Item) :=
  ((s.queuesOf a).filterMap fun k => (s.queueItem a k).map fun i => (k % 32, (s.queue k).level, i))
    ++ (s.childItems a).map fun p => (32, p.1, p.2)

/-- Room for one task more, those counted that were taken and wait to be accepted (R124). -/
def State.takeRoom (s : State) (die : Nat) (bulk : Bool) : Bool :=
  decide ((s.rm.tasks.filter fun t => t.die == die && tkBulk t.desc == bulk && (t.st == .queued || (t.st == .pending
    && t.target.isNone && !(s.hub.pool.any fun c => c.task == some t.uid && !c.started)))).length < 1024)

/-- A task for a die's queue. -/
def mkTask (asid fn : Nat) (d : List Word) : Task := { asid := asid, fn := fn, desc := ownTask d asid }

/-- Placement accepts a tile task from a host queue or a node. -/
def State.acceptsTask (s : State) (a fn : Nat) (d : List Word) : Bool :=
  let t := mkTask a fn d
  s.takeRoom (s.dieFor t) (tkBulk d)

/-- The launch record of a ready item that is a grid (R93). -/
def State.itemGrid (s : State) (a : Nat) (i : Item) : Option (List Word) :=
  match i with
  | .node p j => (((s.graph p).bind fun g => g.nodes[j]?).filter fun n => ndKind n == 0).bind fun n =>
      s.readGrid a (ndH (nth n 1)) (ndOff (nth n 1))
  | .entry k =>
    let w := s.headEntry k
    if s.entryBad a w || qeKind w != 0 then none else s.readGrid a (qeH w) (qeOff w)
  | .child o => ((s.hub.pool.find? fun c => c.order == o).bind fun c => c.grid.bind s.grid).map fun g => g.lrec

/-- Descriptors of a task-batch node that have been taken. -/
def State.nodeTaken (s : State) (p j : Nat) : Nat := ((s.graph p).bind fun g => Tab.find g.taken j).getD 0

/-- Placement accepts an item now; of a batch, its next task (R124). What is wrong with a record is found when it is taken, so
such an item is accepted. -/
def State.accepts (s : State) (a : Nat) (i : Item) : Bool :=
  let grid := fun (h off : Nat) =>
    match (s.hubTry (hubKey a) (hubRead a h off 128 128)).2 with
    | .done (bs, al) =>
      let r := bytesWords 16 bs
      (s.checkLaunch a (s.ctx a).fn r al false).isSome || s.acceptsGrid a r
    | .fails _ _ => true
    | .waits => false
  let task := fun (h off : Nat) =>
    match (s.hubTry (hubKey a) (hubRead a h off 64 64)).2 with
    | .done (bs, al) =>
      let d := bytesWords 8 bs
      (s.checkTask a (s.ctx a).fn d al false false).isSome || s.acceptsTask a (s.ctx a).fn d
    | .fails _ _ => true
    | .waits => false
  match i with
  | .node p j =>
    match (s.graph p).bind fun g => g.nodes[j]? with
    | some n => if ndKind n = 0 then grid (ndH (nth n 1)) (ndOff (nth n 1))
        else if ndKind n = 1 then task (ndH (nth n 1)) (ndOff (nth n 1) + 64 * s.nodeTaken p j) else true
    | none => false
  | .entry k =>
    let w := s.headEntry k
    if s.entryBad a w || qeKind w = 1 then true
    else if qeKind w = 0 then grid (qeH w) (qeOff w) else task (qeH w) (qeOff w + 64 * (s.queue k).part)
  | .child o =>
    match s.hub.pool.find? fun c => c.order == o with
    | none => false
    | some c =>
      match c.grid, c.task with
      | some g, _ => (s.grid g).any fun x => s.acceptsGrid a x.lrec
      | none, some u => (s.task u).any fun t => t.target.isSome || s.takeRoom t.die (tkBulk t.desc)
      | none, none => true

/-- level3_pick (R95): of the accepted items, the highest class; among equals the first after the queue last served. -/
def State.pick (s : State) (a : Nat) : Option (Nat × Nat × Item) :=
  let last := (s.ctx a).lastq
  let xs := (s.readyItems a).filter fun p => s.accepts a p.2.2
  minBy (fun p => (7 - p.2.1) * 64 + (p.1 + 33 - last) % 33) xs

/-! ### Weighted deficits (R94) -/

def unitQ : Int := 65536

/-- The contexts of a function that can be served, ascending. -/
def State.ctxsOf (s : State) (f : Nat) : List Nat :=
  (s.ctxs.filter fun p => p.1 != 0 && p.2.fn == f && p.2.weight != 0 && s.mayRun p.1).map (·.1)

/-- Run the rounds of a function until a context may take an item; `fuel` bounds the turns. -/
def State.rounds (s : State) (f : Nat) : Nat → State × Option (Nat × Nat × Nat × Item)
  | 0 => (s, none)
  | fuel + 1 =>
    let cs := s.ctxsOf f
    let pos := (Tab.find s.hub.arb f).getD { asid := 1024 }
    let now := if pos.on && cs.contains pos.asid && decide (0 < (s.ctx pos.asid).deficit) then s.pick pos.asid else none
    match now with
    | some p => (s, some (pos.asid, p))
    | none =>
      match (cs.find? fun c => decide (pos.asid < c)).orElse fun _ => cs.head? with
      | none => (s, none)
      | some c =>
        let ready := !(s.readyItems c).isEmpty
        let cap := ((s.ctx c).weight : Int) * unitQ
        let s := s.modCtx c fun x => { x with deficit := if ready then min (x.deficit + cap) cap else min x.deficit 0 }
        ({ s with hub := { s.hub with arb := Tab.put s.hub.arb f { asid := c, on := ready } } } : State).rounds f fuel

/-- The item that a function takes next. -/
def State.pickFor (s : State) (f : Nat) : State × Option (Nat × Nat × Nat × Item) :=
  let cs := s.ctxsOf f
  if cs.all fun c => (s.pick c).isNone then (s, none)
  else
    let turns := cs.foldl (fun n c => max n ((s.ctx c).deficit.natAbs / 65536)) 0
    s.rounds f ((cs.length + 1) * (turns + 3))

/-! ### The slice table (R91, R92) -/

def State.sliceEntry (s : State) (i : Nat) : BitVec 32 := Sparse.get 0 s.hub.slices i
def slFn (e : BitVec 32) : Nat := e.toNat / 2 ^ 23 % 128
def slPreempt (e : BitVec 32) : Bool := e.getLsbD 30
def slLen (e : BitVec 32) : Nat := if e.toNat % 65536 = 0 then 100 else e.toNat % 65536

/-- The entry counts. -/
def slValid (e : BitVec 32) : Bool := e.getLsbD 31 && decide (slFn e ≤ 64)

/-- The valid entries from entry `i` on, in index order, wrapping. -/
def State.slicesFrom (s : State) (i : Nat) : List Nat :=
  (List.range 64).filterMap fun k => let j := (i + k) % 64; if slValid (s.sliceEntry j) then some j else none

/-- The functions in the order in which a placement is offered to them. -/
def State.fnOrder (s : State) : List Nat :=
  ((s.slicesFrom s.hub.sliceIdx).map fun i => slFn (s.sliceEntry i)).eraseDups

/-! ### Taking an item -/

/-- Gangs of a grid, in ascending order of first team number (R117). -/
def gangsOf (gid : Nat) (r : List Word) : List Gang :=
  let n := max 1 (lrGang r)
  (List.range (ceilDiv (lrTotal r) n)).map fun i => { grid := gid, first := i * n, n := n }

/-- Hand a grid on to placement (R117). -/
def State.handGrid (s : State) (gid : Nat) : State :=
  match s.grid gid with
  | none => s
  | some g =>
    let s := s.modGrid gid fun g => { g with handed := true }
    s.modCtx g.asid fun c => { c with places := c.places ++ gangsOf gid g.lrec }

/-- Debit a context for an item (R94). -/
def State.debit (s : State) (a n : Nat) : State := s.modCtx a fun c => { c with deficit := c.deficit - n }

/-- The provisional cost of a grid. -/
def gridProv (r : List Word) : Nat := 4096 * lrTotal r

/-- Where a bad record's completion goes when its own EVKIND cannot say: ring ERING of the queue, or nowhere. -/
structure Origin where
  asid : Nat := 0
  fn : Nat := 0
  queue : Nat := 0
  /-- The queue's effective class, and the cap of a graph. -/
  cls : Nat := 0
  node : Option (Nat × Nat) := none
  entry : Option Nat := none
  team : Option TeamRef := none
  deriving DecidableEq, Repr

/-- A record that fails its checks completes at once (R20, R38, R44); its ID is a free value. `ring` is RING when EVKIND names
a ring, `kind` EVKIND. -/
def State.refuse (s : State) (o : Origin) (src : Nat) (kind ring tag detail : Nat) (c : Cause) (a : After) : State :=
  let (s, v) := s.fresh
  let r : CR := { src := src, st := .cause c, tag := tag, id := fld v 0 32, detail := detail }
  if kind = 3 ∨ (kind = 2 ∧ o.node.isNone) then
    (match o.entry with
     | some k => s.toRing o.fn (s.queue k).ering.toNat { cr := r.words, after := a }
     | none => s.applyAfter a)
  else s.deliverNow kind o.fn ring o.team r a

/-- What completes when a launch or a task of an origin completes: its node, and its queue entry. -/
def Origin.after (o : Origin) (st : Status) : After := .task o.node o.entry st

/-- Take a launch record (R19, R20, R97). -/
def State.takeLaunch (s : State) (o : Origin) (r : List Word) (aligned : Bool) : State :=
  match s.checkLaunch o.asid o.fn r aligned o.node.isNone with
  | some n => s.refuse o 2 (lrEvkind r) (lrRing r) (lrTag r) n .launchInvalid (o.after (.cause .launchInvalid))
  | none =>
    let g : Grid :=
      { asid := o.asid, fn := o.fn, queue := o.queue, cls := min (lrPrio r) o.cls, lrec := r, node := o.node,
        entry := o.entry, parent := o.team, prov := gridProv r }
    let (s, id) := s.mkGrid g
    (s.debit o.asid (gridProv r)).handGrid id

/-- The provisional cost of a task: the part of a pass of its class that its rows of 128 are (R94, R127, log 84). -/
def State.taskProv (s : State) (t : Task) : Nat := ceilDiv (s.taskCost t * tkRows t.desc) 128

/-- Take one descriptor (R37, R38, R124, R125). -/
def State.takeTask (s : State) (o : Origin) (d : List Word) (aligned : Bool) : State :=
  match s.checkTask o.asid o.fn d aligned o.node.isNone false with
  | some n => s.refuse o 1 (tkEvkind d) (tkRing d) (tkTag d) n .taskInvalid (o.after (.cause .taskInvalid))
  | none =>
    let t := { mkTask o.asid o.fn d with node := o.node, entry := o.entry, submitter := o.team }
    let p := s.taskProv t
    ((s.submitTask { t with die := s.dieFor t, prov := p }).1).debit o.asid p

/-- The hub's read of a record failed: the node fails with the cause; an entry is reported to ERING (R85, R47). -/
def State.readFailed (s : State) (o : Origin) (c : Cause) : State :=
  match o.node, o.entry with
  | some (p, j), _ => s.nodeFail p j (.cause c)
  | none, some k => s.queueError k .qentryInvalid (.entry k)
  | none, none => s

/-- Take a ready graph node; of a task batch, its next descriptor (R84, R124). A node that is taken whole leaves the list of those
that wait (R88). A record with EVKIND 0b10 goes to the team that armed the graph, and nowhere where no team did (log 85). `none`
when it must wait. -/
def State.takeNode (s : State) (p j cls : Nat) : Option State :=
  match s.graph p with
  | none => none
  | some g =>
    let n := g.nodes.getD j []
    let o : Origin := { asid := g.asid, fn := g.fn, queue := g.queue, cls := min cls g.cls, node := some (p, j), team := g.armed }
    let off := fun (s : State) => s.modGraph p fun g => { g with ready := g.ready.filter (· != j) }
    if ndKind n = 0 then
      match s.hubTry (hubKey g.asid) (hubRead g.asid (ndH (nth n 1)) (ndOff (nth n 1)) 128 128) with
      | (_, .waits) => none
      | (s, .fails c _) => some ((off s).readFailed o c)
      | (s, .done (bs, al)) => some ((off s).takeLaunch o (bytesWords 16 bs) al)
    else if ndKind n = 1 then
      let count := fld (nth n 2) 0 13
      let i := s.nodeTaken p j
      match s.hubTry (hubKey g.asid) (hubRead g.asid (ndH (nth n 1)) (ndOff (nth n 1) + 64 * i) 64 64) with
      | (_, .waits) => none
      | (s, .fails c _) => some ((off s).readFailed o c)
      | (s, .done (bs, al)) =>
        let s := if i + 1 < count then s else off s
        let s := s.modGraph p fun g =>
          { g with taken := Tab.put g.taken j (i + 1), left := if i = 0 then Tab.put g.left j count else g.left }
        some (s.takeTask o (bytesWords 8 bs) al)
    else
      let len := fld (nth n 3) 0 48
      let c : CopyNode := { place := p, node := j, asid := g.asid, src := nth n 1, dst := nth n 2, len := len }
      let s := (off s).debit g.asid (unitsFor len s.hub.copyRate)
      some { s with hub := { s.hub with copies := s.hub.copies ++ [c] } }

/-- Read a graph: its header, and its nodes when the header allows it. -/
def readGraph (a h off : Nat) : M (List Word × List (List Word)) := do
  let (hd, _) <- hubRead a h off 64 64
  let hw := bytesWords 8 hd
  if !ghOk hw then pure (hw, [])
  else
    let n := ghNodes (nth hw 0)
    let (bs, _) <- hubRead a h off (64 * (n + 1)) 64
    pure (hw, (List.range n).map fun i => bytesWords 8 ((bs.drop (64 * (i + 1))).take 64))

/-- Advance a queue past its head entry (R84, R96). -/
def State.passEntry (s : State) (k items : Nat) : State :=
  s.modQueue k fun q => { q with head := q.head + 1, running := q.running + items, rise := 0, since := none, part := 0 }

/-- Take the head entry of a queue; of a task batch, its next descriptor (R84, R85, R124). `none` when it must wait. -/
def State.takeEntry (s : State) (k cls : Nat) : Option State :=
  let q := s.queue k
  let w := s.headEntry k
  let a := q.asid
  let o : Origin := { asid := a, fn := k / 32, queue := k, cls := cls, entry := some k }
  if s.entryBad a w then some ((s.passEntry k 1).queueError k .qentryInvalid (.entry k))
  else if qeKind w = 0 then
    match s.hubTry (hubKey a) (hubRead a (qeH w) (qeOff w) 128 128) with
    | (_, .waits) => none
    | (s, .fails c _) => some ((s.passEntry k 1).readFailed o c)
    | (s, .done (bs, al)) => some ((s.passEntry k 1).takeLaunch o (bytesWords 16 bs) al)
  else if qeKind w = 2 then
    match s.hubTry (hubKey a) (hubRead a (qeH w) (qeOff w + 64 * q.part) 64 64) with
    | (_, .waits) => none
    | (s, .fails c _) => some ((s.passEntry k 1).readFailed o c)
    | (s, .done (bs, al)) =>
      let s := if q.part + 1 < qeCount w then s.modQueue k fun q => { q with part := q.part + 1, running := q.running + 1 }
        else s.passEntry k 1
      some (s.takeTask o (bytesWords 8 bs) al)
  else
    match s.hubTry (hubKey a) (readGraph a (qeH w) (qeOff w)) with
    | (_, .waits) => none
    | (s, .fails c _) => some ((s.passEntry k 1).readFailed o c)
    | (s, .done (hw, nodes)) =>
      let s := s.passEntry k 1
      if !graphOk hw nodes true then
        some (s.refuse o 3 (ghEvkind (nth hw 0)) (ghRing (nth hw 0)) 0 0 .graphInvalid (.entry k))
      else
        (s.freePlace false).map fun p =>
          s.openGraph p { asid := a, fn := k / 32, queue := k, cls := 7, hdr := nth hw 0, nodes := nodes, entry := some k }

/-- Start a pending child (R97, R103). -/
def State.takeChild (s : State) (order : Nat) : State :=
  let s := s.modPool fun c => if c.order == order then { c with started := true } else c
  match s.hub.pool.find? fun c => c.order == order with
  | none => s
  | some c =>
    match c.grid, c.task with
    | some gid, _ =>
      match s.grid gid with
      | some g => ((s.modGrid gid fun g => { g with prov := gridProv g.lrec }).debit c.asid (gridProv g.lrec)).handGrid gid
      | none => s
    | none, some u =>
      match s.task u with
      | some t =>
        let p := s.taskProv t
        (s.modTask u fun t => { t with prov := p }).debit c.asid p
      | none => s
    | none, none => s

/-- Take an item for a context, from the queue in place `at` of R95's order; the class of its queue falls back (R96). -/
def State.takeItem (s : State) (a pos cls : Nat) (i : Item) : State :=
  let done := match i with
    | .node p j => s.takeNode p j cls
    | .entry k => s.takeEntry k cls
    | .child o => some (s.takeChild o)
  match done with
  | none => s
  | some s' =>
    let from_ := match i with
      | .node p _ => (s.graph p).map fun g => g.queue
      | .entry k => some k
      | .child _ => none
    let s := match from_ with
      | some k => (s'.modQueue k fun q => { q with rise := 0, since := none }).noteReady k
      | none => s'
    s.modCtx a fun c => { c with lastq := pos + 1 }

/-- Offer the placement to functions in order; the first that has something takes one item. -/
def State.dispatchTo (s : State) : List Nat → State
  | [] => s
  | f :: fs =>
    match s.pickFor f with
    | (s, some (a, pos, cls, i)) => s.takeItem a pos cls i
    | (s, none) => s.dispatchTo fs

/-- What the hub reads of an item before it can be accepted. -/
def State.itemRead (s : State) (a : Nat) (i : Item) : M Unit :=
  let read := fun (h off n : Nat) => do
    let _ <- whole (hubRead a h off n 1)
  match i with
  | .node p j =>
    match (s.graph p).bind fun g => g.nodes[j]? with
    | some n => if ndKind n = 0 then read (ndH (nth n 1)) (ndOff (nth n 1)) 128
        else if ndKind n = 1 then read (ndH (nth n 1)) (ndOff (nth n 1) + 64 * s.nodeTaken p j) 64 else pure ()
    | none => pure ()
  | .entry k =>
    let w := s.headEntry k
    if s.entryBad a w then pure ()
    else if qeKind w = 1 then do
      let _ <- whole (readGraph a (qeH w) (qeOff w))
    else if qeKind w = 0 then read (qeH w) (qeOff w) 128 else read (qeH w) (qeOff w + 64 * (s.queue k).part) 64
  | .child _ => pure ()

/-- Reads of ready items' records that have to wait are begun. -/
def State.beginReads (s : State) : State :=
  ((s.fnOrder.flatMap s.ctxsOf).flatMap fun a => (s.readyItems a).map fun p => (a, p.2.2)).foldl (fun s p =>
    match (s.itemRead p.1 p.2).run s with
    | .error (.wait _) s' => s'
    | _ => s) s

/-- ARBITRATION_DISPATCH (R91 to R97, R84 to R88), an event: one item. -/
def execArbitrationDispatch (s : State) : Res := .next (if s.hubUp then s.beginReads.dispatchTo s.fnOrder else s)

/-- QUEUE_AGING (R96), an event: function `a`, queue `b`. -/
def execQueueAging (s : State) : Res :=
  let x := s.arg
  let k := qKey x.a x.b
  let q := s.queue k
  let limit := if q.age = 0 then 1000000 else q.age.toNat * 10000
  match q.since with
  | some t =>
    if s.queueBlock x.a x.b && ((s.readyNode q.asid k).isSome || s.entryReady k) && decide (q.cls.toNat + q.rise < 7)
        && decide (t + (q.rise + 1) * limit ≤ s.now) then
      .next (s.modQueue k fun q => { q with rise := q.rise + 1 })
    else .next s
  | none => .next s

/-- ACCT_USED_WRITEBACK (R99, R100), an event: the cycles of the teams on cells are charged up to now, then every charge is written. -/
def execAcctUsedWriteback (s : State) : Res :=
  let s := (s.teams.map (·.1)).foldl State.chargeCell s
  .next ((s.hub.acctPend.map (·.1)).foldl State.writeBack s)

/-- CHILD_SPILL_REFILL (R104), an event: the oldest spilled child of context `a` enters its die's pool while that holds fewer than
3,840 entries, so that it leaves the rest to children that a team waits for (log 86). -/
def execChildSpillRefill (s : State) : Res :=
  match s.hub.pool.find? fun c => c.asid == s.arg.a && c.spilled with
  | some c =>
    if s.poolUsed c.die < 3840 then
      let s := s.modPool fun d => if d.order == c.order then { d with spilled := false } else d
      .next (s.modCtx c.asid fun x => { x with spHead := x.spHead + 1 })
    else .next s
  | none => .next s

/-! ### Nodes that the hub completes itself -/

/-- compare(CMP, x, y) of R46. -/
def ndHit (cmp : Nat) (x y : Word) : Bool :=
  match cmp with
  | 0 => x == y
  | 1 => x != y
  | 2 => decide (x.toNat < y.toNat)
  | 3 => decide (y.toNat ≤ x.toNat)
  | 4 => decide (x.toInt < y.toInt)
  | _ => decide (y.toInt ≤ x.toInt)

/-- GRAPH_CONDITIONAL_READ (R46, R89), an event: graph place `a`, node `b`. -/
def execGraphConditionalRead (s : State) : Res :=
  let p := s.arg.a
  let j := s.arg.b
  match s.graph p with
  | none => .next s
  | some g =>
    let n := g.nodes.getD j []
    if nodeStat g j != .running || ndKind n != 3 || !s.mayRun g.asid then .next s
    else
      match s.hubTry (hubKey g.asid) (hubRead g.asid (ndH (nth n 1)) (ndOff (nth n 1)) 8 1) with
      | (s, .waits) => .next s
      | (s, .fails c _) => .next (s.nodeFail p j (.cause c))
      | (s, .done (bs, _)) =>
        let hit := ndHit (ndCmp n) (wd (leNat bs)) (nth n 2)
        let more := decide ((Tab.find g.rearms j).getD 0 < ndLimit n)
        if hit && more && g.failed.isNone then
          .next ((s.modGraph p fun g => { g with sts := g.sts.set j .rearm }).advanceGraph p)
        else .next ((s.modGraph p fun g => { g with limitHit := g.limitHit || (hit && !more) }).nodeDone p j)

/-- GRAPH_REARM (R46, R89, R520), an event: graph place `a`, conditional node `b`. -/
def execGraphRearm (s : State) : Res :=
  let p := s.arg.a
  let j := s.arg.b
  match s.graph p with
  | none => .next s
  | some g =>
    let set := reachable g.nodes (ndTarget (g.nodes.getD j [])) j
    if nodeStat g j == .rearm && g.failed.isNone && s.mayRun g.asid && set.all (fun i => nodeStat g i == .done) then
      .next ((s.modGraph p fun g =>
        { g with rearms := Tab.put g.rearms j ((Tab.find g.rearms j).getD 0 + 1),
                 sts := g.sts.zipIdx.map fun (x, i) => if i == j || set.contains i then .waiting else x }).advanceGraph p)
    else .next s

/-- Copy `n` bytes in pieces of 4 KiB; `fuel` bounds the pieces. -/
def copyPieces (w : Who) (sh soff dh doff : Nat) : Nat → Nat → Nat → M Unit
  | 0, _, _ => pure ()
  | fuel + 1, done, n => do
    if done < n then
      let k := min 4096 (n - done)
      let bs <- load w sh (soff + done) k
      store w dh (doff + done) false bs
      copyPieces w sh soff dh doff fuel (done + k) n

/-- GRAPH_COPY_NODE_DONE (R45, R100), an event: graph place `a`, node `b`: its bytes are copied, and then globally performed. -/
def execGraphCopyNodeDone (s : State) : Res :=
  let p := s.arg.a
  let j := s.arg.b
  match s.hub.copies.find? fun c => c.place == p && c.node == j with
  | none => .next s
  | some c =>
    let w := hubWho c.asid
    let units := unitsFor c.len s.hub.copyRate
    let at_ := fun (x : CopyNode) => x.place == p && x.node == j
    let gone := fun (s : State) => { s with hub := { s.hub with copies := s.hub.copies.filter fun x => !at_ x } }
    let acct := ((s.graph p).map fun g => ghAcct g.hdr).getD 0
    let copied := if c.moved then (s, HubRes.done ()) else s.hubTry w.key (do
        let _ <- handleAt c.asid (ndH c.src) (ndOff c.src) c.len false
        let _ <- handleAt c.asid (ndH c.dst) (ndOff c.dst) c.len true
        copyPieces w (ndH c.src) (ndOff c.src) (ndH c.dst) (ndOff c.dst) (c.len / 4096 + 1) 0 c.len)
    match copied with
    | (s, .waits) => .next s
    | (s, .fails k _) => .next (((gone s).modCtx c.asid fun x => { x with deficit := x.deficit + units }).nodeFail p j (.cause k))
    | (s, .done ()) =>
      let s := { s with hub := { s.hub with copies := s.hub.copies.map fun x => if at_ x then { x with moved := true } else x } }
      match s.hubTry w.key (release w 4) with
      | (s, .done ()) => .next (((gone s).charge c.asid acct units units).nodeDone p j)
      | (s, _) => .next s

end Sys2Proof.Machine
end

