-- ==== Sys2Proof/Machine/Ringm.lean ====
section
/-! DEFINITION. The Ringmasters: acceptance and deadlines (R124 to R126), the choice and filling of a pass (R127 to R130), its
column groups and late rows (R132 to R134), the epilogue (R446 to R448), scatter, parking and resuming (R135 to R139, R497 to
R499), charges (R102) and completion (R39). -/
namespace Sys2Proof.Machine

/-! ### Completion (R39, R34, R361) -/

/-- Forget an image that no context registers and nothing refers to (R34). -/
def State.settleImage (s : State) (hash : Word) : State :=
  match s.image hash with
  | none => s
  | some im =>
    if im.refs.isEmpty && !(s.rm.tasks.any fun t => tkHash t.desc == hash) && !(s.rm.passes.any fun p => p.2.hash == hash) then
      { s with hub := { s.hub with registry := s.hub.registry.filter fun p => p.1 != hash } }
    else s

/-- A task completes: CSEM first, then its record (R39). Its remainder tasks go with it. -/
def State.finishTask (s : State) (u : Nat) (st : Status) (addr : Word) : State :=
  match s.task u with
  | none => s
  | some t =>
    let d := t.desc
    let s := { s with rm := { s.rm with tasks := s.rm.tasks.filter fun x => x.uid != u && x.orig != some u },
                      hub := { s.hub with pool := s.hub.pool.filter fun c => c.task != some u } }
    let s := (s.settleWeight (tkWid d)).settleImage (tkHash d)
    let s := match t.submitter with
      | some r => if tkCsemv d then s.semSignalRef r (tkCsem d) 1 else s
      | none => s
    let s := (s.writeBack (tkAcct d)).modCtx t.asid fun c => { c with deficit := c.deficit + t.prov }
    let r : CR := { src := 1, vfl := t.vfl, st := st, tag := tkTag d, id := t.id.toNat, addr := addr }
    s.deliverNow (tkEvkind d) t.fn (tkRing d) t.submitter r (.task t.node t.entry st)

/-- ADDR of a task's record (R372, R499). -/
def Task.parkAddr (t : Task) : Word := wd (t.parkRow.getD 0)

/-- One of the scatters that a task owes is done: it completes with the last one (R133). -/
def State.portion (s : State) (u : Nat) : State :=
  match s.task u with
  | none => s
  | some x =>
    let o := x.orig.getD u
    let s := if x.orig.isSome then { s with rm := { s.rm with tasks := s.rm.tasks.filter fun t => t.uid != u } } else s
    let s := s.modTask o fun t =>
      { t with owed := t.owed - 1, vfl := if x.orig.isSome then t.vfl ||| x.vfl else t.vfl,
               parkRow := t.parkRow.orElse fun _ => x.parkRow }
    match s.task o with
    | some t => if t.owed = 0 then s.finishTask o .ok t.parkAddr else s
    | none => s

/-! ### Deadlines (R126) -/

/-- TASK_DEADLINE (R126), an event: the task with the model's number `a`. -/
def execTaskDeadline (s : State) : Res :=
  match s.task s.arg.a with
  | some t =>
    if t.st == TaskSt.queued && decide (t.deadline ≤ s.now) then .next (s.modTask s.arg.a fun t => { t with due := true })
    else .next s
  | none => .next s

/-! ### Choosing and filling a pass (R126 to R131, R136) -/

def parkSpace : Nat := 2 ^ 21

/-- Bytes of a pass cell's park buffer that are reserved or hold parked rows (R136). -/
def State.parkHeld (s : State) (c : Nat) : Nat :=
  ((s.rm.parked.filter fun e => e.cell == c).map (·.bytes)).foldl (· + ·) 0 + ((s.pass c).map (·.reserved)).getD 0

/-- Insert into a list ordered by deadline, then acceptance. -/
def insertTask (t : Task) : List Task → List Task
  | [] => [t]
  | x :: xs => if t.deadline < x.deadline || (t.deadline == x.deadline && decide (t.order < x.order)) then t :: x :: xs
      else x :: insertTask t xs
def sortTasks (ts : List Task) : List Task := ts.foldl (fun acc t => insertTask t acc) []

/-- The groups of a die's queues, each in the order of R129. -/
def State.groups (s : State) (die : Nat) : List (List Task) :=
  let q := s.rm.tasks.filter fun t => t.die == die && t.st == .queued
  (q.zipIdx.filter fun (t, i) => !(q.take i).any (sameKey t)).map fun (t, _) => sortTasks (q.filter (sameKey t))

def rowsIn (ts : List Task) : Nat := (ts.map fun t => tkRows t.desc).foldl (· + ·) 0

/-- A group is ready (R126). -/
def groupReady (ts : List Task) : Bool := decide (128 ≤ rowsIn ts) || ts.any (·.due)

/-- Take whole tasks while they fit (R129). -/
def fillRows : Nat → List Task → List Task
  | _, [] => []
  | room, t :: ts => if tkRows t.desc ≤ room then t :: fillRows (room - tkRows t.desc) ts else []

/-- The class of a group's tasks. -/
def State.groupClass (s : State) (ts : List Task) : TaskClass :=
  match ts with
  | [] => {}
  | t :: _ => (s.taskClass (tkHash t.desc) (tkShape t.desc)).getD {}

/-- The tasks that a pass of a group would hold. -/
def State.filled (s : State) (ts : List Task) : List Task := fillRows (rowCap (s.groupClass ts)) ts

/-- A group whose pass the cell can take now. -/
def State.groupFits (s : State) (c : Nat) (ts : List Task) : Bool :=
  groupReady ts && !(s.filled ts).isEmpty
    && decide (rowsIn (s.filled ts) * (s.groupClass ts).rbytes + s.parkHeld c ≤ parkSpace)

def groupPrio (ts : List Task) : Nat := ts.foldl (fun m t => max m (tkPrio t.desc)) 0
def groupBulk (ts : List Task) : Bool := match ts with
  | t :: _ => tkBulk t.desc
  | [] => false

/-- Column groups of a group's pass, and its cost (R127). -/
def State.groupCols (s : State) (ts : List Task) : Nat :=
  match ts with
  | t :: _ => t.upto.getD (groupsOfClass (s.groupClass ts))
  | [] => 0
def State.groupCost (s : State) (ts : List Task) : Nat :=
  match ts with
  | t :: _ => s.taskCost t
  | [] => 0

def dueKey (die : Nat) (bulk : Bool) : Nat := 2 * die + bulk.toNat
def queueCredit (bulk : Bool) : Int := if bulk then 4096 else 12288

/-- The rounds between a die's two queues (R128, R94); `fuel` bounds the turns. -/
def State.turns (s : State) (die : Nat) (ready : Bool → Bool) : Nat → State × Option Bool
  | 0 => (s, none)
  | fuel + 1 =>
    let pos := (Tab.find s.rm.turn die).getD { asid := 1 }
    let q := pos.asid == 1
    let has := Sparse.get 0 s.rm.deficit (dueKey die q)
    if pos.on && ready q && decide (0 < has) then (s, some q)
    else
      let n := !q
      let old := Sparse.get 0 s.rm.deficit (dueKey die n)
      let new := if ready n then min (old + queueCredit n) (queueCredit n) else min old 0
      let rm := { s.rm with deficit := Sparse.set 0 s.rm.deficit (dueKey die n) new,
                            turn := Tab.put s.rm.turn die { asid := n.toNat, on := ready n } }
      ({ s with rm := rm } : State).turns die ready fuel

/-- The group that a free pass cell takes (R128): class, queue, earliest deadline. -/
def State.chooseGroup (s : State) (die c : Nat) : State × Option (List Task) :=
  let gs := (s.groups die).filter (s.groupFits c)
  let top := gs.foldl (fun m g => max m (groupPrio g)) 0
  let gs := gs.filter fun g => groupPrio g == top
  if gs.isEmpty then (s, none)
  else
    let ready := fun b => gs.any fun g => groupBulk g == b
    let low := fun b => (Sparse.get 0 s.rm.deficit (dueKey die b)).natAbs / 4096
    match s.turns die ready (2 * (low false + low true + 3)) with
    | (s, none) => (s, none)
    | (s, some b) =>
      let key := fun (g : List Task) => match g with
        | t :: _ => t.deadline * (s.rm.nextOrder + 1) + g.foldl (fun n x => min n x.order) t.order
        | [] => 0
      (s, minBy key (gs.filter fun g => groupBulk g == b))

/-- The owner of a task's rows as the pass cell tells owners apart (R131): one steered here is no context of this device. -/
def Task.owner (t : Task) : Nat := match t.origin with
  | none => t.asid
  | some d => tkOwner t.desc + 1024 * (d + 1)

/-- The rows of a task in a pass. -/
def Task.rows (t : Task) (from_ : Nat) : List PassRow :=
  (List.range (tkRows t.desc)).map fun i => { task := t.id, uid := t.uid, owner := t.owner, idx := i, from_ := from_ }

/-- A cell that can take a pass: a pass cell of its die, in service, idle, with no change pending (R114, R128). -/
def State.passCellFree (s : State) (c : Nat) : Bool :=
  let x := s.cell c
  (s.allotOf c).1 == 2 && (Tab.find s.hub.allotPend c).isNone && !x.lost && x.a.isNone && x.b.isNone && (s.pass c).isNone

/-- PASS_FORM (R126 to R131), an event: pass cell `a`. -/
def execPassForm (s : State) : Res :=
  let c := s.arg.a
  let die := c / 64
  if !s.passCellFree c || !s.hubUp then .next s
  else
    match s.chooseGroup die c with
    | (s, none) => .next s
    | (s, some g) =>
      let ts := s.filled g
      match ts with
      | [] => .next s
      | t :: _ =>
        let cost := s.groupCost g
        let p : Pass :=
          { hash := tkHash t.desc, wid := tkWid t.desc, shape := tkShape t.desc, bulk := tkBulk t.desc, st := .gather,
            rows := ts.flatMap fun t => t.rows 0, groups := s.groupCols g, remainder := t.upto.isSome,
            reserved := rowsIn ts * (s.groupClass g).rbytes }
        let k := dueKey die (tkBulk t.desc)
        let s := s.modTasks fun x => if ts.any fun t => t.uid == x.uid then { x with st := .inPass } else x
        .next { s with rm := { s.rm with passes := Tab.put s.rm.passes c p,
                                         deficit := Sparse.set 0 s.rm.deficit k (Sparse.get 0 s.rm.deficit k - cost) } }

/-! ### Parking (R135 to R137, R499) -/

/-- The record of a parked owner: to the fault queue, and pending in every submitting team that is resident (R137). -/
def State.noteParked (s : State) (e : Parked) (k : Cause) (addr : Nat) : State :=
  let ts := e.tasks.filterMap s.task
  let subs := (ts.filterMap (·.submitter)).eraseDups
  let here := subs.filterMap s.locate
  let stage := match here with
    | .here _ b :: _ => b
    | _ => false
  let r : FRec :=
    { cause := k, stage := stage, asid := e.owner, team := ((subs.head?).map fun x => BitVec.ofNat 32 x.no).getD 0xFFFFFFFF,
      time := s.now, detail := BitVec.ofNat 32 e.first, addr := wd addr, ids := (ts.map (·.id)).eraseDups.take 4,
      owner := e.owner, grid := ((subs.head?).map fun x => BitVec.ofNat 32 x.grid).getD 0xFFFFFFFF,
      seq := (s.ctx e.owner).seq + 1 }
  let s := here.foldl (fun s l => match l with
    | .here _ _ => s.modTeam l fun t => t.pend r
    | .kept _ => s) s
  s.offer r

/-- Mark the tasks of a parked owner: state, and the row that failed first. -/
def State.markParked (s : State) (us : List Nat) (row : Nat) : State :=
  let os := us.map fun u => ((s.task u).bind (·.orig)).getD u
  s.modTasks fun t => if us.contains t.uid || os.contains t.uid then
    { t with st := .parked, parkRow := t.parkRow.orElse fun _ => some row } else t

/-- Discard the parked rows of an owner that are not being resumed: their tasks complete with PARK_DISCARDED (R139). -/
def State.discardParked (s : State) (p : Parked → Bool) : State :=
  let gone := s.rm.parked.filter fun e => p e && !e.resuming
  let s := { s with rm := { s.rm with parked := s.rm.parked.filter fun e => !(p e && !e.resuming) } }
  (gone.flatMap (·.tasks)).foldl (fun s u =>
    match s.task u with
    | none => s
    | some t => s.finishTask (t.orig.getD u) .parkDiscarded t.parkAddr) s

/-- Parked rows of a context that is being stopped or is stopped are discarded as they park (R139, R515). -/
def State.discardStopped (s : State) (owner : Nat) : State :=
  if s.mayRun owner then s else s.discardParked fun e => e.owner == owner

/-- Park every row of an owner in a pass (R135): at pass row `row`, with the address that failed. -/
def State.parkOwner (s : State) (c owner row : Nat) (scatter : Bool) (k : Cause) (addr : Nat) : State :=
  match s.pass c with
  | none => s
  | some p =>
    let mine := p.rows.zipIdx.filter fun (x, _) => x.owner == owner
    let cls := (s.taskClass p.hash p.shape).getD {}
    let kept := if scatter then mine.flatMap fun (x, r) =>
        (p.out.filter fun y => y.1 == r).map fun y => (x.uid, r, x.idx, y.2.1, y.2.2) else []
    let e : Parked :=
      { cell := c, owner := owner, tasks := (mine.map fun (x, _) => x.uid).eraseDups, scatter := scatter, kept := kept,
        bytes := mine.length * cls.rbytes, first := (mine.head?.map (·.2)).getD 0 }
    let s := s.modPass c fun p =>
      { p with rows := p.rows.map fun x => if x.owner == owner then { x with parked := true, act := [] } else x,
               reserved := p.reserved - e.bytes }
    let s := { s with rm := { s.rm with parked := s.rm.parked ++ [e] } }
    ((s.markParked e.tasks row).noteParked e k addr).discardStopped owner

/-- The park cause of a failed access (R135). -/
def parkCause (scatter : Bool) (k : Cause) : Cause :=
  if k == .handleBound then .parkBound
  else if k == .poison && !scatter then .parkPoison
  else if scatter then .parkScatterXlate else .parkGatherXlate

/-! ### Gather (R131, R135) -/

/-- What the gather latch gets for a row. -/
abbrev RowRes := Except (Cause × Nat) (List Byte)

/-- Gather one activation row under its owner's context. -/
def gatherAct (key : AgentKey) (c : Nat) (t : Task) (i n : Nat) : M RowRes := do
  match t.origin with
  | some _ => pure (.ok (t.acts.getD i []))
  | none =>
    match <- attempt (load { asid := t.asid, cell := c, key := key } (tkActh t.desc) (tkActoff t.desc + i * tkActstride t.desc) n) with
    | .ok bs => pure (.ok bs)
    | .error (k, info) => pure (.error (parkCause false k, info.addr.getD 0))

/-- Gather rows: a row that software writes before its task completes is gathered as memory holds it now (log 91). -/
def gatherRows (c n : Nat) (rows : List PassRow) : M (List RowRes) :=
  rows.mapM fun x => do
    match (<- get).task x.uid with
    | some t => gatherAct (passKey c) c t x.idx n
    | none => pure (.ok [])

/-- Lay gathered rows into the latch from pass row `base` on, and park the owners of rows that failed. -/
def State.latch (s : State) (c base : Nat) (rs : List RowRes) : State :=
  let s := s.modPass c fun p =>
    { p with rows := p.rows.zipIdx.map fun (x, r) =>
        match (if base ≤ r then rs[r - base]? else none) with
        | some (.ok bs) => { x with act := bs }
        | _ => x }
  rs.zipIdx.foldl (fun s (x, i) =>
    match x, ((s.pass c).bind fun p => p.rows[base + i]?) with
    | .error (k, addr), some row => if row.parked then s else s.parkOwner c row.owner (base + i) false k addr
    | _, _ => s) s

/-- The tasks of the pass's own key that are queued (R132). -/
def State.sameQueue (s : State) (c : Nat) (p : Pass) : List Task :=
  sortTasks (s.rm.tasks.filter fun t => t.die == c / 64 && t.st == .queued && t.upto.isNone && tkHash t.desc == p.hash
    && tkWid t.desc == p.wid && tkShape t.desc == p.shape && tkBulk t.desc == p.bulk)

/-- PASS_GATHER_DONE (R131, R135, R141), an event: pass cell `a`. -/
def execPassGatherDone (s : State) : Res :=
  let c := s.arg.a
  match s.pass c with
  | none => .next s
  | some p =>
    if p.st != .gather then .next s
    else
      let cls := (s.taskClass p.hash p.shape).getD {}
      match s.hubTry (passKey c) (gatherRows c cls.abytes p.rows) with
      | (s, .done rs) =>
        let s := s.latch c 0 rs
        .next (s.modPass c fun p => { p with st := .run, g := 0, early := (s.sameQueue c p).map (·.uid) })
      | (s, _) => .next s

/-! ### The products of a column group (R127, R132, R446) -/

/-- The precision fields of a class's activations (R33) and of recorded weights (R360), as R67 codes them. -/
def contFor (fmt w : Nat) : Nat :=
  if fmt = 3 ∨ fmt = 4 then 4 else if fmt ≠ 0 then 3
  else if w ≤ 1 then 0 else if w ≤ 2 then 1 else if w ≤ 4 then 2 else if w ≤ 8 then 3 else 4
def actPrec (c : TaskClass) : BitVec 32 :=
  BitVec.ofNat 32 (at_ c.afmt 28 + at_ (contFor c.afmt c.aw) 25 + at_ c.aw 20 + at_ c.asgn.toNat 19 + at_ c.afrac 14
    + at_ c.asmode 12)
def wtPrec (x : Word) : BitVec 32 :=
  BitVec.ofNat 32 (at_ (fld x 28 4) 28 + at_ (fld x 25 3) 25 + at_ (fld x 0 5) 20 + at_ (fld x 24 1) 19
    + at_ (fld x 19 5) 14 + at_ (fld x 17 2) 12)

/-- Chunks of an operand's row or column, with the scale of each. -/
def operandChunks (prec : BitVec 32) (k : Nat) (bs : List Byte) (bad : Bool) : List (Chunk × Option Nat) :=
  let j := k / 64
  let kb := k * pfBits prec / 8
  let cs := chunksOf prec j (lineElems (bs.take kb) (pfBits prec) k) bad
  cs.zipIdx.map fun (c, i) => (c, if pfScaled prec then some ((bs.drop (kb + i)).headD 0).toNat else none)

/-- Bytes of a weight column: elements, then block scales (R360). -/
def columnBytes (prec : BitVec 32) (k : Nat) : Nat := k * pfBits prec / 8 + (if pfScaled prec then k / 64 else 0)

/-- Read one weight column through the recorded flat address: one that cannot be read enters as INVALID and is logged. -/
def weightColumn (c : Nat) (p : Pass) (w : Weight) (k col : Nat) : M (List (Chunk × Option Nat)) := do
  let prec := wtPrec w.prec
  match <- attempt (loadFlat { asid := w.asid, cell := c, key := passKey c } (w.addr + col * w.sstride) (columnBytes prec k)) with
  | .ok bs => pure (operandChunks prec k bs false)
  | .error (cause, _) =>
    modify fun s => s.logError { cause := cause, time := s.now, addr := p.hash }
    if cause == .poison then modify fun s => s.withdraw p.wid
    pure (operandChunks prec k (zeros (columnBytes prec k)) true)

/-- One entry of a pass. -/
def passEntry (a b : List (Chunk × Option Nat)) : AccE :=
  (a.zip b).foldl (fun e (x, y) =>
    let (bad, q, ep) := partialOf x.1 y.1 x.2 y.2
    e.addPartial bad q ep) {}

/-- The products of column group `g` land in acc0. A parked row, a row that is not there and a row that no task fills enter as
zeros (R129, R135). -/
def groupProducts (c : Nat) (p : Pass) (g : Nat) : M Unit := do
  let s <- get
  match s.taskClass p.hash p.shape, s.weight p.wid with
  | some cls, some w =>
    let m := s.passRowsOf p
    let rows := (List.range m).map fun r => (p.rows[r]?).bind fun x =>
      if x.parked || decide (g < x.from_) then none else some (operandChunks (actPrec cls) cls.k x.act false)
    (span (128 * g) (min 128 (cls.n - 128 * g))).forM fun col => do
      let b <- weightColumn c p w cls.k col
      let entry := fun (a : Option (List (Chunk × Option Nat))) => match a with
        | some a => passEntry a b
        | none => ({} : AccE)
      let put := fun (sh : Shared) => rows.zipIdx.foldl (fun sh (a, r) => sh.setAcc false (physRow m r col) (col % 128) (entry a)) sh
      modify fun s => s.modCell c fun x => { x with sh := put x.sh }
    let one : BitVec 32 := 0x3F800000
    let ta := if cls.asmode = 2 then cls.ascale else one
    let tb := if pfSmode (wtPrec w.prec) = 2 then BitVec.ofNat 32 (fld w.prec 32 32) else one
    modify fun s => s.modCell c fun x => { x with sh := (x.sh.setTensors false ta tb).setFull false false }
  | _, _ => pure ()

/-! ### Charges (R102, R134) -/

/-- Split units by counts (R102): floors, and the rest to the greatest count, the first of equals. -/
def splitUnits (c : Nat) (xs : List (Nat × Nat)) : List (Nat × Nat) :=
  let n := (xs.map (·.2)).foldl (· + ·) 0
  let fl := xs.map fun x => (x.1, if n = 0 then 0 else c * x.2 / n)
  let rest := c - (fl.map (·.2)).foldl (· + ·) 0
  match maxBy (fun (x : Nat × Nat) => x.2) xs with
  | none => []
  | some j => fl.map fun y => if y.1 == j.1 then (y.1, y.2 + rest) else y

/-- Insert a key in ascending order of a rank. -/
def insertBy (f : Nat → Nat) (k : Nat) : List Nat → List Nat
  | [] => [k]
  | x :: xs => if f k ≤ f x then k :: x :: xs else x :: insertBy f k xs
def sortBy (f : Nat → Nat) (ks : List Nat) : List Nat := ks.foldl (fun acc k => insertBy f k acc) []

/-- Charge one task's part to its account; of a task steered here, note it for its device (R145). -/
def State.chargeTask (s : State) (u n : Nat) : State :=
  match s.task u with
  | none => s
  | some t =>
    match t.origin with
    | some _ => s.modTask u fun t => { t with units := t.units + n }
    | none =>
      let use := min t.prov n
      (s.charge t.asid (tkAcct t.desc) n use).modTask u fun t => { t with prov := t.prov - use }

/-- Charge the span of column groups from `lo` to `hi` - 1 of a pass (R102, R134). -/
def State.chargeSpan (s : State) (p : Pass) (lo hi : Nat) : State :=
  match s.taskClass p.hash p.shape, s.weight p.wid with
  | some cls, some w =>
    let c := (hi - lo) * ceilDiv cls.k 64 * cls.aw * weightWidth w + (if lo = 0 then 12 else 0)
    let owners := sortBy id (p.rows.map (·.owner)).eraseDups
    let parts := splitUnits c (owners.map fun o => (o, (p.rows.filter fun x => x.owner == o).length))
    parts.foldl (fun s (o, n) =>
      let us := ((p.rows.filter fun x => x.owner == o).map (·.uid)).eraseDups
      let us := sortBy (fun u => ((s.task u).map fun t => t.id.toNat).getD 0) us
      (splitUnits n (us.map fun u => (u, (p.rows.filter fun x => x.uid == u).length))).foldl (fun s (u, k) => s.chargeTask u k) s) s
  | _, _ => s

/-! ### Boundaries and the epilogue (R132 to R134, R141, R446, R448) -/

/-- The tasks admitted at a boundary: those of the order of R129 that were queued when the column group began, while rows and
park space last; at most `n`, those whose gather has ended. A
task steered here joins no running pass (log 45). -/
def State.admitted (s : State) (c : Nat) (p : Pass) (n : Nat) : List Task :=
  let cls := (s.taskClass p.hash p.shape).getD {}
  let parked := (p.rows.filter (·.parked)).map (·.owner)
  let ok := (s.sameQueue c p).filter fun t => p.early.contains t.uid && !parked.contains t.owner && t.origin.isNone
  let room := rowCap cls - p.rows.length
  let space := if cls.rbytes = 0 then room else (parkSpace - s.parkHeld c) / cls.rbytes
  (fillRows (min room space) ok).take n

/-- A task is admitted at boundary `g`: its rows join, and a remainder task covers the groups before (R132, R133). -/
def State.admitTask (s : State) (c g : Nat) (t : Task) (rs : List RowRes) : State :=
  let cls := s.groupClass [t]
  let base := ((s.pass c).map fun p => p.rows.length).getD 0
  let s := s.modPass c fun p => { p with rows := p.rows ++ t.rows g, reserved := p.reserved + tkRows t.desc * cls.rbytes }
  let s := s.modTask t.uid fun t => { t with st := .owed, owed := t.owed + 1 }
  let (s, _) := s.addTask { t with orig := some t.uid, upto := some g, due := t.due || decide (t.deadline ≤ s.now), prov := 0,
                                   parkRow := none, vfl := 0 }
  s.latch c base rs

/-- The registers of an epilogue's strand (R448). -/
def epilogueTeam (p : Pass) (work : Memory) (bad : NatSet) : Team :=
  let t : Team := { epilogue := some p.hash, valloc := 96, vault := work, vpoison := bad, started := true }
  (((t.putReg 1 (wd p.rows.length)).putReg 2 (wd p.groups)).putReg 3 (wd p.shape)).putReg 4 0

/-- The pass enters EPILOGUE: its strand runs in stage A of the pass cell (R446, R448). -/
def State.startEpilogue (s : State) (c : Nat) : State :=
  match s.pass c with
  | none => s
  | some p =>
    let s := s.modCell c fun x => { x with a := some (epilogueTeam p x.work x.workBad), active := false, sw := none,
                                           sh := { x.sh with landings := [], array := [] } }
    s.modPass c fun p => { p with st := .epilogue }

/-- PASS_COLUMN_GROUP_END (R132 to R134, R141), an event: pass cell `a`; up to `b` late tasks have ended their gather. -/
def execPassColumnGroupEnd (s : State) : Res :=
  let c := s.arg.a
  let n := s.arg.b
  match s.pass c with
  | none => .next s
  | some p =>
    if p.st != .run then .next s
    else
      let cls := (s.taskClass p.hash p.shape).getD {}
      let last := decide (p.groups ≤ p.g + 1)
      let work : M (List (Task × List RowRes)) := do
        groupProducts c p p.g
        if last || p.remainder then pure []
        else ((<- get).admitted c p n).mapM fun t => do
          let rs <- gatherRows c cls.abytes (t.rows 0)
          pure (t, rs)
      match s.hubTry (passKey c) work with
      | (s, .done late) =>
        if last then
          .next ((s.chargeSpan p p.span p.groups).startEpilogue c)
        else
          let g := p.g + 1
          let s := if late.isEmpty then s else (s.chargeSpan p p.span g).modPass c fun p => { p with span := g }
          let s := late.foldl (fun s x => s.admitTask c g x.1 x.2) s
          .next (s.modPass c fun p => { p with g := g, early := (s.sameQueue c p).map (·.uid) })
      | (s, _) => .next s

/-! ### Scatter (R131, R298, R497) and the end of a pass (R141, R448) -/

/-- Where a result row's bytes go: every check is made. -/
def rowCheck (w : Who) (h off n : Nat) : M (Nat × Nat × List (Nat × Nat × Dest)) := do
  let (fa, ord) <- handleAt w.asid h off n true
  if fa / 2 ^ 52 % 16 == 3 then
    let d <- destOf w fa n true
    pure (fa, ord, [(fa, n, d)])
  else
    let ds <- (parts fa n).mapM fun (a, k) => do
      let d <- destOf w a k true
      pure (a, k, d)
    pure (fa, ord, ds)

/-- Store a checked row. -/
def rowStore (w : Who) (x : Nat × Nat × List (Nat × Nat × Dest)) (bs : List Byte) : M Unit :=
  x.2.2.forM fun (a, k, d) => writeDest w d x.2.1 true ((bs.drop (a - x.1)).take k)

/-- A piece of a result row: task, pass row, index within the task, offset within the row, bytes. -/
abbrev Piece := Nat × Nat × Nat × Nat × List Byte

/-- Translate every piece of one owner before any byte is stored (R497): what to store, or the first failure with its row. -/
def translate (key : AgentKey) (c : Nat) : List Piece → M (Except (Cause × Nat × Nat) (List (Nat × M Unit)))
  | [] => pure (.ok [])
  | (u, r, i, off, bs) :: rest => do
    match (<- get).task u with
    | none => translate key c rest
    | some t =>
      let w : Who := { asid := t.asid, cell := c, key := key }
      match <- attempt (rowCheck w (tkResh t.desc) (tkResoff t.desc + i * tkResstride t.desc + off) bs.length) with
      | .error (k, info) => pure (.error (parkCause true k, info.addr.getD 0, r))
      | .ok x =>
        match <- translate key c rest with
        | .error e => pure (.error e)
        | .ok xs => pure (.ok ((r, rowStore w x bs) :: xs))

/-- The pieces of an owner's rows in a pass. -/
def Pass.pieces (p : Pass) (owner : Nat) : List Piece :=
  p.rows.zipIdx.flatMap fun (x, r) => if x.owner == owner && !x.parked then
    (p.out.filter fun y => y.1 == r).map fun y => (x.uid, r, x.idx, y.2.1, y.2.2) else []

/-- Scatter a pass: answers the owners that park, with cause, address and row. Rows are stored in ascending order. -/
def scatterPass (c : Nat) (p : Pass) : M (List (Nat × Cause × Nat × Nat)) := do
  let owners := ((p.rows.filter fun x => !x.parked && decide (x.owner < 1024)).map (·.owner)).eraseDups
  let rs <- owners.mapM fun o => do
    let x <- translate (passKey c) c (p.pieces o)
    pure (o, x)
  let stores := rs.flatMap fun (_, x) => match x with
    | .ok ys => ys
    | .error _ => []
  (List.range p.rows.length).forM fun r => (stores.filter fun y => y.1 == r).forM fun y => y.2
  modify fun s => s.drainPosted fun x => x.src == c
  pure (rs.filterMap fun (o, x) => match x with
    | .error (k, addr, r) => some (o, k, addr, r)
    | .ok _ => none)

/-- A task steered here ends: its results, flags and cost go to its device, and of one that a trap ended the first row not scattered
(R145, R448). -/
def State.sendResults (s : State) (p : Pass) (u : Nat) (st : Status) (row : Nat := 0) : State :=
  match s.task u with
  | none => s
  | some t =>
    match t.origin with
    | none => s
    | some d =>
      let pieces := (p.pieces t.owner).filterMap fun (v, _, i, off, bs) => if v == u then some (i, off, bs) else none
      let s := { s with rm := { s.rm with tasks := s.rm.tasks.filter fun x => x.uid != u && x.orig != some u } }
      (s.settleWeight (tkWid t.desc)).settleImage (tkHash t.desc) |>.emit (.results d t.id pieces t.vfl t.units st row)

/-- A task of a pass that ends: its scatter is done, or the epilogue's trap ends it (R448). -/
def State.endInPass (s : State) (p : Pass) (u : Nat) : State :=
  let left := (p.rows.zipIdx.filter fun (x, r) => x.uid == u && !(p.out.any fun y => y.1 == r)).map (·.2)
  let away := (s.task u).any fun t => t.origin.isSome
  match p.trapped, left with
  | some k, r :: _ =>
    if away then s.sendResults p u (.cause k) r
    else
      let o := ((s.task u).bind (·.orig)).getD u
      s.finishTask o (.cause k) (wd r)
  | _, _ =>
    if away then s.sendResults p u .ok
    else s.portion u

/-- The end of a pass whose rows are stored and performed: owners park whose rows could not be stored, except after a trap (R448), and the
others' tasks complete. -/
def State.endPass (s : State) (c : Nat) (p : Pass) (bad : List (Nat × Cause × Nat × Nat)) : State :=
  let s := if p.trapped.isSome then
      s.modPass c fun p => { p with out := p.out.filter fun y => !(p.rows[y.1]?).any fun x => bad.any fun b => b.1 == x.owner }
    else bad.foldl (fun s (o, k, addr, r) => s.parkOwner c o r true k addr) s
  match s.pass c with
  | none => s
  | some p =>
    let us := ((p.rows.filter fun x => !x.parked).map (·.uid)).eraseDups
    let s := us.foldl (fun s u => s.endInPass p u) s
    let s := { s with rm := { s.rm with passes := Tab.del s.rm.passes c } }
    ((s.settleWeight p.wid).settleImage p.hash).applyAllot c

/-- PASS_SCATTER_DONE (R131, R135, R136, R141, R448, R497), an event: pass cell `a`, whose epilogue has ended. The rows are stored, and
the tasks complete when all are performed (R39). -/
def execPassScatterDone (s : State) : Res :=
  let c := s.arg.a
  match s.pass c with
  | none => .next s
  | some p =>
    if p.st != .epilogue || !p.ended then .next s
    else
      let stored := match p.stored with
        | some bad => (s, HubRes.done bad)
        | none => s.hubTry (passKey c) (scatterPass c p)
      match stored with
      | (s, .done bad) =>
        let s := s.modPass c fun p => { p with stored := some bad }
        .next (if s.outstandingOf (passKey c) fun _ => true then s else s.endPass c p bad)
      | (s, _) => .next s

/-! ### Resuming and discarding (R138, R139, R498) -/

/-- Queue a task again, with a deadline of now (R138). -/
def State.requeue (s : State) (u : Nat) : State :=
  let s := s.modTask u fun t =>
    { t with st := .queued, deadline := s.now, accepted := s.now, due := true, order := s.rm.nextOrder }
  { s with rm := { s.rm with nextOrder := s.rm.nextOrder + 1 } }

/-- Rows of a task, or of its remainder, are parked and are not being resumed. -/
def State.parkedStill (s : State) (u : Nat) : Bool :=
  s.rm.parked.any fun e => !e.resuming && e.tasks.any fun v => v == u || ((s.task v).bind (·.orig)) == some u

/-- The state of a task some of whose parked rows are resumed (R140): in a pass again, unless others stay parked; queued again
where the pass of its other rows was lost (R493). -/
def State.unpark (s : State) (u : Nat) : State :=
  match s.task u with
  | none => s
  | some t =>
    if t.st != .parked || s.parkedStill u then s
    else if t.lost then (s.modTask u fun t => { t with lost := false }).requeue u
    else s.modTask u fun t => { t with st := .inPass }

/-- Resume the parked rows of an owner that share a pass with a task (R138). `again` is what becomes of a task whose rows
parked at a gather for another device (R145). -/
def State.resumeTask (s : State) (again : Nat → State → State) (a : Nat) (id : BitVec 32) : State :=
  let names := fun (e : Parked) => e.owner == a && !e.resuming && e.tasks.any fun u => (s.task u).any fun t => t.id == id
  let mine := s.rm.parked.filter names
  let stay := s.rm.parked.filter fun e => !(names e && !e.scatter)
  let s := { s with rm := { s.rm with parked := stay.map fun e => if names e then { e with resuming := true } else e } }
  mine.foldl (fun s e =>
    let origs := e.tasks.filterMap fun u => (s.task u).bind (·.orig)
    let s := if e.scatter then s else e.tasks.foldl (fun s u => if e.cell = 256 then again u s else s.requeue u) s
    (e.tasks ++ origs).foldl State.unpark s) s

/-- RESUMED_SCATTER_DONE (R138, R498), an event: pass cell `a` (256 for rows staged for another device), owner `b`. -/
def execResumedScatterDone (s : State) : Res :=
  let c := s.arg.a
  let o := s.arg.b
  let mine := fun (e : Parked) => e.cell == c && e.owner == o && e.resuming
  match s.rm.parked.find? mine with
  | none => .next s
  | some e =>
    let due := fun (s : State) => s.outstandingOf (passKey c) fun _ => true
    let rest := s.rm.parked.eraseP mine
    if e.stored then
      .next (if due s then s else e.tasks.foldl State.portion { s with rm := { s.rm with parked := rest } })
    else
    let work : M (Except (Cause × Nat × Nat) Unit) := do
      match <- translate (passKey c) c e.kept with
      | .error x => pure (.error x)
      | .ok ys =>
        ys.forM fun y => y.2
        modify fun s => s.drainPosted fun x => x.src == c
        pure (.ok ())
    match s.hubTry (passKey c) work with
    | (s, .done (.ok ())) =>
      .next (if due s then { s with rm := { s.rm with parked := s.rm.parked.eraseP mine ++ [{ e with stored := true }] } }
        else e.tasks.foldl State.portion { s with rm := { s.rm with parked := s.rm.parked.eraseP mine } })
    | (s, .done (.error (k, addr, r))) =>
      let e' := { e with resuming := false }
      let s := { s with rm := { s.rm with parked := s.rm.parked.eraseP mine ++ [e'] } }
      .next (((s.markParked e.tasks r).noteParked e' k addr).discardStopped o)
    | (s, _) => .next s

end Sys2Proof.Machine
end

