-- ==== Sys2Proof/Machine/Barker.lean ====
section
/-! DEFINITION. The Barker: advertisements (R142, R143), steering and steered tasks (R144, R145); the resume doorbell (R138);
and the strand's LAUNCH, TSUB, GRAPH.ARM and TRESUME (R103 to R105, R221, R222). -/
namespace Sys2Proof.Machine

/-! ### Advertisements (R142, R143) -/

/-- The queue field that this device advertises (R142). -/
def State.ownQueue (s : State) : Nat :=
  let dies := (List.range 4).filter fun d => s.caps.getLsbD (12 + d)
  min 65535 (((minBy s.queuedCost dies).map s.queuedCost).getD 0 / 1024)

/-- The device talks to the pod. -/
def State.fabricUp (s : State) : Bool := s.hasFabric && s.fab.fv && s.boot.start == .up

/-- The advertisement of one identity: this device's number and its queue field (R142). -/
def State.advertOf (s : State) (all : Bool) (wid : Word) : Out :=
  match s.weight wid with
  | some w => if w.withdrawn then .advert all wid s.fab.devno 65535 true else .advert all wid s.fab.devno s.ownQueue false
  | none => .advert all wid s.fab.devno 65535 true

/-- BARKER_ADVERTISE_TABLE (R142), an event. -/
def execBarkerAdvertiseTable (s : State) : Res :=
  .next (if s.fabricUp then (s.hub.weights.filter fun p => !p.2.withdrawn).foldl (fun s p => s.emit (s.advertOf true p.1)) s else s)

/-- BARKER_ADVERTISE_CHANGE (R142), an event: identity `w[0]`. -/
def execBarkerAdvertiseChange (s : State) : Res := .next (if s.fabricUp then s.emit (s.advertOf false (nth s.arg.w 0)) else s)

/-- Enter an advertisement (R143); of several pairs with the highest queue field the first in the table gives way (log 89). -/
def State.enterAdvert (s : State) (x : Advert) : State :=
  let same := fun (y : Advert) => y.wid == x.wid && y.peer == x.peer
  let tab := s.hub.barker
  let tab' :=
    if tab.any same then tab.map fun y => if same y then x else y
    else if tab.length < 32768 then tab ++ [x]
    else match maxBy (fun (y : Advert) => y.queue) tab with
      | some y => if x.queue < y.queue then tab.erase y ++ [x] else tab
      | none => tab
  { s with hub := { s.hub with barker := tab' } }

/-- BARKER_ADVERT_RECEIVE (R142, R143), an event: peer `a`, identity `w[0]`, queue field `b`; `c` of 1 withdraws. -/
def execBarkerAdvertReceive (s : State) : Res :=
  let x := s.arg
  let wid := nth x.w 0
  if !s.fabricUp then .next s
  else if x.c = 1 then
    .next { s with hub := { s.hub with barker := s.hub.barker.filter fun y => !(y.wid == wid && y.peer == x.a) } }
  else .next (s.enterAdvert { wid := wid, peer := x.a, queue := min 65535 x.b, fresh := s.now })

/-- BARKER_PAIR_EXPIRE (R143), an event: pairs not refreshed for 300 µs go. -/
def execBarkerPairExpire (s : State) : Res :=
  .next { s with hub := { s.hub with barker := s.hub.barker.filter fun y => decide (s.now < y.fresh + 300 * us) } }

/-! ### Steering (R144, R145) -/

/-- The advertiser with the lowest queue field that has not refused: this device first among equals, then the lowest number. -/
def State.steerTo (s : State) (wid : Word) (refused : List Nat) : Option Nat :=
  let me := s.fab.devno
  let own := match s.weight wid with
    | some w => if w.withdrawn || refused.contains me then [] else [(me, s.ownQueue)]
    | none => []
  let far := if s.hasFabric then
      (s.hub.barker.filter fun y => y.wid == wid && y.peer != me && !refused.contains y.peer).map fun y => (y.peer, y.queue)
    else []
  (minBy (fun (p : Nat × Nat) => p.2 * 4096 + (if p.1 == me then 0 else p.1 + 1)) (own ++ far)).map (·.1)

/-- Gather the activation rows of a task into the staging area (R145). -/
def gatherStage (t : Task) (n : Nat) : M (List RowRes) := (List.range (tkRows t.desc)).mapM fun i => gatherAct (taskKey t.uid) 256 t i n

/-- Park a task's rows at the staging area (R145, R135). -/
def State.parkStaged (s : State) (t : Task) (scatter : Bool) (row addr : Nat) (k : Cause) (kept : List Piece) : State :=
  let e : Parked := { cell := 256, owner := t.asid, tasks := [t.uid], scatter := scatter, kept := kept }
  let s := { s with rm := { s.rm with parked := s.rm.parked ++ [e] } }
  (s.markParked [t.uid] row).noteParked e k addr

/-- A task whose rows are gathered goes to another device, or parks with the first row that failed. -/
def State.sendAway (s : State) (t : Task) (d : Nat) (rs : List RowRes) : State :=
  match (rs.zipIdx.find? fun x => match x.1 with
      | .error _ => true
      | .ok _ => false) with
  | some (.error (k, addr), i) =>
    ((s.modTask t.uid fun t => { t with target := some d }).parkStaged t false i addr k []).discardStopped t.asid
  | _ =>
    let rows := rs.map fun x => match x with
      | .ok bs => bs
      | .error _ => []
    (s.modTask t.uid fun t => { t with st := .away, target := some d }).emit (.steer d t.id t.desc rows)

/-- Check 4 of R37 at this device, made when it is itself the target (R37, R145). -/
def State.lacksWeight (s : State) (d : List Word) : Bool :=
  let c := (s.taskClass (tkHash d) (tkShape d)).getD {}
  tkWid d == 0 || match s.weight (tkWid d) with
    | some w => w.withdrawn || c.k != w.k || decide (w.n < c.n)
    | none => true

/-- Where a task goes, and the devices that have refused it: this device refuses one whose identity it lacks (R144, R145). -/
def State.aimFor (s : State) (d : List Word) (refused : List Nat) : Option Nat × List Nat :=
  let me := s.fab.devno
  let aim := s.steerTo (tkWid d) refused
  if aim == some me && s.lacksWeight d then
    let refused := refused ++ [me]
    (if 4 ≤ refused.length then none else s.steerTo (tkWid d) refused, refused)
  else (aim, refused)

/-- Steer a task (again): it waits to be accepted, by this device or as the one that goes to its target (R144, R145). -/
def State.steerAgain (s : State) (u : Nat) : State :=
  match s.task u with
  | none => s
  | some t =>
    let (aim, refused) := s.aimFor t.desc t.refused
    let s := s.modTask u fun t => { t with refused := refused }
    match aim with
    | none => s.finishTask u .notResident t.parkAddr
    | some d => s.modTask u fun t => { t with st := .pending, target := if d = s.fab.devno then none else some d }

/-- TASK_ACCEPT (R124, R125, R145), an event: the task with the model's number `a`. One whose target is another device is gathered
and sent there. -/
def execTaskAccept (s : State) : Res :=
  let u := s.arg.a
  match s.task u with
  | none => .next s
  | some t =>
    let held := s.hub.pool.any fun c => c.task == some u && !c.started
    let pool := s.hub.pool.filter fun c => c.task != some u
    if t.st != TaskSt.pending || held || !s.mayRun t.asid || !s.hubUp then .next s
    else if t.target.isSome then
      match t.target, s.hubTry (taskKey t.uid) (gatherStage t (s.groupClass [t]).abytes) with
      | some d, (s, .done rs) => .next (({ s with hub := { s.hub with pool := pool } } : State).sendAway t d rs)
      | _, (s, _) => .next s
    else if !s.tileRoom t.die (tkBulk t.desc) then .next s
    else
      let s := s.modTask u fun t =>
        { t with st := .queued, order := s.rm.nextOrder, accepted := s.now, deadline := s.now + 500 * tkPatience t.desc,
                 due := tkPatience t.desc == 0 }
      .next { s with rm := { s.rm with nextOrder := s.rm.nextOrder + 1 },
                     hub := { s.hub with pool := pool } }

/-- A task that `c` steered and whose target is device `d`. -/
def State.awayTask (s : State) (d id : Nat) : Option Task :=
  s.rm.tasks.find? fun t => t.st == .away && t.target == some d && t.id.toNat == id && t.origin.isNone

/-- STEER_REFUSED (R145), an event: peer `a`, task id `c`. The hub steers again up to three times. -/
def execSteerRefused (s : State) : Res :=
  match s.awayTask s.arg.a s.arg.c with
  | none => .next s
  | some t =>
    let s' := s.modTask t.uid fun t => { t with refused := t.refused ++ [s.arg.a] }
    if 3 ≤ t.refused.length then .next (s'.finishTask t.uid .notResident t.parkAddr)
    else .next (s'.steerAgain t.uid)

/-- STEERED_TASK_ARRIVE (R37, R145), an event: peer `a`, task id `c`, the descriptor in `w`, its activation rows in `bytes`.
Checks 1 to 5 of R37 are made here; a task that fails one is refused. -/
def execSteeredTaskArrive (s : State) : Res :=
  let x := s.arg
  if !s.fabricUp then .next s
  else
    let n := (s.checkTask 0 0 x.w true false false).getD 6
    if n < 6 then .next (s.emit (.refuse x.a (BitVec.ofNat 32 x.c)))
    else
      let len := ((s.taskClass (tkHash x.w) (tkShape x.w)).getD {}).abytes
      let acts := (List.range (tkRows x.w)).map fun i => (x.bytes.drop (i * len)).take len
      let t : Task := { id := BitVec.ofNat 32 x.c, desc := x.w, origin := some x.a, acts := acts, owed := 1 }
      .next (s.addTask { t with die := s.dieFor t }).1

/-- The pieces of an event's argument: a header word for each, with the row's index in [63:48], the offset within the row in
[47:16] and the length in [15:0]. -/
def pieceList (u : Nat) : List Word → List Byte → List Piece
  | [], _ => []
  | h :: hs, bs => (u, fld h 48 16, fld h 48 16, fld h 16 32, bs.take (fld h 0 16)) :: pieceList u hs (bs.drop (fld h 0 16))

/-- Every cause, for the status that a target reports: a trap of any kind ends an epilogue (R448). -/
def allCauses : List Cause :=
  [.illLen, .illOp, .illClass, .illRes, .illSrc, .illPriv, .doubleTrap, .fetchBound, .fetchAlign, .nestInvalid, .nestMismatch,
   .forkState, .ldstAlign, .rasSpillBound, .retUnderflow, .unitAbsent, .ctlInvalid, .semTarget, .vaultBound, .vaultAlign,
   .vqueueFull, .vdeferState, .vqueueFmt, .tileInvalid, .tileExtent, .poison, .pathRes, .pageFault, .pageRo, .pathKind,
   .vaultAbsent, .handleInvalid, .handleBound, .handleRo, .jobInvalid, .qwInvalid, .jobRange, .syncPath, .barState,
   .launchInvalid, .taskInvalid, .graphInvalid, .illShape, .illPrec, .childSpillFull, .collInvalid, .collName, .collBuf,
   .collTable, .bankProg, .bankAddr, .peerAbsent, .sysInvalid, .teamHalt, .cellLost, .faultqDrop, .semOverflow, .mePoison,
   .memUe, .barOverrun, .bankStop, .parkGatherXlate, .parkScatterXlate, .parkPoison, .parkBound, .peerLost, .migrateReq,
   .remoteFault, .leaseNotice, .keyNone, .keySlotsFull] ++ (List.range 32).map fun n => .soft (BitVec.ofNat 5 n)

/-- A task whose results are all performed completes (R39). -/
def State.landTask (s : State) (t : Task) : State :=
  match t.ending with
  | some (st, addr) => if s.outstandingOf (taskKey t.uid) fun _ => true then s else s.finishTask t.uid st (wd addr)
  | none => s

/-- Every such task. -/
def State.landTasks (s : State) : State := (s.rm.tasks.filter fun t => t.ending.isSome).foldl State.landTask s

/-- STEERED_RESULTS_RECEIVE (R145, R397, R448), an event: peer `a`, task id `c`, flags in `b` [4:0], the cause that ended the target's
epilogue in `b` [14:5] and the first row not scattered from bit 15 on, plane-cycles `d`, result pieces in `w` and `bytes`. -/
def execSteeredResultsReceive (s : State) : Res :=
  let x := s.arg
  match s.awayTask x.a x.c with
  | none => .next s
  | some t =>
    let pieces := pieceList t.uid x.w x.bytes
    let cause := allCauses.find? fun k => k.code == x.b / 32 % 1024
    let work : M (Except (Cause × Nat × Nat) Unit) := do
      match <- translate (taskKey t.uid) 256 pieces with
      | .error e => pure (.error e)
      | .ok ys =>
        ys.forM fun y => y.2
        modify fun s => s.drainPosted fun x => x.src == 256
        pure (.ok ())
    let got := fun (s : State) => (s.modTask t.uid fun t => { t with vfl := t.vfl ||| BitVec.ofNat 5 x.b, target := none }).chargeTask t.uid x.d
    match s.hubTry (taskKey t.uid) work with
    | (s, .done (.ok ())) =>
      let end_ := match cause with
        | some k => (Status.cause k, x.b / 2 ^ 15)
        | none => (.ok, t.parkAddr.toNat)
      .next ((got s).modTask t.uid fun t => { t with ending := some end_ }).landTasks
    | (s, .done (.error (k, addr, r))) => .next (((got s).parkStaged t true r addr k pieces).discardStopped t.asid)
    | (s, _) => .next s

/-! ### Resuming (R138, R222) -/

/-- A task whose rows parked in the staging area is steered again. -/
def steerParked (u : Nat) (s : State) : State := s.steerAgain u

/-- RESUME_DOORBELL (R138), an event: function `a`, task id `c`. -/
def execResumeDoorbell (s : State) : Res :=
  let x := s.arg
  if s.boot.start != .up then .next s
  else .next ((s.ctxs.filter fun p => p.2.fn == x.a).foldl (fun s p => s.resumeTask steerParked p.1 (BitVec.ofNat 32 x.c)) s)

/-- TRESUME (R222, R138, R498). -/
def execTresume (x : S32) (s : State) : Res :=
  strandOp 4 x.pg (do
    let id <- sreg x.rs1
    let w <- theWho
    release w 3
    modify fun s => s.resumeTask steerParked w.asid (id.extractLsb' 0 32)) s

/-! ### LAUNCH, TSUB and GRAPH.ARM (R103 to R105, R221) -/

/-- Read a record of `n` bytes whole, as an acquire at DEVICE scope: its bytes, and whether it is aligned. -/
def readRecord (x : S64) (n align : Nat) : M (List Byte × Bool) := do
  let (h, off) <- memOp64 x
  let w <- theWho
  let (fa, _) <- handleAt w.asid h off n false
  let bs <- loadFlat w fa n
  acquire w 3
  pure (bs, fa % align == 0)

/-- The issuing team's grid. -/
def theGrid : M Grid := do
  let t <- team
  pure (((<- get).grid t.grid).getD {})

/-- Find a place for a child of the issuing cell, or `CHILD_SPILL_FULL` (R104, R105). -/
def placeFor (waited : Bool) : M (Nat × Bool) := do
  let die := (<- theCell) / 64
  let t <- team
  match (<- get).childPlace t.asid die waited with
  | some spill => pure (die, spill)
  | none => trap .childSpillFull

/-- LAUNCH (R221, R19, R20, R97, R103 to R105). -/
def execLaunch (x : S64) (s : State) : Res :=
  strandOp 8 x.r.pg (whole do
    let (bs, al) <- readRecord x 128 128
    let r := bytesWords 16 bs
    let t <- team
    let g <- theGrid
    match (<- get).checkLaunch t.asid g.fn r al false with
    | some n => trap .launchInvalid { detail := n }
    | none =>
      let (die, spill) <- placeFor (lrEvkind r == 2)
      let cls := min (lrPrio r) g.cls
      let s <- get
      let (s, id) := s.mkGrid { asid := t.asid, fn := g.fn, queue := g.queue, cls := cls, lrec := r, parent := some t.ref }
      set (s.addChild { asid := t.asid, die := die, cls := cls, grid := some id, spilled := spill })
      setSreg x.r.rd (wd id)) s

/-- TSUB, with peer ANY (R221, R37, R38, R103 to R105, R124, R144). A task that is steered to another device waits in the child
pool like any other, and goes when it is accepted (log 96). -/
def execTsub (x : S64) (s : State) : Res :=
  strandOp 8 x.r.pg (whole do
    let (bs, al) <- readRecord x 64 64
    let d := bytesWords 8 bs
    let t <- team
    let g <- theGrid
    let any := x.r.md.getLsbD 0
    match (<- get).checkTask t.asid g.fn d al false any with
    | some n => trap .taskInvalid { detail := n }
    | none =>
      let die := (<- theCell) / 64
      let k := { mkTask t.asid g.fn d with submitter := some t.ref, die := die }
      let s <- get
      let (aim, refused) := if any then s.aimFor d [] else (some s.fab.devno, [])
      let (die, spill) <- placeFor (tkCsemv d || tkEvkind d == 2)
      let (s, id, u) := s.submitTask { k with target := aim.filter (· != s.fab.devno), refused := refused }
      match aim with
      | none => set (s.finishTask u .notResident 0)
      | some _ => set (s.addChild { asid := t.asid, die := die, cls := min (tkPrio d) g.cls, task := some u, spilled := spill })
      setSreg x.r.rd (id.zeroExtend 64)) s

/-- GRAPH.ARM (R221, R44, R87). -/
def execGraphArm (x : S64) (s : State) : Res :=
  strandOp 8 x.r.pg (whole do
    let (hd, _) <- readRecord x 64 64
    let hw := bytesWords 8 hd
    let t <- team
    let g <- theGrid
    let n := if ghOk hw then ghNodes (nth hw 0) else 0
    let (bs, _) <- readRecord x (64 * (n + 1)) 64
    let nodes := (List.range n).map fun i => bytesWords 8 ((bs.drop (64 * (i + 1))).take 64)
    need (graphOk hw nodes false) .graphInvalid
    let p := x.r.rd.toNat % 8
    match (<- get).freePlace true with
    | none => setPred p false
    | some k =>
      modify fun s => s.openGraph k
        { asid := t.asid, fn := g.fn, queue := g.queue, cls := g.cls, armed := some t.ref, hdr := nth hw 0, nodes := nodes }
      setPred p true) s

end Sys2Proof.Machine
end

