-- ==== Sys2Proof/Machine/Stage.lean ====
section
/-! DEFINITION. Stage switches (R107 to R111, R232) and pre-emption (R469 to R471). -/
namespace Sys2Proof.Machine

/-! ### Stopping a team's streams -/

/-- Clamp every nest in RUN, and stop every engine stream that is not inside a running nest (R108, R163, R470). -/
def Team.clampAll (t : Team) : Team :=
  let t := (t.clamp false true).clamp true true
  let stop := fun (x : EStream) => if x.st == .run && x.nest.isNone then { x with stopped := true } else x
  let t := { t with vec := stop t.vec, mat := stop t.mat, cpy := stop t.cpy }
  if t.vec.stopped then t.parkVamo else t

/-- Every engine stream stops at its next boundary, inside its nest if need be (R471). -/
def Team.stopAll (t : Team) : Team :=
  let stop := fun (x : EStream) => if x.st == .run then { x with stopped := true } else x
  { t with vec := stop t.vec, mat := stop t.mat, cpy := stop t.cpy }.parkVamo

/-- No engine stream issues any longer. -/
def Team.stilled (t : Team) : Bool := engines.all fun e => (t.eng e).st != .run || (t.eng e).held || (t.eng e).stopped

/-- The cell has drained (R470, R108): its streams are still and every product has landed. -/
def State.drainedCell (s : State) (c : Nat) : Bool :=
  match (s.cell c).act with
  | some t => t.stilled && (s.cell c).sh.array.isEmpty
  | none => true

/-- What a hard stop keeps of the shared state (R111, R473): the banks that are not dirty are left out, the latches too. -/
def Shared.kept (x : Shared) : Shared :=
  let x := x.clearLatches
  { x with acc := x.acc.filter fun p => if p.1 < 16384 then x.dirty0 else x.dirty1 }

/-! ### Switches (R107 to R111) -/

/-- The hard stop of a switch: the shared state goes to the outgoing stage's half of the switch save store (R108, R111). -/
def State.hardSwitch (s : State) (c : Nat) : State :=
  let s := s.modAct c Team.stopAll
  s.modCell c fun x =>
    { (x.setSave x.active (some x.sh.kept)) with
      sw := x.sw.map fun w => { w with ready := true, hard := true }, sh := { x.sh with landings := [], array := [] } }

/-- The vector stream stands inside a deferral batch or at an interrupted VAMO: only a hard stop can switch it out (R108). -/
def Team.mustHard (t : Team) : Bool := t.batch || t.vrstidx != 0

/-- Start a switch away from the active stage (R108): a strand that waits is taken at its boundary (R198). -/
def State.startSwitch (s : State) (c : Nat) : State :=
  let s := s.modAct c fun t => { t.clampAll.interrupted with switching := t.switching }
  let s := s.modCell c fun x => { x with sw := some { start := s.now } }
  match (s.cell c).act with
  | some t => if t.mustHard then s.hardSwitch c else s
  | none => s

/-- STAGE.SW (R107, R232): completes at once when the other stage holds no team; otherwise the strand waits at it until the
switch ends, and the flip moves it past. -/
def execStageSw (x : S32) (s : State) : Res :=
  strandOp 4 x.pg (do
    let c <- theCell
    let y := (<- get).cell c
    if (y.team !y.active).isSome then
      modTeam fun t => { t with switching := true }
      modify fun s => s.startSwitch c
      wait) s

/-- Class of a team's grid. -/
def State.teamClass (s : State) (t : Team) : Nat := ((s.grid t.grid).map (·.cls)).getD 0

/-- What the strand of a team stood at when it was interrupted is there: the team is ready to run. -/
def Team.wakes (t : Team) : Bool :=
  match t.stood with
  | none => true
  | some (i, c) => if i < 256 then decide (c ≤ t.sem i) else !t.evq.isEmpty

/-- The inactive stage's team is ready to run and of strictly higher class (R107). -/
def State.wantsSwitch (s : State) (c : Nat) : Bool :=
  let x := s.cell c
  match x.act, x.team !x.active with
  | some t, some u => x.sw.isNone && t.pre.isNone && t.epilogue.isNone && !t.ended && !u.ended && !u.halted && u.pre.isNone
      && u.wakes && decide (s.teamClass t < s.teamClass u)
  | _, _ => false

/-- HUB_STAGE_SWITCH (R107), an event: cell `a`. -/
def execHubStageSwitch (s : State) : Res := .next (if s.wantsSwitch s.arg.a && s.cellUp s.arg.a then s.startSwitch s.arg.a else s)

/-- SWITCH_HARD_STOP (R108), an event: cell `a`, 336 cycles after the start of a switch that has not drained. -/
def execSwitchHardStop (s : State) : Res :=
  let c := s.arg.a
  match (s.cell c).sw with
  | some w =>
    if !w.ready && !s.drainedCell c && decide (336 ≤ cyclesOf s.now - cyclesOf w.start) then .next (s.hardSwitch c) else .next s
  | none => .next s

/-- A drained switch whose vector stream has come to stand where only a hard stop can switch it out takes that stop (R108). -/
def State.settleSwitch (s : State) (c : Nat) : State :=
  match (s.cell c).sw, (s.cell c).act with
  | some w, some t => if !w.hard && s.drainedCell c && t.mustHard then s.hardSwitch c else s
  | _, _ => s

/-- STAGE_SWITCH_FLIP (R108, R109, R111), an event: cell `a`, drained or hard stopped. The outgoing team is charged up to the
flip; of a drained one the pending results are frozen. It resumes after its STAGE.SW, unless a trap has taken its strand from
there (log 98). -/
def execStageSwitchFlip (s : State) : Res :=
  let c := s.arg.a
  let s := s.settleSwitch c
  let x := s.cell c
  match x.sw with
  | some w =>
    if (w.hard || s.drainedCell c) && (x.team !x.active).isSome then
      let s := s.chargeCell (.here c x.active)
      let s := s.modTeam (.here c x.active) fun t =>
        { t with frozen := if w.hard then [] else x.sh.landings, pc := if t.switching then t.pc + 4 else t.pc, switching := false }
      .next (s.flipTo c !x.active)
    else .next s
  | none => .next s

/-! ### Pre-emption (R469 to R471, R110) -/

/-- A switch is cancelled: what its hard stop saved comes back (R110). -/
def State.cancelSwitch (s : State) (c : Nat) : State :=
  let x := s.cell c
  match x.sw with
  | none => s
  | some w =>
    let x := if w.hard then
        match x.save x.active with
        | some v => { (x.setSave x.active none) with sh := v }
        | none => x
      else x
    (s.setCell c { x with sw := none }).modAct c fun t => { t with switching := false }

/-- A switch is cancelled for a request to the incoming team: the outgoing one goes on (R110, log 99). -/
def State.abandonSwitch (s : State) (c : Nat) : State :=
  if (s.cell c).sw.isSome then (s.cancelSwitch c).modAct c fun t => if t.pre.isNone then t.restart else t else s

/-- Request pre-emption of a team (R469, R470): a team of an inactive stage issues nothing and has stopped already. A switch that
is under way in its cell is cancelled (R110). -/
def State.requestPre (s : State) (l : Loc) (why : PreWhy) : State :=
  match l, s.teamAt l with
  | .here c b, some t =>
    if t.ended || t.epilogue.isSome then s
    else if t.pre.isSome then (if why == .stop then s.modTeam l fun t => { t with pre := t.pre.map fun p => (.stop, p.2) } else s)
    else if (s.cell c).active == b then
      (s.cancelSwitch c).modTeam l fun t => { t.clampAll.interrupted with pre := some (why, s.now) }
    else (s.abandonSwitch c).modTeam l fun t => { t with pre := some (why, s.now), halted := true }
  | _, _ => s

/-- The gang that a team belongs to, where it is resident. -/
def State.residentOf (s : State) (t : Team) : Option Resident :=
  s.hub.residents.find? fun r => r.gang.grid == t.grid && decide (r.gang.first ≤ t.no ∧ t.no < r.gang.first + r.gang.n)

/-- Why the hub would pre-empt a team now: its tenant is being stopped, its gang leaves, or its cell is to be given away. -/
def State.preReason (s : State) (l : Loc) : Option PreWhy :=
  match l, s.teamAt l with
  | .here c _, some t =>
    if t.epilogue.isSome then none
    else if !s.mayRun t.asid then some .stop
    else if (s.residentOf t).any (·.leaving) || (Tab.find s.hub.allotPend c).isSome then some .swap
    else none
  | _, _ => none

/-- PREEMPT_REQUEST (R469, R470, R110), an event: the team of cell `a`, stage `b`, which the hub has a reason to pre-empt. -/
def execPreemptRequest (s : State) : Res :=
  let l := argLoc s.arg
  match s.preReason l with
  | some w => .next (s.requestPre l w)
  | none => .next s

/-- PREEMPT_DRAINED (R470), an event: the team of cell `a`, stage `b`. -/
def execPreemptDrained (s : State) : Res :=
  let l := argLoc s.arg
  match l, s.teamAt l with
  | .here c b, some t =>
    if t.pre.isSome && !t.halted && (s.cell c).active == b && s.drainedCell c then .next (s.modTeam l fun t => { t with halted := true })
    else .next s
  | _, _ => .next s

/-- PREEMPT_HARD_STOP (R471), an event: the team of cell `a`, stage `b`, 840 cycles after the request. Products stay queued with
what they have read, and pending results stay pending. -/
def execPreemptHardStop (s : State) : Res :=
  let l := argLoc s.arg
  match l, s.teamAt l with
  | .here c b, some t =>
    match t.pre with
    | some (_, t0) =>
      if !t.halted && (s.cell c).active == b && !s.drainedCell c && decide (840 ≤ cyclesOf s.now - cyclesOf t0) then
        .next (s.modTeam l fun t => { t.stopAll with halted := true })
      else .next s
    | none => .next s
  | _, _ => .next s

/-- ASYNC_TRAP_TAKE (R464), an event: cell `a`. -/
def execAsyncTrapTake (s : State) : Res :=
  let c := s.arg.a
  match (s.cell c).act with
  | some t => if s.strandRuns c t && t.epilogue.isNone then .next (s.takeAsync c) else .next s
  | none => .next s

end Sys2Proof.Machine
end

