-- ==== Sys2Proof/Machine/Image.lean ====
section
/-! DEFINITION. Team images (R473 to R475): what a swap-out and CTX.SAVE write, and what a swap-in and CTX.LOAD read. The
layouts that R474 leaves open, and the number that stands for what an image keeps in no stated form, are the model's (log 35). -/
namespace Sys2Proof.Machine

/-! ### Blocks of memory -/

/-- The store whose key `i` holds element `i` of a list. -/
def sparseOf {α : Type} [DecidableEq α] (d : α) (xs : List α) : Sparse α :=
  (xs.zipIdx.filter fun p => p.1 != d).map fun p => (p.2, p.1)

/-- `n` bytes from `a` on, moved to offset 0. -/
def Memory.part (m : Memory) (a n : Nat) : Memory :=
  (m.filter fun p => decide (a ≤ p.1 ∧ p.1 < a + n)).map fun p => (p.1 - a, p.2)

/-- Replace `n` bytes from `a` on by those at offset 0 of another memory. -/
def Memory.blit (m : Memory) (a n : Nat) (x : Memory) : Memory :=
  (m.filter fun p => decide (p.1 < a)) ++ ((x.filter fun p => decide (p.1 < n)).map fun p => (p.1 + a, p.2))
    ++ m.filter fun p => decide (a + n ≤ p.1)

/-- Nothing about `n` local bytes at `x` calls for more than a plain copy: they exist, no line of them is poisoned, and confidential
mode is off. -/
def State.plainAt (s : State) (x n : Nat) : Bool :=
  !s.boot.on && decide (x + n ≤ frames * 65536) && !s.mem.bad.any fun p => decide (x / 64 ≤ p.1 ∧ p.1 ≤ (x + n - 1) / 64)

/-- A block at a system address (R522), as `State.sysRd` reads it. -/
def State.sysPart (s : State) (a n : Nat) : Memory :=
  let x := a % 2 ^ 52
  if a / 2 ^ 52 % 16 = 6 then
    if s.boot.on then sparseOf unlistedByte (s.sysRd a n) else s.mem.host.part x n
  else if s.plainAt x n then s.mem.phys.part x n else sparseOf unlistedByte (s.sysLocal x n)

/-- Write a block at a system address, as `State.sysWr` writes it; each local frame is counted (R329). -/
def State.sysBlit (s : State) (a n : Nat) (m : Memory) : State :=
  let x := a % 2 ^ 52
  if a / 2 ^ 52 % 16 = 6 then
    if s.boot.on then s.sysWr a (m.rdBytes 0 n) else { s with mem := { s.mem with host := s.mem.host.blit x n m } }
  else if s.plainAt x n then
    (parts x n).foldl (fun s p => s.countAccess (p.1 / 65536)) { s with mem := { s.mem with phys := s.mem.phys.blit x n m } }
  else (parts x n).foldl (fun s p => s.sysWr p.1 (m.rdBytes (p.1 - x) p.2)) s

/-- Bytes filled up to a length with zeros. -/
def padTo (n : Nat) (bs : List Byte) : List Byte := bs ++ zeros (n - bs.length)

/-- The bytes of 32-bit words. -/
def halfBytes (ws : List (BitVec 32)) : List Byte := ws.flatMap fun w => leBytes 4 w.toNat
def bytesHalves (n : Nat) (bs : List Byte) : List (BitVec 32) :=
  (List.range n).map fun i => BitVec.ofNat 32 (leNat ((bs.drop (4 * i)).take 4))

/-! ### The parts of a team image (R474) -/

def strCode : StrSt → Nat
  | .idle => 0
  | .run => 1
  | .atRdv => 2
def strOf (n : Nat) : StrSt := if n = 1 then .run else if n = 2 then .atRdv else .idle

/-- A tile descriptor as two words (R278). -/
def Tile.words (t : Tile) : List Word :=
  [wd (at_ t.full.toNat 63 + at_ t.valid.toNat 62 + at_ t.base.toNat 32 + at_ t.pitch.toNat 16 + at_ t.rows.toNat 6),
   wd (at_ t.tscale.toNat 32 + t.prec.toNat)]
def tileOf (w0 w1 : Word) : Tile :=
  { full := bitAt w0 63, valid := bitAt w0 62, rows := BitVec.ofNat 10 (fld w0 6 10), base := BitVec.ofNat 23 (fld w0 32 23),
    pitch := BitVec.ofNat 16 (fld w0 16 16), tscale := BitVec.ofNat 32 (fld w1 32 32), prec := BitVec.ofNat 32 (fld w1 0 32) }
def qwordRaw (w0 w1 : Word) : QWord :=
  { v := bitAt w0 63, esz := BitVec.ofNat 3 (fld w0 60 3), logd := BitVec.ofNat 5 (fld w0 32 5),
    base := BitVec.ofNat 23 (fld w0 0 23), head := BitVec.ofNat 32 (fld w1 32 32), tail := BitVec.ofNat 32 (fld w1 0 32) }

/-- An accumulator entry as R473 lays it out. -/
def AccE.words (a : AccE) : List Word :=
  [BitVec.ofInt 64 a.s, wd (at_ a.inv.toNat 63 + at_ a.ovf.toNat 62 + lowBits 10 a.e)]
def accRead (w0 w1 : Word) : AccE := { s := w0.toInt, e := sextNat 10 (fld w1 0 10), inv := bitAt w1 63, ovf := bitAt w1 62 }

/-- The part of a nest slot that R474 names: its shadow copy and the indices of its active copy. -/
def NestSlot.imageBytes (n : NestSlot) : List Byte :=
  padTo 512 (wordsBytes ((span 0 32).map (nth n.shadow) ++ (span 0 4).map fun i => wd (n.idx.getD i 0)))

/-- The first 6 words of a pending cause, OWNER and PEER in place of TEAMNO. -/
def FRec.imageWords (r : FRec) : List Word :=
  let w := r.words 0
  wd (at_ (fld (nth w 0) 40 24) 40 + at_ (r.owner % 1024) 10 + r.peer % 1024) :: (span 1 5).map (nth w)

/-- The team image, with its flags and the number of what it keeps in no stated form. -/
def imageMain (t : Team) (x : Shared) (step flags token : Nat) : List Byte :=
  let regs := (span 1 31).map fun r => Sparse.get 0 t.regs r
  let s0 := [wd (at_ 4 56 + at_ step 52 + flags + t.no % 2 ^ 32)] ++ regs ++ [wd t.preds.toNat, t.pc]
    ++ (span 0 16).map (nth t.ras)
    ++ [wd t.ras.length, t.rasp, t.rasbase, t.raslim, wd t.vflags.toNat, wd t.vrstidx.toNat]
  let s1 := [t.epc, t.epcv, t.epcm, t.epcc, t.tstate] ++ (span 0 8).map (nth t.frec) ++ [wd t.apend.length]
  let pend := (t.apend.flatMap FRec.imageWords).take 48
  let slot := fun (n : NestSlot) =>
    [wd (slotCode n.st), wd ((n.stop0.map (· + 1)).getD 0),
     wd (((span 0 4).map fun i => at_ (n.saved.getD i 0 % 65536) (16 * i)).foldl (· + ·) 0)]
  let eng := fun (e : EStream) => wd (strCode e.st + at_ e.held.toNat 2 + at_ e.stopped.toNat 3)
  let q := (span 0 16).flatMap (fun i => (t.qw i).words) ++ slot t.nt0 ++ slot t.nt1 ++ [eng t.vec, eng t.mat, eng t.cpy]
    ++ [t.vec.pc, t.mat.pc, t.cpy.pc]
    ++ [wd (x.full0.toNat + at_ x.full1.toNat 1 + at_ x.dirty0.toNat 2 + at_ x.dirty1.toNat 3),
        wd (x.ta0.toNat + at_ x.tb0.toNat 32), wd (x.ta1.toNat + at_ x.tb1.toNat 32), wd t.evq.length]
  let cards := (t.cards.filter fun c => c.st == .waiting).flatMap fun c => wordsBytes ((span 0 8).map (nth c.block))
  let bits := (span 0 256).map fun k => BitVec.ofNat 8 (((span 0 8).map fun i => at_ (Sparse.get false x.m (8 * k + i)).toNat i).foldl (· + ·) 0)
  padTo 512 (wordsBytes s0)
    ++ padTo 512 (padTo 496 (wordsBytes (s1 ++ pend)) ++ wordsBytes [t.scratch0, t.scratch1])
    ++ halfBytes ((span 0 256).map t.sem)
    ++ wordsBytes ((span 0 64).flatMap fun i => (Sparse.get {} t.tiles i : Tile).words)
    ++ t.nt0.imageBytes ++ t.nt1.imageBytes
    ++ (padTo 504 (wordsBytes q) ++ wordsBytes [wd token])
    ++ padTo 4096 (wordsBytes (t.evq.flatMap fun r => (span 0 8).map (nth r)))
    ++ padTo 4096 (cards.take 4096)
    ++ halfBytes ((span 0 8192).map fun k => Sparse.get 0 x.v k)
    ++ bits
    ++ padTo 256 (wordsBytes [wd t.batch.toNat, wd t.batchN] ++ (span 0 128).map fun i => BitVec.ofNat 8 (Sparse.get 0 t.origin i))
    ++ zeros 3072

/-- A bank image (R473). -/
def bankImage (x : Shared) (b : Bool) : List Byte :=
  wordsBytes ((span (16384 * b.toNat) 16384).flatMap fun k => (Sparse.get {} x.acc k : AccE).words)

/-- The images of a team; each has its place in a team slot (R475). -/
structure Images where
  main : List Byte := []
  flight : Option (List Byte) := none
  bank0 : Option (List Byte) := none
  bank1 : Option (List Byte) := none
  deriving DecidableEq, Repr

/-- The images in order, with their offsets in a team slot (R475). -/
def Images.parts (x : Images) : List (Nat × List Byte) :=
  let opt := fun (off : Nat) (y : Option (List Byte)) => match y with
    | some bs => [(off, bs)]
    | none => []
  (0, x.main) :: (opt 0xC000 x.flight ++ opt 0x14000 x.bank0 ++ opt 0x54000 x.bank1)

def Images.bytes (x : Images) : Nat := (x.parts.map fun p => p.2.length).foldl (· + ·) 0

/-- CAPS.STEP (R1). -/
def State.silicon (s : State) : Nat := s.caps.toNat / 2 ^ 28

/-- Make the images of a team with its shared state (R473), the bank images where `acc` holds; what they keep in no stated form
gets a number. -/
def State.images (s : State) (t : Team) (x : Shared) (acc : Bool) : State × Images :=
  let k := s.hub.nextImage
  let flight := !x.landings.isEmpty || !x.array.isEmpty
  let b0 := acc && x.dirty0
  let b1 := acc && x.dirty1
  let flags := at_ flight.toNat 51 + at_ b0.toNat 50 + at_ b1.toNat 49
  let im : Images :=
    { main := imageMain t x s.silicon flags k, flight := if flight then some (padTo 32768 (wordsBytes [wd k])) else none,
      bank0 := if b0 then some (bankImage x false) else none, bank1 := if b1 then some (bankImage x true) else none }
  ({ s with hub := { s.hub with images := Tab.put s.hub.images k { team := t, sh := x }, nextImage := k + 1 } }, im)

/-! ### Cards that are saved (R355, R452) -/

/-- A started card that pops indices stands at a pop whose queue is empty (R452). -/
def Team.stoppedQ (t : Team) (c : Card) : Bool :=
  c.st == .running && jQ c.op c.md && c.cur.isNone && decide ((t.qw c.qw).count = 0)

/-- A card that is saved with the team's state: not started, or stopped at an empty queue. -/
def Team.savedCard (t : Team) (c : Card) : Bool := c.st == .waiting || t.stoppedQ c

/-- Started cards that run to completion have not completed (R355, R480). -/
def Team.startedCards (t : Team) : Bool := t.cards.any fun c => (c.st == .running || c.st == .performed) && !t.stoppedQ c

/-- A started job card of any kind has not completed (R480). -/
def Team.anyStarted (t : Team) : Bool := t.cards.any fun c => c.st == .running || c.st == .performed

/-- Every started card that pops indices has come to a pop whose queue is empty, or is over (R452). -/
def Team.popsStand (t : Team) : Bool := t.cards.all fun c => c.st != .running || !jQ c.op c.md || t.stoppedQ c

/-- Saved cards rejoin a cell's scheduler, in issue order, from place `k` on (R355). -/
def Team.rejoin (t : Team) (k : Nat) : Team :=
  { t with cards := t.cards.zipIdx.map fun (c, i) => if t.savedCard c then { c with order := k + i } else c }

/-! ### Reading images -/

def imageWord (bs : List Byte) (off : Nat) : Word := wd (leNat ((bs.drop off).take 8))
def imageWords (bs : List Byte) (off n : Nat) : List Word := bytesWords n ((bs.drop off).take (8 * n))

def imageFlight (bs : List Byte) : Bool := bitAt (imageWord bs 0) 51
def imageBank (bs : List Byte) (b : Bool) : Bool := bitAt (imageWord bs 0) (if b then 49 else 50)

/-- The team image is one that a team with number `no` may load on this part (R480). -/
def imageOk (bs : List Byte) (step no : Nat) : Bool :=
  let w := imageWord bs 0
  fld w 56 8 == 4 && fld w 52 4 == step && fld w 32 17 == 0 && fld w 0 32 == no % 2 ^ 32
    && ((bs.drop 0xB400).take 3072).all (· == 0)

/-- What stands behind the number in an image. -/
def State.imageRest (s : State) (bs : List Byte) : Saved := (Tab.find s.hub.images (imageWord bs 0x11F8).toNat).getD {}

/-- A team with the state of an image in place of its own; `r` stands behind the image's number. -/
def Team.fromImage (t r : Team) (bs : List Byte) : Team :=
  let a := imageWords bs 0 64
  let b := imageWords bs 0x200 64
  let q := imageWords bs 0x1000 64
  let tiles := imageWords bs 0x800 128
  let eng := fun (x : EStream) (k : Nat) (held : Nat) =>
    { x with st := strOf (fld (nth q (38 + k)) 0 2), held := bitAt (nth b 4) held, stopped := bitAt (nth q (38 + k)) 3,
             pc := nth q (41 + k) }
  let nest := fun (x : NestSlot) (off : Nat) => { x with shadow := imageWords bs off 32 }
  let cards := r.cards.filter r.savedCard
  let mine := fun (w : Nat × Waiter × BitVec 32) => match w.2.1 with
    | .card k => cards.any fun c => c.seq == k
    | .strand => false
  let evs := imageWords bs 0x1200 512
  { t with regs := Sparse.set 0 (sparseOf 0 (a.take 32)) 0 0, preds := BitVec.ofNat 8 (fld (nth a 32) 0 8), pc := nth a 33,
           ras := ((span 34 16).map (nth a)).take (nth a 50).toNat, rasp := nth a 51, rasbase := nth a 52, raslim := nth a 53,
           vflags := BitVec.ofNat 5 (fld (nth a 54) 0 5), vrstidx := BitVec.ofNat 8 (fld (nth a 55) 0 8),
           epc := nth b 0, epcv := nth b 1, epcm := nth b 2, epcc := nth b 3, tstrm := fld (nth b 4) 10 2,
           priv := bitAt (nth b 4) 9, frec := (span 5 8).map (nth b), apend := r.apend, scratch0 := nth b 62,
           scratch1 := nth b 63, pregs := if bitAt (nth b 4) 9 then r.pregs else t.pregs, loads := [],
           sems := sparseOf 0 (bytesHalves 256 (bs.drop 0x400)),
           tiles := sparseOf {} ((span 0 64).map fun i => tileOf (nth tiles (2 * i)) (nth tiles (2 * i + 1))),
           qws := sparseOf {} ((span 0 16).map fun i => qwordRaw (nth q (2 * i)) (nth q (2 * i + 1))),
           nt0 := nest r.nt0 0xC00, nt1 := nest r.nt1 0xE00,
           vec := eng r.vec 0 4, mat := eng r.mat 1 5, cpy := eng r.cpy 2 6,
           evq := ((span 0 64).map fun i => (span (8 * i) 8).map (nth evs)).take (nth q 47).toNat,
           batch := bitAt (imageWord bs 0xB300) 0, batchN := (imageWord bs 0xB308).toNat,
           origin := sparseOf 0 (((bs.drop 0xB310).take 128).map BitVec.toNat),
           cards := t.cards.filter (fun c => !t.savedCard c) ++ cards, waiters := r.waiters.filter mine,
           footS := none, footC := none, waitPeer := none, stood := none, vpos := 0, fences := [], barWait := none,
           endw := {}, jobSeq := max t.jobSeq r.jobSeq }

/-- The shared state of an image: pending results and halted products stand behind the number in the in-flight image. -/
def Shared.fromImage (x r : Shared) (bs : List Byte) (b0 b1 : Option (List Byte)) : Shared :=
  let q := imageWords bs 0x1000 64
  let bank := fun (k : Nat) (y : Option (List Byte)) (old : Sparse AccE) => match y with
    | none => old
    | some ws => (sparseOf ({} : AccE) ((span 0 16384).map fun i => accRead (imageWord ws (16 * i)) (imageWord ws (16 * i + 8)))).map fun p => (p.1 + 16384 * k, p.2)
  let bits := ((bs.drop 0xB200).take 256).flatMap fun y => (span 0 8).map y.getLsbD
  let full := nth q 44
  { x with v := sparseOf 0 (bytesHalves 8192 (bs.drop 0x3200)), m := sparseOf false bits,
           acc := bank 0 b0 (x.acc.filter fun p => decide (p.1 < 16384)) ++ bank 1 b1 (x.acc.filter fun p => decide (16384 ≤ p.1)),
           full0 := bitAt full 0, full1 := bitAt full 1, dirty0 := bitAt full 2, dirty1 := bitAt full 3,
           ta0 := BitVec.ofNat 32 (fld (nth q 45) 0 32), tb0 := BitVec.ofNat 32 (fld (nth q 45) 32 32),
           ta1 := BitVec.ofNat 32 (fld (nth q 46) 0 32), tb1 := BitVec.ofNat 32 (fld (nth q 46) 32 32),
           landings := r.landings, array := r.array }

/-! ### Team slots (R475) -/

/-- The system address of team slot `n` of a context. -/
def State.slotAddr (s : State) (a n : Nat) : Nat :=
  let r := s.regsOf a
  r.swapbase.toNat + n * r.swapstride.toNat * 65536

/-- Write a team's images and its vault allotment to its slot (R120, R475). -/
def State.writeSlot (s : State) (t : Team) (im : Images) : State :=
  let a := s.slotAddr t.asid t.no
  let s := im.parts.foldl (fun s p => s.sysBlit (a + p.1) p.2.length (sparseOf unlistedByte p.2)) s
  s.sysBlit (a + 0xA0000) (t.valloc * 65536) t.vault

/-- Bytes of a slot. -/
def State.slotBytes (s : State) (a n off len : Nat) : List Byte := (s.sysPart (s.slotAddr a n + off) len).rdBytes 0 len

/-! ### Contexts and their caches (R459, R482) -/

/-- The context's registers as last written are in force (R459). -/
def State.adopt (s : State) (a : Nat) : State := s.modCtx a fun c => { c with regs := c.pend }

/-- Drop a context's entries from every TLB and handle cache; its walks end. -/
def State.flushCtx (s : State) (a : Nat) : State :=
  { s with mem := { s.mem with tlb := s.mem.tlb.filter fun e => e.asid != a, hcache := s.mem.hcache.filter fun e => e.asid != a,
                               walks := s.mem.walks.filter fun e => e.asid != a } }

/-! ### CTX.SAVE and CTX.LOAD (R479, R480) -/

/-- Write the issuing team's images as ERET would resume it, at an offset of a window. Started cards that pop indices run on to a pop
whose queue is empty first, and are saved as they stand there (R452). -/
def doCtxSave (acc : Bool) (h off : Nat) : M Unit := whole do
  need (off % 64 == 0) .illRes
  let x <- shared
  waitFor (x.array.isEmpty && (<- team).popsStand)
  let (t, drop) := (<- team).returned
  let (s, im) := (<- get).images t (if drop then { x with landings := [] } else x) acc
  set s
  let w <- theWho
  im.parts.forM fun p => store w h (off + p.1) true p.2
  release w 3

/-- CTX.SAVE (R479). -/
def execCtxSave (x : S32) (s : State) : Res :=
  strandOp 4 x.pg (do
    let (h, off) <- memOp32 x
    doCtxSave (x.md.getLsbD 0) h off) s
def execCtxSave64 (x : S64) (s : State) : Res :=
  strandOp 8 x.r.pg (do
    let (h, off) <- memOp64 x
    doCtxSave (x.r.md.getLsbD 0) h off) s

/-- The state a loaded image resumes in: as ERET when it was saved in privileged mode (R480, R472). -/
def Team.resumed (t : Team) : Team × Bool := if t.priv then t.returned else (t, false)

/-- Load the images at an offset of a window into the issuing team, and resume from them (R480). -/
def doCtxLoad (h off : Nat) : M Unit := do
  waitFor (!(<- team).anyStarted)
  modTeam fun t => { t with cards := t.cards.filter fun c => !t.savedCard c, waiters := t.waiters.filter fun w => w.2.1 == .strand }
  let w <- theWho
  let t <- team
  let bs <- load w h off 49152
  need (imageOk bs (<- get).silicon t.no) .sysInvalid
  let part := fun (b : Bool) (o n : Nat) => if b then some <$> load w h (off + o) n else pure none
  let fl <- part (imageFlight bs) 0xC000 32768
  let b0 <- part (imageBank bs false) 0x14000 262144
  let b1 <- part (imageBank bs true) 0x54000 262144
  let s <- get
  let fly := match fl with
    | some ws => ((Tab.find s.hub.images (imageWord ws 0).toNat).getD {}).sh
    | none => {}
  let c <- theCell
  let (t, drop) := (t.fromImage (s.imageRest bs).team bs).resumed
  let sh := ((s.cell c).sh.fromImage fly bs b0 b1).clearLatches
  let next := (s.cell c).nextCard
  modify fun s => s.modCell c fun x => { x with sh := if drop then { sh with landings := [] } else sh, nextCard := next + t.cards.length }
  modTeam fun _ => t.rejoin next
  modify fun s => (s.flushCtx w.asid).adopt w.asid

/-- CTX.LOAD (R480). -/
def execCtxLoad (x : S32) (s : State) : Res :=
  strandOp 4 x.pg (do
    let (h, off) <- memOp32 x
    doCtxLoad h off) s
def execCtxLoad64 (x : S64) (s : State) : Res :=
  strandOp 8 x.r.pg (do
    let (h, off) <- memOp64 x
    doCtxLoad h off) s

end Sys2Proof.Machine
end

