-- ==== Sys2Proof/Machine/Place.lean ====
section
/-! DEFINITION. Allotment (R112 to R115), the placing of gangs (R22, R116 to R118), whole-team swapping (R119 to R123), and the
end of a slice of the slice table (R92, R93). -/
namespace Sys2Proof.Machine

/-! ### A team at its first placement (R22 to R25) -/

/-- LVLID0 to LVLID7 of team `n` (R24, R25). -/
def lvlIds (r : List Word) (n : Nat) : List (BitVec 32) :=
  (List.range 8).map fun i =>
    if i < lrNlev r then BitVec.ofNat 32 (at_ (lrExtent r i) 16 + n / lrTeams r i % lrExtent r i) else 0x10000

/-- The team with number `n` of a grid, at its start (R22, R216). -/
def newTeam (gid : Nat) (g : Grid) (n now : Nat) : Team :=
  let r := g.lrec
  let spill := lrSpilloff r + 64 * lrSpillstride r * n
  let t : Team :=
    { asid := g.asid, grid := gid, no := n, lvl := lvlIds r n, valloc := lrVallot r, codeh := lrCodeh r, spillh := lrSpillh r,
      pc := wd (lrEntry r), rasp := wd spill, rasbase := wd spill, raslim := wd (spill + 64 * lrSpillstride r), chargeFrom := now }
  (((t.putReg 1 (wd (lrArgoff r))).putReg 2 (wd (lrArgh r))).putReg 3 (wd (lrSpillh r))).putReg 4 (wd spill)

/-- Put a team that starts into a stage: it makes its stage the active one when the other is empty (R118). -/
def State.seat (s : State) (c : Nat) (b : Bool) (t : Team) : State :=
  s.modCell c fun x =>
    let x := x.setTeam b (some t)
    if (x.team !b).isNone then
      let sh := { x.sh.clearLatches with landings := [], array := [], full0 := false, full1 := false }
      { (x.setSave b none) with active := b, sw := none, sh := sh }
    else x.setSave b none

/-- Place one team for the first time; the signals kept for it are applied (R22, R227). -/
def State.placeTeam (s : State) (gid : Nat) (c n : Nat) : State :=
  match s.grid gid with
  | none => s
  | some g =>
    let b := lrStage g.lrec
    let s := s.seat c b (newTeam gid g n s.now)
    let mine := g.kept.filter fun k => k.1 == n
    let s := s.modGrid gid fun g => { g with placed := g.placed.ins n, kept := g.kept.filter fun k => k.1 != n }
    mine.foldl (fun s k => s.semSignal (.here c b) k.2.1 k.2.2) s

/-! ### Where a gang fits (R116 to R118) -/

/-- A team belongs to a gang. -/
def Gang.holds (x : Gang) (t : Team) : Bool := t.epilogue.isNone && t.grid == x.grid && decide (x.first ≤ t.no ∧ t.no < x.first + x.n)

/-- The numbers of the teams that a waiting gang places, ascending. -/
def State.gangTeams (s : State) (x : Gang) : List Nat :=
  if x.swapped then sortBy id ((s.hub.saved.filter fun v => x.holds v.team).map fun v => v.team.no)
  else span x.first x.n

/-- Domain of a gang's level L. -/
def State.gangDom (s : State) (x : Gang) : Nat := ((s.grid x.grid).map fun g => lrGangDom g.lrec).getD 0

/-- Of free cells in ascending order, the cells for teams in ascending order, so that the teams of every unit of each level, the
outermost first, lie in one instance of its domain (R11, R16): the free cells in order, but for those that would split a unit
(R116, log 95). A level is its domain and the teams of one of its units. -/
def fitUnits : List (Nat × Nat) → List Nat → List Nat → Option (List Nat)
  | [], ns, cs => if ns.length ≤ cs.length then some (cs.take ns.length) else none
  | (dom, size) :: inner, ns, cs =>
    ((ns.map (· / size)).eraseDups).foldl (fun acc u => acc.bind fun got =>
      let rest := cs.filter fun c => got.all (· < c)
      (rest.map (domInstance dom)).eraseDups.findSome? fun i =>
        (fitUnits inner (ns.filter fun n => n / size == u) (rest.filter fun c => domInstance dom c == i)).map (got ++ ·)) (some [])

/-- The levels of a record whose units stay together (R11), outermost first. -/
def lrPromises (r : List Word) : List (Nat × Nat) :=
  ((List.range (lrNlev r)).filter fun i => lrDom r i == 1 || lrDom r i == 2 || lrDom r i == 3).reverse.map
    fun i => (lrDom r i, lrTeams r i)

/-- A team of the cell is being swapped out: no swap-in starts there (R121). -/
def State.leavingOn (s : State) (c : Nat) : Bool :=
  [false, true].any fun b => (((s.cell c).team b).bind s.residentOf).any (·.leaving)

/-- The cells on which a gang goes now, of those that `ok` allows (R116): for a single cell the die with the most free cells. -/
def State.gangCells (s : State) (a : Nat) (x : Gang) (ok : Nat → Bool) : Option (List Nat) :=
  match s.grid x.grid with
  | none => none
  | some g =>
    let free := (s.cellsHeld a).filter fun c =>
      s.cellFree a (lrStage g.lrec) (lrVallot g.lrec) c && ok c && !(x.swapped && s.leavingOn c)
    if lrGangDom g.lrec = 0 then
      let onDie := fun d => free.filter fun c => c / 64 == d
      match maxBy (fun d => (onDie d).length) (List.range 4) with
      | some d => (onDie d).head?.map fun c => [c]
      | none => none
    else fitUnits (lrPromises g.lrec) (s.gangTeams x) free

/-- The instance that is reserved for a gang that does not fit (R117). -/
def State.reserved (s : State) (a : Nat) (x : Gang) : Option Nat :=
  let dom := s.gangDom x
  let cs := s.cellsHeld a
  maxBy (fun i => (cs.filter fun c => domInstance dom c == i).length) (cs.map (domInstance dom)).eraseDups

/-! ### Placing (R117, R118, R103, R120) -/

/-- Bytes that a swap of a team moves (R120, R475). -/
def Saved.moved (v : Saved) : Nat :=
  49152 + v.team.valloc * 65536 + (if v.sh.landings.isEmpty && v.sh.array.isEmpty then 0 else 32768)
    + 262144 * (v.sh.dirty0.toNat + v.sh.dirty1.toNat)

/-- Bring a swapped-out team onto a cell: it stands there halted until its bytes have moved; its shared state waits in its half
of the save store. -/
def State.bringIn (s : State) (gid c n : Nat) : State :=
  match s.grid gid, s.hub.saved.find? fun v => v.team.grid == gid && v.team.no == n with
  | some g, some v =>
    let b := lrStage g.lrec
    let s := { s with hub := { s.hub with saved := s.hub.saved.filter fun v => !(v.team.grid == gid && v.team.no == n) } }
    let t := { v.team.rejoin (s.cell c).nextCard with halted := true, pre := none, chargeFrom := s.now }
    s.modCell c fun x =>
      let x := (x.setTeam b (some t)).setSave b (some v.sh)
      { x with nextCard := x.nextCard + t.cards.length, active := if (x.team !b).isNone then b else x.active }
  | _, _ => s

/-- Place a gang on cells. It is resident from now on, also while the bytes of a swap-in still move (R119, log 87). -/
def State.placeGang (s : State) (x : Gang) (cs : List Nat) : State :=
  let one := fun (s : State) (p : Nat × Nat) => if x.swapped then s.bringIn x.grid p.2 p.1 else s.placeTeam x.grid p.2 p.1
  let s := ((s.gangTeams x).zip cs).foldl one s
  let a := ((s.grid x.grid).map (·.asid)).getD 0
  let r : Resident := { gang := { x with swapped := false }, asid := a, since := s.now, arriving := x.swapped }
  { s with hub := { s.hub with residents := s.hub.residents ++ [r], pool := s.hub.pool.filter fun c => c.grid != some x.grid } }

/-- GANG_PLACE (R116 to R118), an event: context `a`, gang `b` of its placement queue: the head, or, while the head does not fit,
a later one outside the reserved instance. -/
def execGangPlace (s : State) : Res :=
  let a := s.arg.a
  let i := s.arg.b
  let q := (s.ctx a).places
  match q.head?, q[i]? with
  | some hd, some x =>
    if !s.hubUp || !s.mayRun a then .next s
    else
      let cells := if i = 0 then s.gangCells a x fun _ => true
        else if (s.gangCells a hd fun _ => true).isSome then none
        else
          let dom := s.gangDom hd
          let res := s.reserved a hd
          s.gangCells a x fun c => res != some (domInstance dom c)
      match cells with
      | some cs => .next ((s.modCtx a fun c => { c with places := c.places.eraseIdx i }).placeGang x cs)
      | none => .next s
  | _, _ => .next s

/-! ### Slices and swapping out (R119, R120, R122) -/

/-- Where the teams of a gang stand. -/
def State.gangLocs (s : State) (x : Gang) : List Loc := (s.teams.filter fun p => x.holds p.2).map (·.1)

/-- The cells of a gang. -/
def State.gangOn (s : State) (x : Gang) : List Nat := (s.gangLocs x).filterMap fun l => match l with
  | .here c _ => some c
  | .kept _ => none

/-- The state with the teams of some gangs gone from their cells. -/
def State.without (s : State) (xs : List Gang) : State :=
  (s.teams.filter fun p => xs.any fun x => x.holds p.2).foldl (fun s p => match p.1 with
    | .here c b => s.modCell c fun y => y.setTeam b none
    | .kept _ => s) s

/-- A resident gang is needed (R119): the head gang fits only with its cells, or its reserved instance holds them. -/
def State.needed (s : State) (r : Resident) : Bool :=
  match (s.ctx r.asid).places.head? with
  | none => false
  | some hd =>
    let leaving := (s.hub.residents.filter fun x => x.asid == r.asid && x.leaving).map (·.gang)
    let fits := fun (s : State) => (s.gangCells r.asid hd fun _ => true).isSome
    let dom := s.gangDom hd
    !fits (s.without leaving)
      && (fits (s.without (r.gang :: leaving)) || (s.gangOn r.gang).any fun c => s.reserved r.asid hd == some (domInstance dom c))

/-- A gang's slice in ns (R17). -/
def State.sliceOf (s : State) (x : Gang) : Nat :=
  let n := ((s.grid x.grid).map fun g => lrSlice g.lrec).getD 0
  if n = 0 then 2000000 else n * 10000

/-- Begin the swap-out of a gang: every team of it is pre-empted (R120). -/
def State.sendOut (s : State) (x : Gang) (why : PreWhy) : State :=
  let same := fun (r : Resident) => r.gang.grid == x.grid && r.gang.first == x.first
  let s := { s with hub := { s.hub with residents := s.hub.residents.map fun r => if same r then { r with leaving := true } else r } }
  (s.gangLocs x).foldl (fun s l => s.requestPre l why) s

/-- A gang is out: it joins the tail of its context's placement queue (R120), unless its context is being stopped (R515). -/
def State.gangOut (s : State) (x : Gang) (a : Nat) : State :=
  let s := { s with hub := { s.hub with residents := s.hub.residents.filter fun r => !(r.gang.grid == x.grid && r.gang.first == x.first) } }
  if s.mayRun a then s.modCtx a fun c => { c with places := c.places ++ [{ x with swapped := true }] } else s

/-- GANG_SLICE_END (R119), an event: the resident gang of grid `a` whose first team is `b`. -/
def execGangSliceEnd (s : State) : Res :=
  let same := fun (r : Resident) => r.gang.grid == s.arg.a && r.gang.first == s.arg.b
  match s.hub.residents.find? same with
  | none => .next s
  | some r =>
    if r.leaving && (s.gangOn r.gang).isEmpty then .next (s.gangOut r.gang r.asid)
    else if r.leaving || r.arriving || (s.ctx r.asid).places.isEmpty || decide (s.now < r.since + s.sliceOf r.gang) then .next s
    else if s.needed r then .next (s.sendOut r.gang .swap)
    else
      let later := s.hub.residents.map fun x => if same x then { x with since := x.since + s.sliceOf x.gang } else x
      .next { s with hub := { s.hub with residents := later } }

/-- The shared state that a halted team's images hold (R111, R473): its half of the save store where that holds it, as for a team
whose swap-in is not complete. -/
def Cell.sharedOf (x : Cell) (b : Bool) (t : Team) : Shared :=
  match x.save b with
  | some v => v
  | none => if x.active == b then x.sh.kept else { x.sh.kept with landings := t.frozen, array := [], acc := [], dirty0 := false, dirty1 := false }

/-- SWAP_OUT_COMPLETE (R120 to R122, R474, R475), an event: the team of cell `a`, stage `b`, which has halted and whose started
jobs have completed. -/
def execSwapOutComplete (s : State) : Res :=
  let l := argLoc s.arg
  match l, s.teamAt l with
  | .here c b, some t =>
    let leaving := (s.residentOf t).any (·.leaving)
    if !leaving || !t.halted || t.pre.isNone || t.ended || t.startedCards then .next s
    else
      let s := s.chargeCell l
      let x := (s.cell c).sharedOf b t
      let t := { t with pre := none, frozen := [] }
      let (s, im) := s.images t x true
      let v : Saved := { team := t, sh := x }
      let s := (s.writeSlot t im).chargeGrid t.grid (unitsFor v.moved s.hub.copyRate)
      let s := s.removeTeam l
      let s := { s with hub := { s.hub with saved := s.hub.saved ++ [v] } }
      match s.residentOf t with
      | some r => .next (if (s.gangOn r.gang).isEmpty then s.gangOut r.gang t.asid else s)
      | none => .next s
  | _, _ => .next s

/-- SWAP_IN_COMPLETE (R120, R472), an event: the team of cell `a`, stage `b`, whose bytes have moved back. -/
def execSwapInComplete (s : State) : Res :=
  let l := argLoc s.arg
  match l, s.teamAt l with
  | .here c b, some t =>
    match s.residentOf t with
    | none => .next s
    | some r =>
      if !r.arriving || !t.halted || t.pre.isSome then .next s
      else
        let s := s.chargeCell l
        let bytes := ((s.cell c).save b).elim (49152 + t.valloc * 65536) fun x => ({ team := t, sh := x } : Saved).moved
        let s := s.chargeGrid t.grid (unitsFor bytes s.hub.copyRate)
        let s := s.modTeam l fun t => { t.restart with halted := false, chargeFrom := s.now }
        let s := if (s.cell c).active == b && ((s.cell c).save b).isSome then s.flipTo c b else s
        let still := (s.gangLocs r.gang).any fun m => (s.teamAt m).any (·.halted)
        let same := fun (x : Resident) => x.gang.grid == r.gang.grid && x.gang.first == r.gang.first
        let rs := s.hub.residents.map fun x => if same x then { x with arriving := still } else x
        .next { s with hub := { s.hub with residents := rs } }
  | _, _ => .next s

/-! ### Allotment (R112 to R114) -/

/-- CELL_ALLOT_WRITE (R112 to R114), an event: cell `a`, the value written `w[0]`. A write of the value in force is no change, and
withdraws one that waits (log 97). -/
def execCellAllotWrite (s : State) : Res :=
  let c := s.arg.a
  let w := nth s.arg.w 0
  let kind := fld w 30 2
  let asid := if kind = 1 then fld w 19 10 else 0
  if 256 ≤ c || kind = 3 || (kind = 1 && asid = 0) || (s.boot.minimal && decide (64 ≤ c)) || (s.cell c).lost
      || s.boot.start != .up then .next s
  else
    let s := if kind = 1 then s.tenantRuns asid else s
    let v : BitVec 2 × BitVec 10 := (BitVec.ofNat 2 kind, BitVec.ofNat 10 asid)
    let pend := if v == s.allotOf c then Tab.del s.hub.allotPend c else Tab.put s.hub.allotPend c v
    let s := ({ s with hub := { s.hub with allotPend := pend } } : State).applyAllot c
    let gangs := s.hub.residents.filter fun r => (Tab.find s.hub.allotPend c).isSome && (s.gangOn r.gang).contains c
    .next (gangs.foldl (fun s r => s.sendOut r.gang .swap) s)

/-! ### The end of a slice of the slice table (R92, R93) -/

/-- The teams that the first unit of a grid needs which a function has ready and which no cells hold: the head gang of a placement
queue, or a ready launch that placement does not accept (R93). -/
def State.wantsCells (s : State) (f : Nat) : Option Nat :=
  (s.ctxsOf f).findSome? fun a =>
    match (s.ctx a).places.head?.filter fun x => (s.gangCells a x fun _ => true).isNone with
    | some x => some (s.gangTeams x).length
    | none => (s.readyItems a).findSome? fun i => ((s.itemGrid a i.2.2).filter fun r => !s.acceptsGrid a r).map lrGang

/-- Pre-empt gangs whole, in order, until `need` teams are pre-empted (R93). -/
def State.makeRoom (s : State) : Nat → List Resident → State
  | _, [] => s
  | 0, _ => s
  | need, r :: rest => (s.sendOut r.gang .slice).makeRoom (need - (s.gangLocs r.gang).length) rest

/-- SLICE_END (R92, R93), an event. -/
def execSliceEnd (s : State) : Res :=
  let i := s.hub.sliceIdx
  let e := s.sliceEntry i
  if s.now < s.hub.sliceStart + 1000 * slLen e && slValid e then .next s
  else
    match s.slicesFrom ((i + 1) % 64) with
    | [] => .next s
    | j :: _ =>
      let s := { s with hub := { s.hub with sliceIdx := j, sliceStart := s.now } }
      if !slValid e || !slPreempt e || slFn e == slFn (s.sliceEntry j) then .next s
      else
        match s.wantsCells (slFn (s.sliceEntry j)) with
        | none => .next s
        | some n =>
          let out := s.hub.residents.filter fun r => (s.ctx r.asid).fn == slFn e && !r.leaving && !r.arriving
          let desc := sortBy (fun k => 2 ^ 24 - ((out[k]?).map fun r => r.gang.first).getD 0) (List.range out.length)
          .next (s.makeRoom n (desc.filterMap fun k => out[k]?))

end Sys2Proof.Machine
end

