-- ==== Sys2Proof/Machine/Tenant.lean ====
section
/-! DEFINITION. Key slots (R489 to R491), and stopping and freeing a tenant (R513 to R517). -/
namespace Sys2Proof.Machine

/-! ### Key slots (R489 to R491) -/

/-- The slots bound to a context, ascending. -/
def State.slotsOf (s : State) (a : Nat) : List Nat := (s.mem.keys.filter fun p => p.2 == KeySt.bound a).map (·.1)

/-- KEY.ALLOC's effect (R489): what it writes to its register. -/
def State.keyAlloc (s : State) (a : Nat) : State × Word :=
  if !s.boot.on then (s, wd (2 ^ 63 + 768))
  else
    match s.slotsOf a with
    | k :: _ :: _ => (s, wd k)
    | _ =>
      match (List.range 64).find? fun k => (Tab.find s.mem.keys k).getD .free == KeySt.free with
      | none => (s, wd (2 ^ 63 + 769))
      | some k =>
        let m := s.mem
        ({ s with mem := { m with keys := Tab.put m.keys k (.bound a), slotKey := Sparse.set 0 m.slotKey k m.nextKey,
                                  nextKey := m.nextKey + 1 } }, wd k)

/-- Step 1 of a revocation (R491): later accesses under the slot fail. -/
def State.revokeBegin (s : State) (k : Nat) : State :=
  match Tab.find s.mem.keys k with
  | some (.bound _) => if s.boot.on then { s with mem := { s.mem with keys := Tab.put s.mem.keys k .revoking } } else s
  | _ => s

/-- A run that a near-bank unit has not finished. -/
def NbUnit.busy (u : NbUnit) : Bool := u.st == .run || u.st == .suspended

/-- Stop every unfinished near-bank run that satisfies `p`, with STOP = 4 (R423). -/
def State.stopRuns (s : State) (p : NbUnit → Bool) : State :=
  ((s.nb.filter fun x => x.2.busy && p x.2).map (·.1)).foldl (fun s n => s.stopUnit n 4) s

/-- Some line of a frame was last written under the device key. -/
def State.ownFrame (s : State) (f : Nat) : Bool := s.mem.lineKey.any fun p => p.1 / 1024 == f && p.2 == deviceKey

/-- The frames last written under a slot (R490): those that the key map names, and for slot 0 those that hold something and
that it does not list; not those that the device itself wrote under its own key (log 110). -/
def State.framesUnder (s : State) (k : Nat) : List Nat :=
  let m := s.mem
  let listed := ((m.keyMap.filter fun p => p.2.slot.toNat == k).map (·.1)).filter fun f => !s.ownFrame f
  if k ≠ 0 then listed
  else
    let held := ((m.phys.map fun (p : Nat × Byte) => p.1 / 65536) ++ m.bad.map fun (p : Nat × Bool) => p.1 / 1024).eraseDups
    listed ++ held.filter fun f => !(m.keyMap.any fun p => p.1 == f) && !s.ownFrame f

/-- An access under a slot that has passed check 7 is not performed yet: a line of a CPC job (R491). -/
def State.underKey (s : State) (k : Nat) : Bool := s.teams.any fun p => p.2.cards.any fun c => c.lines.any fun x => x.slot == k

/-- The later steps of a revocation (R491): nothing written under the key can be read again, and no line in L2 stays under it. -/
def State.revokeEnd (s : State) (k : Nat) : State :=
  if Tab.find s.mem.keys k == some KeySt.revoking then
    let s := s.stopRuns fun u => u.ops.any fun op => op.any fun m => m.2 == k
    let m := s.mem
    let keyMap := (s.framesUnder k).foldl (fun t f => Sparse.set {} t f { slot := BitVec.ofNat 6 k, clr := true }) m.keyMap
    let no := Sparse.get 0 m.slotKey k
    { s with mem := { m with keyMap := keyMap, slotKey := Sparse.set 0 m.slotKey k 0, keys := Tab.del m.keys k,
                             lines := m.lines.filter fun x => no == 0 || x.keyNo != no } }
  else s

/-- A whole revocation. -/
def State.revoke (s : State) (k : Nat) : State := (s.revokeBegin k).revokeEnd k

/-! ### Stopping a tenant (R513 to R515) -/

def State.tenant (s : State) (a : Nat) : Tenant := Sparse.get {} s.hub.tenants a
def State.modTenant (s : State) (a : Nat) (f : Tenant → Tenant) : State :=
  { s with hub := { s.hub with tenants := Sparse.set {} s.hub.tenants a (f (s.tenant a)) } }

/-- The work of a context that has not started goes, and no record is written: its pool and spill children, its queued tasks and
its waiting gangs; its graphs start nothing more (R515). -/
def State.dropWaiting (s : State) (a : Nat) : State :=
  let h := s.hub
  let kids := h.pool.filter fun c => c.asid == a
  let gone := fun (g : Nat) => kids.any fun c => c.grid == some g && !c.started
  let tasks := s.rm.tasks.filter fun t => !(t.asid == a && t.origin.isNone && (t.st == TaskSt.queued || t.st == TaskSt.pending))
  let graphs := Tab.mapv h.graphs fun _ g => if g.asid == a then { g with closing := true, ready := [] } else g
  let h := { h with pool := h.pool.filter fun c => c.asid != a, grids := h.grids.filter fun p => !gone p.1, graphs := graphs }
  ({ s with hub := h, rm := { s.rm with tasks := tasks } } : State).modCtx a fun c => { c with places := [] }

/-- Tasks are gone: images and weight identities that nothing else refers to go with them (R34, R361). -/
def State.settleTasks (s : State) (ts : List Task) : State :=
  ts.foldl (fun s t => (s.settleWeight (tkWid t.desc)).settleImage (tkHash t.desc)) s

/-- The teams of a context, and where they are. -/
def State.teamsOf (s : State) (a : Nat) : List (Loc × Team) := s.teams.filter fun p => p.2.asid == a && p.2.epilogue.isNone

/-- Begin to stop a context (R515). Another state than RUNNING is left as it is. -/
def State.beginStop (s : State) (a : Nat) (free flr : Bool) : State :=
  if (s.tenant a).st != TenantSt.running then s
  else
    let s := s.modTenant a fun t => { t with st := .stopping, freeAfter := free, flr := flr }
    let s := (s.dropWaiting a).settleTasks s.rm.tasks
    let s := (s.teamsOf a).foldl (fun s p => s.requestPre p.1 .stop) s
    let s := (s.teamsOf a).foldl (fun s p => s.modTeam p.1 fun t => { t with cards := t.cards.filter fun c => c.st != .waiting }) s
    let s := s.discardParked fun e => e.owner == a
    let s := (s.stopRuns fun u => u.asid == a).abandonColls a
    (s.fab.leases.filter fun p => p.2.asid == a && p.2.live).foldl (fun s p => s.endLease p.1) s

/-- Nothing of a stopping context runs any longer: its teams have halted, their started jobs, its passes, resumed rows, runs
and copies are over, and its packets are acknowledged or lost (R515). -/
def State.stopDone (s : State) (a : Nat) : Bool :=
  (s.teamsOf a).all (fun p => !p.2.startedCards && match p.1 with
      | .here _ _ => p.2.halted || p.2.ended
      | .kept _ => true)
    && !(s.rm.passes.any fun p => p.2.rows.any fun r => r.owner == a)
    && !(s.rm.parked.any fun e => e.owner == a) && !(s.hub.copies.any fun c => c.asid == a)
    && !(s.nb.any fun p => p.2.busy && p.2.asid == a)
    && s.fab.peers.all fun p => p.2.lost || !(p.2.unacked.any fun u => u.asid == a && (u.left || !s.silent a))

/-- What waits for a record of a context's graph has no effect any longer. -/
def State.afterStop (s : State) (a : Nat) (x : After) : After :=
  let mine := fun (p : Nat) => (s.graph p).any fun g => g.asid == a
  match x with
  | .graph p => if mine p then .nothing else x
  | .notify p _ => if mine p then .nothing else x
  | .task (some (p, _)) _ _ => if mine p then .nothing else x
  | .grid gid _ => if (s.grid gid).any fun g => g.asid == a then .nothing else x
  | _ => x

/-- What a stopped context leaves at the hub: it holds no cell, and nothing of it runs (R515). -/
def State.clearCtx (s : State) (a : Nat) : State :=
  let s := ((s.teamsOf a).filterMap fun p => match p.1 with
    | .here c b => some (Loc.here c b)
    | .kept _ => none).foldl (fun s l => (s.chargeCell l).removeTeam l) s
  let h := s.hub
  let rings := Tab.mapv h.rings fun _ r => { r with wait := r.wait.map fun p => { p with after := s.afterStop a p.after } }
  let queues := Tab.mapv h.queues fun _ q => if q.asid == a then { q with running := 0 } else q
  let h := { h with saved := h.saved.filter fun v => v.team.asid != a, residents := h.residents.filter fun r => r.asid != a,
                    grids := h.grids.filter fun p => p.2.asid != a, graphs := h.graphs.filter fun p => p.2.asid != a,
                    rings := rings, queues := queues.filter fun p => p.2 != {} }
  let rm := { s.rm with tasks := s.rm.tasks.filter fun t => !(t.asid == a && t.origin.isNone) }
  ({ s with hub := h, rm := rm } : State).settleTasks s.rm.tasks

/-! ### The report (R515, R516) -/

/-- The leaves with D = 1 below a table, in ascending order of flat address, with their SIZE. -/
def State.dirtyFrom (s : State) : List (Nat × Nat × Nat × Option Nat) → Nat → Nat → List (Nat × Nat)
  | [], _, _ => []
  | (sh, n, al, lf) :: rest, tab, va =>
    if tab % 2 ^ al ≠ 0 || !s.frameExists (tab / 65536) then []
    else
      let t := s.mem.phys.part tab (8 * 2 ^ n)
      (((t.map fun p => p.1 / 8).eraseDups).filter fun i => s.lineOk deviceKey ((tab + 8 * i) / 64)).flatMap fun i =>
        let e := wd (leNat (t.rdBytes (8 * i) 8))
        let at_ := va + i * 2 ^ sh
        if !leafV e then []
        else if leafLeaf e then (if some (leafSize e) = lf && leafD e then [(at_, leafSize e)] else [])
        else s.dirtyFrom rest (fld e 8 44 * 256) at_

/-- The dirty leaves of a context's page table. -/
def State.dirtyLeaves (s : State) (a : Nat) : List (Nat × Nat) :=
  s.dirtyFrom walkLevels ((s.regsOf a).ptroot.toNat % 2 ^ 52) 0

/-- The report's entry for a leaf. -/
def reportEntry (x : Nat × Nat) : Word := wd (at_ x.2 62 + x.1 % 2 ^ 56)

/-- Write the report of a context to its buffer (R516). -/
def State.writeReport (s : State) (a : Nat) : State :=
  let t := s.tenant a
  let es := s.dirtyLeaves a
  let room := (t.size.toNat - 64) / 8
  let head := at_ 5 56 + at_ (decide (room < es.length)).toNat 55 + at_ 1 54 + at_ a 44 + min es.length (2 ^ 32 - 1)
  let ad := t.rpt.toNat * 64
  let s := s.hostWr (ad + 64) (wordsBytes ((es.take room).map reportEntry))
  s.hostWr ad (wordsBytes [wd head, wd s.now, wd s.now, wd s.now, 0, 0, 0, 0])

/-! ### Freeing (R517, R518) -/

/-- The cells that a context holds become free (R114). -/
def State.freeCells (s : State) (a : Nat) : State :=
  ((s.hub.allot.filter fun p => p.2.1 == 1 && p.2.2.toNat == a).map (·.1)).foldl (fun s c =>
    ({ s with hub := { s.hub with allotPend := Tab.put s.hub.allotPend c (0, 0) } } : State).applyAllot c) s

/-- Some context of a function is not free. -/
def State.fnBusy (s : State) (f : Nat) : Bool := s.hub.tenants.any fun p => p.2.st != .free && (s.ctx p.1).fn == f

/-- The queues of a context are disabled, and the rings of its function when no other context of it is left (R517). -/
def State.closeQueues (s : State) (a : Nat) : State :=
  let h := s.hub
  let f := (s.ctx a).fn
  let queues := Tab.mapv h.queues fun _ q => if q.asid == a then { q with en := false, lim := none } else q
  let rings := if s.fnBusy f then h.rings else Tab.mapv h.rings fun k r => if k / 256 == f then { r with en := false } else r
  { s with hub := { h with queues := queues.filter fun p => p.2 != {}, rings := rings.filter fun p => p.2 != {} } }

/-- A function's queue and ring blocks take their reset values once its reset has freed its contexts (R518). -/
def State.resetBlocks (s : State) (f : Nat) : State :=
  if s.hub.tenants.any fun p => p.2.flr && p.2.st != .free && (s.ctx p.1).fn == f then s
  else
    let h := s.hub
    { s with hub := { h with queues := h.queues.filter fun p => p.1 / 32 != f, rings := h.rings.filter fun p => p.1 / 256 != f,
                             msixPend := h.msixPend.filter fun p => p.1 / 256 != f } }

/-- Free a context (R517). -/
def State.freeCtx (s : State) (a : Nat) : State :=
  let flr := (s.tenant a).flr
  let s := (s.slotsOf a).foldl State.revoke s
  let s := (s.freeCells a).modCtx a fun c => { c with colls := [] }
  let wids := (s.hub.weights.filter fun p => p.2.asid == a).map (·.1)
  let s := wids.foldl (fun s w => (s.withdraw w).settleWeight w) s
  let hashes := (s.hub.registry.filter fun p => p.2.refs.contains a).map (·.1)
  let drop := s.hub.registry.map fun p => (p.1, { p.2 with refs := p.2.refs.erase a })
  let s := hashes.foldl State.settleImage { s with hub := { s.hub with registry := drop } }
  let s := s.modTenant a fun t => { t with st := .free, freeAfter := false }
  let s := s.closeQueues a
  if flr then (s.resetBlocks (s.ctx a).fn).modTenant a fun t => { t with flr := false } else s

/-- The end of a stop (R515): every write is performed, the report is written, the context is STOPPED; a free follows where one
was asked for. -/
def State.endStop (s : State) (a : Nat) : State :=
  let s := s.drainPosted fun p => p.asid == a
  let s := s.clearCtx a
  let t := s.tenant a
  let s := if t.flr && t.rpt == 0 then s else s.writeReport a
  let s := s.modTenant a fun t => { t with st := .stopped, t1 := s.now }
  if t.freeAfter then s.freeCtx a else s

/-! ### The events (R513 to R518) -/

/-- A command names a context (R513). -/
def validAsid (a : Nat) : Bool := decide (1 ≤ a ∧ a ≤ 1023)

/-- STOP_COMMAND (R513, R515), an event: context `a`. -/
def execStopCommand (s : State) : Res :=
  let a := s.arg.a
  if validAsid a && s.boot.start == .up then
    .next (({ s with hub := { s.hub with stopcmd := wd (at_ 1 62 + a) } } : State).beginStop a false false)
  else .next s

/-- FREE_COMMAND (R513, R517), an event: context `a`, stopped first when it runs. -/
def execFreeCommand (s : State) : Res :=
  let a := s.arg.a
  if validAsid a && s.boot.start == .up then
    let s := { s with hub := { s.hub with stopcmd := wd (at_ 2 62 + a) } }
    match (s.tenant a).st with
    | .running => .next (s.beginStop a true false)
    | .stopping => .next (s.modTenant a fun t => { t with freeAfter := true })
    | _ => .next (s.freeCtx a)
  else .next s

/-- STOP_REPORT (R515, R516), an event: context `a`, whose stop is over when its cached lines too are written back. -/
def execStopReport (s : State) : Res :=
  let a := s.arg.a
  if (s.tenant a).st == TenantSt.stopping && s.stopDone a then
    let s := match (writeBackLines { asid := a } fun x => x.asid == a).run s with
      | .ok _ s => s
      | .error _ s => s
    .next (if s.stopDone a then s.endStop a else s)
  else .next s

/-- VF_FUNCTION_LEVEL_RESET (R518), an event: virtual function `a`. -/
def execVfFunctionLevelReset (s : State) : Res :=
  let f := s.arg.a
  if f = 0 ∨ 64 < f then .next s
  else
    let as_ := (s.hub.tenants.filter fun p => p.2.st != .free && (s.ctx p.1).fn == f).map (·.1)
    let one := fun (s : State) (a : Nat) => match (s.tenant a).st with
      | .running => s.beginStop a true true
      | .stopping => s.modTenant a fun t => { t with freeAfter := true, flr := true }
      | _ => s.freeCtx a
    .next ((as_.foldl one s).resetBlocks f)

end Sys2Proof.Machine
end

