-- ==== Sys2Proof/Machine/System.lean ====
section
/-! DEFINITION. The system instructions (R476 to R483) but CTX.SAVE and CTX.LOAD: requests to the hub and the Soreb controller
(R477), registration of images (R30 to R33), SCRUB, CAL.SET, TLB.INV and HALT. -/
namespace Sys2Proof.Machine

/-! ### Requests (R477) -/

def rqCode : Nat := 0
def rqAlloc : Nat := 1
def rqRevoke : Nat := 2
def rqStop : Nat := 5
def rqCal : Nat := 7

/-! ### Registration (R30 to R33) -/

/-- An image's code hash (R30). -/
def codeHash (bs : List Byte) : Word := (sha384 bs).extractLsb' 320 64

/-- A task-class entry that CODE.REG refuses (R33). -/
def TaskClass.bad (c : TaskClass) : Bool :=
  c.k % 64 != 0 || precBad (actPrec c) 64 true || decide (c.abytes < columnBytes (actPrec c) c.k)

/-- Register an image's bytes: status and the hash's word (R31, R32, R478). -/
def State.register (s : State) (a : Nat) (bs : List Byte) : State × Nat × Word :=
  let h := codeHash bs
  let put := fun (r : List (Word × Image)) => ({ s with hub := { s.hub with registry := r } } : State)
  if h == 0 || (classTable bs).any (fun p => p.2.bad) then (s, 4, 0)
  else
    match s.image h with
    | some im =>
      if im.bytes = bs then
        (put (s.hub.registry.map fun p => if p.1 == h then (p.1, { p.2 with refs := p.2.refs ++ [a] }) else p), 1, h)
      else (s, 2, h)
    | none =>
      if 512 ≤ s.hub.registry.length then (s, 3, 0) else (put (s.hub.registry ++ [(h, { bytes := bs, refs := [a] })]), 0, h)

/-- A length that CODE.REG reads. -/
def imageLen (n : Nat) : Bool := n % 4 == 0 && decide (4 ≤ n ∧ n ≤ 2 ^ 24)

/-! ### The calendar (R483) -/

/-- The first rotation that starts at least 128 ns from now, where the request is performed (log 123). -/
def State.nextRotation (s : State) : Nat := (s.now + 128 + 127) / 128

/-- A stack's table with a change made. -/
def applyCal (t : Tab (Option Nat)) (x : CalPend) : Tab (Option Nat) :=
  match x.slot with
  | some i => Tab.put t (64 * x.stack + i) x.owner
  | none => Tab.keep t fun k _ => k / 64 != x.stack

/-- Changes whose rotation has begun are in force. -/
def State.calTick (s : State) : State :=
  let (go, stay) := s.mem.calPend.partition fun x => decide (128 * x.rotation ≤ s.now)
  if go.isEmpty then s else { s with mem := { s.mem with cal := go.foldl applyCal s.mem.cal, calPend := stay } }

/-- CAL.SET's change: its words are RS1, RS2 and .clr. -/
def State.calChange (s : State) (a b c : Word) : State :=
  let slot := fld a 0 6
  let owner := if bitAt b 15 then some (64 * fld b 6 2 + fld b 0 6) else none
  let x : CalPend := { stack := fld a 10 3, rotation := s.nextRotation, slot := if c = 1 then none else some slot,
                       owner := if c = 1 then none else owner }
  { s with mem := { s.mem with calPend := s.mem.calPend ++ [x] } }

/-! ### Carrying a request out -/

/-- What the hub does for a request of a context: the request with its result. -/
def State.hubPerform (s : State) (asid : Nat) (r : HubReq) : State × HubReq :=
  if r.op = rqCode then
    let n := r.c.toNat
    if !imageLen n then (s, { r with done := true, r0 := 4 })
    else
      match s.hubTry (hubKey asid) (hubRead asid r.a.toNat r.b.toNat n 1) with
      | (s, .done (bs, _)) =>
        let (s, st, h) := s.register asid bs
        (s, { r with done := true, r0 := wd st, r1 := h })
      | (s, .fails k i) => (s, { r with done := true, bad := some (k, i.addr.getD 0) })
      | (s, .waits) => (s, r)
  else if r.op = rqAlloc then
    let (s, v) := s.keyAlloc (fld r.a 0 10)
    (s, { r with done := true, r0 := v })
  else if r.op = rqRevoke then
    if s.underKey r.a.toNat then (s, r) else (s.revokeEnd r.a.toNat, { r with done := true })
  else if r.op = rqStop then (s.beginStop (fld r.a 0 10) false false, { r with done := true })
  else (s.calChange r.a r.b r.c, { r with done := true })

/-- HUB_REQUEST_DONE (R477), an event: the request of the team of cell `a`, stage `b`. -/
def execHubRequestDone (s : State) : Res :=
  let l := argLoc s.arg
  match s.teamAt l with
  | some t =>
    match t.hubReq with
    | some r =>
      if r.done || s.boot.start != .up then .next s
      else
        let (s, r) := s.hubPerform t.asid r
        .next (s.modTeam l fun t => { t with hubReq := some r })
    | none => .next s
  | none => .next s

/-- A system instruction that the hub performs: it waits for its own request. An earlier request with other operands is performed first,
and its result is lost (log 125). -/
def hubRequest (op : Nat) (a b c : Word) : M HubReq := do
  let t <- team
  let new : HubReq := { op := op, a := a, b := b, c := c }
  let start : M HubReq := do
    modTeam fun t => { t with hubReq := some new }
    if op = rqRevoke then modify fun s => s.revokeBegin a.toNat
    wait
  match t.hubReq with
  | some r =>
    if r.op == op && r.a == a && r.b == b && r.c == c then
      waitFor r.done
      modTeam fun t => { t with hubReq := none }
      match r.bad with
      | some (k, ad) => trap k { addr := ad }
      | none => pure r
    else
      unless r.done do
        let (s, r) := (<- get).hubPerform t.asid r
        set (s.modTeam (<- theLoc) fun t => { t with hubReq := some r })
        waitFor r.done
      start
  | none => start

/-! ### CODE.REG, KEY.ALLOC, KEY.REVOKE, PART.STOP, CAL.SET (R478) -/

/-- CODE.REG: the image at an offset of a window, its length in Sreg[RD]. -/
def doCodeReg (rd : BitVec 5) (h off : Nat) : M Unit := do
  let len <- sreg rd
  if imageLen len.toNat then
    let _ <- handleAt (<- team).asid h off len.toNat false
  let r <- hubRequest rqCode (wd h) (wd off) len
  setSreg rd r.r0
  setSreg (rd + 1) r.r1

def execCodeReg (x : S32) (s : State) : Res :=
  strandOp 4 x.pg (do
    let (h, off) <- memOp32 x
    doCodeReg x.rd h off) s
def execCodeReg64 (x : S64) (s : State) : Res :=
  strandOp 8 x.r.pg (do
    let (h, off) <- memOp64 x
    doCodeReg x.r.rd h off) s

/-- The first operand of a 64-bit form without a memory operand: IMM (R476). -/
def immOp (x : S64) : Word := wd x.imm.toNat

def doKeyAlloc (rd : BitVec 5) (v : Word) : M Unit := do
  let r <- hubRequest rqAlloc v 0 0
  setSreg rd r.r0
def execKeyAlloc (x : S32) (s : State) : Res :=
  strandOp 4 x.pg (do doKeyAlloc x.rd (<- sreg x.rs1)) s
def execKeyAlloc64 (x : S64) (s : State) : Res :=
  strandOp 8 x.r.pg (doKeyAlloc x.r.rd (immOp x)) s

def doKeyRevoke (v : Word) : M Unit := do
  need (decide (v.toNat ≤ 63)) .illRes
  let _ <- hubRequest rqRevoke v 0 0
def execKeyRevoke (x : S32) (s : State) : Res :=
  strandOp 4 x.pg (do doKeyRevoke (<- sreg x.rs1)) s
def execKeyRevoke64 (x : S64) (s : State) : Res :=
  strandOp 8 x.r.pg (doKeyRevoke (immOp x)) s

def doPartStop (v : Word) : M Unit := do
  let _ <- hubRequest rqStop v 0 0
def execPartStop (x : S32) (s : State) : Res :=
  strandOp 4 x.pg (do doPartStop (<- sreg x.rs1)) s
def execPartStop64 (x : S64) (s : State) : Res :=
  strandOp 8 x.r.pg (doPartStop (immOp x)) s

/-- CAL.SET (R483); in minimal mode only the stacks and cells in service (R496). -/
def doCalSet (clr : Bool) (a b : Word) : M Unit := do
  let s <- get
  need (!s.boot.minimal || (s.caps.getLsbD (4 + fld a 10 3) && (clr || !bitAt b 15 || fld b 6 2 == 0))) .illRes
  let _ <- hubRequest rqCal a (if clr then 0 else b) (wd clr.toNat)
def execCalSet (x : S32) (s : State) : Res :=
  strandOp 4 x.pg (do doCalSet (x.md.getLsbD 0) (<- sreg x.rs1) (<- sreg x.rs2)) s
def execCalSet64 (x : S64) (s : State) : Res :=
  strandOp 8 x.r.pg (do doCalSet (x.r.md.getLsbD 0) (immOp x) (<- sreg x.r.rs2)) s

/-! ### SCRUB (R481) -/

/-- One line; the instruction stands until its length is 0. -/
def doScrub (rd rs1 : BitVec 5) (h off : Nat) : M Unit := do
  let len <- sreg rd
  need (len.toNat % 64 == 0 && off % 64 == 0) .illRes
  unless len = 0 do
    store (<- theWho) h off true (zeros 64)
    setSreg rs1 ((<- sreg rs1) + 64)
    setSreg rd ((<- sreg rd) - 64)
    waitFor ((<- sreg rd) == 0)
def execScrub (x : S32) (s : State) : Res :=
  strandOp 4 x.pg (do
    let (h, off) <- memOp32 x
    doScrub x.rd x.rs1 h off) s
def execScrub64 (x : S64) (s : State) : Res :=
  strandOp 8 x.r.pg (do
    let (h, off) <- memOp64 x
    doScrub x.r.rd x.r.rs1 h off) s

/-! ### TLB.INV (R482, R331, R459) -/

/-- The frames that a page of a context maps, in the leaf in memory and in those that are cached. -/
def State.pageFrames (s : State) (a fa : Nat) : List Nat :=
  ((s.walk a fa).elim [] fun p => leafFrames p.1) ++ (s.mem.tlb.filter fun e => e.covers a fa).flatMap fun e => leafFrames e.leaf

/-- Locks set through MS = 1 on frames that satisfy `p` go; a pinned member stays locked (R331). -/
def State.unlockMs (s : State) (p : Nat → Bool) : State :=
  ((s.mem.locks.map fun x => x.2.member * groupsN + x.1).filter p).foldl (fun s f => s.unlock .ms f) s

/-- Invalidate: 0 a context, 1 a page, 2 a context's handles, 3 everything. -/
def State.invalidate (s : State) (md a fa : Nat) : State :=
  let m := s.mem
  match md with
  | 0 => (s.flushCtx a).adopt a
  | 1 =>
    let fs := s.pageFrames a fa
    let s := s.unlockMs fs.contains
    { s with mem := { s.mem with tlb := m.tlb.filter fun e => !e.covers a fa,
                                 walks := m.walks.filter fun w => !(w.asid == a && w.page / 65536 == fa / 65536) } }
  | 2 => { s with mem := { m with hcache := m.hcache.filter fun e => e.asid != a } }
  | _ => ({ s with mem := { m with tlb := [], hcache := [], walks := [] } } : State).unlockMs fun _ => true

/-- Accesses that used a translation of a context (`none`: of any) and are not performed yet: lines of CPC jobs, and writes to peers. -/
def State.translated (s : State) (a : Option Nat) : Bool :=
  let mine := fun (k : Nat) => a.all (· == k)
  s.teams.any (fun p => mine p.2.asid && p.2.cards.any fun c => !c.lines.isEmpty)
    || s.packets.any fun p => mine p.2.asid && !p.2.done && (match p.2.op with
      | .write .. => true
      | .poison .. => true
      | .amo .. => true
      | _ => false)

/-- TLB.INV completes when what used the dropped entries is performed (R482, log 125). -/
def doTlbInv (md : BitVec 3) (a b : Word) : M Unit := do
  need (decide (md.toNat < 4)) .illRes
  waitFor (!(<- get).translated (if md == 3 then none else some (fld a 0 10)))
  modify fun s => (s.drainPosted fun p => md == 3 || p.asid == fld a 0 10).invalidate md.toNat (fld a 0 10) b.toNat
def execTlbInv (x : S32) (s : State) : Res :=
  strandOp 4 x.pg (do doTlbInv x.md (<- sreg x.rs1) (<- sreg x.rs2)) s
def execTlbInv64 (x : S64) (s : State) : Res :=
  strandOp 8 x.r.pg (do doTlbInv x.r.md (immOp x) (<- sreg x.r.rs2)) s

/-! ### HALT (R478, R465) -/

/-- End the issuing team, with a value for DETAIL. -/
def doHalt (len detail : Nat) : M Unit := do
  let pc <- pcHere len
  let l <- theLoc
  let t <- team
  let r : FRec :=
    { cause := .teamHalt, stage := l == .here (<- theCell) true, prec := true, asid := t.asid, team := BitVec.ofNat 32 t.no,
      time := (<- get).now, epc := BitVec.ofNat 32 pc.toNat, detail := BitVec.ofNat 32 detail, grid := BitVec.ofNat 32 t.grid }
  modify fun s => s.stopTeam l r
def execHalt (x : S32) (s : State) : Res := strandOp 4 x.pg (doHalt 4 0) s
def execHalt64 (x : S64) (s : State) : Res := strandOp 8 x.r.pg (doHalt 8 x.imm.toNat) s

end Sys2Proof.Machine
end

