-- ==== Sys2Proof/Machine/Events.lean ====
section
/-! DEFINITION. What the parts of the memory system and the engines do by themselves: results and loads that land (R197, R238),
walks (R315), swaps and counters (R329), the vault's scrub (R323), the Carousel (R332 to R336), posted stores (R322); words that
are no instruction (R189); and what the outside does to stores that it shares with the device (log 1). -/
namespace Sys2Proof.Machine

/-! ### Results that land -/

/-- The vector stream's cycles count (R468). -/
def State.vecCounts (s : State) (c : Nat) : Bool :=
  match (s.cell c).act with
  | some t => t.vec.st == .run && !t.vec.held && !t.vec.stopped && !t.priv && !t.halted && !t.ended && s.cellUp c
  | none => false

/-- The vector stream's nest fetches its body for the first time: the one time in which cycles pass that no instruction accounts
for (R237). -/
def Team.firstFetch (t : Team) : Bool := (t.running .vector).any fun n => n.st == .run && n.idx == n.start

/-- VE_RESULT_LAND (R237, R238, R468), an event: a cycle of the vector stream of cell `a` passes without an issue. Bubbles, waits and the
cycles that an instruction occupies are that instruction's own. -/
def execVeResultLand (s : State) : Res :=
  let c := s.arg.a
  .next (if s.vecCounts c && (s.cell c).act.any Team.firstFetch then s.streamCycle c else s)

/-- LOAD_RETURN (R197), an event: outstanding load number `c` of the team of cell `a`, stage `b`. -/
def execLoadReturn (s : State) : Res :=
  let l := argLoc s.arg
  match (s.teamAt l).bind fun t => t.loads[s.arg.c]? with
  | none => .next s
  | some x =>
    .next (s.modTeam l fun t =>
      let t := match x.reg with
        | some r => t.putReg r x.value
        | none => t
      { t with loads := t.loads.eraseIdx s.arg.c })

/-- POSTED_STORE_PERFORM (R322), an event: the oldest posted store to the vault of cell `a` arrives. -/
def execPostedStorePerform (s : State) : Res :=
  let here := fun (p : Posted) => p.cell == s.arg.a
  match s.mem.posted.find? here with
  | none => .next s
  | some p => .next (({ s with mem := { s.mem with posted := s.mem.posted.eraseP here } } : State).performPosted p)

/-! ### Counters (R329, R330) -/

/-- The period of the access counters in ns: DECAY µs, 0 selecting 1,000 (R330). -/
def Tier.period (x : Tier) : Nat := 1000 * (if x.decay = 0 then 1000 else x.decay.toNat)

/-- The counters as they stand just before time `t`: halved at every boundary since the last one (R329, log 121). -/
def State.decayTo (s : State) (t : Nat) : State :=
  let k := (t - s.tier.lastDecay - 1) / s.tier.period
  if k = 0 then s
  else
    let halved := (s.mem.counts.map fun p => (p.1, p.2 / 2 ^ k)).filter fun p => p.2 != 0
    { s with mem := { s.mem with counts := halved }, tier := { s.tier with lastDecay := s.tier.lastDecay + k * s.tier.period } }

/-- COUNTER_DECAY (R329), an event: the counters are halved at a boundary that is now. -/
def execCounterDecay (s : State) : Res := .next (s.decayTo (s.now + 1))

/-! ### The Carousel (R332 to R336) -/

/-- The lines that running CPC jobs present, with their cells, teams and cards. -/
def State.cpcLines (s : State) : List (Nat × Loc × Card × CpcLine) :=
  s.teams.flatMap fun p => match p.1 with
    | .here c _ => (p.2.cards.filter fun k => k.st == .running).flatMap fun k => k.lines.map fun x => (c, p.1, k, x)
    | .kept _ => []

/-- When a line is next dealt with: at its slot, or when what the slot has read lands, at its start cycle + 200 (R334). -/
def CpcLine.due (x : CpcLine) : Nat := if x.got.isSome then (10 * (cyclesOf x.time + 200) + 6) / 7 else x.time

/-- Change the lines of the cards of a cell on a pseudo-channel. -/
def State.modLines (s : State) (cell : Nat) (pc : Nat × Nat) (f : CpcLine → CpcLine) : State :=
  [false, true].foldl (fun s b => s.modTeam (.here cell b) fun t =>
    { t with cards := t.cards.map fun c => { c with lines := c.lines.map fun x => if pseudoOf x.pa == pc then f x else x } }) s

/-- A line misses its slot: it takes the same slot of the next rotation, and the cell's later lines on the pseudo-channel keep behind it
(R335, log 111). -/
def State.missSlot (s : State) (cell : Nat) (x : CpcLine) : State :=
  s.modLines cell (pseudoOf x.pa) fun y => if y.got.isNone && decide (x.time ≤ y.time) then { y with time := y.time + 128 } else y

/-- The slot of a line is its cell's no longer (R483): the cell's lines from it on take the next slots that the cell owns; with
none on the stack they wait to be read by ordinary requests. -/
def State.lostSlot (s : State) (cell : Nat) (x : CpcLine) : State :=
  let pc := pseudoOf x.pa
  let old := ((s.cpcLines.filter fun y => y.1 == cell && pseudoOf y.2.2.2.pa == pc && y.2.2.2.got.isNone
    && decide (x.time ≤ y.2.2.2.time)).map fun y => y.2.2.2.time).mergeSort fun a b => decide (a ≤ b)
  let new := (old.foldl (fun (p : List (Nat × Nat) × Nat) t =>
    let u := if s.ownsSlot pc.1 cell then s.slotFrom cell pc.1 (max p.2 t) 0 [] (max p.2 t / 128) 4 else t + 128
    ((t, u) :: p.1, u + 1)) ([], x.time + 1)).1
  s.modLines cell pc fun y => if y.got.isNone then { y with time := ((new.find? fun p => p.1 == y.time).map (·.2)).getD y.time } else y

/-- One line of a card changes: the one on a pseudo-channel whose slot starts at a time. -/
def State.setLine (s : State) (l : Loc) (c : Card) (x : CpcLine) (n : Nat) (f : CpcLine → Option CpcLine) : State :=
  let here := fun (y : CpcLine) => y.time == x.time && pseudoOf y.pa == pseudoOf x.pa
  s.modCard l c.seq fun c => { c with lines := c.lines.filterMap fun y => if here y then f y else some y, cnt1 := c.cnt1 + n }

/-- A slot reads a line. -/
def State.carryLine (s : State) (l : Loc) (c : Card) (x : CpcLine) : State :=
  let s := s.countAccess (x.pa / 65536)
  match s.locRd x.pa 64 x.slot with
  | none => s.modCard l c.seq fun c => c.failed .poison x.row
  | some bs => s.setLine l c x 0 fun y => some { y with got := some bs }

/-- What a slot does with the line assigned to it (R334 to R336): it is read where its member is fast, or from the capacity tier 600 cycles
after a late answer where the fast member is locked; it is answered late where its member is not fast; otherwise it misses. -/
def State.serveLine (s : State) (cell : Nat) (l : Loc) (c : Card) (x : CpcLine) : State :=
  let f := x.pa / 65536
  let g := groupOf f
  let cycle := cyclesOf x.time
  let late := fun (s : State) (k : CpcLine → CpcLine) =>
    s.setLine l c x (if x.late.isNone then 1 else 0) fun y => some (k { y with late := y.late.orElse fun _ => some cycle })
  if s.slotOwner (pseudoOf x.pa).1 (x.time % 128 / 2) != some cell then s.lostSlot cell x
  else if decide (cycle < x.from_) || (s.swapOf g).isSome then s.missSlot cell x
  else if x.cap || s.fastOf g == memberOf f then s.carryLine l c x
  else if (s.lockOf g).isSome then
    (late s fun y => { y with cap := true, from_ := (y.late.getD cycle) + 600 }).missSlot cell x
  else (late (s.startSwap g (memberOf f) true) id).missSlot cell x

/-- What a slot has read lands in the vault (R334). -/
def State.landLine (s : State) (l : Loc) (c : Card) (x : CpcLine) (bs : List Byte) : State :=
  ((s.modTeam l fun t => t.vaultWr x.off bs).setLine l c x 0 fun _ => none).modCard l c.seq fun c => { c with bytes := c.bytes + 64 }

/-- Deal with a line whose time has come, at that time. -/
def State.lineStep (s : State) (p : Nat × Loc × Card × CpcLine) : State :=
  let (cell, l, c, x) := p
  let s := (({ s with now := max s.now x.due } : State).calTick).decayTo x.due
  match x.got with
  | some bs => s.landLine l c x bs
  | none => s.serveLine cell l c x

/-- Deal with the lines that satisfy `p`, in the order of their times, `fuel` times at most. -/
def State.carousel (s : State) (p : CpcLine → Bool) : Nat → State
  | 0 => s
  | fuel + 1 =>
    match minBy (fun x => x.2.2.2.due) (s.cpcLines.filter fun x => p x.2.2.2) with
    | none => s
    | some x => (s.lineStep x).carousel p fuel

/-- A line is dealt with before time `t`; what lands at `t` has landed. -/
def CpcLine.before (t : Nat) (x : CpcLine) : Bool := if x.got.isSome then decide (x.due ≤ t) else decide (x.due < t)

/-- CAROUSEL_SLOT (R332 to R336), an event: the slot that starts now on pseudo-channel `b` of stack `a`. A slot carries one line; one
that nobody names is carried all the same as time passes. -/
def execCarouselSlot (s : State) : Res :=
  .next (if s.boot.start == .up then
      s.carousel (fun x => x.got.isNone && pseudoOf x.pa == (s.arg.a, s.arg.b) && decide (x.time ≤ s.now)) s.cpcLines.length
    else s)

/-- Time passes: the Carousel carries its lines, counters are halved at their boundaries, calendar changes whose rotation has begun are
in force (R483), and steered tasks whose results are performed complete (R145). -/
def State.tick (s : State) (dt : Nat) : State :=
  let t := s.now + dt
  let s := s.carousel (CpcLine.before t) (s.cpcLines.length * (dt / 2 + 4))
  (({ s with now := t } : State).calTick.decayTo t).landTasks

/-! ### Walks and swaps -/

/-- Remember a translation that passes check 4 of R309 in the TLBs of a die and of some of its cells (R315). -/
def State.remember (s : State) (cells : List Nat) (a fa : Nat) (leaf : Word) : State :=
  if s.leafOk (fa / 2 ^ 52 % 16) leaf then cells.foldl (fun s c => s.tlbFill c a fa leaf) s else s

/-- PAGE_WALK_COMPLETE (R315, R317, R311), an event: the walk of context `a` for the page at flat address `b`, on die `c`. Only a walk that
has a walker ends; it serves the misses of every cell that waits for it. -/
def execPageWalkComplete (s : State) : Res :=
  let w := s.arg
  match (s.walking w.c).find? fun x => x.asid == w.a && x.page == w.b / 65536 * 65536 with
  | none => .next s
  | some x =>
    let s := { s with mem := { s.mem with walks := s.mem.walks.filter (· != x) } }
    match s.walkRest x w.b with
    | some (leaf, _) => .next (s.remember x.cells w.a w.b leaf)
    | none => .next s

/-- TIER_SWAP_COMPLETE (R328, R329, R336), an event: the swap of group `a`. The member that leaves the fast frame takes the capacity slot of
the one that comes in. A locked member that is still not fast is swapped in next (R331), lines answered late may go from 4 cycles on,
and packets that waited are performed. -/
def execTierSwapComplete (s : State) : Res :=
  let g := s.arg.a
  match s.swapOf g with
  | none => .next s
  | some x =>
    let m := s.mem
    let out := s.fastOf g
    let slots := Tab.put (Tab.del m.slotOf (5 * g + x.member)) (5 * g + out) (s.capSlot g x.member)
    let s := { s with mem := { m with remap := Sparse.set 0 m.remap g x.member, slotOf := slots,
                                      swaps := m.swaps.filter fun y => y.group != g } }
    let s := match s.lockOf g with
      | some k => if k.member == x.member then s else s.startSwap g k.member true
      | none => s
    let from_ := cyclesOf s.now + 4
    let line := fun (y : CpcLine) =>
      if groupOf (y.pa / 65536) == g && y.late.isSome && !y.cap then { y with from_ := max y.from_ from_ } else y
    .next ((s.teams.map (·.1)).foldl (fun s l => s.modTeam l fun t =>
      { t with cards := t.cards.map fun c => { c with lines := c.lines.map line } }) s).drainAll

/-- VAULT_SCRUB (R323), an event: the scrub corrects `b` single-bit errors, and counts them. -/
def execVaultScrub (s : State) : Res := .next { s with mem := { s.mem with corrected := s.mem.corrected + s.arg.b } }

/-! ### Words that are no instruction (R189, R148) -/

/-- DECODE_TRAP (R189, R148), an event: stream `b` of cell `a` fetches; a word that is no instruction traps. An instruction is
left to the stream's own issue. -/
def execDecodeTrap (s : State) : Res :=
  let c := s.arg.a
  let st : Stream := match s.arg.b with
    | 0 => .strand
    | 1 => .vector
    | 2 => .matrix
    | _ => .copy
  let pending := (s.cell c).act.any fun t => !t.apend.isEmpty && !t.priv
  if st == .strand && pending then .next s else issueStream (fun _ _ _ => .next s) c st s

/-! ### The outside (log 1) -/

/-- An uncorrectable error in an L2 line of a context's page (R340). Only lines on paths 0x0 and 0x1 are in L2 (R326): local ones, and those
of a CACHED peer page. One of a page with RO = 1 is fetched again; one of a writable page is written back with its poison. -/
def State.l2Error (s : State) (a fa : Nat) : State :=
  match s.walk a fa with
  | none => s
  | some (leaf, _) =>
    let pa := leafFrame leaf * 65536 + fa % 2 ^ sizeLog (leafSize leaf)
    let path := fa / 2 ^ 52 % 16
    let r : FRec := { cause := .memUe, asid := a, time := s.now, addr := wd fa }
    let remote := leafPeer leaf != 1023 && leafPeer leaf != s.fab.devno
    if !s.leafOk path leaf || !(path == 0 || path == 1) || !pathAgrees path leaf then s
    else if !remote then
      if leafRo leaf then (s.offer r).logError r
      else { s with mem := { s.mem with bad := s.mem.bad.ins (pa / 64) } }
    else match s.lineOf a (leafPeer leaf) (pa / 64) with
      | none => s
      | some x =>
        if x.ro then (({ s with mem := { s.mem with lines := s.mem.lines.filter (· != x) } } : State).offer r).logError r
        else s.putLine { x with bad := true, dirty := true }

/-- A local line is found uncorrectable (R340): a weight identity pinned there is withdrawn (R142). -/
def State.poisonLine (s : State) (pa : Nat) : State :=
  let s := { s with mem := { s.mem with bad := s.mem.bad.ins (pa / 64) } }
  let hit := s.hub.weights.filter fun p =>
    p.2.members.any fun fa => (s.walk p.2.asid fa).any fun x => frameAt x.1 fa == pa / 65536
  hit.foldl (fun s p => s.withdraw p.1) s

/-- System software writes a context register through the context table in memory: the new value is pending (R459). A value that the
register does not allow is not taken (log 112). -/
def State.writeCtxReg (s : State) (a n : Nat) (v : Word) : State :=
  if n < 0x80 ∨ 0x8B < n then s
  else match ctlWriteCtx n v (s.ctx a).pend with
    | .ok r => s.modCtx a fun c => { c with pend := r }
    | .error _ => s

/-! ### Reads of registers of BAR 0 (R9) -/

/-- CONFCTL (R485). -/
def Boot.confctl (b : Boot) : Word := wd (at_ b.scrubbed.toNat 2 + at_ b.nextOn.toNat 1 + b.on.toNat)

/-- BOOTSTAT (R495). -/
def Boot.stat (b : Boot) : Word :=
  let spares := (b.spares.zipIdx.map fun p => at_ (p.1 % 4) (40 + 2 * p.2)).foldl (· + ·) 0
  wd (at_ (b.reason % 256) 56 + at_ (b.fails % 16) 52 + at_ b.minimal.toNat 51 + at_ b.on.toNat 50 + spares
    + at_ b.hbmSpare.toNat 32 + b.bootMs.toNat)

/-- DEVSTAT (R519). -/
def Boot.devstat (b : Boot) : Word := wd (at_ b.ready.toNat 63 + at_ (b.start == .scrubbing).toNat 62)

/-- A queue's control block (R81). -/
def Queue.word (q : Queue) (o : Nat) : Word :=
  if o = 0 then wd (at_ q.qbase.toNat 6)
  else if o = 8 then wd (at_ q.en.toNat 63 + at_ q.cls.toNat 60 + at_ (q.asid % 1024) 50 + at_ q.size.toNat 46 + at_ q.age.toNat 30
    + at_ q.ering.toNat 22)
  else if o = 0x10 then wd q.tail.toNat
  else if o = 0x18 then wd q.head.toNat
  else 0

/-- A ring's control block (R506). -/
def Ring.word (r : Ring) (o : Nat) : Word :=
  if o = 0 then wd (at_ r.rbase.toNat 6)
  else if o = 8 then wd (at_ r.en.toNat 63 + at_ r.logd.toNat 59 + at_ r.vec.toNat 51 + at_ r.ie.toNat 50 + at_ r.cnt.toNat 34
    + at_ r.tmo.toNat 18)
  else if o = 0x10 then wd (at_ r.drop.toNat 32 + r.tail.toNat)
  else if o = 0x18 then wd r.head.toNat
  else 0

/-- STATE of a stop-table entry (R514). -/
def TenantSt.code : TenantSt → Nat
  | .running => 0
  | .stopping => 1
  | .stopped => 2
  | .freeing => 3
  | .free => 4

/-- A word of a stop-table entry; entry 0 reads 0 (R514). -/
def State.stopWord (s : State) (a w : Nat) : Word :=
  let t := s.tenant a
  if a = 0 then 0
  else if w = 0 then wd (at_ t.rpt.toNat 6) else wd (at_ t.st.code 61 + t.size.toNat)

/-- An allotment entry (R112). -/
def State.allotWord (s : State) (c : Nat) : Word :=
  let e := Sparse.get (0, 0) s.hub.allot c
  wd (at_ e.1.toNat 30 + at_ (Tab.find s.hub.allotPend c).isSome.toNat 29 + at_ e.2.toNat 19)

/-- A register that only the physical function has. -/
def State.pfWord (s : State) (o : Nat) : Word :=
  let h := s.hub
  let t := s.tier
  if 0x2000 ≤ o ∧ o < 0x2100 then wd (Sparse.get 0 h.slices ((o - 0x2000) / 4)).toNat
  else if o = 0x3000 then h.acctBase
  else if o = 0x3010 then wd (at_ h.collRate 32 + at_ h.crypRate 16 + h.copyRate)
  else if o = 0x3020 then wd (at_ t.migthr.toNat 40 + at_ t.swthr.toNat 32 + at_ t.decay.toNat 16 + t.swen.toNat)
  else if 0x4000 ≤ o ∧ o < 0x4400 then s.allotWord ((o - 0x4000) / 4)
  else if o = 0x5000 then s.fabcfgWord
  else if 0x5100 ≤ o ∧ o < 0x5200 then s.nbrWord ((o - 0x5100) / 8)
  else if o = 0x6100 then h.attest
  else if o = 0x6200 then h.stopcmd
  else if 0xA000 ≤ o ∧ o < 0xE000 then s.stopWord ((o - 0xA000) / 16) (o % 16 / 8)
  else 0

/-- What function `fn` reads at offset `o` of its BAR 0 (R1, R9, R487); the physical function reaches the queues of function `win` through
its window (R81). What no register has reads 0 (log 113). -/
def State.barRead (s : State) (fn o win : Nat) : Word :=
  if o = 0x18 then s.boot.devstat
  else if fn = 0 ∧ o = 0x8 then wd s.caps.toNat
  else if fn = 0 ∧ o = 0x10 then s.boot.stat
  else if fn = 0 ∧ o = 0x6000 then s.boot.confctl
  else if s.boot.start = .scrubbing ∨ 64 < fn ∨ 64 < win then 0
  else if 0x1000 ≤ o ∧ o < 0x1400 then (s.queue (qKey (if fn = 0 then win else fn) ((o - 0x1000) / 32))).word (o % 32)
  else if 0x8000 ≤ o ∧ o < 0xA000 then (s.ring (ringKey fn ((o - 0x8000) / 32))).word (o % 32)
  else if fn = 0 then s.pfWord o
  else 0

/-- The host reads a register. -/
def State.readReg (s : State) (fn o win : Nat) : State := s.emit (.regData fn o (s.barRead fn o win))

/-- What the outside does between two moves. -/
def State.disturb (s : State) (o : Outside) : State :=
  let m := s.mem
  match o with
  | .hostWrite a bs =>
    let ok := (wholeUnits 64 a bs.length).foldl (fun b l => b.rem l) m.hostBad
    { s with mem := { m with host := m.host.wrBytes a bs, hostBad := ok } }
  | .peerWrite d a bs => s.writeAt d a bs
  | .poisonLine pa => s.poisonLine pa
  | .poisonHost a => { s with mem := { m with hostBad := m.hostBad.ins (a / 64) } }
  | .poisonVault c b off => s.modTeam (.here c b) fun t => { t with vpoison := t.vpoison.ins (off / 8) }
  | .poisonPeer d a => { s with mem := { m with peerBad := m.peerBad.ins (peerLineKey d (a / 64)) } }
  | .fillTlb c a fa =>
    match s.walk a fa with
    | some (leaf, _) => s.remember [c] a fa leaf
    | none => s
  | .dropTlb p a fa => { s with mem := { m with tlb := m.tlb.filter fun e => !(e.place == p && e.covers a fa) } }
  | .walkStep a fa =>
    let one := fun (x : Walk) => if x.asid == a && x.page == fa / 65536 * 65536 then s.walkStep x else x
    { s with mem := { m with walks := m.walks.map one } }
  | .linkTurn i k lease => s.linkTurn i k lease
  | .peerPerform d i => s.peerPerform d i
  | .collStep a n => s.collGo a n
  | .fillHandle a h =>
    let ws := s.handleWords a h
    let keep := m.hcache.filter fun e => !(e.asid == a && e.h == h)
    { s with mem := { m with hcache := { asid := a, h := h, w0 := ws.1, w1 := ws.2 } :: keep } }
  | .dropHandle a h => { s with mem := { m with hcache := m.hcache.filter fun e => !(e.asid == a && e.h == h) } }
  | .l2Error a fa => s.l2Error a fa
  | .vaultUpset => { s with mem := { m with corrected := m.corrected + 1 } }
  | .adoptRegs a => s.adopt a
  | .ctxReg a n v => s.writeCtxReg a n v
  | .sysWrite a bs => s.sysWr a bs
  | .regRead f o w => s.readReg f o w
  | .nbWaiting n b => s.setUnit n { s.unit n with waiting := b }
  | .tenant a f w p => s.modCtx a fun c => { c with fn := f, weight := min w 255, part := p }

end Sys2Proof.Machine
end

