-- ==== Sys2Proof/Machine/Device.lean ====
section
/-! DEFINITION. Grids that complete (R504, R505), host rings and their interrupts (R506 to R511), attestation (R492), resets and
starts (R485 to R487, R495, R496, R518, R519), the loss of a cell (R493), and writes to registers of BAR 0 (R9). -/
namespace Sys2Proof.Machine

/-! ### Grids (R504, R505) -/

/-- RSTs of a grid that wait for a peer: those of lost peers, or those of the others. -/
def State.gridRsts (s : State) (gid : Nat) (lost : Bool) : Bool :=
  s.fab.peers.any fun p => p.2.lost == lost && p.2.unacked.any fun u => u.rst && u.team.any fun r => r.grid == gid

/-- A grid's status (R505). -/
def State.gridStatus (s : State) (gid : Nat) (g : Grid) : Status :=
  match g.cause with
  | some k => .cause k
  | none => if g.discarded || s.gridRsts gid true then .remoteLost else if g.remoteFault then .remoteFaultSt else .ok

/-- A grid's completion is a release at SYSTEM scope (R393): the context's posted stores are performed and its dirty lines of CACHED peer
pages are written back. -/
def State.gridRelease (s : State) (asid : Nat) : State :=
  match (writeBackLines (hubWho asid) fun x => x.asid == asid).run (s.drainPosted fun p => p.asid == asid) with
  | .ok _ s => s
  | .error _ s => s

/-- Writes that the release covers and that a peer, not lost, has not performed. -/
def State.gridDue (s : State) (gid asid : Nat) : Bool :=
  s.packets.any fun p => !(s.peerOf p.1).lost && (p.2.key == backKey asid || p.2.team.any fun r => r.grid == gid) && (match p.2.op with
    | .read .. => false
    | .amo .. => false
    | _ => true)

/-- GRID_COMPLETE (R503 to R505, R393, R99), an event: grid `a`. -/
def execGridComplete (s : State) : Res :=
  let gid := s.arg.a
  match s.grid gid with
  | none => .next s
  | some g =>
    if g.closing || decide (g.retired < g.total) || s.gridRsts gid false then .next s
    else if (s.gridRelease g.asid).gridDue gid g.asid then .next (s.gridRelease g.asid)
    else
      let s := s.gridRelease g.asid
      let st := s.gridStatus gid g
      let s := (s.writeBack (lrAcct g.lrec)).modCtx g.asid fun c => { c with deficit := c.deficit + g.prov }
      let s := s.modGrid gid fun g => { g with closing := true, prov := 0 }
      let r : CR := { src := 2, st := st, tag := lrTag g.lrec, id := gid }
      .next (s.deliverNow (lrEvkind g.lrec) g.fn (lrRing g.lrec) g.parent r (.grid gid st))

/-! ### Host rings (R506 to R511) -/

/-- Send the message of a vector; a masked one only sets its pending bit (R511). -/
def State.sendMsix (s : State) (fn vec : Nat) : State :=
  let k := 256 * fn + vec % 256
  if s.hub.masked.mem k then { s with hub := { s.hub with msixPend := s.hub.msixPend.ins k } } else s.emit (.msix fn vec)

/-- Send a ring's message when its count or its time has come (R511). -/
def State.ringInterrupt (s : State) (k : Nat) : State :=
  let r := s.ring k
  if r.ie && decide (0 < r.ipend) && (decide (max r.cnt.toNat 1 ≤ r.ipend)
      || (r.tmo != 0 && decide (r.t0 + 1000 * r.tmo.toNat ≤ s.now))) then
    (s.setRing k { r with ipend := 0 }).sendMsix (k / 256) r.vec.toNat
  else s

def Ring.places (r : Ring) : Nat := 2 ^ (r.logd.toNat + 6)

/-- The words of an entry as they stand in a ring (R508, R510): time of writing, and the token. -/
def ringWords (now : Nat) (r : CRec) (token : Bool) : List Word :=
  let notify := fld (nth r 0) 60 4 == 4
  let r := if notify then r else stampRec now r
  r.set 0 (nth r 0 ||| wd (at_ token.toNat 36))

/-- A host-notify node's entry is charged as it is written (R100). -/
def State.chargeNotify (s : State) (a : After) : State :=
  match a with
  | .notify p _ =>
    match s.graph p with
    | some g => s.charge g.asid (ghAcct g.hdr) (unitsFor 64 s.hub.copyRate)
    | none => s
  | _ => s

/-- HOST_RING_ENTRY_WRITE (R508, R509, R511), an event: the oldest entry that waits for ring `b` of function `a`. -/
def execHostRingEntryWrite (s : State) : Res :=
  let k := ringKey s.arg.a s.arg.b
  let r := s.ring k
  match r.wait with
  | [] => .next s
  | p :: rest =>
    if s.boot.start != .up then .next s
    else if !r.en then
      let d := if r.drop = 0xFFFFFFFF then r.drop else r.drop + 1
      .next (((s.setRing k { r with wait := rest, drop := d }).chargeNotify p.after).applyAfter p.after)
    else if (r.tail - r.head).toNat = r.places then .next s
    else
      let c := r.tail.toNat
      let s := s.hostWr (r.rbase.toNat * 64 + 64 * (c % r.places)) (wordsBytes (ringWords s.now p.cr (c / r.places % 2 == 0)))
      let r := { r with wait := rest, tail := r.tail + 1, ipend := if r.ie then r.ipend + 1 else r.ipend,
                        t0 := if r.ie && r.ipend = 0 then s.now else r.t0 }
      .next ((((s.setRing k r).ringInterrupt k).chargeNotify p.after).applyAfter p.after)

/-- RING_INTERRUPT_TIMEOUT (R511), an event: ring `b` of function `a`. -/
def execRingInterruptTimeout (s : State) : Res := .next (s.ringInterrupt (ringKey s.arg.a s.arg.b))

/-- A function has the block of a ring, and the device is up. -/
def State.ringBlock (s : State) (fn r : Nat) : Bool := decide (fn ≤ 64 ∧ r < 256) && s.boot.start == .up

/-- RING_ENABLE (R507, R511), an event: ring `b` of function `a`. -/
def execRingEnable (s : State) : Res :=
  let k := ringKey s.arg.a s.arg.b
  let r := s.ring k
  if !s.ringBlock s.arg.a s.arg.b || r.en || decide (10 < r.logd.toNat) then .next s
  else .next (s.setRing k { r with en := true, tail := 0, head := 0, drop := 0, ipend := 0, t0 := 0 })

/-- MSIX_VECTOR_UNMASK (R511), an event: vector `b` of function `a`; a pending message is sent. -/
def execMsixVectorUnmask (s : State) : Res :=
  let k := 256 * s.arg.a + s.arg.b % 256
  let s' := { s with hub := { s.hub with masked := s.hub.masked.rem k, msixPend := s.hub.msixPend.rem k } }
  .next (if s.hub.msixPend.mem k then s'.emit (.msix s.arg.a (s.arg.b % 256)) else s')

/-! ### Attestation (R492) -/

/-- The bytes of a digest, its first byte most significant. -/
def bigBytes (n v : Nat) : List Byte := (leBytes n v).reverse

/-- The report's signed part. -/
def State.attestBody (s : State) (nonce : List Byte) : List Byte :=
  let hashes := sortBy id ((s.hub.registry.map fun p => p.1.toNat).eraseDups)
  wordsBytes [wd (at_ 1 56 + s.caps.toNat), s.boot.confctl] ++ nonce ++ zeros (32 - nonce.length)
    ++ wordsBytes [wd s.now] ++ (List.range 3).flatMap (fun i => bigBytes 48 (Config.firmware i).toNat)
    ++ wordsBytes [wd s.hub.registry.length] ++ bigBytes 48 (sha384 (hashes.flatMap (bigBytes 8))).toNat

/-- ATTEST (R492), an event: the address of a request, `w[0]`. -/
def execAttest (s : State) : Res :=
  let w := nth s.arg.w 0
  if s.boot.start != .up then .next s
  else .next { s with hub := { s.hub with attest := w, attestDue := some w } }

/-- ATTEST_REPORT_DONE (R492), an event: the report, then the value 1 in request byte 40. -/
def execAttestReportDone (s : State) : Res :=
  match s.hub.attestDue with
  | none => .next s
  | some a =>
    let rq := s.hostRd a.toNat 64
    let body := s.attestBody (rq.take 32)
    let s := s.hostWr (leNat ((rq.drop 32).take 8)) (body ++ bigBytes 96 (Config.ecdsa body).toNat)
    let s := s.hostWr (a.toNat + 40) [1]
    .next { s with hub := { s.hub with attestDue := none } }

/-! ### Resets and starts (R485 to R487, R495, R496, R518) -/

/-- FULL_RESET (R518, R486), an event: every register takes its reset value; memory stays until it is scrubbed. -/
def execFullReset (s : State) : Res :=
  let b := s.boot
  let m := s.mem
  let mem : Mem := { phys := m.phys, bad := m.bad, host := m.host, hostBad := m.hostBad, peer := m.peer, peerBad := m.peerBad,
                     keyMap := m.keyMap, lineKey := m.lineKey, nextKey := m.nextKey, corrected := m.corrected, errors := m.errors }
  let boot : Boot := { on := b.nextOn, nextOn := b.nextOn, fails := b.fails, startAt := s.now,
                       start := if b.on || b.nextOn then .scrubbing else .starting }
  .next { State.reset with now := s.now, mem := mem, tier := { lastDecay := s.now }, boot := boot, out := s.out, free := s.free, inputs := s.inputs, cur := s.cur }

/-- SCRUB_END (R487, R485), an event: memory reads as zeros, and nothing is left that the scrub names. -/
def execScrubEnd (s : State) : Res :=
  if s.boot.start != .scrubbing then .next s
  else
    let m := s.mem
    .next { s with mem := { host := m.host, hostBad := m.hostBad, peer := m.peer, peerBad := m.peerBad, nextKey := m.nextKey },
                   boot := { s.boot with start := .starting, scrubbed := true } }

/-- CAPS after a start (R1, R2, R496): `dead` names stacks that did not train. -/
def capsAfter (minimal : Bool) (dead : Nat) : BitVec 32 :=
  let gone := BitVec.ofNat 32 (at_ (dead % 256) 4)
  if minimal then ((Config.capsReset &&& 0xF0000000) ||| 0x1030) &&& ~~~gone else Config.capsReset &&& ~~~gone

/-- A start fails (R495): the third failure in a row leads to minimal mode, in which confidential mode is off (R486) and CAPS shows die 0
only (R2). -/
def State.startFailed (s : State) (reason : Nat) : State :=
  let b := s.boot
  let n := min 15 (b.fails + 1)
  let min_ := b.minimal || decide (3 ≤ n)
  { s with caps := if min_ then capsAfter true 0 else s.caps,
           boot := { b with reason := reason, fails := n, minimal := min_, on := b.on && !min_, ready := false, startAt := s.now,
                            start := if b.start == .scrubbing && !min_ then .scrubbing else .starting } }

/-- SCRUB_TIMEOUT (R487), an event: the scrub has taken 2.5 s. -/
def execScrubTimeout (s : State) : Res :=
  .next (if s.boot.start == .scrubbing && decide (s.boot.startAt + 2500000000 ≤ s.now) then s.startFailed 6 else s)

/-- START_FAIL (R495), an event: reason `a`. -/
def execStartFail (s : State) : Res :=
  .next (if s.boot.start != .up && decide (1 ≤ s.arg.a ∧ s.arg.a ≤ 8) then s.startFailed s.arg.a else s)

/-- START_TIMEOUT (R495), an event: 30 s have passed. -/
def execStartTimeout (s : State) : Res :=
  .next (if s.boot.start != .up && decide (s.boot.startAt + 30000000000 ≤ s.now) then s.startFailed 7 else s)

/-- START_COMPLETE (R495, R519, R496, R443), an event: the stacks that did not train in the bits of `a`, link 1 trained with `b` of 1, the
spare cells in use in `w[0]`, 2 bits a die. -/
def execStartComplete (s : State) : Res :=
  let b := s.boot
  if b.start != .starting then .next s
  else
    let spares := (List.range 4).map fun d => fld (nth s.arg.w 0) (2 * d) 2
    .next { s with caps := capsAfter b.minimal s.arg.a,
                   boot := { b with start := .up, ready := true, link1 := s.arg.b == 1 && !b.minimal, fails := if b.minimal then b.fails else 0, spares := spares,
                                    bootMs := BitVec.ofNat 32 ((s.now - b.startAt) / 1000000) } }

/-! ### The loss of a cell (R493) -/

/-- The images in a team's slot are its own (R475). -/
def State.slotImage (s : State) (t : Team) : Option (List Byte) :=
  let bs := s.slotBytes t.asid t.no 0 49152
  let r := (s.imageRest bs).team
  if imageOk bs s.silicon t.no && r.asid == t.asid && r.grid == t.grid && r.no == t.no then some bs else none

/-- A team of a lost cell starts again on the spare from the last images in its slot, with CELL_LOST pending. What a half of the
switch save store holds for it is written into those images first (R111). -/
def State.restart (s : State) (c : Nat) (b : Bool) (t : Team) (bs : List Byte) : State :=
  let s := s.chargeCell (.here c b)
  let bank := fun (k : Bool) (off : Nat) => if imageBank bs k then some (s.slotBytes t.asid t.no off 262144) else none
  let fly := if imageFlight bs then
      ((Tab.find s.hub.images (leNat (s.slotBytes t.asid t.no 0xC000 8))).getD {}).sh
    else {}
  let vault := s.sysPart (s.slotAddr t.asid t.no + 0xA0000) (t.valloc * 65536)
  let new := ({ t with cards := [], waiters := [], evCe := [], pre := none, halted := false, switching := false, frozen := [],
                       ended := false, vault := vault, vpoison := [], chargeFrom := s.now } : Team).fromImage (s.imageRest bs).team bs
  let kept := ({} : Shared).fromImage fly bs (bank false 0x14000) (bank true 0x54000)
  let sh := (((s.cell c).save b).getD kept).clearLatches
  let s := s.modCell c fun x =>
    let x := x.setTeam b (some (new.restart.rejoin x.nextCard))
    let x := { x with nextCard := x.nextCard + new.cards.length }
    if x.active == b then { (x.setSave b none) with sh := sh } else x.setSave b (some sh)
  s.raiseAsync (.here c b) .cellLost { detail := c }

/-- A team of a lost cell ends (R465). -/
def State.endLost (s : State) (c : Nat) (b : Bool) (t : Team) : State :=
  let l := Loc.here c b
  (s.modTeam l fun t => { t with cards := [], evCe := [], waiters := [] }).stopTeam l
    { cause := .cellLost, stage := b, asid := t.asid, team := BitVec.ofNat 32 t.no, time := s.now,
      epc := BitVec.ofNat 32 t.pc.toNat, detail := BitVec.ofNat 32 c, grid := BitVec.ofNat 32 t.grid }

/-- What becomes of a team of a lost cell. -/
def State.loseTeam (s : State) (c : Nat) (b spare : Bool) : State :=
  match (s.cell c).team b with
  | none => s
  | some t =>
    match if spare && !t.ended then s.slotImage t else none with
    | some bs => s.restart c b t bs
    | none => s.endLost c b t

/-- The pass of a lost cell goes: its tasks return to QUEUED with their ids, and those parked in its vault end (R493). A task with
rows parked in another cell stays PARKED (R140), and what it lost here is queued with its resumption. -/
def State.losePass (s : State) (c : Nat) : State :=
  let s := match s.pass c with
    | none => s
    | some p =>
      let us := (p.rows.map fun (x : PassRow) => x.uid).eraseDups
      let os := (us.map fun u => ((s.task u).bind fun (t : Task) => t.orig).getD u).eraseDups
      let here := s.rm.parked.flatMap fun (e : Parked) => if e.cell == c then e.tasks else []
      let held := os.filter fun o => s.rm.parked.any fun (e : Parked) => e.cell != c && !e.resuming && e.tasks.any fun u =>
        u == o || ((s.task u).bind fun (t : Task) => t.orig) == some o
      let tasks := s.rm.tasks.filter fun (t : Task) => !(t.orig.any fun o => os.contains o && !held.contains o)
      let back := tasks.map fun (t : Task) =>
        if here.contains t.uid then t
        else if held.contains t.uid then (if us.contains t.uid then ({ t with lost := true } : Task) else t)
        else if os.contains t.uid then ({ t with st := .queued, owed := 1 } : Task)
        else if us.contains t.uid then ({ t with st := .queued } : Task) else t
      { s with rm := { s.rm with tasks := back, passes := Tab.del s.rm.passes c } }
  let parked := s.rm.parked.map fun (e : Parked) => if e.cell == c then ({ e with resuming := false } : Parked) else e
  let s := { s with rm := { s.rm with parked := parked } }
  s.discardParked fun (e : Parked) => e.cell == c

/-- CELL_FAIL (R493), an event: cell `a`. -/
def execCellFail (s : State) : Res :=
  let c := s.arg.a
  if 256 ≤ c || (s.cell c).lost || s.boot.start != .up then .next s
  else
    let d := c / 64
    let used := s.boot.spares.getD d 0
    let spare := decide (used < 2)
    let s := s.losePass c
    let s := s.modCell c fun x =>
      { x with a := x.a.filter fun t => t.epilogue.isNone, sh := {}, sw := none, ports := [],
               work := [], workBad := [] }
    let s := (s.loseTeam c false spare).loseTeam c true spare
    if spare then .next { s with boot := { s.boot with spares := s.boot.spares.set d (used + 1) } }
    else
      let h := s.hub
      let h := { h with allot := Sparse.set (0, 0) h.allot c (0, 0), allotPend := Tab.del h.allotPend c }
      .next (({ s with hub := h } : State).modCell c fun x => { x with lost := true })

/-! ### Writes to registers (R9) -/

/-- Write to a queue's block at offset `o` (R81, R82); ASID only through the physical function. -/
def Queue.write (q : Queue) (o : Nat) (pf : Bool) (w : Word) : Queue :=
  if o = 0 then (if q.en then q else { q with qbase := BitVec.ofNat 58 (fld w 6 58) })
  else if o = 8 then
    let q := { q with age := BitVec.ofNat 16 (fld w 30 16), ering := BitVec.ofNat 8 (fld w 22 8), asid := if pf then fld w 50 10 else q.asid }
    if q.en then q else { q with cls := BitVec.ofNat 3 (fld w 60 3), size := BitVec.ofNat 4 (fld w 46 4) }
  else q

/-- Write to a ring's block (R506, R507): EN here is only cleared. -/
def Ring.write (r : Ring) (o : Nat) (w : Word) : Ring :=
  if o = 0 then (if r.en then r else { r with rbase := BitVec.ofNat 58 (fld w 6 58) })
  else if o = 8 then
    let q := { r with vec := BitVec.ofNat 8 (fld w 51 8), ie := bitAt w 50, cnt := BitVec.ofNat 16 (fld w 34 16),
                      tmo := BitVec.ofNat 16 (fld w 18 16), en := r.en && bitAt w 63 }
    if r.en then q else { q with logd := BitVec.ofNat 4 (fld w 59 4) }
  else if o = 0x18 then { r with head := BitVec.ofNat 32 (fld w 0 32) }
  else r

/-- A rate field written as 0 keeps its value (R101). -/
def newRate (v old : Nat) : Nat := if v = 0 then old else v

/-- Write to a register of the physical function. -/
def State.pfWrite (s : State) (o : Nat) (w : Word) : State :=
  let h := s.hub
  if 0x2000 ≤ o ∧ o < 0x2100 then
    { s with hub := { h with slices := Sparse.set 0 h.slices ((o - 0x2000) / 4) (BitVec.ofNat 32 (w.toNat % 2 ^ 32 / 2 ^ 23 * 2 ^ 23 + fld w 0 16)) } }
  else if o = 0x3000 then (if fld w 52 4 = 0 then { s with hub := { h with acctBase := w } } else s)
  else if o = 0x3010 then
    { s with hub := { h with collRate := newRate (fld w 32 16) h.collRate, crypRate := newRate (fld w 16 16) h.crypRate,
                             copyRate := newRate (fld w 0 16) h.copyRate } }
  else if o = 0x3020 then
    { s with tier := { s.tier with migthr := BitVec.ofNat 8 (fld w 40 8), swthr := BitVec.ofNat 8 (fld w 32 8),
                                   decay := BitVec.ofNat 16 (fld w 16 16), swen := bitAt w 0 && !s.boot.minimal } }
  else if o = 0x6000 then { s with boot := { s.boot with nextOn := bitAt w 1 && !(s.boot.minimal && bitAt w 1) } }
  else if 0xA010 ≤ o ∧ o < 0xE000 then
    let a := (o - 0xA000) / 16
    if (s.tenant a).st == TenantSt.stopping then s
    else if o % 16 = 0 then s.modTenant a fun t => { t with rpt := BitVec.ofNat 58 (fld w 6 58) }
    else s.modTenant a fun t => { t with size := BitVec.ofNat 32 (fld w 0 32) }
  else s

/-- REGISTER_WRITE (R9, R81, R82, R91, R98, R101, R330, R485, R506, R514), an event: function `a` writes `w[0]` to the register at
offset `b` of its BAR 0; the physical function reaches the queues of function `c` through its window (R81). With `d` of 1 vector
`b` of function `a` is masked (R511). Registers with an event of their own are left to it. The second physical function, of link 1, has no
registers (R443). A write before READY is ignored (log 124). -/
def execRegisterWrite (s : State) : Res :=
  let x := s.arg
  let w := nth x.w 0
  let o := x.b
  if s.boot.start != .up && !(x.a = 0 && o = 0x6000) then .next s
  else if x.d = 1 then .next { s with hub := { s.hub with masked := s.hub.masked.ins (256 * x.a + o % 256) } }
  else if 64 < x.a || 64 < x.c then .next s
  else if 0x1000 ≤ o ∧ o < 0x1400 then
    let f := if x.a = 0 then x.c else x.a
    .next (s.modQueue (qKey f ((o - 0x1000) / 32)) fun q => q.write (o % 32) (x.a == 0) w)
  else if 0x8000 ≤ o ∧ o < 0xA000 then
    let k := ringKey x.a ((o - 0x8000) / 32)
    .next (s.setRing k ((s.ring k).write (o % 32) w))
  else if x.a = 0 then .next (s.pfWrite o w)
  else .next s

end Sys2Proof.Machine
end

