-- ==== Sys2Proof/Machine/VecMem.lean ====
section
/-! DEFINITION. Vault access of the vector stream (R267 to R269), deferral (R270 to R272), its branches (R273) and the
exchange with the accumulator banks (R274). -/
namespace Sys2Proof.Machine

/-! ### Vault access (R267 to R269) -/

/-- The exact offset of a vault access: LIT, and the address generator when NR = 1. -/
def vaultOffset (x : V96) : M Int := do
  let ag <- agOffset (x.v.fn.getLsbD 2) (x.v.fn.toNat % 4)
  pure ((x.lit.toNat : Int) + ag)

/-- R268 for accesses of `n` bytes at exact offsets: bounds of all, then alignment of all. -/
def vaultChecks (n al : Nat) (offs : List Int) : M Unit := do
  let size : Int := (<- team).valloc * 65536
  match offs.find? fun o => decide (o < 0 ∨ size < o + n) with
  | some o => trap .vaultBound { addr := offsetOf o }
  | none => pure ()
  match offs.find? fun o => o % (al : Int) != 0 with
  | some o => trap .vaultAlign { addr := offsetOf o }
  | none => pure ()

/-- A vault load's result: poison in any word read takes the place of the result (R268). -/
def loadResult (x : V96) (lat : Nat) (pc : Word) (reads : List (Option (List Byte))) (ls : List (Nat × BitVec 32)) : M Unit :=
  addLanding
    (if reads.any Option.isNone then { rem := lat, sq := x.v.sq == 1, poison := some pc }
     else { rem := lat, sq := x.v.sq == 1, lanes := ls.map fun p => (laneKey (dstReg x.v.r) p.1, 0xFFFFFFFF, p.2) })

def word32 (bs : List Byte) (i : Nat) : BitVec 32 := BitVec.ofNat 32 (leNat ((bs.drop (4 * i)).take 4))

/-- VLD (R267). -/
def execVld (x : V96) (s : State) : Res :=
  vecOp 12 (do
    let pc <- pcHere 12
    let off <- vaultOffset x
    vaultChecks 512 64 [off]
    let bs := (<- team).vaultRd off.toNat 512
    let act := activeLanes (<- shared) x.v
    loadResult x 10 pc [bs] (keepActive act ((List.range 128).map (word32 (bs.getD []))))) s

/-- Lanes in ascending order as runs of neighbours: the first lane of each, and its bytes. -/
def laneRuns : List (Nat × BitVec 32) → List (Nat × List Byte)
  | [] => []
  | (i, w) :: rest =>
    match laneRuns rest with
    | (j, bs) :: more => if j = i + 1 then (i, leBytes 4 w.toNat ++ bs) :: more else (i, leBytes 4 w.toNat) :: (j, bs) :: more
    | [] => [(i, leBytes 4 w.toNat)]

/-- VST (R267): neighbouring lanes are stored together, so that whole vault words lose their poison (R323). -/
def execVst (x : V96) (s : State) : Res :=
  vecOp 12 (do
    let off <- vaultOffset x
    vaultChecks 512 64 [off]
    let sh <- shared
    (laneRuns (keepActive (activeLanes sh x.v) (sh.lanesOf x.v.r.vs1.toNat))).forM fun (i, bs) =>
      vaultStore (off.toNat + 4 * i) bs) s

/-- Lane addresses of VLDX and VSTX. -/
def laneOffsets (x : V96) : M (List (Nat × Int)) := do
  let off <- vaultOffset x
  let sh <- shared
  let ls := keepActive (activeLanes sh x.v) (sh.lanesOf x.v.r.vs2.toNat)
  let os := ls.map fun p => (p.1, off + (p.2.toNat : Int))
  vaultChecks 4 4 (os.map (·.2))
  pure os

/-- VLDX (R267). -/
def execVldx (x : V96) (s : State) : Res :=
  vecOp 12 (do
    let pc <- pcHere 12
    let os <- laneOffsets x
    let t <- team
    let rs := os.map fun p => t.vaultRd p.2.toNat 4
    loadResult x 14 pc rs ((os.zip rs).map fun p => (p.1.1, word32 (p.2.getD []) 0))) s

/-- VSTX (R267, R269): the highest lane's value is kept. -/
def execVstx (x : V96) (s : State) : Res :=
  vecOp 12 (do
    let os <- laneOffsets x
    let data := (<- shared).lanesOf x.v.r.vs1.toNat
    os.forM fun (i, o) => vaultStore o.toNat (leBytes 4 (data.getD i 0).toNat)) s

/-! ### Deferral (R270 to R272) -/

/-- A queue word of 32-byte elements. -/
def deferQueue (n : Nat) : M QWord := do
  let q <- validQw n
  need (q.esz == 3) .vqueueFmt
  pure q

/-- Trap `VDEFER_STATE` unless a batch is, or is not, in progress. -/
def needBatch (b : Bool) : M Unit := do need ((<- team).batch == b) .vdeferState

/-- VDRAIN and VDRET are not for a nest sequencer (R272). -/
def notInNest : M Unit := do need (<- team).vec.nest.isNone .vdeferState

/-- VDEFER (R271, R272). -/
def execVdefer (x : V64) (s : State) : Res :=
  vecOp 8 (do
    needBatch false
    let qn := x.ty.toNat
    let q <- deferQueue qn
    let sh <- shared
    let lanes := (keepActive (activeLanes sh x) (List.range 128)).map (·.1)
    need (decide (lanes.length ≤ q.depth - q.count)) .vqueueFull
    let regs := (List.range x.swz.toNat).map fun k => sh.lanesOf (x.r.vs1.toNat + k)
    modTeam fun t => lanes.foldl (fun t i =>
      t.qPush qn (leBytes 4 i ++ regs.flatMap fun r => leBytes 4 (r.getD i 0).toNat)) t
    idleCycles (1 + ceilDiv lanes.length 64)) s

/-- Entry to or exit from a batch is a group switch: the latches read as zero (R175). -/
def groupSwitch : M Unit := modShared Shared.clearLatches

/-- VDRAIN (R271, R272). A lane index beyond 127 in an entry is taken modulo 128 (log 35). -/
def execVdrain (x : V64) (s : State) : Res :=
  vecOp 8 (do
    notInNest
    waitLanded
    needBatch false
    let qn := x.ty.toNat
    let q <- deferQueue qn
    let a := q.count
    let m := x.r.vd.toNat % 16
    if 128 ≤ a || (x.fn.getLsbD 0 && decide (0 < a)) then
      let n := min a 128
      let t <- team
      let at_ := fun (j : Nat) => q.place (q.head + BitVec.ofNat 32 j)
      let es <- (List.range n).mapM fun j => match t.vaultRd (at_ j) 32 with
        | some bs => pure bs
        | none => trap .poison { addr := at_ j }
      modShared fun sh => { sh with
        m := (List.range 128).foldl (fun b j => Sparse.set false b (128 * m + j) (decide (j < n))) sh.m,
        v := (List.range x.swz.toNat).foldl (fun v k => (List.range 128).foldl (fun v j =>
          Sparse.set 0 v (laneKey (x.r.vs1.toNat + k) j) (word32 (es.getD j []) (1 + k))) v) sh.v }
      modTeam fun t => { (t.qDrop qn n) with
        batch := true, batchN := n,
        origin := es.zipIdx.foldl (fun o (e, j) => Sparse.set 0 o j ((word32 e 0).toNat % 128)) t.origin }
      groupSwitch
    else
      modShared fun sh => { sh with m := (List.range 128).foldl (fun b j => Sparse.set false b (128 * m + j) false) sh.m }) s

/-- VDRET (R271, R272): a later lane wins a shared origin. -/
def execVdret (x : V64) (s : State) : Res :=
  vecOp 8 (do
    notInNest
    waitLanded
    needBatch true
    let t <- team
    let sh <- shared
    let ls := (keepActive (activeLanes sh x) (sh.lanesOf x.r.vs1.toNat)).filter fun p => decide (p.1 < t.batchN)
    modShared fun sh => { sh with
      v := ls.foldl (fun v p => Sparse.set 0 v (laneKey x.r.vd.toNat (Sparse.get 0 t.origin p.1)) p.2) sh.v }
    modTeam fun t => { t with batch := false }
    groupSwitch) s

/-! ### Branches (R273) -/

/-- VBR (R273). -/
def execVbr (x : V96) (s : State) : Res :=
  vecOp 12 (do
    let pc <- pcHere 12
    let m := (<- shared).maskOf x.v.msk.toNat
    let go := match x.v.fn.toNat with
      | 0 => true
      | 1 => m.any id
      | 2 => !m.any id
      | 3 => m.all id
      | _ => !m.all id
    if go then takenBranch (pc + sext64 32 x.lit.toNat)) s

/-- VLOOP (R273): the counter lands in the issue cycle. -/
def execVloop (x : V96) (s : State) : Res :=
  vecOp 12 (do
    let pc <- pcHere 12
    let key := laneKey x.v.r.vd.toNat 0
    let n := Sparse.get 0 (<- shared).v key - 1
    addLanding { rem := 1, lanes := [(key, 0xFFFFFFFF, n)] }
    if n != 0 then takenBranch (pc + sext64 32 x.lit.toNat)) s

/-! ### Accumulator exchange (R274) -/

/-- Both wait for the vector results, then for the bank to be full. -/
def bankTaken (bank : Bool) : M Unit := do
  waitLanded
  waitFor ((<- shared).full bank)

/-- VTAKE (R274, R77, R78). -/
def execVtake (x : V64) (s : State) : Res :=
  vecOp 8 (do
    let bank := x.fn.getLsbD 0
    bankTaken bank
    let sh <- shared
    let row := x.vs3.toNat
    let outs := (List.range 128).map fun c => (sh.accOf bank row c).toFp32 (sh.tensorA bank) (sh.tensorB bank)
    addLanding
      { rem := 6, sq := x.sq == 1, lanes := outs.zipIdx.map fun (r, c) => (laneKey (dstReg x.r) c, 0xFFFFFFFF, r.1),
        flags := allFlags (outs.map (·.2)), row := some row }
    if x.fn.getLsbD 1 then modShared fun sh => sh.setFull bank false) s

/-- VGIVE (R274). -/
def execVgive (x : V64) (s : State) : Res :=
  vecOp 8 (do
    let bank := x.fn.getLsbD 0
    bankTaken bank
    let row := x.vs3.toNat
    modShared fun sh =>
      let vals := srcA sh x
      (vals.zipIdx.foldl (fun sh (v, c) => sh.setAcc bank row c (accExact v)) sh).setDirty bank true
    if x.fn.getLsbD 1 then modShared fun sh => sh.setFull bank false) s

end Sys2Proof.Machine
end

