-- ==== Sys2Proof/Machine/VecRed.lean ====
section
/-! DEFINITION. Reductions, scans and selection (R260 to R262), permutation and masks (R263, R264), quantisation (R265,
R266). -/
namespace Sys2Proof.Machine

/-! ### Reductions and scans (R260, R261) -/

inductive RedOp where
  | sum | max | min
  deriving DecidableEq, Repr

/-- The identity of a type: what an inactive lane contributes. -/
def redIdentity (op : RedOp) (ty : BitVec 4) : BitVec 32 :=
  match op with
  | .sum => if ty = 8 then 0x80000000 else 0
  | .max => if ty = 8 then 0xFF800000 else if ty = 2 then 0x80000000 else 0
  | .min => if ty = 8 then 0x7F800000 else if ty = 2 then 0x7FFFFFFF else 0xFFFFFFFF

/-- Combine two values. -/
def redCombine (op : RedOp) (ty : BitVec 4) (rm : Rnd) (a b : BitVec 32) : BitVec 32 × Flags :=
  if ty = 8 then
    match op with
    | .sum => fadd32 rm a b
    | .max => (BitVec.ofNat 32 (fMinMax fp32 true a.toNat b.toNat), 0)
    | .min => (BitVec.ofNat 32 (fMinMax fp32 false a.toNat b.toNat), 0)
  else
    let less := if ty = 2 then a.slt b else a.ult b
    match op with
    | .sum => (a + b, 0)
    | .max => (if less then b else a, 0)
    | .min => (if less then a else b, 0)

/-- One level of a tree: neighbours are combined. -/
def pairUp (f : BitVec 32 → BitVec 32 → BitVec 32 × Flags) : List (BitVec 32) → List (BitVec 32) × Flags
  | a :: b :: rest =>
    let r := f a b
    let t := pairUp f rest
    (r.1 :: t.1, r.2 ||| t.2)
  | l => (l, 0)

/-- The tree of R260. -/
def redTree (f : BitVec 32 → BitVec 32 → BitVec 32 × Flags) : Nat → List (BitVec 32) × Flags → List (BitVec 32) × Flags
  | 0, x => x
  | n + 1, (l, fl) =>
    let r := pairUp f l
    redTree f n (r.1, fl ||| r.2)

/-- The values with the identity in inactive lanes. -/
def withIdentity (act : List Bool) (a : List (BitVec 32)) (e : BitVec 32) : List (BitVec 32) :=
  (act.zip a).map fun p => if p.1 then p.2 else e

def vReduce (op : RedOp) (lat : Nat) (x : V64) (s : State) : Res :=
  vecOp 8 (do
    let sh <- shared
    let act := activeLanes sh x
    let (l, fl) := redTree (redCombine op x.ty (Rnd.of x.rnd)) 7 (withIdentity act (srcA sh x) (redIdentity op x.ty), 0)
    wholeLanes x lat (dstReg x.r) ((List.range 128).map fun i => (i, l.headD 0)) fl) s

/-- VRSUM (R260). -/
def execVrsum (x : V64) (s : State) : Res := vReduce .sum 10 x s
/-- VRMAX (R260). -/
def execVrmax (x : V64) (s : State) : Res := vReduce .max 8 x s
/-- VRMIN (R260). -/
def execVrmin (x : V64) (s : State) : Res := vReduce .min 8 x s

/-- One step of the scan: combine with the value `d` lanes below. -/
def scanStep (f : BitVec 32 → BitVec 32 → BitVec 32 × Flags) (d : Nat) (x : List (BitVec 32) × Flags) :
    List (BitVec 32) × Flags :=
  let outs := x.1.zipIdx.map fun (v, i) => if i < d then (v, (0 : Flags)) else f (x.1.getD (i - d) 0) v
  (outs.map (·.1), x.2 ||| allFlags (outs.map (·.2)))

/-- VSCAN (R261). -/
def execVscan (x : V64) (s : State) : Res :=
  vecOp 8 (do
    let sh <- shared
    let act := activeLanes sh x
    let op : RedOp := if x.fn.toNat % 4 = 1 then .max else if x.fn.toNat % 4 = 2 then .min else .sum
    let e := redIdentity op x.ty
    let f := redCombine op x.ty (Rnd.of x.rnd)
    let (l, fl) := (List.range 7).foldl (fun r k => scanStep f (2 ^ k) r) (withIdentity act (srcA sh x) e, 0)
    let l := if x.fn.getLsbD 2 then e :: l.take 127 else l
    wholeLanes x 10 (dstReg x.r) (keepActive act l) fl) s

/-! ### Selection (R262) -/

/-- `a` comes before `b` in the total order of R262, without the lane rule. -/
def selAbove (ty : BitVec 4) (a b : BitVec 32) : Bool :=
  if ty = 8 then
    let x := fp32.value a.toNat
    let y := fp32.value b.toNat
    if x.isNan then !y.isNan else !y.isNan && y.lt true x
  else if ty = 2 then b.slt a
  else b.ult a

/-- Insert a lane behind every lane that does not come after it. -/
def selInsert (ty : BitVec 4) (p : Nat × BitVec 32) : List (Nat × BitVec 32) → List (Nat × BitVec 32)
  | [] => [p]
  | q :: qs => if selAbove ty p.2 q.2 then p :: q :: qs else q :: selInsert ty p qs

/-- The active lanes in order; equal values keep lane order. -/
def selOrder (ty : BitVec 4) (l : List (Nat × BitVec 32)) : List (Nat × BitVec 32) :=
  l.foldl (fun acc p => selInsert ty p acc) []

/-- VARGMAX (R262). -/
def execVargmax (x : V64) (s : State) : Res :=
  vecOp 8 (do
    let sh <- shared
    let o := selOrder x.ty (keepActive (activeLanes sh x) (srcA sh x))
    let v := match o with
      | p :: _ => BitVec.ofNat 32 p.1
      | [] => 0xFFFFFFFF
    wholeLanes x 9 (dstReg x.r) ((List.range 128).map fun i => (i, v))) s

/-- VTOPK (R262). -/
def execVtopk (x : V64) (s : State) : Res :=
  vecOp 8 (do
    let sh <- shared
    let o := selOrder x.ty (keepActive (activeLanes sh x) (srcA sh x))
    let k := x.fn.toNat + 1
    let d := x.r.vd.toNat
    let at_ := fun i => (o[i]?).elim (redIdentity .max x.ty, (0xFFFFFFFF : BitVec 32)) fun p => (p.2, BitVec.ofNat 32 p.1)
    addLanding
      { rem := 16, sq := x.sq == 1,
        lanes := (List.range k).flatMap fun i =>
          [(laneKey d i, 0xFFFFFFFF, (at_ i).1), (laneKey (d + 1) i, 0xFFFFFFFF, (at_ i).2)] }) s

/-! ### Permutation and masks (R263, R264) -/

/-- VPERM (R263). -/
def execVperm (x : V64) (s : State) : Res :=
  vecOp 8 (do
    let sh <- shared
    let a := srcA sh x
    wholeLanes x 3 (dstReg x.r)
      (keepActive (activeLanes sh x) ((sh.lanesOf x.r.vs2.toNat).map fun i => a.getD (i.toNat % 128) 0))) s
/-- VSHUF (R263). -/
def execVshuf (x : V64) (s : State) : Res :=
  vecOp 8 (do
    let sh <- shared
    let a := srcA sh x
    let b := sh.lanesOf x.r.vs2.toNat
    wholeLanes x 3 (dstReg x.r) (keepActive (activeLanes sh x) ((sh.lanesOf x.vs3.toNat).map fun i =>
      (if i.getLsbD 7 then b else a).getD (i.toNat % 128) 0))) s
/-- VBCAST (R263). -/
def execVbcast (x : V64) (s : State) : Res :=
  vecOp 8 (do
    let sh <- shared
    let v := (srcA sh x).getD (((sh.lanesOf x.r.vs2.toNat).headD 0).toNat % 128) 0
    wholeLanes x 3 (dstReg x.r) (keepActive (activeLanes sh x) (List.replicate 128 v))) s
/-- VIOTA (R263). -/
def execViota (x : V64) (s : State) : Res :=
  vecOp 8 (do
    let sh <- shared
    wholeLanes x 1 (dstReg x.r) (keepActive (activeLanes sh x) ((List.range 128).map (BitVec.ofNat 32)))) s

/-- The two source masks of VMAND and VMOR, the second inverted under .n. -/
def maskSources (x : V64) : M (List Bool × List (Bool × Bool)) := do
  let sh <- shared
  let b := (sh.maskOf (x.r.vs2.toNat % 16)).map fun v => if x.fn.getLsbD 0 then !v else v
  pure (activeLanes sh x, (sh.maskOf (x.r.vs1.toNat % 16)).zip b)

/-- VMAND (R264). -/
def execVmand (x : V64) (s : State) : Res :=
  vecOp 8 (do
    let (act, ps) <- maskSources x
    maskResult x 2 act (ps.map fun p => p.1 && p.2)) s
/-- VMOR (R264). -/
def execVmor (x : V64) (s : State) : Res :=
  vecOp 8 (do
    let (act, ps) <- maskSources x
    maskResult x 2 act (ps.map fun p => p.1 || p.2)) s
/-- VMNOT (R264). -/
def execVmnot (x : V64) (s : State) : Res :=
  vecOp 8 (do
    let sh <- shared
    maskResult x 2 (activeLanes sh x) ((sh.maskOf (x.r.vs1.toNat % 16)).map fun v => !v)) s
/-- VMPOP (R264). -/
def execVmpop (x : V64) (s : State) : Res :=
  vecOp 8 (do
    let sh <- shared
    let n := ((sh.maskOf (x.r.vs1.toNat % 16)).filter id).length
    wholeLanes x 2 (dstReg x.r) (keepActive (activeLanes sh x) (List.replicate 128 (BitVec.ofNat 32 n)))) s

/-! ### Quantisation (R265, R266) -/

/-- Largest magnitude of a type of R265. -/
def qntMax (ty : BitVec 4) : Nat := if ty = 11 then 448 else if ty = 12 then 57344 else 127

/-- The closest code of magnitude `n / d`, at halfway the smaller, saturating; without a sign. -/
def nearCode (ty : BitVec 4) (n d : Nat) : Nat :=
  match tyFmt ty with
  | none =>
    let q := n / d
    min 127 (if d < 2 * (n % d) then q + 1 else q)
  | some f =>
    if n = 0 then 0
    else
      let q := max f.qmin (log2Quot n d - f.fw)
      let n' := if 0 ≤ q then n else n * 2 ^ (-q).toNat
      let d' := if 0 ≤ q then d * 2 ^ q.toNat else d
      let k := n' / d'
      let k := if d' < 2 * (n' % d') then k + 1 else k
      let (k, q) := if k = 2 ^ (f.fw + 1) then (2 ^ f.fw, q + 1) else (k, q)
      min f.maxCode (if k < 2 ^ f.fw then k else (q - f.qmin).toNat * 2 ^ f.fw + k)

/-- A code of the type for a signed quotient; a zero is 0x00. -/
def qntCode (ty : BitVec 4) (neg : Bool) (n d : Nat) : Nat :=
  let c := nearCode ty n d
  if c = 0 then 0
  else if ty = 0 then (if neg then 256 - c else c)
  else if neg then 128 + c else c

/-- A value as an exact number of 2 ^ -200; exponents here are never lower. -/
def scaled200 (v : FV) : Int :=
  match v with
  | .num neg m e => signedAt neg m (e + 200).toNat
  | _ => 0

/-- decode(code) of a type of R265. -/
def qntDecode (ty : BitVec 4) (code : Nat) : FV := tyFV ty code

/-- Quotient of a finite value by a scale: numerator and denominator. -/
def qntQuot (x s : FV) : Bool × Nat × Nat :=
  match x, s with
  | .num neg m e, .num _ k f =>
    let up := (e - f).toNat
    let dn := (f - e).toNat
    (neg, m * 2 ^ up, k * 2 ^ dn)
  | _, _ => (false, 0, 1)

/-- One candidate scale: codes and squared error in units of 2 ^ -400. -/
def qntTry (ty : BitVec 4) (xs : List FV) (s : Nat) : List Nat × Int × Bool :=
  let sv := e4m3.value s
  let qs := xs.map fun x => let (neg, n, d) := qntQuot x sv; qntCode ty neg n d
  let diffs := (qs.zip xs).map fun (q, x) => scaled200 (mulExact (qntDecode ty q) sv).1 - scaled200 x
  (qs, diffs.foldl (fun a d => a + d * d) 0, diffs.any (· != 0))

/-- R265 on one block: scale, codes, flags. NV for a NaN input is R265's, where R60 lists no such case (log 93). -/
def qntBlock (ty : BitVec 4) (xs : List FV) : Nat × List Nat × Flags :=
  let bad := xs.any fun x => match x with
    | .num _ _ _ => false
    | _ => true
  let mx := xs.foldl (fun a x => max a (scaled200 x).natAbs) 0
  if bad then
    let nanCode := match tyFmt ty with
      | some f => f.nanCode
      | none => 0
    (0x7F, xs.map fun _ => nanCode, fNV)
  else if mx = 0 then (0x38, xs.map fun _ => 0, 0)
  else
    let c := ((span 1 0x7E).find? fun s => decide (mx ≤ (scaled200 (e4m3.value s)).natAbs * qntMax ty)).getD 0x7E
    let cands := [c + 1, c, c - 1].filter fun s => decide (1 ≤ s ∧ s ≤ 0x7E)
    let best := cands.foldl (fun (b : Option (Nat × List Nat × Int × Bool)) s =>
      let r := qntTry ty xs s
      match b with
      | none => some (s, r)
      | some y => if r.2.1 < y.2.2.1 then some (s, r) else b) none
    match best with
    | some (s, q, _, inexact) => (s, q, if inexact then fNX else 0)
    | none => (0x38, xs.map fun _ => 0, 0)

/-- VQNT (R265). -/
def execVqnt (x : V64) (s : State) : Res :=
  vecOp 8 (do
    let sh <- shared
    let vs := (srcA sh x).map fun w => fp32.value w.toNat
    let b0 := qntBlock x.ty (vs.take 64)
    let b1 := qntBlock x.ty (vs.drop 64)
    let d := x.r.vd.toNat
    let codes := (b0.2.1 ++ b1.2.1).zipIdx.map fun (q, i) => (laneKey d i, (0xFFFFFFFF : BitVec 32), BitVec.ofNat 32 q)
    let scales := (List.range 128).map fun i =>
      (laneKey (d + 1) i, (0xFFFFFFFF : BitVec 32), BitVec.ofNat 32 (if i = 0 then b0.1 else if i = 1 then b1.1 else 0))
    addLanding { rem := 12, sq := x.sq == 1, lanes := codes ++ scales, flags := b0.2.2 ||| b1.2.2 }) s

/-- VDQNT (R266). -/
def execVdqnt (x : V64) (s : State) : Res :=
  vecOp 8 (do
    let sh <- shared
    let scales := sh.lanesOf x.r.vs2.toNat
    let vals := (srcA sh x).zipIdx.map fun (w, k) =>
      let sv := e4m3.value ((scales.getD (k / 64) 0).toNat % 256)
      BitVec.ofNat 32 (fp32.deliver .rne (mulExact (qntDecode x.ty (w.toNat % 256)) sv)).1
    wholeLanes x 3 (dstReg x.r) (keepActive (activeLanes sh x) vals)) s

end Sys2Proof.Machine
end

