-- ==== Sys2Proof/Machine/Dispatch.lean ====
section
/-! DEFINITION. The meaning of every constructor of `Instr`, one arm each. -/
namespace Sys2Proof.Machine

def exec (i : Instr) (s : State) : Host.Outcome State Fault Refusal :=
  match i with
  | .queueDoorbell => Sys2Proof.Machine.execQueueDoorbell s
  | .queueEnable => Sys2Proof.Machine.execQueueEnable s
  | .queueDisable => Sys2Proof.Machine.execQueueDisable s
  | .arbitrationDispatch => Sys2Proof.Machine.execArbitrationDispatch s
  | .sliceEnd => Sys2Proof.Machine.execSliceEnd s
  | .queueAging => Sys2Proof.Machine.execQueueAging s
  | .acctUsedWriteback => Sys2Proof.Machine.execAcctUsedWriteback s
  | .childSpillRefill => Sys2Proof.Machine.execChildSpillRefill s
  | .graphConditionalRead => Sys2Proof.Machine.execGraphConditionalRead s
  | .graphRearm => Sys2Proof.Machine.execGraphRearm s
  | .graphCopyNodeDone => Sys2Proof.Machine.execGraphCopyNodeDone s
  | .hubStageSwitch => Sys2Proof.Machine.execHubStageSwitch s
  | .switchHardStop => Sys2Proof.Machine.execSwitchHardStop s
  | .stageSwitchFlip => Sys2Proof.Machine.execStageSwitchFlip s
  | .cellAllotWrite => Sys2Proof.Machine.execCellAllotWrite s
  | .gangPlace => Sys2Proof.Machine.execGangPlace s
  | .gangSliceEnd => Sys2Proof.Machine.execGangSliceEnd s
  | .swapOutComplete => Sys2Proof.Machine.execSwapOutComplete s
  | .swapInComplete => Sys2Proof.Machine.execSwapInComplete s
  | .taskAccept => Sys2Proof.Machine.execTaskAccept s
  | .taskDeadline => Sys2Proof.Machine.execTaskDeadline s
  | .passForm => Sys2Proof.Machine.execPassForm s
  | .passGatherDone => Sys2Proof.Machine.execPassGatherDone s
  | .passColumnGroupEnd => Sys2Proof.Machine.execPassColumnGroupEnd s
  | .passScatterDone => Sys2Proof.Machine.execPassScatterDone s
  | .resumeDoorbell => Sys2Proof.Machine.execResumeDoorbell s
  | .resumedScatterDone => Sys2Proof.Machine.execResumedScatterDone s
  | .barkerAdvertiseTable => Sys2Proof.Machine.execBarkerAdvertiseTable s
  | .barkerAdvertiseChange => Sys2Proof.Machine.execBarkerAdvertiseChange s
  | .barkerAdvertReceive => Sys2Proof.Machine.execBarkerAdvertReceive s
  | .barkerPairExpire => Sys2Proof.Machine.execBarkerPairExpire s
  | .steeredTaskArrive => Sys2Proof.Machine.execSteeredTaskArrive s
  | .steerRefused => Sys2Proof.Machine.execSteerRefused s
  | .steeredResultsReceive => Sys2Proof.Machine.execSteeredResultsReceive s
  | .veResultLand => Sys2Proof.Machine.execVeResultLand s
  | .productLand => Sys2Proof.Machine.execProductLand s
  | .loadReturn => Sys2Proof.Machine.execLoadReturn s
  | .pageWalkComplete => Sys2Proof.Machine.execPageWalkComplete s
  | .tierSwapComplete => Sys2Proof.Machine.execTierSwapComplete s
  | .counterDecay => Sys2Proof.Machine.execCounterDecay s
  | .vaultScrub => Sys2Proof.Machine.execVaultScrub s
  | .carouselSlot => Sys2Proof.Machine.execCarouselSlot s
  | .nbResume => Sys2Proof.Machine.execNbResume s
  | .jobStart => Sys2Proof.Machine.execJobStart s
  | .jobComplete => Sys2Proof.Machine.execJobComplete s
  | .portReceive => Sys2Proof.Machine.execPortReceive s
  | .rstAcknowledge => Sys2Proof.Machine.execRstAcknowledge s
  | .remoteFault => Sys2Proof.Machine.execRemoteFault s
  | .collChunkReceive => Sys2Proof.Machine.execCollChunkReceive s
  | .collChunkAck => Sys2Proof.Machine.execCollChunkAck s
  | .leaseGrant => Sys2Proof.Machine.execLeaseGrant s
  | .leaseRetuneDone => Sys2Proof.Machine.execLeaseRetuneDone s
  | .leaseDurationEnd => Sys2Proof.Machine.execLeaseDurationEnd s
  | .leaseRevokeNotice => Sys2Proof.Machine.execLeaseRevokeNotice s
  | .leaseNoticeExpire => Sys2Proof.Machine.execLeaseNoticeExpire s
  | .leaseRetuneBackDone => Sys2Proof.Machine.execLeaseRetuneBackDone s
  | .fabricPacketReceive => Sys2Proof.Machine.execFabricPacketReceive s
  | .fabricAckReceive => Sys2Proof.Machine.execFabricAckReceive s
  | .peerLossTimeout => Sys2Proof.Machine.execPeerLossTimeout s
  | .peerLostDeclare => Sys2Proof.Machine.execPeerLostDeclare s
  | .partitionQuiesce => Sys2Proof.Machine.execPartitionQuiesce s
  | .quiesceLift => Sys2Proof.Machine.execQuiesceLift s
  | .fabcfgWrite => Sys2Proof.Machine.execFabcfgWrite s
  | .wavelengthFail => Sys2Proof.Machine.execWavelengthFail s
  | .hbmChannelSpare => Sys2Proof.Machine.execHbmChannelSpare s
  | .cellFail => Sys2Proof.Machine.execCellFail s
  | .preemptRequest => Sys2Proof.Machine.execPreemptRequest s
  | .preemptDrained => Sys2Proof.Machine.execPreemptDrained s
  | .preemptHardStop => Sys2Proof.Machine.execPreemptHardStop s
  | .asyncTrapTake => Sys2Proof.Machine.execAsyncTrapTake s
  | .hubRequestDone => Sys2Proof.Machine.execHubRequestDone s
  | .gridComplete => Sys2Proof.Machine.execGridComplete s
  | .hostRingEntryWrite => Sys2Proof.Machine.execHostRingEntryWrite s
  | .ringInterruptTimeout => Sys2Proof.Machine.execRingInterruptTimeout s
  | .ringEnable => Sys2Proof.Machine.execRingEnable s
  | .stopCommand => Sys2Proof.Machine.execStopCommand s
  | .freeCommand => Sys2Proof.Machine.execFreeCommand s
  | .stopReport => Sys2Proof.Machine.execStopReport s
  | .attest => Sys2Proof.Machine.execAttest s
  | .attestReportDone => Sys2Proof.Machine.execAttestReportDone s
  | .fullReset => Sys2Proof.Machine.execFullReset s
  | .scrubEnd => Sys2Proof.Machine.execScrubEnd s
  | .scrubTimeout => Sys2Proof.Machine.execScrubTimeout s
  | .startComplete => Sys2Proof.Machine.execStartComplete s
  | .startFail => Sys2Proof.Machine.execStartFail s
  | .startTimeout => Sys2Proof.Machine.execStartTimeout s
  | .vfFunctionLevelReset => Sys2Proof.Machine.execVfFunctionLevelReset s
  | .registerWrite => Sys2Proof.Machine.execRegisterWrite s
  | .add x => Sys2Proof.Machine.execAdd x s
  | .addImm x => Sys2Proof.Machine.execAddImm x s
  | .sub x => Sys2Proof.Machine.execSub x s
  | .subImm x => Sys2Proof.Machine.execSubImm x s
  | .mul x => Sys2Proof.Machine.execMul x s
  | .mulImm x => Sys2Proof.Machine.execMulImm x s
  | .mulh x => Sys2Proof.Machine.execMulh x s
  | .mulhImm x => Sys2Proof.Machine.execMulhImm x s
  | .div x => Sys2Proof.Machine.execDiv x s
  | .divImm x => Sys2Proof.Machine.execDivImm x s
  | .rem x => Sys2Proof.Machine.execRem x s
  | .remImm x => Sys2Proof.Machine.execRemImm x s
  | .and x => Sys2Proof.Machine.execAnd x s
  | .andImm x => Sys2Proof.Machine.execAndImm x s
  | .or x => Sys2Proof.Machine.execOr x s
  | .orImm x => Sys2Proof.Machine.execOrImm x s
  | .xor x => Sys2Proof.Machine.execXor x s
  | .xorImm x => Sys2Proof.Machine.execXorImm x s
  | .shl x => Sys2Proof.Machine.execShl x s
  | .shlImm x => Sys2Proof.Machine.execShlImm x s
  | .shr x => Sys2Proof.Machine.execShr x s
  | .shrImm x => Sys2Proof.Machine.execShrImm x s
  | .sra x => Sys2Proof.Machine.execSra x s
  | .sraImm x => Sys2Proof.Machine.execSraImm x s
  | .min x => Sys2Proof.Machine.execMin x s
  | .minImm x => Sys2Proof.Machine.execMinImm x s
  | .max x => Sys2Proof.Machine.execMax x s
  | .maxImm x => Sys2Proof.Machine.execMaxImm x s
  | .clz x => Sys2Proof.Machine.execClz x s
  | .popc x => Sys2Proof.Machine.execPopc x s
  | .bfx x => Sys2Proof.Machine.execBfx x s
  | .bfxImm x => Sys2Proof.Machine.execBfxImm x s
  | .bfi x => Sys2Proof.Machine.execBfi x s
  | .bfiImm x => Sys2Proof.Machine.execBfiImm x s
  | .ext x => Sys2Proof.Machine.execExt x s
  | .extImm x => Sys2Proof.Machine.execExtImm x s
  | .cmp x => Sys2Proof.Machine.execCmp x s
  | .cmpImm x => Sys2Proof.Machine.execCmpImm x s
  | .sel x => Sys2Proof.Machine.execSel x s
  | .li64 x => Sys2Proof.Machine.execLi64 x s
  | .li96 x => Sys2Proof.Machine.execLi96 x s
  | .lea x => Sys2Proof.Machine.execLea x s
  | .ld x => Sys2Proof.Machine.execLd x s
  | .ldImm x => Sys2Proof.Machine.execLdImm x s
  | .st x => Sys2Proof.Machine.execSt x s
  | .stImm x => Sys2Proof.Machine.execStImm x s
  | .br x => Sys2Proof.Machine.execBr x s
  | .jmp x => Sys2Proof.Machine.execJmp x s
  | .call x => Sys2Proof.Machine.execCall x s
  | .loop x => Sys2Proof.Machine.execLoop x s
  | .jmpx x => Sys2Proof.Machine.execJmpx x s
  | .ret x => Sys2Proof.Machine.execRet x s
  | .nop x => Sys2Proof.Machine.execNop x s
  | .nop64 x => Sys2Proof.Machine.execNop64 x s
  | .nop96 x => Sys2Proof.Machine.execNop96 x s
  | .endTeam x => Sys2Proof.Machine.execEndTeam x s
  | .fork x => Sys2Proof.Machine.execFork x s
  | .join x => Sys2Proof.Machine.execJoin x s
  | .nestSet x => Sys2Proof.Machine.execNestSet x s
  | .nestGo x => Sys2Proof.Machine.execNestGo x s
  | .nestClamp x => Sys2Proof.Machine.execNestClamp x s
  | .launch x => Sys2Proof.Machine.execLaunch x s
  | .tsub x => Sys2Proof.Machine.execTsub x s
  | .tresume x => Sys2Proof.Machine.execTresume x s
  | .graphArm x => Sys2Proof.Machine.execGraphArm x s
  | .evqPop x => Sys2Proof.Machine.execEvqPop x s
  | .evqWait x => Sys2Proof.Machine.execEvqWait x s
  | .semSig x => Sys2Proof.Machine.execSemSig x s
  | .semSigImm x => Sys2Proof.Machine.execSemSigImm x s
  | .semWait x => Sys2Proof.Machine.execSemWait x s
  | .semWaitImm x => Sys2Proof.Machine.execSemWaitImm x s
  | .semSet x => Sys2Proof.Machine.execSemSet x s
  | .semRsig x => Sys2Proof.Machine.execSemRsig x s
  | .ctlRd x => Sys2Proof.Machine.execCtlRd x s
  | .ctlWr x => Sys2Proof.Machine.execCtlWr x s
  | .tstamp x => Sys2Proof.Machine.execTstamp x s
  | .stageSw x => Sys2Proof.Machine.execStageSw x s
  | .trap x => Sys2Proof.Machine.execTrap x s
  | .eret x => Sys2Proof.Machine.execEret x s
  | .vadd x => Sys2Proof.Machine.execVadd x s
  | .vaddFull x => Sys2Proof.Machine.execVaddFull x s
  | .vsub x => Sys2Proof.Machine.execVsub x s
  | .vsubFull x => Sys2Proof.Machine.execVsubFull x s
  | .vmul x => Sys2Proof.Machine.execVmul x s
  | .vmulFull x => Sys2Proof.Machine.execVmulFull x s
  | .vfma x => Sys2Proof.Machine.execVfma x s
  | .vmin x => Sys2Proof.Machine.execVmin x s
  | .vminFull x => Sys2Proof.Machine.execVminFull x s
  | .vmax x => Sys2Proof.Machine.execVmax x s
  | .vmaxFull x => Sys2Proof.Machine.execVmaxFull x s
  | .vabs x => Sys2Proof.Machine.execVabs x s
  | .vneg x => Sys2Proof.Machine.execVneg x s
  | .vand x => Sys2Proof.Machine.execVand x s
  | .vandFull x => Sys2Proof.Machine.execVandFull x s
  | .vor x => Sys2Proof.Machine.execVor x s
  | .vorFull x => Sys2Proof.Machine.execVorFull x s
  | .vxor x => Sys2Proof.Machine.execVxor x s
  | .vxorFull x => Sys2Proof.Machine.execVxorFull x s
  | .vshl x => Sys2Proof.Machine.execVshl x s
  | .vshr x => Sys2Proof.Machine.execVshr x s
  | .vcmp x => Sys2Proof.Machine.execVcmp x s
  | .vsel x => Sys2Proof.Machine.execVsel x s
  | .vmov x => Sys2Proof.Machine.execVmov x s
  | .vmovFull x => Sys2Proof.Machine.execVmovFull x s
  | .vli x => Sys2Proof.Machine.execVli x s
  | .vcvt x => Sys2Proof.Machine.execVcvt x s
  | .vwid x => Sys2Proof.Machine.execVwid x s
  | .vnar x => Sys2Proof.Machine.execVnar x s
  | .vpack x => Sys2Proof.Machine.execVpack x s
  | .vunpk x => Sys2Proof.Machine.execVunpk x s
  | .vrcp x => Sys2Proof.Machine.execVrcp x s
  | .vrsq x => Sys2Proof.Machine.execVrsq x s
  | .vexp x => Sys2Proof.Machine.execVexp x s
  | .vlog x => Sys2Proof.Machine.execVlog x s
  | .vtanh x => Sys2Proof.Machine.execVtanh x s
  | .vsigm x => Sys2Proof.Machine.execVsigm x s
  | .vgelu x => Sys2Proof.Machine.execVgelu x s
  | .vsin x => Sys2Proof.Machine.execVsin x s
  | .vrcps x => Sys2Proof.Machine.execVrcps x s
  | .vrsqs x => Sys2Proof.Machine.execVrsqs x s
  | .vrsum x => Sys2Proof.Machine.execVrsum x s
  | .vrmax x => Sys2Proof.Machine.execVrmax x s
  | .vrmin x => Sys2Proof.Machine.execVrmin x s
  | .vscan x => Sys2Proof.Machine.execVscan x s
  | .vargmax x => Sys2Proof.Machine.execVargmax x s
  | .vtopk x => Sys2Proof.Machine.execVtopk x s
  | .vperm x => Sys2Proof.Machine.execVperm x s
  | .vshuf x => Sys2Proof.Machine.execVshuf x s
  | .vbcast x => Sys2Proof.Machine.execVbcast x s
  | .viota x => Sys2Proof.Machine.execViota x s
  | .vmand x => Sys2Proof.Machine.execVmand x s
  | .vmor x => Sys2Proof.Machine.execVmor x s
  | .vmnot x => Sys2Proof.Machine.execVmnot x s
  | .vmpop x => Sys2Proof.Machine.execVmpop x s
  | .vqnt x => Sys2Proof.Machine.execVqnt x s
  | .vdqnt x => Sys2Proof.Machine.execVdqnt x s
  | .vld x => Sys2Proof.Machine.execVld x s
  | .vst x => Sys2Proof.Machine.execVst x s
  | .vldx x => Sys2Proof.Machine.execVldx x s
  | .vstx x => Sys2Proof.Machine.execVstx x s
  | .vdefer x => Sys2Proof.Machine.execVdefer x s
  | .vdrain x => Sys2Proof.Machine.execVdrain x s
  | .vdret x => Sys2Proof.Machine.execVdret x s
  | .vbr x => Sys2Proof.Machine.execVbr x s
  | .vloop x => Sys2Proof.Machine.execVloop x s
  | .vtake x => Sys2Proof.Machine.execVtake x s
  | .vgive x => Sys2Proof.Machine.execVgive x s
  | .nestBeg x => Sys2Proof.Machine.execNestBeg x s
  | .nestEnd x => Sys2Proof.Machine.execNestEnd x s
  | .rdv x => Sys2Proof.Machine.execRdv x s
  | .engineEnd x => Sys2Proof.Machine.execEngineEnd x s
  | .mma x => Sys2Proof.Machine.execMma x s
  | .mmaz x => Sys2Proof.Machine.execMmaz x s
  | .mmag x => Sys2Proof.Machine.execMmag x s
  | .mconst x => Sys2Proof.Machine.execMconst x s
  | .mprec x => Sys2Proof.Machine.execMprec x s
  | .mscale x => Sys2Proof.Machine.execMscale x s
  | .mown x => Sys2Proof.Machine.execMown x s
  | .mclr x => Sys2Proof.Machine.execMclr x s
  | .mcvt x => Sys2Proof.Machine.execMcvt x s
  | .mscat x => Sys2Proof.Machine.execMscat x s
  | .mfree x => Sys2Proof.Machine.execMfree x s
  | .cp x => Sys2Proof.Machine.execCp x s
  | .cp96 x => Sys2Proof.Machine.execCp96 x s
  | .cpc x => Sys2Proof.Machine.execCpc x s
  | .cpc96 x => Sys2Proof.Machine.execCpc96 x s
  | .cpg x => Sys2Proof.Machine.execCpg x s
  | .cpg96 x => Sys2Proof.Machine.execCpg96 x s
  | .cps x => Sys2Proof.Machine.execCps x s
  | .cps96 x => Sys2Proof.Machine.execCps96 x s
  | .cpk x => Sys2Proof.Machine.execCpk x s
  | .cpk96 x => Sys2Proof.Machine.execCpk96 x s
  | .qinit x => Sys2Proof.Machine.execQinit x s
  | .qinit96 x => Sys2Proof.Machine.execQinit96 x s
  | .qpush x => Sys2Proof.Machine.execQpush x s
  | .qpush96 x => Sys2Proof.Machine.execQpush96 x s
  | .qpop x => Sys2Proof.Machine.execQpop x s
  | .qpop96 x => Sys2Proof.Machine.execQpop96 x s
  | .qpeek x => Sys2Proof.Machine.execQpeek x s
  | .pref x => Sys2Proof.Machine.execPref x s
  | .pref96 x => Sys2Proof.Machine.execPref96 x s
  | .pin x => Sys2Proof.Machine.execPin x s
  | .pin96 x => Sys2Proof.Machine.execPin96 x s
  | .unpin x => Sys2Proof.Machine.execUnpin x s
  | .unpin96 x => Sys2Proof.Machine.execUnpin96 x s
  | .kvcommit x => Sys2Proof.Machine.execKvcommit x s
  | .kvcommit96 x => Sys2Proof.Machine.execKvcommit96 x s
  | .rst x => Sys2Proof.Machine.execRst x s
  | .rst96 x => Sys2Proof.Machine.execRst96 x s
  | .rld x => Sys2Proof.Machine.execRld x s
  | .rld96 x => Sys2Proof.Machine.execRld96 x s
  | .lsend x => Sys2Proof.Machine.execLsend x s
  | .lsend96 x => Sys2Proof.Machine.execLsend96 x s
  | .lradd x => Sys2Proof.Machine.execLradd x s
  | .lradd96 x => Sys2Proof.Machine.execLradd96 x s
  | .tslotSet x => Sys2Proof.Machine.execTslotSet x s
  | .tslotSet96 x => Sys2Proof.Machine.execTslotSet96 x s
  | .tfull x => Sys2Proof.Machine.execTfull x s
  | .tempty x => Sys2Proof.Machine.execTempty x s
  | .twait x => Sys2Proof.Machine.execTwait x s
  | .foot x => Sys2Proof.Machine.execFoot x s
  | .foot96 x => Sys2Proof.Machine.execFoot96 x s
  | .amoAdd x => Sys2Proof.Machine.execAmoAdd x s
  | .amoAddImm x => Sys2Proof.Machine.execAmoAddImm x s
  | .amoMin x => Sys2Proof.Machine.execAmoMin x s
  | .amoMinImm x => Sys2Proof.Machine.execAmoMinImm x s
  | .amoMax x => Sys2Proof.Machine.execAmoMax x s
  | .amoMaxImm x => Sys2Proof.Machine.execAmoMaxImm x s
  | .amoXchg x => Sys2Proof.Machine.execAmoXchg x s
  | .amoXchgImm x => Sys2Proof.Machine.execAmoXchgImm x s
  | .amoCas x => Sys2Proof.Machine.execAmoCas x s
  | .amoCasImm x => Sys2Proof.Machine.execAmoCasImm x s
  | .amoAnd x => Sys2Proof.Machine.execAmoAnd x s
  | .amoAndImm x => Sys2Proof.Machine.execAmoAndImm x s
  | .amoOr x => Sys2Proof.Machine.execAmoOr x s
  | .amoOrImm x => Sys2Proof.Machine.execAmoOrImm x s
  | .vamo x => Sys2Proof.Machine.execVamo x s
  | .fence x => Sys2Proof.Machine.execFence x s
  | .barExp x => Sys2Proof.Machine.execBarExp x s
  | .barWait x => Sys2Proof.Machine.execBarWait x s
  | .barArr x => Sys2Proof.Machine.execBarArr x s
  | .collReg x => Sys2Proof.Machine.execCollReg x s
  | .collAr x => Sys2Proof.Machine.execCollAr x s
  | .collAg x => Sys2Proof.Machine.execCollAg x s
  | .collRs x => Sys2Proof.Machine.execCollRs x s
  | .collFree x => Sys2Proof.Machine.execCollFree x s
  | .leaseReq x => Sys2Proof.Machine.execLeaseReq x s
  | .leaseRet x => Sys2Proof.Machine.execLeaseRet x s
  | .leaseQ x => Sys2Proof.Machine.execLeaseQ x s
  | .bankRun x => Sys2Proof.Machine.execBankRun x s
  | .bankStat x => Sys2Proof.Machine.execBankStat x s
  | .codeReg x => Sys2Proof.Machine.execCodeReg x s
  | .codeReg64 x => Sys2Proof.Machine.execCodeReg64 x s
  | .keyAlloc x => Sys2Proof.Machine.execKeyAlloc x s
  | .keyAlloc64 x => Sys2Proof.Machine.execKeyAlloc64 x s
  | .keyRevoke x => Sys2Proof.Machine.execKeyRevoke x s
  | .keyRevoke64 x => Sys2Proof.Machine.execKeyRevoke64 x s
  | .ctxSave x => Sys2Proof.Machine.execCtxSave x s
  | .ctxSave64 x => Sys2Proof.Machine.execCtxSave64 x s
  | .ctxLoad x => Sys2Proof.Machine.execCtxLoad x s
  | .ctxLoad64 x => Sys2Proof.Machine.execCtxLoad64 x s
  | .partStop x => Sys2Proof.Machine.execPartStop x s
  | .partStop64 x => Sys2Proof.Machine.execPartStop64 x s
  | .scrub x => Sys2Proof.Machine.execScrub x s
  | .scrub64 x => Sys2Proof.Machine.execScrub64 x s
  | .calSet x => Sys2Proof.Machine.execCalSet x s
  | .calSet64 x => Sys2Proof.Machine.execCalSet64 x s
  | .tlbInv x => Sys2Proof.Machine.execTlbInv x s
  | .tlbInv64 x => Sys2Proof.Machine.execTlbInv64 x s
  | .halt x => Sys2Proof.Machine.execHalt x s
  | .halt64 x => Sys2Proof.Machine.execHalt64 x s
  | .nbOpen x => Sys2Proof.Machine.execNbOpen x s
  | .nbLdacc x => Sys2Proof.Machine.execNbLdacc x s
  | .nbScadd x => Sys2Proof.Machine.execNbScadd x s
  | .nbScadd64 x => Sys2Proof.Machine.execNbScadd64 x s
  | .nbMac x => Sys2Proof.Machine.execNbMac x s
  | .nbMac64 x => Sys2Proof.Machine.execNbMac64 x s
  | .nbWr x => Sys2Proof.Machine.execNbWr x s
  | .nbLoop x => Sys2Proof.Machine.execNbLoop x s
  | .nbScale x => Sys2Proof.Machine.execNbScale x s
  | .nbScale64 x => Sys2Proof.Machine.execNbScale64 x s
  | .nbClr x => Sys2Proof.Machine.execNbClr x s
  | .nbEnd x => Sys2Proof.Machine.execNbEnd x s
  | .decodeTrap => Sys2Proof.Machine.execDecodeTrap s
  | .nbIllegalWord => Sys2Proof.Machine.execNbIllegalWord s
  | .postedStorePerform => Sys2Proof.Machine.execPostedStorePerform s
  | .msixVectorUnmask => Sys2Proof.Machine.execMsixVectorUnmask s

end Sys2Proof.Machine
end

