-- ==== Sys2Proof/Machine/Run.lean ====
section
/-! DEFINITION. Running a decoded instruction: `execForm` is its constructor's meaning, and `runForm` is the same function in a
form that Lean can compile (a constructor with fields may not be numbered above 244 in compiled code). -/
namespace Sys2Proof.Machine

noncomputable section

/-- Run a decoded instruction: its constructor's meaning. -/
def execForm (o : Op) (f : Fields) (s : State) : Host.Outcome State Fault Refusal :=
  match buildInstr o f with
  | some i => exec i s
  | none => .next s

end

/-- A meaning applied to fields of its shape. -/
def runWith {T : Type} (x : Option T) (k : T → State → Host.Outcome State Fault Refusal) (s : State) :
    Host.Outcome State Fault Refusal :=
  match x with
  | some v => k v s
  | none => .next s

/-- `execForm`, arm by arm. -/
def runForm (o : Op) (f : Fields) (s : State) : Host.Outcome State Fault Refusal :=
  match o with
  | .add => runWith f.asS32 Sys2Proof.Machine.execAdd s
  | .addImm => runWith f.asS64 Sys2Proof.Machine.execAddImm s
  | .sub => runWith f.asS32 Sys2Proof.Machine.execSub s
  | .subImm => runWith f.asS64 Sys2Proof.Machine.execSubImm s
  | .mul => runWith f.asS32 Sys2Proof.Machine.execMul s
  | .mulImm => runWith f.asS64 Sys2Proof.Machine.execMulImm s
  | .mulh => runWith f.asS32 Sys2Proof.Machine.execMulh s
  | .mulhImm => runWith f.asS64 Sys2Proof.Machine.execMulhImm s
  | .div => runWith f.asS32 Sys2Proof.Machine.execDiv s
  | .divImm => runWith f.asS64 Sys2Proof.Machine.execDivImm s
  | .rem => runWith f.asS32 Sys2Proof.Machine.execRem s
  | .remImm => runWith f.asS64 Sys2Proof.Machine.execRemImm s
  | .and => runWith f.asS32 Sys2Proof.Machine.execAnd s
  | .andImm => runWith f.asS64 Sys2Proof.Machine.execAndImm s
  | .or => runWith f.asS32 Sys2Proof.Machine.execOr s
  | .orImm => runWith f.asS64 Sys2Proof.Machine.execOrImm s
  | .xor => runWith f.asS32 Sys2Proof.Machine.execXor s
  | .xorImm => runWith f.asS64 Sys2Proof.Machine.execXorImm s
  | .shl => runWith f.asS32 Sys2Proof.Machine.execShl s
  | .shlImm => runWith f.asS64 Sys2Proof.Machine.execShlImm s
  | .shr => runWith f.asS32 Sys2Proof.Machine.execShr s
  | .shrImm => runWith f.asS64 Sys2Proof.Machine.execShrImm s
  | .sra => runWith f.asS32 Sys2Proof.Machine.execSra s
  | .sraImm => runWith f.asS64 Sys2Proof.Machine.execSraImm s
  | .min => runWith f.asS32 Sys2Proof.Machine.execMin s
  | .minImm => runWith f.asS64 Sys2Proof.Machine.execMinImm s
  | .max => runWith f.asS32 Sys2Proof.Machine.execMax s
  | .maxImm => runWith f.asS64 Sys2Proof.Machine.execMaxImm s
  | .clz => runWith f.asS32 Sys2Proof.Machine.execClz s
  | .popc => runWith f.asS32 Sys2Proof.Machine.execPopc s
  | .bfx => runWith f.asS32 Sys2Proof.Machine.execBfx s
  | .bfxImm => runWith f.asS64 Sys2Proof.Machine.execBfxImm s
  | .bfi => runWith f.asS32 Sys2Proof.Machine.execBfi s
  | .bfiImm => runWith f.asS64 Sys2Proof.Machine.execBfiImm s
  | .ext => runWith f.asS32 Sys2Proof.Machine.execExt s
  | .extImm => runWith f.asS64 Sys2Proof.Machine.execExtImm s
  | .cmp => runWith f.asS32 Sys2Proof.Machine.execCmp s
  | .cmpImm => runWith f.asS64 Sys2Proof.Machine.execCmpImm s
  | .sel => runWith f.asS32 Sys2Proof.Machine.execSel s
  | .li64 => runWith f.asS64 Sys2Proof.Machine.execLi64 s
  | .li96 => runWith f.asS96 Sys2Proof.Machine.execLi96 s
  | .lea => runWith f.asS64 Sys2Proof.Machine.execLea s
  | .ld => runWith f.asS32 Sys2Proof.Machine.execLd s
  | .ldImm => runWith f.asS64 Sys2Proof.Machine.execLdImm s
  | .st => runWith f.asS32 Sys2Proof.Machine.execSt s
  | .stImm => runWith f.asS64 Sys2Proof.Machine.execStImm s
  | .br => runWith f.asS64 Sys2Proof.Machine.execBr s
  | .jmp => runWith f.asS64 Sys2Proof.Machine.execJmp s
  | .call => runWith f.asS64 Sys2Proof.Machine.execCall s
  | .loop => runWith f.asS64 Sys2Proof.Machine.execLoop s
  | .jmpx => runWith f.asS32 Sys2Proof.Machine.execJmpx s
  | .ret => runWith f.asS32 Sys2Proof.Machine.execRet s
  | .nop => runWith f.asS32 Sys2Proof.Machine.execNop s
  | .nop64 => runWith f.asS64 Sys2Proof.Machine.execNop64 s
  | .nop96 => runWith f.asS96 Sys2Proof.Machine.execNop96 s
  | .endTeam => runWith f.asS32 Sys2Proof.Machine.execEndTeam s
  | .fork => runWith f.asS96 Sys2Proof.Machine.execFork s
  | .join => runWith f.asS32 Sys2Proof.Machine.execJoin s
  | .nestSet => runWith f.asS32 Sys2Proof.Machine.execNestSet s
  | .nestGo => runWith f.asS32 Sys2Proof.Machine.execNestGo s
  | .nestClamp => runWith f.asS32 Sys2Proof.Machine.execNestClamp s
  | .launch => runWith f.asS64 Sys2Proof.Machine.execLaunch s
  | .tsub => runWith f.asS64 Sys2Proof.Machine.execTsub s
  | .tresume => runWith f.asS32 Sys2Proof.Machine.execTresume s
  | .graphArm => runWith f.asS64 Sys2Proof.Machine.execGraphArm s
  | .evqPop => runWith f.asS32 Sys2Proof.Machine.execEvqPop s
  | .evqWait => runWith f.asS32 Sys2Proof.Machine.execEvqWait s
  | .semSig => runWith f.asS32 Sys2Proof.Machine.execSemSig s
  | .semSigImm => runWith f.asS64 Sys2Proof.Machine.execSemSigImm s
  | .semWait => runWith f.asS32 Sys2Proof.Machine.execSemWait s
  | .semWaitImm => runWith f.asS64 Sys2Proof.Machine.execSemWaitImm s
  | .semSet => runWith f.asS64 Sys2Proof.Machine.execSemSet s
  | .semRsig => runWith f.asS64 Sys2Proof.Machine.execSemRsig s
  | .ctlRd => runWith f.asS32 Sys2Proof.Machine.execCtlRd s
  | .ctlWr => runWith f.asS32 Sys2Proof.Machine.execCtlWr s
  | .tstamp => runWith f.asS32 Sys2Proof.Machine.execTstamp s
  | .stageSw => runWith f.asS32 Sys2Proof.Machine.execStageSw s
  | .trap => runWith f.asS32 Sys2Proof.Machine.execTrap s
  | .eret => runWith f.asS32 Sys2Proof.Machine.execEret s
  | .vadd => runWith f.asV32 Sys2Proof.Machine.execVadd s
  | .vaddFull => runWith f.asV64 Sys2Proof.Machine.execVaddFull s
  | .vsub => runWith f.asV32 Sys2Proof.Machine.execVsub s
  | .vsubFull => runWith f.asV64 Sys2Proof.Machine.execVsubFull s
  | .vmul => runWith f.asV32 Sys2Proof.Machine.execVmul s
  | .vmulFull => runWith f.asV64 Sys2Proof.Machine.execVmulFull s
  | .vfma => runWith f.asV64 Sys2Proof.Machine.execVfma s
  | .vmin => runWith f.asV32 Sys2Proof.Machine.execVmin s
  | .vminFull => runWith f.asV64 Sys2Proof.Machine.execVminFull s
  | .vmax => runWith f.asV32 Sys2Proof.Machine.execVmax s
  | .vmaxFull => runWith f.asV64 Sys2Proof.Machine.execVmaxFull s
  | .vabs => runWith f.asV64 Sys2Proof.Machine.execVabs s
  | .vneg => runWith f.asV64 Sys2Proof.Machine.execVneg s
  | .vand => runWith f.asV32 Sys2Proof.Machine.execVand s
  | .vandFull => runWith f.asV64 Sys2Proof.Machine.execVandFull s
  | .vor => runWith f.asV32 Sys2Proof.Machine.execVor s
  | .vorFull => runWith f.asV64 Sys2Proof.Machine.execVorFull s
  | .vxor => runWith f.asV32 Sys2Proof.Machine.execVxor s
  | .vxorFull => runWith f.asV64 Sys2Proof.Machine.execVxorFull s
  | .vshl => runWith f.asV64 Sys2Proof.Machine.execVshl s
  | .vshr => runWith f.asV64 Sys2Proof.Machine.execVshr s
  | .vcmp => runWith f.asV64 Sys2Proof.Machine.execVcmp s
  | .vsel => runWith f.asV64 Sys2Proof.Machine.execVsel s
  | .vmov => runWith f.asV32 Sys2Proof.Machine.execVmov s
  | .vmovFull => runWith f.asV64 Sys2Proof.Machine.execVmovFull s
  | .vli => runWith f.asV96 Sys2Proof.Machine.execVli s
  | .vcvt => runWith f.asV64 Sys2Proof.Machine.execVcvt s
  | .vwid => runWith f.asV64 Sys2Proof.Machine.execVwid s
  | .vnar => runWith f.asV64 Sys2Proof.Machine.execVnar s
  | .vpack => runWith f.asV64 Sys2Proof.Machine.execVpack s
  | .vunpk => runWith f.asV64 Sys2Proof.Machine.execVunpk s
  | .vrcp => runWith f.asV64 Sys2Proof.Machine.execVrcp s
  | .vrsq => runWith f.asV64 Sys2Proof.Machine.execVrsq s
  | .vexp => runWith f.asV64 Sys2Proof.Machine.execVexp s
  | .vlog => runWith f.asV64 Sys2Proof.Machine.execVlog s
  | .vtanh => runWith f.asV64 Sys2Proof.Machine.execVtanh s
  | .vsigm => runWith f.asV64 Sys2Proof.Machine.execVsigm s
  | .vgelu => runWith f.asV64 Sys2Proof.Machine.execVgelu s
  | .vsin => runWith f.asV64 Sys2Proof.Machine.execVsin s
  | .vrcps => runWith f.asV64 Sys2Proof.Machine.execVrcps s
  | .vrsqs => runWith f.asV64 Sys2Proof.Machine.execVrsqs s
  | .vrsum => runWith f.asV64 Sys2Proof.Machine.execVrsum s
  | .vrmax => runWith f.asV64 Sys2Proof.Machine.execVrmax s
  | .vrmin => runWith f.asV64 Sys2Proof.Machine.execVrmin s
  | .vscan => runWith f.asV64 Sys2Proof.Machine.execVscan s
  | .vargmax => runWith f.asV64 Sys2Proof.Machine.execVargmax s
  | .vtopk => runWith f.asV64 Sys2Proof.Machine.execVtopk s
  | .vperm => runWith f.asV64 Sys2Proof.Machine.execVperm s
  | .vshuf => runWith f.asV64 Sys2Proof.Machine.execVshuf s
  | .vbcast => runWith f.asV64 Sys2Proof.Machine.execVbcast s
  | .viota => runWith f.asV64 Sys2Proof.Machine.execViota s
  | .vmand => runWith f.asV64 Sys2Proof.Machine.execVmand s
  | .vmor => runWith f.asV64 Sys2Proof.Machine.execVmor s
  | .vmnot => runWith f.asV64 Sys2Proof.Machine.execVmnot s
  | .vmpop => runWith f.asV64 Sys2Proof.Machine.execVmpop s
  | .vqnt => runWith f.asV64 Sys2Proof.Machine.execVqnt s
  | .vdqnt => runWith f.asV64 Sys2Proof.Machine.execVdqnt s
  | .vld => runWith f.asV96 Sys2Proof.Machine.execVld s
  | .vst => runWith f.asV96 Sys2Proof.Machine.execVst s
  | .vldx => runWith f.asV96 Sys2Proof.Machine.execVldx s
  | .vstx => runWith f.asV96 Sys2Proof.Machine.execVstx s
  | .vdefer => runWith f.asV64 Sys2Proof.Machine.execVdefer s
  | .vdrain => runWith f.asV64 Sys2Proof.Machine.execVdrain s
  | .vdret => runWith f.asV64 Sys2Proof.Machine.execVdret s
  | .vbr => runWith f.asV96 Sys2Proof.Machine.execVbr s
  | .vloop => runWith f.asV96 Sys2Proof.Machine.execVloop s
  | .vtake => runWith f.asV64 Sys2Proof.Machine.execVtake s
  | .vgive => runWith f.asV64 Sys2Proof.Machine.execVgive s
  | .nestBeg => runWith f.asMark Sys2Proof.Machine.execNestBeg s
  | .nestEnd => runWith f.asMark Sys2Proof.Machine.execNestEnd s
  | .rdv => runWith f.asMark Sys2Proof.Machine.execRdv s
  | .engineEnd => runWith f.asMark Sys2Proof.Machine.execEngineEnd s
  | .mma => runWith f.asM64 Sys2Proof.Machine.execMma s
  | .mmaz => runWith f.asM64 Sys2Proof.Machine.execMmaz s
  | .mmag => runWith f.asM64 Sys2Proof.Machine.execMmag s
  | .mconst => runWith f.asM64 Sys2Proof.Machine.execMconst s
  | .mprec => runWith f.asM96 Sys2Proof.Machine.execMprec s
  | .mscale => runWith f.asM64 Sys2Proof.Machine.execMscale s
  | .mown => runWith f.asM64 Sys2Proof.Machine.execMown s
  | .mclr => runWith f.asM64 Sys2Proof.Machine.execMclr s
  | .mcvt => runWith f.asM64 Sys2Proof.Machine.execMcvt s
  | .mscat => runWith f.asM64 Sys2Proof.Machine.execMscat s
  | .mfree => runWith f.asM64 Sys2Proof.Machine.execMfree s
  | .cp => runWith f.asC64 Sys2Proof.Machine.execCp s
  | .cp96 => runWith f.asC96 Sys2Proof.Machine.execCp96 s
  | .cpc => runWith f.asC64 Sys2Proof.Machine.execCpc s
  | .cpc96 => runWith f.asC96 Sys2Proof.Machine.execCpc96 s
  | .cpg => runWith f.asC64 Sys2Proof.Machine.execCpg s
  | .cpg96 => runWith f.asC96 Sys2Proof.Machine.execCpg96 s
  | .cps => runWith f.asC64 Sys2Proof.Machine.execCps s
  | .cps96 => runWith f.asC96 Sys2Proof.Machine.execCps96 s
  | .cpk => runWith f.asC64 Sys2Proof.Machine.execCpk s
  | .cpk96 => runWith f.asC96 Sys2Proof.Machine.execCpk96 s
  | .qinit => runWith f.asC64 Sys2Proof.Machine.execQinit s
  | .qinit96 => runWith f.asC96 Sys2Proof.Machine.execQinit96 s
  | .qpush => runWith f.asC64 Sys2Proof.Machine.execQpush s
  | .qpush96 => runWith f.asC96 Sys2Proof.Machine.execQpush96 s
  | .qpop => runWith f.asC64 Sys2Proof.Machine.execQpop s
  | .qpop96 => runWith f.asC96 Sys2Proof.Machine.execQpop96 s
  | .qpeek => runWith f.copt Sys2Proof.Machine.execQpeek s
  | .pref => runWith f.asC64 Sys2Proof.Machine.execPref s
  | .pref96 => runWith f.asC96 Sys2Proof.Machine.execPref96 s
  | .pin => runWith f.asC64 Sys2Proof.Machine.execPin s
  | .pin96 => runWith f.asC96 Sys2Proof.Machine.execPin96 s
  | .unpin => runWith f.asC64 Sys2Proof.Machine.execUnpin s
  | .unpin96 => runWith f.asC96 Sys2Proof.Machine.execUnpin96 s
  | .kvcommit => runWith f.asC64 Sys2Proof.Machine.execKvcommit s
  | .kvcommit96 => runWith f.asC96 Sys2Proof.Machine.execKvcommit96 s
  | .rst => runWith f.asC64 Sys2Proof.Machine.execRst s
  | .rst96 => runWith f.asC96 Sys2Proof.Machine.execRst96 s
  | .rld => runWith f.asC64 Sys2Proof.Machine.execRld s
  | .rld96 => runWith f.asC96 Sys2Proof.Machine.execRld96 s
  | .lsend => runWith f.asC64 Sys2Proof.Machine.execLsend s
  | .lsend96 => runWith f.asC96 Sys2Proof.Machine.execLsend96 s
  | .lradd => runWith f.asC64 Sys2Proof.Machine.execLradd s
  | .lradd96 => runWith f.asC96 Sys2Proof.Machine.execLradd96 s
  | .tslotSet => runWith f.asC64 Sys2Proof.Machine.execTslotSet s
  | .tslotSet96 => runWith f.asC96 Sys2Proof.Machine.execTslotSet96 s
  | .tfull => runWith f.copt Sys2Proof.Machine.execTfull s
  | .tempty => runWith f.copt Sys2Proof.Machine.execTempty s
  | .twait => runWith f.copt Sys2Proof.Machine.execTwait s
  | .foot => runWith f.asC64 Sys2Proof.Machine.execFoot s
  | .foot96 => runWith f.asC96 Sys2Proof.Machine.execFoot96 s
  | .amoAdd => runWith f.asS32 Sys2Proof.Machine.execAmoAdd s
  | .amoAddImm => runWith f.asS64 Sys2Proof.Machine.execAmoAddImm s
  | .amoMin => runWith f.asS32 Sys2Proof.Machine.execAmoMin s
  | .amoMinImm => runWith f.asS64 Sys2Proof.Machine.execAmoMinImm s
  | .amoMax => runWith f.asS32 Sys2Proof.Machine.execAmoMax s
  | .amoMaxImm => runWith f.asS64 Sys2Proof.Machine.execAmoMaxImm s
  | .amoXchg => runWith f.asS32 Sys2Proof.Machine.execAmoXchg s
  | .amoXchgImm => runWith f.asS64 Sys2Proof.Machine.execAmoXchgImm s
  | .amoCas => runWith f.asS32 Sys2Proof.Machine.execAmoCas s
  | .amoCasImm => runWith f.asS64 Sys2Proof.Machine.execAmoCasImm s
  | .amoAnd => runWith f.asS32 Sys2Proof.Machine.execAmoAnd s
  | .amoAndImm => runWith f.asS64 Sys2Proof.Machine.execAmoAndImm s
  | .amoOr => runWith f.asS32 Sys2Proof.Machine.execAmoOr s
  | .amoOrImm => runWith f.asS64 Sys2Proof.Machine.execAmoOrImm s
  | .vamo => runWith f.asV64 Sys2Proof.Machine.execVamo s
  | .fence => runWith f.asS32 Sys2Proof.Machine.execFence s
  | .barExp => runWith f.asS64 Sys2Proof.Machine.execBarExp s
  | .barWait => runWith f.asS64 Sys2Proof.Machine.execBarWait s
  | .barArr => runWith f.asS64 Sys2Proof.Machine.execBarArr s
  | .collReg => runWith f.asS64 Sys2Proof.Machine.execCollReg s
  | .collAr => runWith f.asS64 Sys2Proof.Machine.execCollAr s
  | .collAg => runWith f.asS64 Sys2Proof.Machine.execCollAg s
  | .collRs => runWith f.asS64 Sys2Proof.Machine.execCollRs s
  | .collFree => runWith f.asS64 Sys2Proof.Machine.execCollFree s
  | .leaseReq => runWith f.asS64 Sys2Proof.Machine.execLeaseReq s
  | .leaseRet => runWith f.asS64 Sys2Proof.Machine.execLeaseRet s
  | .leaseQ => runWith f.asS64 Sys2Proof.Machine.execLeaseQ s
  | .bankRun => runWith f.asS64 Sys2Proof.Machine.execBankRun s
  | .bankStat => runWith f.asS64 Sys2Proof.Machine.execBankStat s
  | .codeReg => runWith f.asS32 Sys2Proof.Machine.execCodeReg s
  | .codeReg64 => runWith f.asS64 Sys2Proof.Machine.execCodeReg64 s
  | .keyAlloc => runWith f.asS32 Sys2Proof.Machine.execKeyAlloc s
  | .keyAlloc64 => runWith f.asS64 Sys2Proof.Machine.execKeyAlloc64 s
  | .keyRevoke => runWith f.asS32 Sys2Proof.Machine.execKeyRevoke s
  | .keyRevoke64 => runWith f.asS64 Sys2Proof.Machine.execKeyRevoke64 s
  | .ctxSave => runWith f.asS32 Sys2Proof.Machine.execCtxSave s
  | .ctxSave64 => runWith f.asS64 Sys2Proof.Machine.execCtxSave64 s
  | .ctxLoad => runWith f.asS32 Sys2Proof.Machine.execCtxLoad s
  | .ctxLoad64 => runWith f.asS64 Sys2Proof.Machine.execCtxLoad64 s
  | .partStop => runWith f.asS32 Sys2Proof.Machine.execPartStop s
  | .partStop64 => runWith f.asS64 Sys2Proof.Machine.execPartStop64 s
  | .scrub => runWith f.asS32 Sys2Proof.Machine.execScrub s
  | .scrub64 => runWith f.asS64 Sys2Proof.Machine.execScrub64 s
  | .calSet => runWith f.asS32 Sys2Proof.Machine.execCalSet s
  | .calSet64 => runWith f.asS64 Sys2Proof.Machine.execCalSet64 s
  | .tlbInv => runWith f.asS32 Sys2Proof.Machine.execTlbInv s
  | .tlbInv64 => runWith f.asS64 Sys2Proof.Machine.execTlbInv64 s
  | .halt => runWith f.asS32 Sys2Proof.Machine.execHalt s
  | .halt64 => runWith f.asS64 Sys2Proof.Machine.execHalt64 s
  | .nbOpen => runWith f.nopt Sys2Proof.Machine.execNbOpen s
  | .nbLdacc => runWith f.nopt Sys2Proof.Machine.execNbLdacc s
  | .nbScadd => runWith f.asN32 Sys2Proof.Machine.execNbScadd s
  | .nbScadd64 => runWith f.asN64 Sys2Proof.Machine.execNbScadd64 s
  | .nbMac => runWith f.asN32 Sys2Proof.Machine.execNbMac s
  | .nbMac64 => runWith f.asN64 Sys2Proof.Machine.execNbMac64 s
  | .nbWr => runWith f.nopt Sys2Proof.Machine.execNbWr s
  | .nbLoop => runWith f.nopt Sys2Proof.Machine.execNbLoop s
  | .nbScale => runWith f.asN32 Sys2Proof.Machine.execNbScale s
  | .nbScale64 => runWith f.asN64 Sys2Proof.Machine.execNbScale64 s
  | .nbClr => runWith f.nopt Sys2Proof.Machine.execNbClr s
  | .nbEnd => runWith f.nopt Sys2Proof.Machine.execNbEnd s

theorem execForm_map {T : Type} (x : Option T) (c : T → Instr) (s : State) :
    (match x.map c with
      | some i => exec i s
      | none => .next s) = runWith x (fun v => exec (c v)) s := by
  cases x <;> rfl

@[csimp] theorem execForm_eq : @execForm = @runForm := by
  funext o f s
  cases o <;> exact execForm_map _ _ s

end Sys2Proof.Machine
end

