-- ==== Sys2Proof/Machine/Step.lean ====
section
/-! DEFINITION. One step of the device: the next move of the input list, or the next instruction of the current agent. -/
namespace Sys2Proof.Machine

/-- One step (log 1): time passes, and the move's agent issues, its event happens, or the outside acts. -/
def step (s : State) : Host.Outcome State Fault Refusal :=
  match s.inputs with
  | [] => issueAgent execForm (fun n s => s.nbIll n) s.cur s
  | m :: rest =>
    let s := ({ s with inputs := rest } : State).tick m.dt
    match m.act with
    | .run g => issueAgent execForm (fun n s => s.nbIll n) g s
    | .event i a => if i.op.isSome then .fault .badInput else exec i { s with arg := a }
    | .outside o => .next (s.disturb o)

/-- The instruction whose bits are `w` where the next step issues it (log 6). -/
def State.withFetchWord (s : State) (nbits w : Nat) : State := placeInstr (tableBytes 12 (w % 2 ^ nbits)) s

end Sys2Proof.Machine
end

