-- ==== Sys2Proof/Safety.lean ====
section
/-! DEFINITION. The terms in which statements speak of a run: which stream issues, the team it issues for, the state with that
team replaced, and the forms that the spec requires of a state. -/
namespace Sys2Proof.Machine

/-! ### Who issues -/

/-- Stream `st` of cell `c` issues, and team `t` stands in the active stage of that cell (R106, R151). -/
def Issues (s : State) (c : Nat) (st : Stream) (t : Team) : Prop := s.cur = .stream c st ∧ (s.cell c).act = some t

/-- The strand of team `t` issues in cell `c` and the guard predicate `pg` holds (R181, R200). -/
def Guarded (s : State) (c : Nat) (t : Team) (pg : BitVec 3) : Prop := Issues s c .strand t ∧ t.pred pg.toNat = true

/-- The stream of engine `e` issues for team `t` in cell `c`; in the vector stream no vault load's poison is due (R268). -/
def EngineIssues (s : State) (c : Nat) (e : Engine) (t : Team) : Prop :=
  Issues s c e.stream t ∧ (e = .vector → (s.cell c).sh.duePoison = none)

/-- The state in which the active team of cell `c` is `t`. -/
def State.withTeam (s : State) (c : Nat) (t : Team) : State := s.putTeam (.here c (s.cell c).active) t

/-- The state in which the shared part of cell `c` is `x` (R106). -/
def State.withShared (s : State) (c : Nat) (x : Shared) : State := s.modCell c fun y => { y with sh := x }

/-- The state in which the strand has completed its instruction and its team is `u`: what peers answered to it is used (R431). -/
def State.after (s : State) (c : Nat) (u : Team) : State := (s.withTeam c u).usedReplies (u.key .strand)

/-- The same for a state that the instruction has left otherwise; `t` is the team that issued. -/
def State.did (s : State) (t : Team) : State := s.usedReplies (t.key .strand)

/-- The same for an engine: with an instruction of the vector stream one stream cycle passes (R238). -/
def State.cycled (s : State) (e : Engine) (c : Nat) (t : Team) : State :=
  if e = .vector then (s.usedReplies (t.key e.stream)).streamCycle c else s.usedReplies (t.key e.stream)

/-- A team whose stream `st` has moved past an instruction of `len` bytes: its counter, or the position of its nest. -/
def Team.past (t : Team) (st : Stream) (len : Nat) : Team :=
  match engineOf st with
  | none => { t with pc := t.pc + wd len, waitPeer := none, stood := none }
  | some e => if (t.eng e).nest.isSome then t.nestStep e else t.setPc st (t.pcOf st + wd len)

/-- Who an access by a stream of the active team of cell `c` is. -/
def State.whoIs (s : State) (c : Nat) (t : Team) (st : Stream := .strand) : Who :=
  { asid := t.asid, cell := c, stage := (s.cell c).active, key := t.key st }

/-- The strand of cell `c` may post one more store (R197). -/
def StoreRoom (s : State) (c : Nat) : Prop := (s.mem.posted.filter fun p => p.strand && p.src == c).length < 16

/-- The trap of cause `k` that stream `st` takes at its instruction, from the state in which its team is `t` (R461). -/
def State.trapAt (s : State) (c : Nat) (st : Stream) (t : Team) (k : Cause) (i : Info) : State :=
  ((s.withTeam c t).usedReplies (t.key st)).takeTrap c st k true (t.pcOf st) i

/-! ### The arithmetic of R203, said with bit vectors -/

/-- The nearest value in the range of `n` bits, signed or unsigned. -/
def saturate (n : Nat) (u : Bool) (t : Int) : BitVec n :=
  if u then (if t < 0 then 0 else if (2 : Int) ^ n ≤ t then BitVec.allOnes n else BitVec.ofInt n t)
  else if t < -(2 : Int) ^ (n - 1) then BitVec.intMin n else if (2 : Int) ^ (n - 1) ≤ t then BitVec.intMax n else BitVec.ofInt n t

/-- The value that bits stand for, signed or unsigned. -/
def valueOf {n : Nat} (u : Bool) (a : BitVec n) : Int := if u then (a.toNat : Int) else a.toInt

/-- The result of R203 in `n` bits. -/
def aluBits (n : Nat) (op : AluOp) (u sat : Bool) (a b : BitVec n) : BitVec n :=
  match op with
  | .add => if sat then saturate n u (valueOf u a + valueOf u b) else a + b
  | .sub => if sat then saturate n u (valueOf u a - valueOf u b) else a - b
  | .mul => if sat then saturate n u (valueOf u a * valueOf u b) else a * b
  | .mulh => if u then ((a.setWidth (2 * n) * b.setWidth (2 * n)) >>> n).setWidth n
             else ((a.signExtend (2 * n) * b.signExtend (2 * n)) >>> n).setWidth n
  | .div => if b = 0 then BitVec.allOnes n else if u then a / b else a.sdiv b
  | .rem => if b = 0 then a else if u then a % b else a.srem b
  | .and => a &&& b
  | .or => a ||| b
  | .xor => a ^^^ b
  | .shl => if n ≤ b.toNat then 0 else a <<< b.toNat
  | .shr => if n ≤ b.toNat then 0 else a >>> b.toNat
  | .sra => if n ≤ b.toNat then (if a.msb then BitVec.allOnes n else 0) else a.sshiftRight b.toNat
  | .min => if (if u then a.ule b else a.sle b) then a else b
  | .max => if (if u then a.ule b else a.sle b) then b else a

/-- The result of R203: .w works on the low 32 bits and sign-extends, .u and .sat as MOD says. -/
def aluSpec (op : AluOp) (md : BitVec 3) (a b : Word) : Word :=
  if md.getLsbD 0 then (aluBits 32 op (md.getLsbD 1) (md.getLsbD 2) (a.setWidth 32) (b.setWidth 32)).signExtend 64
  else aluBits 64 op (md.getLsbD 1) (md.getLsbD 2) a b

/-- The new value of an atomic on `n` bits (R400, R402): `v` is the operand; .u compares unsigned. CAS is not here. -/
def amoSpec (n : Nat) (f : AmoFn) (u : Bool) (old v : BitVec n) : BitVec n :=
  match f with
  | .add => old + v
  | .min => if (if u then v.ult old else v.slt old) then v else old
  | .max => if (if u then old.ult v else old.slt v) then v else old
  | .and => old &&& v
  | .or => old ||| v
  | _ => v

/-! ### Where an access goes (R27, R309) -/

/-- Checks 1 to 3 of R27 pass for `n` bytes at offset `off` of handle `h`: the entry is `e`, a write may use it, and no swap holds up
the reading of the entry (R329). -/
def HandleOk (s : State) (asid h off n : Nat) (write : Bool) (e : HEntry) : Prop :=
  s.handle? asid h = some e ∧ e.fits off n = true ∧ (write = true → e.wp = false) ∧
    ∀ f, s.handleFrame asid h = some f → s.swapBlocks f = false

/-- The state after a handle entry has been read: that is an access to its frame (R329). -/
def State.handleRead (s : State) (asid h : Nat) : State := (s.handleFrame asid h).elim s s.countAccess

/-- The access goes to offset `v` of the issuing team's own vault (R306, R524): the path is VAULT, SELF is 1, the bytes lie in the
allotment, and no posted store to the cell is on its way (R322). -/
def OwnVault (s : State) (c : Nat) (t : Team) (h off n : Nat) (write : Bool) (v : Nat) : Prop :=
  (∃ e, HandleOk s t.asid h off n write e ∧ e.path = 3 ∧ e.base + off = 2 ^ 31 + v) ∧ v < 2 ^ 23 ∧
    v + n ≤ t.valloc * 65536 ∧ ∀ p ∈ s.mem.posted, p.cell ≠ c

/-- The access goes to local memory at `pa` through an ordinary page of path LOCAL (R309 to R315) that the TLB of cell `c` holds: the page
is valid, local, not memory-side, writable and dirty where it is written, its frame exists, no swap holds it up, the bytes lie in one
64 KiB unit, and the part does not run in confidential mode. -/
def LocalPage (s : State) (c asid h off n : Nat) (write : Bool) (pa : Nat) : Prop :=
  ∃ e p, HandleOk s asid h off n write e ∧ e.path = 0 ∧
    s.tlbAt c asid (e.base + off) = some p ∧ leafV p.leaf = true ∧ leafPeer p.leaf = 1023 ∧ leafRmode p.leaf ≠ 3 ∧
    leafOrdk p.leaf ≠ 3 ∧ leafMs p.leaf = false ∧ leafFrame p.leaf % 2 ^ (sizeLog (leafSize p.leaf) - 16) = 0 ∧
    s.frameExists (leafFrame p.leaf) = true ∧ (write = true → leafRo p.leaf = false ∧ leafD p.leaf = true) ∧
    pa = leafFrame p.leaf * 65536 + (e.base + off) % 2 ^ sizeLog (leafSize p.leaf) ∧ (s.handleRead asid h).swapBlocks (pa / 65536) = false ∧
    (e.base + off) % 65536 + n ≤ 65536 ∧ s.boot.on = false ∧ (s.keyMapOf (pa / 65536)).clr = false

/-- No line that the bytes touch is poisoned (R340). -/
def CleanLines (s : State) (pa n : Nat) : Prop := ∀ l ∈ linesOf pa n, s.mem.bad.mem l = false

/-- Little-endian bytes of a register (R146, R209). -/
def regBytes (n : Nat) (v : Word) : List Byte := (List.range n).map fun i => v.extractLsb' (8 * i) 8

/-- What LD writes of the `n` bytes it read: zero-extended with .u, else sign-extended (R209). -/
def loaded (n : Nat) (u : Bool) (bs : List Byte) : Word :=
  let v : Nat := (bs.zipIdx.map fun p => p.1.toNat * 256 ^ p.2).sum
  if u then BitVec.ofNat 64 v else (BitVec.ofNat (8 * n) v).signExtend 64

/-- The state that an acquire by `w` at a scope leaves (R382): it never waits and never traps. -/
def State.acquired (s : State) (w : Who) (scope : Nat) : State :=
  match (acquire w scope).run s with
  | .ok _ s' => s'
  | .error _ s' => s'

/-- The team with the value of a load outstanding in a register (R197). -/
def Team.loading (t : Team) (r : Nat) (v : Word) : Team := t.addLoad r v

/-- The team whose strand waits for no event record any longer (R199). -/
def Team.dropStrand256 (t : Team) : Team := t.dropWaiter 256 .strand

/-- The strand left at its instruction, which waits for nothing (R441). -/
def Team.still (t : Team) : Team := { t with waitPeer := none, stood := none }

/-! ### The vector stream (R174 to R178, R237, R238) -/

/-- Lane `i` of a vector register; 64 to 67 are the latches. -/
def Shared.laneAt (x : Shared) (r i : Nat) : BitVec 32 := Sparse.get 0 x.v (laneKey r i)

/-- Bit `i` of a mask. -/
def Shared.maskAt (x : Shared) (m i : Nat) : Bool := Sparse.get false x.m (128 * m + i)

/-- Lane `i` is active under the instruction's mask (R177). -/
def laneActive (v : V64) (x : Shared) (i : Nat) : Bool := decide (v.men = 0) || x.maskAt v.msk.toNat i

/-- Lane `i` of the first source, after the swizzle (R179). -/
def srcLane (v : V64) (x : Shared) (i : Nat) : BitVec 32 := swizzle v.swz.toNat (x.laneAt v.r.vs1.toNat i)

/-- Lane `i` of a pair of registers. -/
def Shared.pairAt (x : Shared) (r i : Nat) : Nat := (x.laneAt r i).toNat + 2 ^ 32 * (x.laneAt (r + 1) i).toNat

/-- The vector stream of cell `c` issues an instruction of `len` bytes with the pending result `l`, and its cycle passes. -/
def State.issuing (s : State) (c : Nat) (t : Team) (len : Nat) (l : Landing) : State :=
  (((s.withTeam c (t.past .vector len)).withShared c
    { (s.cell c).sh with landings := (s.cell c).sh.landings ++ [l] }).usedReplies (t.key .vector)).streamCycle c

/-- Landing writes the lanes that `w` gives, whole, and no other lane and no mask. -/
def Landing.writes (l : Landing) (w : Nat → Nat → Option (BitVec 32)) : Prop :=
  ∀ z : Shared, (∀ r i, i < 128 → (z.land l).laneAt r i = (w r i).getD (z.laneAt r i)) ∧ (z.land l).m = z.m

/-- Landing writes the fields `es` (position and width) of the active lanes of register `d`, and nothing else. -/
def Landing.writesElems (l : Landing) (d : Nat) (act : Nat → Bool) (es : List (Nat × Nat)) (f : Nat → Nat → Nat → Nat) : Prop :=
  ∀ z : Shared, (z.land l).m = z.m ∧ ∀ r i, i < 128 →
    (r = d → act i = true → (∀ e ∈ es, ((z.land l).laneAt r i).extractLsb' e.1 e.2 = BitVec.ofNat e.2 (f i e.1 e.2)) ∧
      ∀ j, (∀ e ∈ es, j < e.1 ∨ e.1 + e.2 ≤ j) → ((z.land l).laneAt r i).getLsbD j = (z.laneAt r i).getLsbD j) ∧
    (r ≠ d ∨ act i = false → (z.land l).laneAt r i = z.laneAt r i)

/-- Landing writes the active bits of mask `d`, and nothing else. -/
def Landing.writesMask (l : Landing) (d : Nat) (act : Nat → Bool) (f : Nat → Bool) : Prop :=
  ∀ z : Shared, (z.land l).v = z.v ∧ ∀ m i, i < 128 →
    (z.land l).maskAt m i = if m = d ∧ act i = true then f i else z.maskAt m i

/-- A pending result of latency `lat` of an instruction, without poison. -/
def Landing.plain (l : Landing) (v : V64) (lat : Nat) : Prop := l.rem = lat ∧ l.sq = (v.sq == 1) ∧ l.poison = none

/-- The offset that the address generator adds in the vector stream (R162). -/
def genOffset (x : V96) (t : Team) : Int :=
  if x.v.fn.getLsbD 2 then (t.running .vector).elim 0 fun n => n.agOffset (x.v.fn.toNat % 4) else 0

/-! ### Canonical forms -/

/-- Registers of a team in canonical form: s0 is not held, no entry is zero (R200). -/
def Team.regsWf (t : Team) : Bool :=
  Sparse.wf 0 t.regs && Sparse.wf 0 t.pregs && (Sparse.get 0 t.regs 0 == 0) && (Sparse.get 0 t.pregs 0 == 0)

/-- The team's vault is in canonical form. -/
def Team.vaultWf (t : Team) : Bool := t.vault.wf

/-- Every memory of the memory system is in canonical form: the local one, the host's and each peer's. -/
def Mem.wf (m : Mem) : Bool := m.phys.wf && m.host.wf && m.peer.all fun p => p.2.wf

/-- Every memory of the device is in canonical form: the memory system's, the vault of every team, and what epilogues left. -/
def State.memoryWf (s : State) : Prop :=
  s.mem.wf = true ∧ (∀ c b t, (s.cell c).team b = some t → t.vaultWf = true) ∧ (∀ c, (s.cell c).work.wf = true) ∧
    ∀ v ∈ s.hub.saved, v.team.vaultWf = true

end Sys2Proof.Machine
end

