-- ==== Sys2Proof/Certificates/Slice0/Obligations.lean ====
section
/-! DEFINITION. The statements about the machine. Each names the rules of spec/ that it formalises. -/
open Sys2Proof Sys2Proof.Machine

/-! ### Strand arithmetic (R202 to R208) -/

/-- R203, 32-bit forms: the destination takes the value of the operation on the two source registers, and the strand goes on 4 bytes
further. R203, 64-bit forms: the second operand is the sign-extended IMM. -/
def Obligations.AluForms : Prop :=
  (∀ (s : State) (c : Nat) (t : Team) (x : S32), Guarded s c t x.pg →
    ∀ p ∈ [(Instr.add, AluOp.add), (.sub, .sub), (.mul, .mul), (.mulh, .mulh), (.div, .div), (.rem, .rem), (.and, .and),
        (.or, .or), (.xor, .xor), (.shl, .shl), (.shr, .shr), (.sra, .sra), (.min, .min), (.max, .max)],
      exec (p.1 x) s = .next (s.after c
        ((t.past .strand 4).setSreg x.rd.toNat (aluSpec p.2 x.md (t.sreg x.rs1.toNat) (t.sreg x.rs2.toNat))))) ∧
  (∀ (s : State) (c : Nat) (t : Team) (x : S64), Guarded s c t x.r.pg →
    ∀ p ∈ [(Instr.addImm, AluOp.add), (.subImm, .sub), (.mulImm, .mul), (.mulhImm, .mulh), (.divImm, .div), (.remImm, .rem),
        (.andImm, .and), (.orImm, .or), (.xorImm, .xor), (.shlImm, .shl), (.shrImm, .shr), (.sraImm, .sra), (.minImm, .min),
        (.maxImm, .max)],
      exec (p.1 x) s = .next (s.after c
        ((t.past .strand 8).setSreg x.r.rd.toNat (aluSpec p.2 x.r.md (t.sreg x.r.rs1.toNat) (x.imm.signExtend 64)))))

/-- R204: CLZ and POPC of the low `n` bits, 32 with .w: the bits above the highest one, and the number of ones. R205: the bits of
what BFX, BFI and EXT write, for every descriptor: position, length reduced to what is there, and the extension. -/
def Obligations.BitOperations : Prop :=
  (∀ (s : State) (c : Nat) (t : Team) (x : S32), Guarded s c t x.pg →
    let n := if x.md.getLsbD 0 then 32 else 64
    let a := t.sreg x.rs1.toNat
    (∃ z, z ≤ n ∧ exec (.clz x) s = .next (s.after c ((t.past .strand 4).setSreg x.rd.toNat (BitVec.ofNat 64 z))) ∧
      (∀ i, n - z ≤ i → i < n → a.getLsbD i = false) ∧ (z < n → a.getLsbD (n - 1 - z) = true)) ∧
    exec (.popc x) s = .next (s.after c ((t.past .strand 4).setSreg x.rd.toNat
      (BitVec.ofNat 64 ((List.range n).filter fun i => a.getLsbD i).length)))) ∧
  (∀ (s : State) (c : Nat) (t : Team) (x : S32) (y : S64), Guarded s c t x.pg → Guarded s c t y.r.pg →
    let ext : Bool → Word → Nat → Nat → Word → Prop := fun u a pos len v => ∀ i, i < 64 → v.getLsbD i =
      if i < len then a.getLsbD (pos + i) else if u || len == 0 then false else a.getLsbD (pos + len - 1)
    let ins : Word → Word → Nat → Nat → Word → Prop := fun old a pos len v => ∀ i, i < 64 → v.getLsbD i =
      if pos ≤ i ∧ i < pos + len then a.getLsbD (i - pos) else old.getLsbD i
    let to32 : Word → State := fun v => s.after c ((t.past .strand 4).setSreg x.rd.toNat v)
    let to64 : Word → State := fun v => s.after c ((t.past .strand 8).setSreg y.r.rd.toNat v)
    let d := t.sreg x.rs2.toNat
    let pos := (d.extractLsb' 0 6).toNat
    let len := (d.extractLsb' 6 7).toNat
    (∃ v, exec (.bfx x) s = .next (to32 v) ∧ ext (x.md.getLsbD 1) (t.sreg x.rs1.toNat) pos (min len (64 - pos)) v) ∧
    (∃ v, exec (.bfi x) s = .next (to32 v) ∧ ins (t.sreg x.rd.toNat) (t.sreg x.rs1.toNat) pos (min len (64 - pos)) v) ∧
    (∃ v, exec (.ext x) s = .next (to32 v) ∧
      ext (x.md.getLsbD 1) (t.sreg x.rs1.toNat) 0 (min (d.extractLsb' 0 7).toNat 64) v) ∧
    let pos := (y.imm.extractLsb' 0 6).toNat
    let len := (y.imm.extractLsb' 6 7).toNat
    (pos + len ≤ 64 →
      (∃ v, exec (.bfxImm y) s = .next (to64 v) ∧ ext (y.r.md.getLsbD 1) (t.sreg y.r.rs1.toNat) pos len v) ∧
      (∃ v, exec (.bfiImm y) s = .next (to64 v) ∧ ins (t.sreg y.r.rd.toNat) (t.sreg y.r.rs1.toNat) pos len v)) ∧
    ((y.imm.extractLsb' 0 7).toNat ≤ 64 →
      ∃ v, exec (.extImm y) s = .next (to64 v) ∧
        ext (y.r.md.getLsbD 1) (t.sreg y.r.rs1.toNat) 0 (y.imm.extractLsb' 0 7).toNat v))

/-- R206 to R208, R231, R235: CMP writes the predicate that its condition gives, SEL chooses by a predicate, LI writes its literal,
TSTAMP the device time, and NOP of every length only goes on. -/
def Obligations.CompareSelectLiterals : Prop :=
  (∀ (s : State) (c : Nat) (t : Team) (x : S32), Guarded s c t x.pg →
    let t' := t.past .strand 4
    let a := t.sreg x.rs1.toNat
    let b := t.sreg x.rs2.toNat
    (∀ p ∈ [(0, decide (a = b)), (1, decide (a ≠ b)), (2, decide (a.toInt < b.toInt)), (3, decide (b.toInt ≤ a.toInt)),
        (4, decide (a.toNat < b.toNat)), (5, decide (b.toNat ≤ a.toNat)), (6, decide (a &&& b ≠ 0)), (7, decide (a &&& b = 0))],
      x.md.toNat = p.1 → exec (.cmp x) s = .next (s.after c (t'.setPred x.rd.toNat p.2))) ∧
    exec (.sel x) s = .next (s.after c (t'.setSreg x.rd.toNat (if t.pred x.md.toNat then a else b))) ∧
    exec (.tstamp x) s = .next (s.after c (t'.setSreg x.rd.toNat (BitVec.ofNat 64 s.now))) ∧
    exec (.nop x) s = .next (s.after c t')) ∧
  (∀ (s : State) (c : Nat) (t : Team) (x : S64), Guarded s c t x.r.pg →
    let t' := t.past .strand 8
    let a := t.sreg x.r.rs1.toNat
    let b := x.imm.signExtend 64
    (∀ p ∈ [(0, decide (a = b)), (1, decide (a ≠ b)), (2, decide (a.toInt < b.toInt)), (3, decide (b.toInt ≤ a.toInt)),
        (4, decide (a.toNat < b.toNat)), (5, decide (b.toNat ≤ a.toNat)), (6, decide (a &&& b ≠ 0)), (7, decide (a &&& b = 0))],
      x.r.md.toNat = p.1 → exec (.cmpImm x) s = .next (s.after c (t'.setPred x.r.rd.toNat p.2))) ∧
    exec (.li64 x) s = .next (s.after c
      (t'.setSreg x.r.rd.toNat (if x.r.md.getLsbD 0 then x.imm.setWidth 64 else x.imm.signExtend 64))) ∧
    exec (.nop64 x) s = .next (s.after c t')) ∧
  (∀ (s : State) (c : Nat) (t : Team) (x : S96), Guarded s c t x.r.pg →
    exec (.li96 x) s = .next (s.after c ((t.past .strand 12).setSreg x.r.rd.toNat
      (BitVec.ofNat 64 (x.lit.toNat * 2 ^ 32 + x.imm.toNat)))) ∧
    exec (.nop96 x) s = .next (s.after c (t.past .strand 12)))

/-- R196, R200: what a write of a register or a predicate leaves. s0 reads 0 and p0 true whatever was written; the written one reads
the value; every other register and predicate reads as before, and nothing else of the team changes. -/
def Obligations.RegisterWrites : Prop :=
  ∀ (t : Team) (r : Nat) (v : Word), r < 32 →
    (∀ k, k < 32 → (t.setSreg r v).sreg k = if k = 0 then 0 else if k = r then v else t.sreg k) ∧
    (∃ l a b, t.setSreg r v = { t with loads := l, regs := a, pregs := b } ∧ (t.priv = false → b = t.pregs)) ∧
    (∀ (p : Nat) (b : Bool), p < 8 →
      (∀ q, q < 8 → (t.setPred p b).pred q = if q = 0 then true else if q = p then b else t.pred q) ∧
      ∃ m, t.setPred p b = { t with preds := m })

/-- The frame of the register-only strand instructions: when they give a next state, every register but RD, every predicate, flag,
control, nest, event and exception register, every byte of the vault and of local, host and peer memory, and every other part of the
machine is as before; only the counter, what R107 and R441 keep with it, an outstanding load of RD (log 8) and what peers answered to the strand may change
(R200, R203 to R208). -/
def Obligations.RegisterOnlyFrame : Prop :=
  ∀ (s s' : State) (c : Nat) (t : Team) (x : S32) (y : S64) (z : S96), Issues s c .strand t →
    ∀ p ∈ [(Instr.add x, x.rd), (.sub x, x.rd), (.mul x, x.rd), (.mulh x, x.rd), (.div x, x.rd), (.rem x, x.rd), (.and x, x.rd),
        (.or x, x.rd), (.xor x, x.rd), (.shl x, x.rd), (.shr x, x.rd), (.sra x, x.rd), (.min x, x.rd), (.max x, x.rd),
        (.clz x, x.rd), (.popc x, x.rd), (.bfx x, x.rd), (.bfi x, x.rd), (.ext x, x.rd), (.sel x, x.rd), (.tstamp x, x.rd),
        (.nop x, 0), (.addImm y, y.r.rd), (.subImm y, y.r.rd), (.mulImm y, y.r.rd), (.mulhImm y, y.r.rd), (.divImm y, y.r.rd),
        (.remImm y, y.r.rd), (.andImm y, y.r.rd), (.orImm y, y.r.rd), (.xorImm y, y.r.rd), (.shlImm y, y.r.rd),
        (.shrImm y, y.r.rd), (.sraImm y, y.r.rd), (.minImm y, y.r.rd), (.maxImm y, y.r.rd), (.bfxImm y, y.r.rd),
        (.bfiImm y, y.r.rd), (.extImm y, y.r.rd), (.li64 y, y.r.rd), (.nop64 y, 0), (.li96 z, z.r.rd), (.nop96 z, 0)],
      exec p.1 s = .next s' →
        ∃ t', (s' = s.withTeam c t' ∨ s' = s.after c t') ∧ (∀ k, k < 32 → k ≠ p.2.toNat → t'.sreg k = t.sreg k) ∧
          t' = { t with pc := t'.pc, waitPeer := t'.waitPeer, stood := t'.stood, loads := t'.loads, regs := t'.regs,
                        pregs := t'.pregs } ∧
          (∀ a, t'.vault.rd a = t.vault.rd a) ∧
          (∀ a, s'.mem.phys.rd a = s.mem.phys.rd a ∧ s'.mem.host.rd a = s.mem.host.rd a) ∧ s'.mem = s.mem

/-! ### Guards, control flow, loads and stores (R181, R200, R209 to R216) -/

/-- R181, R200: a strand, sync or system instruction whose guard reads false only goes on; nothing else changes and nothing traps,
but for an instruction of a unit that is absent: that is a check of decoding (R4, R189).
END, STAGE.SW and ERET have no guard. -/
def Obligations.GuardFalse : Prop :=
  ∀ (s : State) (c : Nat) (t : Team), Issues s c .strand t →
    (∀ x : S32, t.pred x.pg.toNat = false →
      ∀ i ∈ [Instr.add, .sub, .mul, .mulh, .div, .rem, .and, .or, .xor, .shl, .shr, .sra, .min, .max, .clz, .popc, .bfx, .bfi,
          .ext, .cmp, .sel, .ld, .st, .jmpx, .ret, .nop, .join, .nestSet, .nestGo, .nestClamp, .tresume, .evqPop,
          .evqWait, .semSig, .semWait, .ctlRd, .ctlWr, .tstamp, .trap, .amoAdd, .amoMin, .amoMax, .amoXchg,
          .amoCas, .amoAnd, .amoOr, .fence, .codeReg, .keyAlloc, .keyRevoke, .ctxSave, .ctxLoad, .partStop, .scrub, .calSet,
          .tlbInv, .halt],
        exec (i x) s = .next (s.withTeam c (t.past .strand 4))) ∧
    (∀ x : S64, t.pred x.r.pg.toNat = false →
      ∀ i ∈ [Instr.addImm, .subImm, .mulImm, .mulhImm, .divImm, .remImm, .andImm, .orImm, .xorImm, .shlImm, .shrImm, .sraImm,
          .minImm, .maxImm, .bfxImm, .bfiImm, .extImm, .cmpImm, .li64, .lea, .ldImm, .stImm, .br, .jmp, .call, .loop, .nop64,
          .launch, .tsub, .graphArm, .semSigImm, .semWaitImm, .semSet, .semRsig, .amoAddImm, .amoMinImm, .amoMaxImm,
          .amoXchgImm, .amoCasImm, .amoAndImm, .amoOrImm, .barExp, .barWait, .barArr, .codeReg64, .keyAlloc64, .keyRevoke64, .ctxSave64,
          .ctxLoad64, .partStop64, .scrub64, .calSet64, .tlbInv64, .halt64],
        exec (i x) s = .next (s.withTeam c (t.past .strand 8))) ∧
    (∀ x : S64, t.pred x.r.pg.toNat = false →
      ∀ p ∈ [(Instr.collReg, s.hasSkidway), (.collAr, s.hasSkidway), (.collAg, s.hasSkidway), (.collRs, s.hasSkidway),
          (.collFree, s.hasSkidway), (.leaseReq, s.hasFabric), (.leaseRet, s.hasFabric), (.leaseQ, s.hasFabric),
          (.bankRun, s.hasNearBank), (.bankStat, s.hasNearBank)],
        exec (p.1 x) s = .next (if p.2 then s.withTeam c (t.past .strand 8) else s.takeTrap c .strand .unitAbsent true t.pc {})) ∧
    (∀ x : S96, t.pred x.r.pg.toNat = false →
      ∀ i ∈ [Instr.li96, .nop96, .fork], exec (i x) s = .next (s.withTeam c (t.past .strand 12)))

/-- R214, R215: BR is taken when its predicate differs from its negation bit, JMP always, LOOP counts down and is taken while the
count is not zero, JMPX goes to the offset in a register; a branch that is not taken goes on. Nothing else changes. R214 to
R216: CALL and JMPX.call push the offset after them and go to their target; RET pops the newest offset and goes there. With 16
entries the oldest is first written to the spill area at RASP, which moves up 8; with none, RET reads back the entry below RASP,
or traps `RET_UNDERFLOW` where there is none. The spill area here lies in the team's own vault, and the
strand may post a store (R197). -/
def Obligations.ControlFlow : Prop :=
  (∀ (s : State) (c : Nat) (t : Team) (x : S64) (y : S32), Guarded s c t x.r.pg → Guarded s c t y.pg →
    let t' := t.past .strand 8
    let target := t.pc + x.imm.signExtend 64
    exec (.br x) s = .next (s.after c
      { t' with pc := if (t.pred x.r.md.toNat ^^ x.r.rd.getLsbD 0) then target else t.pc + 8 }) ∧
    exec (.jmp x) s = .next (s.after c { t' with pc := target }) ∧
    (x.r.rd ≠ 0 → exec (.loop x) s = .next (s.after c
      { t'.setSreg x.r.rd.toNat (t.sreg x.r.rd.toNat - 1) with
          pc := if t.sreg x.r.rd.toNat - 1 ≠ 0 then target else t.pc + 8 })) ∧
    (y.md.getLsbD 0 = false → exec (.jmpx y) s = .next (s.after c
      { t.past .strand 4 with pc := t.sreg y.rs1.toNat }))) ∧
  (∀ (s : State) (c : Nat) (t : Team) (x : S64) (y : S32), Guarded s c t x.r.pg → Guarded s c t y.pg →
    let target := t.pc + x.imm.signExtend 64
    (t.ras.length < 16 →
      exec (.call x) s = .next (s.after c { t.past .strand 8 with pc := target, ras := t.ras ++ [t.pc + 8] }) ∧
      (y.md.getLsbD 0 = true → exec (.jmpx y) s = .next (s.after c
        { t.past .strand 4 with pc := t.sreg y.rs1.toNat, ras := t.ras ++ [t.pc + 4] }))) ∧
    (∀ v old rest, t.ras = old :: rest → rest.length = 15 → t.rasbase ≤ t.rasp → t.rasp.toNat + 8 ≤ t.raslim.toNat →
      OwnVault s c t t.spillh t.rasp.toNat 8 true v → StoreRoom s c →
      exec (.call x) s = .next ((s.handleRead t.asid t.spillh).after c
        { (t.past .strand 8).vaultWr v (regBytes 8 old) with
            pc := target, ras := rest ++ [t.pc + 8], rasp := t.rasp + 8 }) ∧
      (y.md.getLsbD 0 = true → exec (.jmpx y) s = .next ((s.handleRead t.asid t.spillh).after c
        { (t.past .strand 4).vaultWr v (regBytes 8 old) with
            pc := t.sreg y.rs1.toNat, ras := rest ++ [t.pc + 4], rasp := t.rasp + 8 }))) ∧
    (∀ rest v, t.ras = rest ++ [v] →
      exec (.ret y) s = .next (s.after c { t.past .strand 4 with pc := v, ras := rest })) ∧
    (t.ras = [] → t.rasp = t.rasbase →
      exec (.ret y) s = .next (s.trapAt c .strand t.still .retUnderflow {})) ∧
    (∀ v bs, t.ras = [] → t.rasp ≠ t.rasbase → t.rasbase.toNat + 8 ≤ t.rasp.toNat → t.rasp ≤ t.raslim →
      OwnVault s c t t.spillh (t.rasp.toNat - 8) 8 false v → t.vaultRd v 8 = some bs →
      exec (.ret y) s = .next ((s.handleRead t.asid t.spillh).after c
        { t.past .strand 4 with pc := loaded 8 true bs, rasp := t.rasp - 8 })))

/-- R196, R197, R209 to R213, R524: LD and ST through a handle on the team's own vault, in both forms and with every order, and LEA.
The offset is the register, or the register plus the sign-extended IMM[19:0]; the handle is RS2 or IMM[31:20]; the size and the
extension are MOD's. A load fixes its value as it issues (log 8) and changes no byte; a store changes the bytes at its address to
those of RD and no other. An ordered form first performs what its order asks, which leaves `s0`;
reading the handle entry counts as an access (R329). R197, R209, R210, R309: LD and ST
through a handle on local memory. A load answers the bytes at the physical address and changes none; a store writes the bytes of RD
there, and every byte of local memory outside them, of host and peer memory, and of the vault, reads as before. R27, R211: an LD or
ST whose checks fail takes its precise trap at its own offset: an ordered access that is not aligned to its size, an invalid handle,
an access past the bound, and a store through a write-protected handle. -/
def Obligations.LoadsAndStores : Prop :=
  ((∀ (s : State) (c : Nat) (t : Team) (x : S32) (v : Nat) (bs : List Byte), Guarded s c t x.pg →
    let n := 2 ^ (x.md.toNat % 4)
    let off := (t.sreg x.rs1.toNat).toNat
    (t.loads.length < 8 → OwnVault s c t x.rs2.toNat off n false v → t.vaultRd v n = some bs →
      exec (.ld x) s = .next ((s.handleRead t.asid x.rs2.toNat).after c ((t.past .strand 4).loading x.rd.toNat (loaded n (x.md.getLsbD 2) bs)))) ∧
    (OwnVault s c t x.rs2.toNat off n true v → StoreRoom s c →
      exec (.st x) s = .next ((s.handleRead t.asid x.rs2.toNat).after c ((t.past .strand 4).vaultWr v (regBytes n (t.sreg x.rd.toNat)))))) ∧
  (∀ (s s0 : State) (c : Nat) (t t0 : Team) (x : S64) (v : Nat) (bs : List Byte), Guarded s c t x.r.pg →
    let n := 2 ^ (x.r.md.toNat % 4)
    let off := (t.sreg x.r.rs1.toNat + (x.imm.extractLsb' 0 20).signExtend 64).toNat
    let h := (x.imm.extractLsb' 20 12).toNat
    let ord := (x.r.rs2.extractLsb' 3 2).toNat
    let scope := (x.r.rs2.extractLsb' 0 3).toNat
    let t' := t.past .strand 8
    let own : State → Prop := fun s0 => (s0.cell c).act = some t0 ∧ (s0.cell c).active = (s.cell c).active ∧ s0.cur = s.cur ∧
      t0.asid = t.asid ∧ t0.grid = t.grid ∧ t0.no = t.no
    (ord = 0 ∨ off % n = 0) →
    (t0.loads.length < 8 → (ord = 0 ∧ s0 = s.withTeam c t' ∨ ord = 1 ∧ (acquire (s.whoIs c t) scope).run (s.withTeam c t') = .ok () s0) →
      own s0 → OwnVault s0 c t0 h off n false v → t0.vaultRd v n = some bs →
      exec (.ldImm x) s = .next ((s0.handleRead t.asid h).after c (t0.loading x.r.rd.toNat (loaded n (x.r.md.getLsbD 2) bs)))) ∧
    ((ord = 0 ∧ s0 = s.withTeam c t' ∨ ord = 2 ∧ (release (s.whoIs c t) scope).run (s.withTeam c t') = .ok () s0) →
      own s0 → t0.sreg x.r.rd.toNat = t.sreg x.r.rd.toNat → OwnVault s0 c t0 h off n true v → StoreRoom s0 c →
      exec (.stImm x) s = .next ((s0.handleRead t.asid h).after c (t0.vaultWr v (regBytes n (t.sreg x.r.rd.toNat)))))) ∧
  (∀ (s : State) (c : Nat) (t : Team) (x : S64) (e : HEntry), Guarded s c t x.r.pg →
    let off := t.sreg x.r.rs1.toNat + (x.imm.extractLsb' 0 20).signExtend 64
    HandleOk s t.asid (x.imm.extractLsb' 20 12).toNat off.toNat (2 ^ (x.r.md.toNat % 4)) false e →
    exec (.lea x) s = .next ((s.handleRead t.asid (x.imm.extractLsb' 20 12).toNat).after c ((t.past .strand 8).setSreg x.r.rd.toNat
      (if x.r.md.getLsbD 2 then BitVec.ofNat 64 (e.path * 2 ^ 52 + e.base + off.toNat) else off)))) ∧
  (∀ (t : Team) (v k n : Nat) (w : Word),
    ((t.vaultWr v (regBytes n w)).vault.rd k =
      if v ≤ k ∧ k < v + n then w.extractLsb' (8 * (k - v)) 8 else t.vault.rd k))) ∧
  (∀ (s : State) (c : Nat) (t : Team) (x : S32) (pa : Nat), Guarded s c t x.pg →
    let n := 2 ^ (x.md.toNat % 4)
    let off := (t.sreg x.rs1.toNat).toNat
    let counted := (s.handleRead t.asid x.rs2.toNat).countAccess (pa / 65536)
    (t.loads.length < 8 → LocalPage s c t.asid x.rs2.toNat off n false pa → CleanLines s pa n →
      exec (.ld x) s = .next (counted.after c
        ((t.past .strand 4).loading x.rd.toNat (loaded n (x.md.getLsbD 2) (s.mem.phys.rdBytes pa n)))) ∧
      counted.mem.phys = s.mem.phys) ∧
    (LocalPage s c t.asid x.rs2.toNat off n true pa → StoreRoom s c →
      ∃ s', exec (.st x) s = .next s' ∧ (s'.cell c).act = some (t.past .strand 4) ∧
        (∀ a, s'.mem.phys.rd a =
          if pa ≤ a ∧ a < pa + n then (t.sreg x.rd.toNat).extractLsb' (8 * (a - pa)) 8 else s.mem.phys.rd a) ∧
        s'.mem.host = s.mem.host ∧ s'.mem.peer = s.mem.peer ∧ s'.out = s.out ∧ s'.ctxs = s.ctxs ∧
        (∀ k, k ≠ c → s'.cell k = s.cell k))) ∧
  (∀ (s : State) (c : Nat) (t : Team) (x : S64), Guarded s c t x.r.pg → StoreRoom s c →
    x.r.rs2.toNat / 8 = 0 ∨ x.r.rs2.toNat / 8 = 1 →
    let n := 2 ^ (x.r.md.toNat % 4)
    let off := (t.sreg x.r.rs1.toNat + (x.imm.extractLsb' 0 20).signExtend 64).toNat
    let h := (x.imm.extractLsb' 20 12).toNat
    let traps : Cause → Nat → State := fun k a => (s.handleRead t.asid h).trapAt c .strand t.still k { addr := some a }
    (x.r.rs2.toNat / 8 = 1 → off % n ≠ 0 → exec (.ldImm x) s = .next (s.trapAt c .strand t.still .ldstAlign { addr := some off })) ∧
    (x.r.rs2.toNat / 8 = 0 → t.loads.length < 8 → (∀ f, s.handleFrame t.asid h = some f → s.swapBlocks f = false) →
      (s.handle? t.asid h = none →
        exec (.ldImm x) s = .next ((s.handleRead t.asid h).trapAt c .strand t.still .handleInvalid {}) ∧
        exec (.stImm x) s = .next ((s.handleRead t.asid h).trapAt c .strand t.still .handleInvalid {})) ∧
      (∀ e, s.handle? t.asid h = some e → e.fits off n = false →
        exec (.ldImm x) s = .next (traps .handleBound ((e.path * 2 ^ 52 + e.base + off) % 2 ^ 64)) ∧
        exec (.stImm x) s = .next (traps .handleBound ((e.path * 2 ^ 52 + e.base + off) % 2 ^ 64))) ∧
      (∀ e, s.handle? t.asid h = some e → e.fits off n = true → e.wp = true →
        exec (.stImm x) s = .next (traps .handleRo ((e.path * 2 ^ 52 + e.base + off) % 2 ^ 64)))))

/-! ### Streams and nests (R153 to R164, R217 to R220, R236) -/

/-- R153, R217: FORK starts exactly the engines of its mask, each at the FORK's offset plus four times its signed 21-bit entry, or
where it stopped for the entry "continue", once each of them is idle or at its rendezvous; it waits while one runs, and a
"continue" for an idle engine traps `FORK_STATE`. R154, R156, R218, R236, R503: JOIN goes on when the engines of its mask are
idle or at their rendezvous and their results have landed, and waits otherwise. END joins all three; when the team's jobs have
completed too, the team leaves its stage and its grid counts it as retired. -/
def Obligations.ForkJoinEnd : Prop :=
  (∀ (s : State) (c : Nat) (t : Team) (x : S96), Guarded s c t x.r.pg → t.priv = false →
    let entry : Engine → BitVec 21 := fun e => (x.lit ++ x.imm).extractLsb' (21 * e.index) 21
    ((∀ e, x.r.md.getLsbD e.index = true → (t.eng e).st ≠ .run ∧ (entry e = 0x100000 → (t.eng e).st ≠ .idle)) →
      ∃ v m k, exec (.fork x) s = .next (s.after c { t.past .strand 12 with vec := v, mat := m, cpy := k }) ∧
        ∀ e, ({ t with vec := v, mat := m, cpy := k } : Team).eng e =
          if x.r.md.getLsbD e.index then
            { st := .run, pc := if entry e = 0x100000 then (t.eng e).pc else t.pc + 4 * (entry e).signExtend 64 }
          else t.eng e) ∧
    ((∃ e, x.r.md.getLsbD e.index = true ∧ (t.eng e).st = .run) →
      exec (.fork x) s = .next (s.withTeam c t.still)) ∧
    ((∀ e, x.r.md.getLsbD e.index = true → (t.eng e).st ≠ .run) →
      (∃ e, x.r.md.getLsbD e.index = true ∧ entry e = 0x100000 ∧ (t.eng e).st = .idle) →
      exec (.fork x) s = .next (s.trapAt c .strand t.still .forkState {}))) ∧
  (∀ (s : State) (c : Nat) (t : Team) (x : S32), Issues s c .strand t →
    let ready : Engine → Prop := fun e => (t.eng e).st ≠ .run ∧ (e = .vector → (s.cell c).sh.landings = []) ∧
      (e = .matrix → (s.cell c).sh.array = [])
    (t.pred x.pg.toNat = true → t.priv = false →
      ((∀ e, x.md.getLsbD e.index = true → ready e) → exec (.join x) s = .next (s.after c (t.past .strand 4))) ∧
      (∀ e, x.md.getLsbD e.index = true → ¬ ready e → exec (.join x) s = .next (s.withTeam c t.still))) ∧
    (∀ g, (∀ e, ready e) → (∀ k ∈ t.cards, k.st = .recording) → t.epilogue = none → t.evHub = [] → s.grid t.grid = some g →
      ∃ s' g', exec (.endTeam x) s = .next s' ∧ (s'.cell c).team (s.cell c).active = none ∧ s'.grid t.grid = some g' ∧
        g'.retired = g.retired + 1 ∧ g'.gone.mem t.no = true) ∧
    ((∃ e, ¬ ready e) → exec (.endTeam x) s = .next (s.withTeam c t.still)))

/-- R157 to R160, R163, R219, R220: NEST.SET copies the 256 bytes that it reads into the slot's shadow copy and leaves the active
copy alone; NEST.GO, once the slot is idle or held and the table and the body pass their checks, arms the slot with the body
found between BODY and its NEST.END and with start indices 0, and traps `NEST_INVALID` on a table that is not one; NEST.CLAMP
sets the stop of a running slot once, from the iteration that runs or, between two, from the next, and changes no
other slot. R155, R159, R161, R300: the markers of an engine stream.
NEST.BEG of an armed or held slot of its engine enters RUN at the start or saved indices with the first body instruction next,
or passes over a nest with an empty level; it waits while the slot is idle. A NEST.END that the engine issues itself traps. RDV
and END wait until the stream's results have landed and then enter AT_RDV and IDLE. -/
def Obligations.NestsAndMarkers : Prop :=
  (∀ (s : State) (c : Nat) (t : Team) (x : S32), Guarded s c t x.pg →
    let k := x.md.getLsbD 0
    let n := t.slot k
    let t' := t.past .strand 4
    let w := s.whoIs c t
    (∀ bs s', (t.sreg x.rs1.toNat).toNat % 64 = 0 → (x.rs2 = 0 → t.epilogue = none) →
      (load w (if x.rs2 = 0 then t.codeh else (t.sreg x.rs2.toNat).toNat % 4096) (t.sreg x.rs1.toNat).toNat 256).run
        (s.withTeam c t') = .ok bs s' → s'.cur = s.cur →
      exec (.nestSet x) s = .next ((s'.modAct c fun u => u.setSlot k { u.slot k with shadow := bytesWords 32 bs }).did t)) ∧
    ((t.sreg x.rs1.toNat).toNat % 64 ≠ 0 →
      exec (.nestSet x) s = .next (s.trapAt c .strand t.still .nestInvalid { addr := t.pc.toNat })) ∧
    (t.priv = false → n.st = .idle ∨ n.st = .held →
      let s1 := s.withTeam c (t'.setSlot k { n with st := .idle, saved := [] })
      (∀ e off levels w0 f body last s2 s3 s4, tableOf n.shadow = some (e, off, levels) →
        (nestWord w t' t.pc.toNat off).run s1 = .ok (some w0) s2 → parseWords [w0] = some (.nestBeg, f) →
        (∃ m, f.asMark = some m ∧ m.eng = e ∧ (m.slot = 1 ↔ k = true)) →
        (bodyFrom w t' t.pc.toNat e k 257 256 (off + 4)).run s2 = .ok (some (body, last)) s3 →
        (∀ p ∈ body, bodyBad levels.length p.2 = false) →
        (body.forM fun p => bodyCheck t' e body p.1 p.2).run s3 = .ok () s4 → s4.cur = s.cur →
        exec (.nestGo x) s = .next ((s4.modAct c fun u => u.setSlot k
          { n with st := .armed, eng := e, bodyOff := off, endOff := last + 4, levels := levels, body := body,
                   start := levels.map fun _ => 0, saved := [], stop0 := none, preClamp := false }).did t)) ∧
      (tableOf n.shadow = none →
        exec (.nestGo x) s = .next (s.trapAt c .strand (t.still.setSlot k { n with st := .idle, saved := [] })
          .nestInvalid { addr := t.pc.toNat }))) ∧
    (let stop : List Nat → Option Nat := fun ix => some (min (ix.getD 0 0 + (n.levels.getD 0 {}).epi) ((n.levels.getD 0 {}).trip - 1))
      ∃ u, exec (.nestClamp x) s = .next (s.after c u) ∧ u.slot (!k) = t.slot (!k) ∧ (∀ e, ∃ p, u.eng e = { t.eng e with pc := p }) ∧
        u = { t' with nt0 := u.nt0, nt1 := u.nt1, vec := u.vec, mat := u.mat, cpy := u.cpy } ∧
        (n.st ≠ .run ∨ n.stop0 ≠ none → u.slot k = n) ∧
        (n.st = .run → n.stop0 = none → n.pos < n.body.length → u.slot k = { n with stop0 := stop n.idx, preClamp := false }) ∧
        ∀ ix j, n.st = .run → n.stop0 = none → n.body.length ≤ n.pos → nextIdx n.levels n.idx 0 = some (ix, j) →
          u.slot k = { n with idx := ix, pos := 0, resumed := n.resumed && j == 0, stop0 := stop ix, preClamp := false })) ∧
  (∀ (s : State) (c : Nat) (t : Team) (x : Mark), EngineIssues s c x.eng t → (t.eng x.eng).nest = none →
    let k := x.slot == 1
    let n := t.slot k
    let pc := (t.eng x.eng).pc
    let t' := t.setEng x.eng { t.eng x.eng with pc := pc + 4 }
    let landed := (x.eng = .vector → (s.cell c).sh.landings = []) ∧ (x.eng = .matrix → (s.cell c).sh.array = [])
    let drained := if x.eng = .matrix then (s.withTeam c t').drainPosted fun p => p.src == c else s.withTeam c t'
    (n.st = .armed ∨ n.st = .held → n.eng = x.eng → n.bodyOff = pc.toNat → (∀ l ∈ n.levels, l.trip ≠ 0) →
      let start := if n.st = .held then n.saved else n.levels.map fun _ => 0
      let n' := { n with st := .run, start := start, idx := start, pos := 0, stop0 := none, saved := [], preClamp := false,
                         resumed := decide (n.st = .held ∧ 0 < start.getD 0 0) }
      exec (.nestBeg x) s = .next ((s.withTeam c ((t'.setSlot k n').setEng x.eng
        { t.eng x.eng with nest := some k, pc := wd n'.offset })).cycled x.eng c t)) ∧
    (n.st = .armed ∨ n.st = .held → n.eng = x.eng → n.bodyOff = pc.toNat → (∃ l ∈ n.levels, l.trip = 0) →
      exec (.nestBeg x) s = .next ((s.withTeam c ((t.setSlot k { n with st := .idle, saved := [] }).setEng x.eng
        { t.eng x.eng with pc := wd n.endOff })).cycled x.eng c t)) ∧
    (exec (.nestEnd x) s = .next (s.trapAt c x.eng.stream t .nestMismatch { addr := pc.toNat })) ∧
    (landed →
      exec (.rdv x) s = .next ((drained.modAct c fun u =>
        { u.modEng x.eng (fun z => { z with st := .atRdv }) with
            footC := if x.eng = .copy then none else u.footC }).cycled x.eng c t) ∧
      exec (.engineEnd x) s = .next ((drained.modAct c fun u =>
        { u.setEng x.eng {} with footC := if x.eng = .copy then none else u.footC }).cycled x.eng c t)))

/-! ### Work, events and semaphores (R138, R221 to R227) -/

/-- R125, R138, R221, R222: LAUNCH of a record that passes R19 makes a grid with the record's fields, of the lesser of its own and
the parent's class, and a child of the issuing die, and writes the grid's id to RD; TSUB of a descriptor that passes R37 submits
the task with the next number of its die, for this device or for the one that `.any` finds, and writes the id to RD; a record that fails traps with the number of the first check;
GRAPH.ARM of a well-formed graph writes 1 to its predicate when a place is free and opens the graph there, and 0 when none is;
TRESUME performs the release and resumes what the id names, and nothing of another context's. -/
def Obligations.WorkCreation : Prop :=
  (∀ (s s2 : State) (c : Nat) (t t2 : Team) (x : S64) (bs : List Byte) (al : Bool) (n : Nat) (spill : Bool),
    Guarded s c t x.r.pg → s2.cur = s.cur → (s2.cell c).act = some t2 → t2.asid = t.asid → t2.grid = t.grid → t2.no = t.no →
    let t' := t.past .strand 8
    let g := (s2.grid t.grid).getD {}
    let reads := fun k => (readRecord x k k).run (s.withTeam c t') = .ok (bs, al) s2
    let traps := fun k i => ((s2.modAct c fun u => { u with pc := t.pc }).did t).takeTrap c .strand k true t.pc i
    (reads 128 →
      let r := bytesWords 16 bs
      (s2.checkLaunch t.asid g.fn r al false = some n → exec (.launch x) s = .next (traps .launchInvalid { detail := n })) ∧
      (s2.checkLaunch t.asid g.fn r al false = none → s2.childPlace t.asid (c / 64) (lrEvkind r == 2) = none →
        exec (.launch x) s = .next (traps .childSpillFull {})) ∧
      (s2.checkLaunch t.asid g.fn r al false = none → s2.childPlace t.asid (c / 64) (lrEvkind r == 2) = some spill →
        ∃ s' id gr, exec (.launch x) s = .next s' ∧ (s'.cell c).act = some (t2.setSreg x.r.rd.toNat (BitVec.ofNat 64 id)) ∧
          s'.grid id = some gr ∧ gr.lrec = r ∧ gr.total = lrTotal r ∧ gr.asid = t.asid ∧ gr.cls = min (lrPrio r) g.cls ∧
          gr.parent = some ⟨t.grid, t.no⟩ ∧ (s2.grid (s2.hub.nextGrid % 2 ^ 32) = none → id = s2.hub.nextGrid % 2 ^ 32) ∧
          ∃ k ∈ s'.hub.pool, k.grid = some id ∧ k.asid = t.asid ∧ k.die = c / 64 ∧ k.spilled = spill)) ∧
    (reads 64 →
      let d := bytesWords 8 bs
      let any := x.r.md.getLsbD 0
      let id := BitVec.ofNat 32 (c / 64 * 2 ^ 30 + Sparse.get 0 s2.rm.seqs (c / 64) % 2 ^ 30)
      (s2.checkTask t.asid g.fn d al false any = some n → exec (.tsub x) s = .next (traps .taskInvalid { detail := n })) ∧
      (∀ dst, s2.checkTask t.asid g.fn d al false any = none →
        (any = false ∧ dst = s2.fab.devno ∨ any = true ∧ (s2.aimFor d []).1 = some dst) →
        s2.childPlace t.asid (c / 64) (tkCsemv d || tkEvkind d == 2) = some spill →
        ∃ s' k, exec (.tsub x) s = .next s' ∧ (s'.cell c).act = some (t2.setSreg x.r.rd.toNat (id.setWidth 64)) ∧
          s'.rm.tasks = s2.rm.tasks ++ [k] ∧ k.id = id ∧ k.desc = ownTask d t.asid ∧ k.st = .pending ∧ k.die = c / 64 ∧
          k.target = (if dst = s2.fab.devno then none else some dst) ∧
          k.submitter = some ⟨t.grid, t.no⟩))) ∧
  (∀ (s s2 s3 : State) (c : Nat) (t t3 : Team) (x : S64) (hd bs : List Byte) (al ah : Bool), Guarded s c t x.r.pg →
    let t' := t.past .strand 8
    let hw := bytesWords 8 hd
    let n := if ghOk hw then ghNodes (nth hw 0) else 0
    let nodes := (List.range n).map fun i => bytesWords 8 ((bs.drop (64 * (i + 1))).take 64)
    (readRecord x 64 64).run (s.withTeam c t') = .ok (hd, ah) s2 → (readRecord x (64 * (n + 1)) 64).run s2 = .ok (bs, al) s3 →
    s3.cur = s.cur → (s3.cell c).act = some t3 →
      (graphOk hw nodes false = true → s3.freePlace true = none →
        exec (.graphArm x) s = .next ((s3.withTeam c (t3.setPred (x.r.rd.toNat % 8) false)).did t)) ∧
      (∀ k, graphOk hw nodes false = true → s3.freePlace true = some k → ∃ g, g.nodes = nodes ∧ g.hdr = nth hw 0 ∧
        exec (.graphArm x) s = .next (((s3.openGraph k g).modAct c fun u => u.setPred (x.r.rd.toNat % 8) true).did t)) ∧
      (graphOk hw nodes false = false →
        exec (.graphArm x) s = .next (((s3.withTeam c { t3 with pc := t.pc }).did t).takeTrap c .strand .graphInvalid true t.pc {}))) ∧
  (∀ (s s2 : State) (c : Nat) (t : Team) (x : S32), Guarded s c t x.pg →
    (release (s.whoIs c t) 3).run (s.withTeam c (t.past .strand 4)) = .ok () s2 →
      let id := (t.sreg x.rs1.toNat).extractLsb' 0 32
      exec (.tresume x) s = .next ((s2.resumeTask steerParked t.asid id).did t) ∧
      ((∀ e ∈ s2.rm.parked, e.owner ≠ t.asid) → exec (.tresume x) s = .next (s2.did t)))

/-- R223, R224: EVQ.POP of a queue with a record sets its predicate and puts word i of the oldest record into s(RD + i), and lets
what waited behind the record (here nothing) follow; of an empty queue it clears the predicate and changes no register. EVQ.WAIT
pops likewise, and of an empty queue it waits. R225 to R227: SEM.SIG adds its count and saturates at 2^32 - 1 with an
asynchronous SEM_OVERFLOW; SEM.WAIT takes its count when the strand is the first waiter and the count is there, completes at
once for a count of 0, and otherwise joins the waiters; SEM.SET writes the sum mod 2^32; SEM.RSIG sends to a team of the grid
and traps `SEM_TARGET` past its count. The state that the instruction's release leaves is `s2`; the semaphore has no waiting job
cards. -/
def Obligations.EventsAndSemaphores : Prop :=
  (∀ (s : State) (c : Nat) (t : Team) (x : S32), Guarded s c t x.pg → x.rd.toNat ∈ [8, 16, 24] →
    let t' := t.past .strand 4
    let load8 : Team → CRec → Team := fun u r => (List.range 8).foldl (fun u i => u.setSreg (x.rd.toNat + i) (r.getD i 0)) u
    let waits := t.waiters.any fun w => w.1 == 256 && w.2.1 == .strand
    (t.evq = [] → exec (.evqPop x) s = .next (s.after c (t'.setPred x.md.toNat false)) ∧
      ∃ s', exec (.evqWait x) s = .next s' ∧ (s'.cell c).act = some
        { t.still with waiters := t.waiters ++ (if waits then [] else [(256, .strand, 0)]) }) ∧
    (∀ r rest, t.evq = r :: rest → t.evCe = [] → t.evHub = [] →
      let popped := load8 ({ t' with evq := rest } : Team).dropStrand256 r
      let got := (s.withTeam c popped).acquired (s.whoIs c t) (recScope r)
      exec (.evqPop x) s = .next ((got.modAct c fun u => u.setPred x.md.toNat true).did t) ∧
      (waits = false ∨ (∀ l ∈ (s.cell c).sh.landings, l.drain = false) →
        exec (.evqWait x) s = .next (got.did t))) ∧
    (∀ (u : Team) (r : CRec) (k : Nat), k < 8 → (load8 u r).sreg (x.rd.toNat + k) = r.getD k 0)) ∧
  (∀ (s s2 : State) (c : Nat) (t t2 : Team) (x : S32) (y : S64), Guarded s c t x.pg → Guarded s c t y.r.pg →
    s2.cur = s.cur → (s2.cell c).act = some t2 → t2.sems = t.sems → t2.waiters = t.waiters →
    let i := (t.sreg x.rs1.toNat).toNat % 256
    let n := (t.sreg x.rs2.toNat).toNat % 2 ^ 32
    let iy := y.imm.toNat / 2 ^ 24
    let ny := y.imm.toNat % 2 ^ 24
    let rel : Nat → Team → Prop := fun scope u => (release (s.whoIs c t) scope).run (s.withTeam c u) = .ok () s2
    let free : Nat → Prop := fun k => ∀ w ∈ t.waiters, w.1 ≠ k
    let first : Nat → Prop := fun k => (∀ w ∈ t.waiters, w.1 = k → w.2.1 = .strand) ∧
      (free k ∨ ∀ l ∈ (s.cell c).sh.landings, l.drain = false)
    let sum : Nat → Nat → State := fun k m =>
      let u := s2.withTeam c (t2.setSem k (BitVec.ofNat 32 (min ((t.sem k).toNat + m) (2 ^ 32 - 1))))
      if 2 ^ 32 ≤ (t.sem k).toNat + m then u.raiseAsync (.here c (s2.cell c).active) .semOverflow else u
    (rel x.md.toNat (t.past .strand 4) → free i → exec (.semSig x) s = .next ((sum i n).did t)) ∧
    (rel y.r.md.toNat (t.past .strand 8) → free iy → exec (.semSigImm y) s = .next ((sum iy ny).did t)) ∧
    (first i → n ≤ (t.sem i).toNat → 0 < n → exec (.semWait x) s = .next (((s.withTeam c
      (((t.past .strand 4).setSem i (t.sem i - BitVec.ofNat 32 n)).dropWaiter i .strand)).acquired (s.whoIs c t) x.md.toNat).did t)) ∧
    (n = 0 → exec (.semWait x) s = .next (((s.withTeam c (t.past .strand 4)).acquired (s.whoIs c t) x.md.toNat).did t)) ∧
    (free i → (t.sem i).toNat < n → ∃ s', exec (.semWait x) s = .next s' ∧
      (s'.cell c).act = some { t.still with waiters := t.waiters ++ [(i, .strand, BitVec.ofNat 32 n)] }) ∧
    (first iy → ny ≤ (t.sem iy).toNat → 0 < ny → exec (.semWaitImm y) s = .next (((s.withTeam c
      (((t.past .strand 8).setSem iy (t.sem iy - BitVec.ofNat 32 ny)).dropWaiter iy .strand)).acquired (s.whoIs c t) y.r.md.toNat).did t)) ∧
    (rel 0 (t.past .strand 8) → free iy → exec (.semSet y) s = .next ((s2.withTeam c
      (t2.setSem iy (BitVec.ofNat 32 ((t.sreg y.r.rs1.toNat).toNat + ny)))).did t)) ∧
    (∀ g, t.epilogue = none → s.grid t.grid = some g →
      let no := (t.sreg y.r.rs1.toNat).toNat % 2 ^ 32
      (g.total ≤ no → exec (.semRsig y) s = .next (s.trapAt c .strand t.still .semTarget {})) ∧
      (rel 3 (t.past .strand 8) → no < g.total →
        exec (.semRsig y) s = .next ((s2.semRemote t.grid no iy (BitVec.ofNat 32 ny)).did t) ∧
        (∀ g2, s2.grid t.grid = some g2 → (g2.gone.mem no = true → exec (.semRsig y) s = .next (s2.did t)) ∧
          (g2.gone.mem no = false → g2.placed.mem no = false → exec (.semRsig y) s = .next
            ((s2.modGrid t.grid fun g => { g with kept := g.kept ++ [(no, iy, BitVec.ofNat 32 ny)] }).did t))))))

/-! ### Control registers and stages (R107, R228 to R232, R458 to R460) -/

/-- R228 to R230, R458, R460: what CTL.RD writes to RD for every assigned number; privileged numbers trap `ILL_PRIV` outside
privileged mode, and a number that is not assigned traps `CTL_INVALID`. Registers narrower than 64 bits read with zeros above.
R9, R228, R229, R458 to R460: what CTL.WR writes. VFLAGS and TSTATE.HELD clear the bits written as 1; RASP, VRSTIDX, EPC to EPCC
and the scratch registers take the value; a context register takes it as its pending value, in force only later; a reserved bit
or value traps `ILL_RES`, in a read-only register too (R10), and a path that the register does not allow traps `PATH_RES`; a read-only
register keeps its value. -/
def Obligations.ControlRegisters : Prop :=
  (∀ (s : State) (c : Nat) (t : Team) (x : S32), Guarded s c t x.pg → t.epilogue = none →
    let n := x.md.toNat * 32 + x.rs2.toNat
    let b := (s.cell c).active
    let k := (s.ctx t.asid).pend
    let bit : Bool → Nat := fun v => if v then 1 else 0
    let word : Nat → Word := fun v => BitVec.ofNat 64 v
    let busy : EStream → Nat := fun e => if e.st = .idle then 0 else 1
    let slot : NestSlot → Nat := fun e => match e.st with
      | .idle => 0
      | .armed => 1
      | .run => 2
      | .held => 3
    (∀ p ∈ [(0x00, s.caps.setWidth 64), (0x01, word c), (0x02, word t.no), (0x10, t.vflags.setWidth 64), (0x11, t.rasp),
        (0x12, t.rasbase), (0x13, t.raslim),
        (0x14, word (t.ras.length * 2 ^ 27 + t.evq.length * 2 ^ 20 + bit b * 2 ^ 19 + bit t.priv * 2 ^ 18 + slot t.nt1 * 2 ^ 16
          + slot t.nt0 * 2 ^ 14 + busy t.cpy * 2 ^ 13 + busy t.mat * 2 ^ 12 + busy t.vec * 2 ^ 11)),
        (0x15, t.vrstidx.setWidth 64)] ++ (List.range 8).map (fun i => (8 + i, (t.lvl.getD i 0x10000).setWidth 64)),
      n = p.1 → exec (.ctlRd x) s = .next (s.after c ((t.past .strand 4).setSreg x.rd.toNat p.2))) ∧
    (∀ p ∈ [(0x80, k.htbase), (0x81, k.htsize), (0x82, k.ptroot),
        (0x83, word (bit k.fqv * 2 ^ 63 + k.fqlogd.toNat * 2 ^ 59 + (s.ctx t.asid).drop.toNat)), (0x84, k.fqbase),
        (0x85, k.spillqbase), (0x86, k.spillqsize), (0x87, k.swapbase), (0x88, k.swapstride), (0x89, k.pinlim),
        (0x8A, k.collallot), (0x8B, k.tvec), (0x8C, word t.asid), (0x90, (s.ctx t.asid).fqhead.setWidth 64),
        (0x91, (s.ctx t.asid).fqtail.setWidth 64), (0xA0, t.epc), (0xA1, t.epcv), (0xA2, t.epcm), (0xA3, t.epcc),
        (0xA4, word (t.tstrm * 2 ^ 10 + bit t.priv * 2 ^ 9 + bit t.cpy.held * 2 ^ 6 + bit t.mat.held * 2 ^ 5
          + bit t.vec.held * 2 ^ 4)),
        (0xAD, word t.apend.length), (0xAE, t.scratch0), (0xAF, t.scratch1)]
        ++ (List.range 8).map (fun i => (0xA5 + i, t.frec.getD i 0)),
      n = p.1 → t.priv = true →
        exec (.ctlRd x) s = .next (s.after c ((t.past .strand 4).setSreg x.rd.toNat p.2))) ∧
    (0x80 ≤ n → t.priv = false → exec (.ctlRd x) s = .next (s.trapAt c .strand t.still .illPriv {}) ∧
      exec (.ctlWr x) s = .next (s.trapAt c .strand t.still .illPriv {})) ∧
    (3 ≤ n ∧ n ≤ 7 ∨ 0x16 ≤ n ∧ n ≤ 0x7F ∨
        t.priv = true ∧ (0x8D ≤ n ∧ n ≤ 0x8F ∨ 0x92 ≤ n ∧ n ≤ 0x9F ∨ 0xB0 ≤ n) →
      exec (.ctlRd x) s = .next (s.trapAt c .strand t.still .ctlInvalid {}) ∧
      exec (.ctlWr x) s = .next (s.trapAt c .strand t.still .ctlInvalid {}))) ∧
  (∀ (s : State) (c : Nat) (t : Team) (x : S32), Guarded s c t x.pg →
    let n := x.md.toNat * 32 + x.rs2.toNat
    let v := t.sreg x.rs1.toNat
    let t' := t.past .strand 4
    let bits : Nat → Nat → Nat := fun lo w => (v.extractLsb' lo w).toNat
    let path := bits 52 4
    let done : Team → Prop := fun u => exec (.ctlWr x) s = .next (s.after c u)
    let traps : Cause → Prop := fun k => exec (.ctlWr x) s = .next (s.trapAt c .strand t.still k {})
    let pends : CtxRegs → Prop := fun r => exec (.ctlWr x) s =
      .next (((s.withTeam c t').modCtx t.asid fun y => { y with pend := r }).did t)
    let r := (s.ctx t.asid).pend
    (n = 0x10 → if bits 5 27 = 0 then done { t' with vflags := t.vflags &&& ~~~(v.extractLsb' 0 5) } else traps .illRes) ∧
    (n = 0x11 → if bits 48 16 = 0 ∧ bits 0 3 = 0 then done { t' with rasp := v } else traps .illRes) ∧
    (n = 0x15 → if bits 8 56 = 0 then done { t' with vrstidx := v.extractLsb' 0 8 } else traps .illRes) ∧
    let noRes : List (Nat × Nat) → Prop := fun fs => if ∀ f ∈ fs, bits f.1 f.2 = 0 then done t' else traps .illRes
    (∀ p ∈ [(0x00, [(16, 12)]), (0x01, []), (0x02, []), (0x08, []), (0x09, []), (0x0A, []), (0x0B, []), (0x0C, []), (0x0D, []),
      (0x0E, []), (0x0F, []), (0x12, [(48, 16), (0, 3)]), (0x13, [(48, 16), (0, 3)]), (0x14, [(32, 32), (0, 11)])],
      n = p.1 → noRes p.2) ∧
    (t.priv = true →
      (∀ p ∈ [(0x8C, []), (0x91, []), (0xA5, [(32, 8)]), (0xA6, []), (0xA7, []), (0xA8, []), (0xA9, []), (0xAA, []),
        (0xAB, [(0, 44)]), (0xAC, []), (0xAD, [])], n = p.1 → noRes p.2) ∧
      (n = 0xA0 → done { t' with epc := v }) ∧ (n = 0xA1 → done { t' with epcv := v }) ∧
      (n = 0xA2 → done { t' with epcm := v }) ∧ (n = 0xA3 → done { t' with epcc := v }) ∧
      (n = 0xAE → done { t' with scratch0 := v }) ∧ (n = 0xAF → done { t' with scratch1 := v }) ∧
      (n = 0xA4 → if bits 12 52 = 0 ∧ bits 7 2 = 0 ∧ bits 0 4 = 0 then
          done { t' with vec := { t.vec with held := t.vec.held && !v.getLsbD 4 },
                         mat := { t.mat with held := t.mat.held && !v.getLsbD 5 },
                         cpy := { t.cpy with held := t.cpy.held && !v.getLsbD 6 } }
        else traps .illRes) ∧
      (n = 0x90 → exec (.ctlWr x) s =
        .next (((s.withTeam c t').modCtx t.asid fun y => { y with fqhead := v.extractLsb' 0 32 }).did t)) ∧
      (n = 0x80 → if bits 0 6 ≠ 0 then traps .illRes else if path = 0 ∨ path = 6 then pends { r with htbase := v } else traps .pathRes) ∧
      (n = 0x81 → if v = 0 ∨ 4096 < v.toNat then traps .illRes else pends { r with htsize := v }) ∧
      (n = 0x82 → if path = 0 then pends { r with ptroot := v } else traps .pathRes) ∧
      (n = 0x83 → if bits 32 27 ≠ 0 ∨ 13 ≤ bits 59 4 then traps .illRes
        else pends { r with fqv := v.getLsbD 63, fqlogd := v.extractLsb' 59 4 }) ∧
      (n = 0x84 → if bits 0 6 ≠ 0 then traps .illRes else if path = 0 ∨ path = 6 then pends { r with fqbase := v } else traps .pathRes) ∧
      (n = 0x85 → if path = 0 ∨ path = 6 then pends { r with spillqbase := v } else traps .pathRes) ∧
      (n = 0x86 → pends { r with spillqsize := v }) ∧
      (n = 0x87 → if bits 0 16 ≠ 0 then traps .illRes else if path = 0 ∨ path = 6 then pends { r with swapbase := v } else traps .pathRes) ∧
      (n = 0x88 → if v.toNat < 10 ∨ 138 < v.toNat then traps .illRes else pends { r with swapstride := v }) ∧
      (n = 0x89 → pends { r with pinlim := v }) ∧
      (n = 0x8A → if 16 < v.toNat then traps .illRes else pends { r with collallot := v }) ∧
      (n = 0x8B → if bits 32 31 ≠ 0 ∨ bits 0 2 ≠ 0 then traps .illRes else if v.getLsbD 63 then pends { r with tvec := v }
        else exec (.ctlWr x) s = .next ((((s.withTeam c t').modCtx t.asid fun y => { y with pend := { r with tvec := v } }).modCtx
          t.asid fun y => { y with regs := { y.regs with tvec := v } }).did t))))

/-- R107, R108, R232: STAGE.SW goes on at once when the other stage holds no team; otherwise a switch of the cell starts now, the
strand waits at the instruction, and every engine stream outside a nest stops. R107 to R111: HUB_STAGE_SWITCH starts a switch
only to a ready team of strictly higher class; SWITCH_HARD_STOP stops after 336 cycles a cell that has not drained and keeps its
shared state; STAGE_SWITCH_FLIP makes the other stage active, with every latch zero, freezes the pending results of a drained
team that does not stand inside a deferral batch or an interrupted VAMO, moves its strand past STAGE.SW, and brings back what the other stage kept. -/
def Obligations.StageSwitching : Prop :=
  (∀ (s : State) (c : Nat) (t : Team) (x : S32), Guarded s c t x.pg →
    ((s.cell c).team (!(s.cell c).active) = none → exec (.stageSw x) s = .next (s.after c (t.past .strand 4))) ∧
    (((s.cell c).team (!(s.cell c).active)).isSome → t.batch = false → t.vrstidx = 0 → t.vpos = 0 →
      ∃ s' t', exec (.stageSw x) s = .next s' ∧ (s'.cell c).act = some t' ∧ (s'.cell c).sw = some { start := s.now } ∧
        t'.pc = t.pc ∧ t'.switching = true ∧ (s'.cell c).active = (s.cell c).active ∧
        (∀ e, t'.eng e = if (t.eng e).st = .run ∧ (t.eng e).nest = none then { t.eng e with stopped := true } else t.eng e))) ∧
  (∀ (s : State) (t u : Team), let c := s.arg.a
    let b := (s.cell c).active
    (s.cell c).act = some t → (s.cell c).team (!b) = some u →
    ((s.cell c).sw = none → s.cellUp c = true → t.pre = none → t.epilogue = none → t.ended = false → u.pre = none →
      u.ended = false → u.halted = false → u.wakes = true →
      (s.teamClass t < s.teamClass u → exec .hubStageSwitch s = .next (s.startSwitch c)) ∧
      (s.teamClass u ≤ s.teamClass t → exec .hubStageSwitch s = .next s)) ∧
    (∀ w, (s.cell c).sw = some w →
      (w.ready = false → s.drainedCell c = false → 336 ≤ cyclesOf s.now - cyclesOf w.start → ∃ s' t',
        exec .switchHardStop s = .next s' ∧ (s'.cell c).sw = some { w with ready := true, hard := true } ∧
        (s'.cell c).save b = some (s.cell c).sh.kept ∧ (s'.cell c).sh.landings = [] ∧ (s'.cell c).sh.array = [] ∧
        (s'.cell c).act = some t' ∧ (∀ e, (t'.eng e).stopped = ((t.eng e).stopped || (t.eng e).st == .run)) ∧ s'.mem = s.mem) ∧
      (cyclesOf s.now - cyclesOf w.start < 336 → exec .switchHardStop s = .next s) ∧
      (w.hard = false → s.drainedCell c = false → exec .stageSwitchFlip s = .next s) ∧
      (w.hard = true ∨ s.drainedCell c = true → ∃ s' t' u',
        exec .stageSwitchFlip s = .next s' ∧ (s'.cell c).active = !b ∧ (s'.cell c).sw = none ∧
        (s'.cell c).team b = some t' ∧ (s'.cell c).team (!b) = some u' ∧
        (∀ k i, 64 ≤ k → (s'.cell c).sh.laneAt k i = 0) ∧ (s'.cell c).save (!b) = none ∧
        ((s.cell c).save (!b) = none → (s'.cell c).sh.landings = u.frozen ∧ (s'.cell c).sh.m = (s.cell c).sh.m) ∧
        (∀ v, (s.cell c).save (!b) = some v → (s'.cell c).sh = v.clearLatches) ∧
        t'.frozen = (if w.hard = true ∨ t.mustHard = true then [] else (s.cell c).sh.landings) ∧ t'.pc = (if t.switching then t.pc + 4 else t.pc) ∧
        t'.switching = false ∧ u'.pc = u.pc ∧ u'.regs = u.regs ∧ s'.mem = s.mem)))

/-! ### Exceptions (R233, R234, R456, R457, R461 to R467) -/

/-- R456, R461, R463, R467: taking an exception in a team that is not privileged and whose context has a handler. Every engine
stream in RUN is held at its own offset, the trapping one at its instruction; the strand's EPC is the trapping instruction's offset
for a precise cause of the strand and its own counter otherwise; FREC holds the record, TSTATE names the stream, the mode is
privileged and the strand goes to the offset in TVEC. s1 to s23 keep their values, the latches read 0, the vector registers, masks
and flags keep theirs, semaphores too unless a job card stood behind the strand's wait, and memory does not change. Entry waits for a VAMO
of another stream and for what peers still answer to one (R403, R198). -/
def Obligations.ExceptionEntry : Prop :=
  ∀ (s : State) (c : Nat) (t : Team) (x : Stream) (k : Cause) (prec : Bool) (pc : Word) (i : Info),
    (s.cell c).act = some t → t.priv = false → t.epilogue = none → ((s.ctx t.asid).regs.tvec).getLsbD 63 = true →
    (∀ e, (t.eng e).held = false) → (x ≠ .vector → t.midVamo = false) →
    s.answersDue t (if x = .strand ∧ prec = false then none else some x) = false →
    let epc := match i.epc with
      | some e => BitVec.ofNat 64 e
      | none => pc
    ∃ t', (s.takeTrap c x k prec pc i).cell c =
        { (s.cell c).setTeam (s.cell c).active (some t') with sh := (s.cell c).sh.clearLatches } ∧
      (∀ d, d ≠ c → (s.takeTrap c x k prec pc i).cell d = s.cell d) ∧ (s.takeTrap c x k prec pc i).mem = s.mem ∧
      t'.priv = true ∧ t'.pc = ((s.ctx t.asid).regs.tvec.extractLsb' 0 32).setWidth 64 ∧ t'.tstrm = x.code ∧
      t'.epc = (if x = .strand ∧ prec = true then epc else t.pc) ∧
      (∀ e, t'.eng e = if e.stream = x then { t.eng e with held := true, pc := epc }
        else if (t.eng e).st = .run then { t.eng e with held := true } else t.eng e) ∧
      ((t'.eng .vector).held = true → t'.epcv = (t'.eng .vector).pc) ∧
      ((t'.eng .matrix).held = true → t'.epcm = (t'.eng .matrix).pc) ∧
      ((t'.eng .copy).held = true → t'.epcc = (t'.eng .copy).pc) ∧
      (∀ r, r < 24 → t'.sreg r = t.sreg r) ∧ t'.preds = t.preds ∧ t'.vflags = t.vflags ∧ t'.ras = t.ras ∧ ((∀ w ∈ t.waiters, w.2.1 = .strand) → t'.sems = t.sems) ∧
      (∀ r l, r < 64 → l < 128 → Sparse.get 0 (s.cell c).sh.clearLatches.v (laneKey r l) =
        Sparse.get 0 (s.cell c).sh.v (laneKey r l)) ∧
      (∀ r l, 64 ≤ r → Sparse.get 0 (s.cell c).sh.clearLatches.v (laneKey r l) = 0) ∧
      (s.cell c).sh.clearLatches.m = (s.cell c).sh.m ∧
      (let w := fun n => (t'.frec.getD n 0).toNat
       w 0 / 2 ^ 54 = k.code ∧ w 0 / 2 ^ 52 % 4 = x.code ∧ w 0 / 2 ^ 51 % 2 = (s.cell c).active.toNat ∧
       w 0 / 2 ^ 50 % 2 = prec.toNat ∧ w 0 / 2 ^ 40 % 2 ^ 10 = t.asid % 2 ^ 10 ∧ w 0 % 2 ^ 32 = t.no % 2 ^ 32 ∧
       w 1 = s.now % 2 ^ 64 ∧ w 2 / 2 ^ 32 = epc.toNat % 2 ^ 32 ∧ w 2 % 2 ^ 32 = i.detail % 2 ^ 32 ∧
       (∀ a, i.addr = some a → w 3 = a % 2 ^ 64) ∧ w 7 / 2 ^ 32 = t.grid % 2 ^ 32)

/-- R461, R465: a precise cause in privileged mode ends the team with DOUBLE_TRAP and the cause as its detail, and a cause in a team
whose context has no handler ends it with that cause. Ending stops its streams and nests, keeps the started job cards and discards
the others, and names the cause to its grid unless one was named before. R457: a record offered to a valid fault queue that is not
full is written at FQTAIL with the next sequence number, FQTAIL moves up one, and nothing else of memory changes (in the host's, for a part that does
not run in confidential mode, and in a local frame that key revocation has not cleared); otherwise DROP counts it, saturating. -/
def Obligations.TeamEndsAndFaultQueue : Prop :=
  (∀ (s : State) (c : Nat) (t : Team) (x : Stream) (k : Cause) (prec : Bool) (pc : Word) (i : Info),
    (s.cell c).act = some t → t.epilogue = none →
    let l := Loc.here c (s.cell c).active
    (t.priv = true → ∃ r, s.takeTrap c x k prec pc i = s.stopTeam l r ∧ r.cause = .doubleTrap ∧
      r.detail = BitVec.ofNat 32 k.code ∧ r.asid = t.asid) ∧
    (t.priv = false → (s.ctx t.asid).regs.tvec.getLsbD 63 = false → ∃ r, s.takeTrap c x k prec pc i = s.stopTeam l r ∧
      r.cause = k ∧ r.asid = t.asid) ∧
    (∀ r u, (∃ q ∈ t.cards, q.st = .running ∨ q.st = .performed) →
      (s.ctx r.asid).regs.fqv = true → (s.ctx r.asid).fqtail - (s.ctx r.asid).fqhead ≠ BitVec.ofNat 32
        (2 ^ ((s.ctx r.asid).regs.fqlogd.toNat + 4)) → (s.ctx r.asid).regs.fqlogd.toNat ≤ 12 →
      ((s.stopTeam l r).cell c).act = some u → u.ended = true ∧ (∀ e, u.eng e = {}) ∧ u.nt0 = {} ∧ u.nt1 = {} ∧
        (∀ q ∈ u.cards, q.st ≠ .waiting) ∧ (∀ q ∈ t.cards, q.st ≠ .waiting → ∃ b, { q with took := b } ∈ u.cards) ∧
        (∀ g, s.grid t.grid = some g → (s.stopTeam l r).grid t.grid =
          some { g with cause := g.cause.orElse fun _ => some r.cause }))) ∧
  (∀ (s : State) (r : FRec),
    let x := s.ctx r.asid
    let size := 2 ^ (x.regs.fqlogd.toNat + 4)
    let at_ := x.regs.fqbase.toNat + 64 * (x.fqtail.toNat % size)
    let byte := fun a => ((r.words (x.seq + 1)).getD ((a - at_ % 2 ^ 52) / 8) 0).extractLsb' (8 * ((a - at_ % 2 ^ 52) % 8)) 8
    let inside := fun a => at_ % 2 ^ 52 ≤ a ∧ a < at_ % 2 ^ 52 + 64
    (x.regs.fqv = true → (x.fqtail - x.fqhead).toNat ≠ size →
      (s.offer r).ctx r.asid = { x with fqtail := x.fqtail + 1, seq := x.seq + 1 } ∧
      (at_ / 2 ^ 52 % 16 = 6 → (s.offer r).mem.phys = s.mem.phys ∧
        (s.boot.on = false → ∀ a, (inside a → (s.offer r).mem.host.rd a = byte a) ∧ (¬ inside a → (s.offer r).mem.host.rd a = s.mem.host.rd a))) ∧
      (at_ / 2 ^ 52 % 16 ≠ 6 → (s.offer r).mem.host = s.mem.host ∧
        (at_ % 2 ^ 52 + 64 ≤ 41943040 * 65536 → s.boot.on = false ∨ (s.keyMapOf (at_ % 2 ^ 52 / 65536)).clr = false →
          ∀ a, (inside a → (s.offer r).mem.phys.rd a = byte a) ∧ (¬ inside a → (s.offer r).mem.phys.rd a = s.mem.phys.rd a)))) ∧
    (x.regs.fqv = false ∨ (x.fqtail - x.fqhead).toNat = size →
      ((s.offer r).ctx r.asid).drop.toNat = min (x.drop.toNat + 1) (2 ^ 32 - 1) ∧
      ((s.offer r).ctx r.asid).fqtail = x.fqtail ∧ (s.offer r).mem = s.mem))

/-- R233, R461, R463: TRAP n takes cause 224 + n with EPC at the offset after it. R234, R466, R467: ERET is legal only in privileged
mode. It leaves the mode and goes to EPC; a held engine resumes at its EPC, out of its nest when that is another offset; an
engine whose HELD bit was cleared goes idle. User registers, predicates and the trap record keep their values. -/
def Obligations.TrapAndReturn : Prop :=
  (∀ (s : State) (c : Nat) (t : Team) (x : S32), Guarded s c t x.pg →
    exec (.trap x) s = .next (s.trapAt c .strand t.still (.soft x.rs1) { epc := some (t.pc + 4).toNat }) ∧
    (Cause.soft x.rs1).code = 224 + x.rs1.toNat ∧
    (t.priv = false → t.epilogue = none → t.midVamo = false → s.answersDue t (some .strand) = false → (s.ctx t.asid).regs.tvec.getLsbD 63 = true →
      ∃ s' t', exec (.trap x) s = .next s' ∧ (s'.cell c).act = some t' ∧ t'.priv = true ∧ t'.epc = t.pc + 4 ∧
        t'.pc = ((s.ctx t.asid).regs.tvec.extractLsb' 0 32).setWidth 64 ∧
        (t'.frec.getD 0 0).toNat / 2 ^ 54 = 224 + x.rs1.toNat)) ∧
  (∀ (s : State) (c : Nat) (t : Team) (x : S32), Guarded s c t x.pg →
    (t.priv = false → exec (.eret x) s = .next (s.trapAt c .strand t.still .illPriv {})) ∧
    (t.priv = true → ∃ s' t', exec (.eret x) s = .next s' ∧ (s'.cell c).act = some t' ∧ t'.priv = false ∧ t'.pc = t.epc ∧
      (∀ e, let epc := match e with
              | .vector => t.epcv
              | .matrix => t.epcm
              | .copy => t.epcc
            t'.eng e =
              if (t.eng e).held = true then
                (if (t.eng e).pc = epc then { t.eng e with held := false }
                 else { t.eng e with held := false, pc := epc, nest := none, stopped := false })
              else if (t.eng e).st = .run then {} else t.eng e) ∧
      (∀ r, r < 24 → t'.sreg r = t.sreg r) ∧ t'.preds = t.preds ∧ t'.frec = t.frec ∧ t'.ras = t.ras ∧ s'.mem = s.mem ∧
      ((s'.cell c).sh.landings = if (t.vec).st = .run ∧ t.vec.held = false then [] else (s.cell c).sh.landings)))

/-- R464: an asynchronous cause waits in its team, up to eight of them; the strand takes the oldest when it next may issue outside
privileged mode, with EPC at the offset where it stands and the record kept when the cause arose. -/
def Obligations.AsynchronousTraps : Prop :=
  (∀ (t : Team) (r : FRec), (t.apend.length < 8 → (t.pend r).apend = t.apend ++ [r]) ∧ (8 ≤ t.apend.length → t.pend r = t)) ∧
  (∀ (s : State) (c : Nat) (t : Team) (r : FRec) (rest : List FRec), (s.cell c).act = some t → s.arg.a = c →
    t.apend = r :: rest → r.strm < 4 → t.priv = false → t.epilogue = none → s.strandRuns c t = true → t.midVamo = false → s.answersDue t none = false →
    (s.ctx t.asid).regs.tvec.getLsbD 63 = true →
    ∃ s' t', exec .asyncTrapTake s = .next s' ∧ (s'.cell c).act = some t' ∧ t'.apend = rest ∧ t'.priv = true ∧ t'.epc = t.pc ∧
      t'.pc = ((s.ctx t.asid).regs.tvec.extractLsb' 0 32).setWidth 64 ∧
      (t'.frec.getD 0 0).toNat / 2 ^ 54 = r.cause.code ∧ (t'.frec.getD 1 0).toNat = r.time % 2 ^ 64 ∧
      (t'.frec.getD 7 0).toNat % 2 ^ 32 = r.seq.toNat)

/-! ### Atomics, fences, barriers (R398 to R408) -/

/-- R398 to R400: every AMO on the issuing team's vault, in both forms and with every order. The bytes at the address become the
function of the old ones and RD, CAS writing RD + 1 only where the old value equals RD; RD takes the old value, extended as LD
extends it; every other byte keeps its value. The form's release and acquire surround the operation. R398 to R400, R309: an AMO
on local memory, through a page that the cell's TLB holds, changes the bytes at the physical address alone, answers the old ones, and an AMO that is not aligned to its
size traps `LDST_ALIGN`, one through a HOST handle `SYNC_PATH`. -/
def Obligations.Atomics : Prop :=
  (let fns : List (AmoFn × (S32 → Instr) × (S64 → Instr)) :=
    [(.add, .amoAdd, .amoAddImm), (.min, .amoMin, .amoMinImm), (.max, .amoMax, .amoMaxImm), (.xchg, .amoXchg, .amoXchgImm),
     (.cas, .amoCas, .amoCasImm), (.and, .amoAnd, .amoAndImm), (.or, .amoOr, .amoOrImm)]
  let after : AmoFn → Bool → Nat → Word → Word → Nat → List Byte → Team → Team := fun f u n a b v bs t =>
    let old := BitVec.ofNat (8 * n) (bs.zipIdx.map fun p => p.1.toNat * 256 ^ p.2).sum
    if f = .cas then (if old = a.setWidth (8 * n) then t.vaultWr v (regBytes n b) else t)
    else t.vaultWr v (regBytes n ((amoSpec (8 * n) f u old (a.setWidth (8 * n))).setWidth 64))
  ∀ p ∈ fns,
    (∀ (s : State) (c : Nat) (t : Team) (x : S32) (v : Nat) (bs : List Byte), Guarded s c t x.pg →
      let n := 2 ^ (x.md.toNat % 4)
      let off := (t.sreg x.rs1.toNat).toNat
      2 ≤ x.md.toNat % 4 → t.loads.length < 8 → off % n = 0 → OwnVault s c t x.rs2.toNat off n true v → t.vaultRd v n = some bs →
      exec (p.2.1 x) s = .next ((s.handleRead t.asid x.rs2.toNat).after c
        ((after p.1 (x.md.getLsbD 2) n (t.sreg x.rd.toNat) (t.sreg (x.rd + 1).toNat) v bs (t.past .strand 4)).loading x.rd.toNat
          (loaded n (x.md.getLsbD 2) bs)))) ∧
    (∀ (s s0 : State) (c : Nat) (t t0 : Team) (x : S64) (v : Nat) (bs : List Byte), Guarded s c t x.r.pg →
      let n := 2 ^ (x.r.md.toNat % 4)
      let off := (t.sreg x.r.rs1.toNat + (x.imm.extractLsb' 0 20).signExtend 64).toNat
      let h := (x.imm.extractLsb' 20 12).toNat
      let ord := (x.r.rs2.extractLsb' 3 2).toNat
      let scope := (x.r.rs2.extractLsb' 0 3).toNat
      2 ≤ x.r.md.toNat % 4 → t.loads.length < 8 → off % n = 0 →
      (if 2 ≤ ord then (release (s.whoIs c t) scope).run (s.withTeam c (t.past .strand 8)) = .ok () s0
       else s0 = s.withTeam c (t.past .strand 8)) →
      (s0.cell c).act = some t0 → (s0.cell c).active = (s.cell c).active → s0.cur = s.cur → t0.asid = t.asid →
      OwnVault s0 c t0 h off n true v → t0.vaultRd v n = some bs →
      let u := (s0.handleRead t.asid h).withTeam c
        (after p.1 (x.r.md.getLsbD 2) n (t.sreg x.r.rd.toNat) (t.sreg (x.r.rd + 1).toNat) v bs t0)
      exec (p.2.2 x) s = .next ((((if ord % 2 = 1 then u.acquired (s.whoIs c t) scope else u).modAct c fun z =>
        z.loading x.r.rd.toNat (loaded n (x.r.md.getLsbD 2) bs))).did t))) ∧
  (∀ (s : State) (c : Nat) (t : Team) (x : S32), Guarded s c t x.pg → t.loads.length < 8 →
    let n := 2 ^ (x.md.toNat % 4)
    let off := (t.sreg x.rs1.toNat).toNat
    ∀ p ∈ [(AmoFn.add, Instr.amoAdd), (.min, .amoMin), (.max, .amoMax), (.xchg, .amoXchg), (.and, .amoAnd), (.or, .amoOr),
        (.cas, .amoCas)],
      (∀ pa, 2 ≤ x.md.toNat % 4 → off % n = 0 → LocalPage s c t.asid x.rs2.toNat off n true pa → CleanLines s pa n →
        let bs := s.mem.phys.rdBytes pa n
        let old := BitVec.ofNat (8 * n) (bs.zipIdx.map fun p => p.1.toNat * 256 ^ p.2).sum
        let a := (t.sreg x.rd.toNat).setWidth (8 * n)
        let new := if p.1 = .cas then (if old = a then (t.sreg (x.rd + 1).toNat).setWidth (8 * n) else old)
          else amoSpec (8 * n) p.1 (x.md.getLsbD 2) old a
        ∃ s', exec (p.2 x) s = .next s' ∧
          (s'.cell c).act = some ((t.past .strand 4).loading x.rd.toNat (loaded n (x.md.getLsbD 2) bs)) ∧
          (∀ k, s'.mem.phys.rd k = if pa ≤ k ∧ k < pa + n then new.extractLsb' (8 * (k - pa)) 8 else s.mem.phys.rd k) ∧
          s'.mem.host = s.mem.host ∧ s'.mem.peer = s.mem.peer ∧ (∀ d, d ≠ c → s'.cell d = s.cell d)) ∧
      (off % n ≠ 0 → exec (p.2 x) s = .next (s.trapAt c .strand t.still .ldstAlign { addr := off })) ∧
      (∀ e, off % n = 0 → HandleOk s t.asid x.rs2.toNat off n true e → e.path = 6 →
        exec (p.2 x) s = .next ((s.handleRead t.asid x.rs2.toNat).trapAt c .strand t.still .syncPath
          { addr := some (6 * 2 ^ 52 + e.base + off) })))

/-- R385, R404: FENCE marks, when it first issues, what was issued before it. It goes on when the issuing stream and the streams of its
mask have performed what is marked: the vector and matrix results have landed, the job cards are over (those that the copy stream
issued, for its own FENCE), and at POD or SYSTEM scope every packet of theirs is acknowledged; then it releases and acquires at
its scope. While marked vector results are to land it waits. R405 to R408: the barrier
instructions, on the barrier `b` that the four words at the handle's offset hold. BAR.EXP of an unposted barrier in the current
phase posts the count and fires when it is reached, and traps `BAR_STATE` otherwise. BAR.ARR adds to the current or the next
phase, fires a posted barrier that is reached, and marks an overrun in any other phase. BAR.WAIT.try writes whether the phase
has passed; BAR.WAIT goes on when it has, and otherwise waits, without reading the barrier again, until a write that passes the phase
tells it so. A phase has passed when the current one is 1 to 32,767 past it. R368, R406, R407: in
the copy stream BAR.ARR takes its operands from the 16-byte block at IMM[19:0] of the vault, once the cards that the stream
issued are over; a block that is not aligned or lies past the allotment traps. -/
def Obligations.FencesAndBarriers : Prop :=
  (∀ (s s1 s2 s3 : State) (c : Nat) (st : Stream) (t t2 : Team) (x : S32) (f : Fence), Issues s c st t →
    (st = .strand → t.pred x.pg.toNat = true) → (s.cell c).sh.duePoison = none →
    let scope := x.md.toNat
    let masked : Stream → Prop := fun k => x.rs1.getLsbD k.code = true ∨ st = k
    let es := [Stream.strand, .vector, .matrix, .copy].filter fun k => x.rs1.getLsbD k.code
    (markFence st).run (s.withTeam c (t.past st 4)) = .ok f s1 →
    (Tab.find t.fences st.code = none → f.cards = (t.cards.filter fun k => k.st != .recording).map (·.seq) ∧ f.pkt = s.fab.nextPkt ∧
      (∀ l ∈ (s1.cell c).sh.landings, st ∈ l.fence) ∧ ∀ p ∈ (s1.cell c).sh.array, st ∈ p.fence) ∧
    ((masked .vector → ∀ l ∈ (s1.cell c).sh.landings, st ∉ l.fence) → (masked .matrix → ∀ p ∈ (s1.cell c).sh.array, st ∉ p.fence) →
      (masked .copy → ∀ k ∈ t.cards, k.seq ∈ f.cards → k.stream = .copy ∨ x.rs1.getLsbD 3 = true → k.st = .recording) →
      (∃ drained, (masked .matrix → drained = s1.drainPosted fun p => p.src == c) ∧ (¬ masked .matrix → drained = s1) ∧
        (release (s.whoIs c t st) scope).run drained = .ok () s2) → (s2.cell c).act = some t2 →
      (4 ≤ scope → ∀ p ∈ s2.packets, p.2.fenced t2 f st es = false) → (endFence st).run s2 = .ok () s3 →
      let fin := (s3.acquired (s.whoIs c t st) scope).usedReplies (t.key st)
      exec (.fence x) s = .next (if st = .vector then fin.streamCycle c else fin)) ∧
    (st = .strand → x.rs1.getLsbD 1 = true → Tab.find t.fences st.code = none → (s.cell c).sh.landings ≠ [] →
      ∃ s', exec (.fence x) s = .next s' ∧ (s'.cell c).act = some { t.still with fences := Tab.put t.fences st.code f })) ∧
  (∀ (s : State) (pa : Nat) (b : Bar) (d : Nat) (g : Bool) (u : Team) (z : BarWait), (s.cell d).team g = some u →
    u.barWait = some z → z.pa = pa → b.passed z.phase = true →
      ∃ u', ((s.tellBar pa b).cell d).team g = some u' ∧ u'.barWait = some { z with told := true }) ∧
  (∀ (s s1 s2 s3 : State) (c : Nat) (t : Team) (x : S64) (fa : Nat) (d : Dest) (b : Bar), Guarded s c t x.r.pg →
    let h := (x.imm.extractLsb' 20 12).toNat
    let off := (t.sreg x.r.rs1.toNat + (x.imm.extractLsb' 0 20).signExtend 64).toNat
    let w := s.whoIs c t
    let scope := x.r.md.toNat
    let fired : Bar → Bar := fun b => { b with
      ovr := b.ovr || decide (b.exp < b.arr), phase := b.phase + 1, arr := b.next, next := 0, posted := false, fire := s2.now }
    let raises : Bool → State → State := fun o s => if o then s.raiseAsync (.here c (s.cell c).active) .barOverrun else s
    (barDest w h off).run (s.withTeam c (t.past .strand 8)) = .ok (fa, d) s1 →
    (let e := { b with exp := (t.sreg x.r.rs2.toNat).toNat % 2 ^ 32, posted := true }
     let p := (t.sreg x.r.rd.toNat).extractLsb' 0 16
     (barRead w fa d).run s1 = .ok b s2 → s2.cur = s.cur → (s2.cell c).act = some (t.past .strand 8) →
      (b.posted = true ∨ p ≠ b.phase →
        exec (.barExp x) s = .next (((s2.withTeam c t.still).did t).takeTrap c .strand .barState true t.pc { addr := fa })) ∧
      (b.posted = false → p = b.phase →
        (barWrite w d (if e.exp ≤ b.arr then fired e else e)).run s2 = .ok () s3 → s3.cur = s.cur →
        exec (.barExp x) s = .next ((raises (decide (e.exp < b.arr)) s3).did t)) ∧
      (let q := (t.sreg x.r.rs2.toNat).extractLsb' 0 16
       let passed := 1 ≤ (b.phase - q).toNat ∧ (b.phase - q).toNat ≤ 32767
       t.barWait = none →
       (x.r.rd.getLsbD 4 = true → exec (.barWait x) s = .next
          (let u := s2.withTeam c ((t.past .strand 8).setPred (x.r.rd.toNat % 8) (decide passed))
           (if passed then u.acquired w scope else u).did t)) ∧
       (x.r.rd.getLsbD 4 = false → passed → exec (.barWait x) s = .next ((s2.acquired w scope).did t)) ∧
       (∀ pa leaf, d = .loc pa leaf → x.r.rd.getLsbD 4 = false → ¬ passed → (∀ k ∈ t.waiters, k.1 ≠ 257) →
          ∃ s', exec (.barWait x) s = .next s' ∧ (s'.cell c).act = some
            { t.still with barWait := some { pa := pa, phase := q }, waiters := t.waiters ++ [(257, .strand, 0)] }))) ∧
    (∀ z, t.barWait = some z →
      (z.told = true → (∀ l ∈ (s.cell c).sh.landings, l.drain = false) → exec (.barWait x) s = .next
        (((s.withTeam c { (t.past .strand 8).dropWaiter 257 .strand with barWait := none }).acquired w scope).did t)) ∧
      (z.told = false → exec (.barWait x) s = .next (s.withTeam c t.still))) ∧
    (let p := (t.sreg x.r.rd.toNat).extractLsb' 0 16
     let n := (t.sreg x.r.rs2.toNat).toNat % 2 ^ 32
     let sat : Nat → Nat := fun k => min k (2 ^ 64 - 1)
     let arrived := { b with arr := sat (b.arr + n) }
     let next := if p = b.phase then (if b.posted = true ∧ b.exp ≤ arrived.arr then fired arrived else arrived)
       else if p = b.phase + 1 then { b with next := sat (b.next + n) } else { b with ovr := true }
     let o := if p = b.phase then b.posted && decide (b.exp < arrived.arr) else decide (p ≠ b.phase + 1)
     ∀ sr, (release w scope).run s1 = .ok () sr → (barRead w fa d).run sr = .ok b s2 → (barWrite w d next).run s2 = .ok () s3 →
       s3.cur = s.cur → sr.cur = s.cur → s2.cur = s.cur → exec (.barArr x) s = .next ((raises o s3).did t))) ∧
  (∀ (s s' : State) (c : Nat) (t : Team) (x : S64) (bs : List Byte), Issues s c .copy t →
    let off := (x.imm.extractLsb' 0 20).toNat
    let t' := t.past .copy 8
    let w0 := nth (bytesWords 2 bs) 0
    let w1 := nth (bytesWords 2 bs) 1
    (off % 16 = 0 → off + 16 ≤ t.valloc * 65536 → (∀ k ∈ t.cards, k.stream = .copy → k.st = .recording) →
      t.vaultRd off 16 = some bs → w0.extractLsb' 48 4 = 0 → w1.extractLsb' 32 16 = 0 →
      (doArrive (s.whoIs c t .copy) (w0.extractLsb' 52 12).toNat (w0.extractLsb' 0 48).toNat x.r.md.toNat (w1.extractLsb' 48 16)
        (w1.extractLsb' 0 32).toNat).run (s.withTeam c t') = .ok () s' →
      exec (.barArr x) s = .next (s'.cycled .copy c t)) ∧
    ((t.eng .copy).nest = none → off % 16 ≠ 0 → exec (.barArr x) s = .next (s.trapAt c .copy t .vaultAlign { addr := off })) ∧
    ((t.eng .copy).nest = none → off % 16 = 0 → t.valloc * 65536 < off + 16 →
      exec (.barArr x) s = .next (s.trapAt c .copy t .vaultBound { addr := off })))

/-! ### Collectives, leases, near-bank runs (R409 to R425) -/

/-- R410, R415, R416: COLL.REG of a well-formed block whose buffer passes its checks enters the name with the flat address of the
buffer; a block that is not well formed, a name that is registered and a full table trap. COLL.FREE removes a name that no
collective runs under, and waits while one does. Without a Skidway every one of them traps `UNIT_ABSENT`, whatever its guard reads (R189). R412, R413, R440:
COLL.AR, COLL.AG and COLL.RS. When the block passes R412 and a reduction context is free, the predicate is 1 and a collective
runs with the block's fields, the group read, this device's rank in it, and a working copy of the region, each element in 32
bits, a BF16 NaN as the canonical one; COLL.AG has its own chunk to write at once; then the collective does what it can: it writes, it
sends the first step's chunk, it takes what waits at its port. With no context free the predicate is 0 and nothing
else changes. -/
def Obligations.Collectives : Prop :=
  (∀ (s : State) (c : Nat) (t : Team) (x : S64), Issues s c .strand t → s.hasSkidway = false →
    ∀ i ∈ [Instr.collReg, .collFree, .collAr, .collAg, .collRs],
      exec (i x) s = .next (s.takeTrap c .strand .unitAbsent true t.pc {})) ∧
  (∀ (s s2 s3 : State) (c : Nat) (t t2 : Team) (x : S64) (b : List Word), Guarded s c t x.r.pg → s.hasSkidway = true →
    let w := s.whoIs c t
    let name := ((nth b 0).extractLsb' 32 32).toNat
    let traps : Cause → State := fun k => ((s2.withTeam c { t2 with pc := t.pc }).did t).takeTrap c .strand k true t.pc {}
    (s2.cur = s.cur → (s2.cell c).act = some t2 → t2.asid = t.asid → (s2.cell c).active = (s.cell c).active →
      ((collBlock x 64).run (s.withTeam c (t.past .strand 8)) = .ok b s2 →
        let wellFormed := name ≠ 0 ∧ (nth b 0).extractLsb' 22 10 = 0 ∧ (nth b 0).extractLsb' 0 8 = 0 ∧
          (nth b 1).extractLsb' 48 4 = 0 ∧ (nth b 2).extractLsb' 48 16 = 0 ∧ nth b 3 = 0 ∧ nth b 4 = 0 ∧ nth b 5 = 0 ∧
          nth b 6 = 0 ∧ nth b 7 = 0
        let off := ((nth b 1).extractLsb' 0 48).toNat
        let size := ((nth b 2).extractLsb' 0 48).toNat
        (¬ wellFormed → exec (.collReg x) s = .next (traps .collInvalid)) ∧
        (wellFormed → (s2.collReg t.asid name).isSome → exec (.collReg x) s = .next (traps .collName)) ∧
        (wellFormed → s2.collReg t.asid name = none → 256 ≤ (s2.ctx t.asid).colls.length →
          exec (.collReg x) s = .next (traps .collTable)) ∧
        (∀ fa o sh, wellFormed → s2.collReg t.asid name = none → (s2.ctx t.asid).colls.length < 256 → off % 64 = 0 →
          size % 64 = 0 → size ≠ 0 → (handleAt t.asid ((nth b 1).extractLsb' 52 12).toNat off size true).run s2 = .ok (fa, o) sh →
          ((parts fa size).forM fun p => collMember w p.1).run sh = .ok () s3 →
          exec (.collReg x) s = .next ((s3.modCtx t.asid fun k =>
            { k with colls := Tab.put k.colls name { port := nth b 0, buf := BitVec.ofNat 64 fa, size := size } }).did t))) ∧
      ((collBlock x 8).run (s.withTeam c (t.past .strand 8)) = .ok b s2 →
        (s2.collReg t.asid name = none → exec (.collFree x) s = .next (traps .collName)) ∧
        ((s2.collReg t.asid name).isSome → s2.collRun t.asid name = none →
          exec (.collFree x) s = .next ((s2.modCtx t.asid fun k => { k with colls := Tab.del k.colls name }).did t)) ∧
        ((s2.collReg t.asid name).isSome → (s2.collRun t.asid name).isSome →
          ∃ s', exec (.collFree x) s = .next s' ∧ (s'.cell c).act = some t.still ∧ s'.ctxs = s.ctxs)))) ∧
  (∀ (s s2 s3 s4 : State) (c : Nat) (t t3 : Team) (x : S64) (b : List Word) (r : CollReg) (group : List (BitVec 32))
    (bar : Nat) (bs : List Byte), Guarded s c t x.r.pg → s.hasSkidway = true →
    let w := s.whoIs c t
    (collBlock x 64).run (s.withTeam c (t.past .strand 8)) = .ok b s2 → (s2.cell c).act = some t3 → t3.asid = t.asid →
    (s2.cell c).active = (s.cell c).active → s2.cur = s.cur → (collChecks w b).run s2 = .ok (r, group, bar) s3 → s3.cur = s.cur →
    (s3.cell c).act = some t3 → (s3.cell c).active = (s.cell c).active →
    let dt := ((nth b 0).extractLsb' 28 4).toNat
    let count := ((nth b 4).extractLsb' 32 32).toNat
    let off := ((nth b 3).extractLsb' 0 48).toNat
    let e := if dt = 4 then 2 else 4
    let mine := (s3.fab.colls.filter fun k => k.asid == t.asid).length
    let full := (s3.regsOf t.asid).collallot.toNat ≤ mine ∨ 16 ≤ s3.fab.colls.length
    let pd := x.r.rd.toNat % 8
    (full → ∀ i ∈ [Instr.collAr, .collAg, .collRs], exec (i x) s = .next ((s3.withTeam c (t3.setPred pd false)).did t)) ∧
    (¬ full → (loadFlat w (r.buf.toNat + off) (group.length * count * e)).run s3 = .ok bs s4 → (s4.cell c).act = some t3 →
      s4.cur = s.cur →
      ∀ p ∈ [(Instr.collAr, 0x0D), (.collAg, 0x0E), (.collRs, 0x0F)], ∃ k : Coll,
        k.asid = t.asid ∧ k.name = (nth b 0).extractLsb' 32 32 ∧ k.op = p.2 ∧ k.dtype = dt ∧
        k.phase = (nth b 0).extractLsb' 0 16 ∧ k.barrier = BitVec.ofNat 64 bar ∧ k.off = off ∧ k.count = count ∧
        k.group = group ∧ k.team = t3.ref ∧ k.step = 0 ∧ k.received = 0 ∧ k.finals = (if p.2 = 0x0E then [k.rank] else []) ∧
        (∀ i g, group[i]? = some g → g.toNat / 2 ^ 22 = s3.fab.devno →
          (∀ j h, j < i → group[j]? = some h → h.toNat / 2 ^ 22 ≠ s3.fab.devno) → k.rank = i) ∧
        (∀ i, i < group.length * count → bs.length = group.length * count * e →
          let v : Nat := (((bs.drop (i * e)).take e).zipIdx.map fun p => p.1.toNat * 256 ^ p.2).sum
          Sparse.get 0 k.work i = BitVec.ofNat 32
            (if dt = 4 then (if v / 128 % 256 = 255 ∧ v % 128 ≠ 0 then 0x7FC00000 else v * 65536) else v)) ∧
        (let s' := ({ s4 with fab := { s4.fab with colls := s4.fab.colls ++ [k] } } : State).withTeam c (t3.setPred pd true)
         exec (p.1 x) s = .next (((s'.collGo t.asid k.name.toNat).portToColl r.cell r.portNo).did t))))

/-- R417, R418, R436: LEASE.REQ makes a PENDING lease with the next id and writes it to RD, and writes 0 without making one where
the peer is no neighbour, the count is 0 or above 256, 256 leases are live, or the context has one to the peer that has not ended; LEASE.RET ends a
lease of the context; LEASE.Q writes the state word, 0 for another's. Without a fabric they trap `UNIT_ABSENT`, whatever their guard reads (R189). R418, R435 to
R437: LEASE_GRANT gives what the pool and the named bundles hold, no more than was asked for, with notice to the lease that it takes
from (log 107), or refuses; LEASE_RETUNE_DONE
makes a lease ACTIVE after 5 µs; it ends when its duration is over, or 10 µs after a notice, which only a lease ACTIVE for 100
µs gets; 5 µs after its end the wavelengths are back. The semaphore is signalled at ACTIVE and at REFUSED. -/
def Obligations.LeaseLife : Prop :=
  (∀ (s : State) (c : Nat) (t : Team) (x : S64), Issues s c .strand t → s.hasFabric = false →
    ∀ j ∈ [Instr.leaseReq, .leaseRet, .leaseQ], exec (j x) s = .next (s.takeTrap c .strand .unitAbsent true t.pc {})) ∧
  (∀ (s : State) (c : Nat) (t : Team) (x : S64), Guarded s c t x.r.pg →
    let t' := t.past .strand 8
    let rd := x.r.rd.toNat
    let d := ((t.sreg x.r.rs1.toNat).extractLsb' 0 10).toNat
    let k := (t.sreg x.r.rs2.toNat).toNat
    let i := ((t.sreg x.r.rs1.toNat).extractLsb' 0 16).toNat
    let turned := s.entryOf d = none ∨ k = 0 ∨ 256 < k ∨ 256 ≤ (s.fab.leases.filter fun p => p.2.live).length ∨
      ∃ p ∈ s.fab.leases, p.2.asid = t.asid ∧ p.2.peer = d ∧ p.2.st ≠ .ended
    (s.hasFabric = true →
      (turned → exec (.leaseReq x) s = .next (s.after c (t'.setSreg rd 0))) ∧
      (¬ turned → ∃ id l, exec (.leaseReq x) s = .next
          (({ s with fab := { s.fab with leases := Tab.put s.fab.leases id l, nextLease := id % 65535 + 1 } } : State).after c
            (t'.setSreg rd (BitVec.ofNat 64 id))) ∧
        ((∀ p ∈ s.fab.leases, p.1 ≠ s.fab.nextLease) → id = s.fab.nextLease) ∧
        l.asid = t.asid ∧ l.peer = d ∧ l.st = .pending ∧ l.want = k ∧ l.all = x.r.md.getLsbD 0 ∧
        l.duration = (x.imm.extractLsb' 0 20).toNat ∧ l.since = s.now ∧ l.team = t.ref ∧ l.granted = 0 ∧
        l.sem = if x.imm.getLsbD 23 then some (x.imm.extractLsb' 24 8).toNat else none) ∧
      (∀ l, s.lease i = some l → l.asid = t.asid →
        exec (.leaseRet x) s = .next (((s.withTeam c t').endLease i).did t) ∧
        exec (.leaseQ x) s = .next (s.after c (t'.setSreg rd (l.word s.now)))) ∧
      ((∀ l, s.lease i = some l → l.asid ≠ t.asid) →
        exec (.leaseRet x) s = .next (s.after c t') ∧ exec (.leaseQ x) s = .next (s.after c (t'.setSreg rd 0)))) ∧
    (∀ (l : Lease) (now : Nat), l.granted < 512 →
      let w := (l.word now).toNat
      w / 2 ^ 61 = (match l.st with
        | .none => 0
        | .pending => 1
        | .retuning => 2
        | .active => 3
        | .notice => 4
        | .refused => 5
        | .ended => 6) ∧
      w / 2 ^ 52 % 2 ^ 9 = (if l.st = .retuning ∨ l.st = .active ∨ l.st = .notice then l.granted else 0) ∧
      w / 2 ^ 42 % 2 ^ 10 = l.peer % 2 ^ 10 ∧ w % 2 ^ 32 = min (l.left now / 1000) (2 ^ 32 - 1))) ∧
  (∀ (s : State) (x : Lease), let i := s.arg.a
    let n := s.arg.b
    s.lease i = some x →
    (x.st = .pending → n = 0 → exec .leaseGrant s = .next ((s.modLease i fun y => { y with st := .refused }).signalLease x)) ∧
    (x.st = .pending → 0 < n → s.arg.w = [] → n ≤ s.pool → n ≤ x.want → (x.all = true → n = x.want) →
      exec .leaseGrant s = .next ((s.modLease i fun y =>
        { y with st := .retuning, granted := n, taken := n, lent := [], since := s.now }).countLeased x.peer n)) ∧
    (∀ ys, x.st = .pending → 0 < n → n ≤ x.want → (x.all = true → n = x.want) → s.grantList x s.arg.w = some ys →
      min n s.pool + (ys.map (·.2)).foldl (· + ·) 0 = n →
      (s.revokeList x s.arg.w = some [] → ∃ s', exec .leaseGrant s = .next s' ∧
        s'.lease i = some { x with st := .retuning, granted := n, taken := n, lent := ys, since := s.now } ∧ s'.mem = s.mem ∧
        s'.cells = s.cells)) ∧
    (∀ ys v m, x.st = .pending → 0 < n → n ≤ x.want → (x.all = true → n = x.want) → s.grantList x s.arg.w = some ys →
      s.revokeList x s.arg.w = some [(v, m)] → s.baseSpent x ys = true →
      min n s.pool + (ys.map (·.2)).foldl (· + ·) 0 + m = n → ∃ s' y z, exec .leaseGrant s = .next s' ∧
        s'.lease i = some y ∧ y.st = .retuning ∧ y.granted = n ∧ y.taken = n ∧ y.since = s.now + 10000 ∧
        s'.lease v = some z ∧ z.st = .notice ∧ z.since = s.now) ∧
    (x.st = .pending → 0 < n → (x.want < n ∨ (x.all = true ∧ n ≠ x.want)) → exec .leaseGrant s = .next s) ∧
    (x.st ≠ .pending → exec .leaseGrant s = .next s) ∧
    (x.st = .retuning ∧ x.since + 5000 ≤ s.now → exec .leaseRetuneDone s = .next
      ((s.modLease i fun y => { y with st := .active, since := s.now }).signalLease x)) ∧
    (¬ (x.st = .retuning ∧ x.since + 5000 ≤ s.now) → exec .leaseRetuneDone s = .next s) ∧
    (x.st = .active ∧ x.duration ≠ 0 ∧ x.since + x.duration * 10000 ≤ s.now →
      exec .leaseDurationEnd s = .next (s.endLease i)) ∧
    (¬ (x.st = .active ∧ x.duration ≠ 0 ∧ x.since + x.duration * 10000 ≤ s.now) → exec .leaseDurationEnd s = .next s) ∧
    (x.st = .active ∧ x.since + 100000 ≤ s.now → exec .leaseRevokeNotice s = .next
      ((s.modLease i fun y => { y with st := .notice, since := s.now }).offer
        { cause := .leaseNotice, asid := x.asid, time := s.now, peer := x.peer, ids := [BitVec.ofNat 32 i] })) ∧
    (¬ (x.st = .active ∧ x.since + 100000 ≤ s.now) → exec .leaseRevokeNotice s = .next s) ∧
    (x.st = .notice ∧ x.since + 10000 ≤ s.now → exec .leaseNoticeExpire s = .next (s.endLease i)) ∧
    (¬ (x.st = .notice ∧ x.since + 10000 ≤ s.now) → exec .leaseNoticeExpire s = .next s) ∧
    (x.st = .ended ∧ x.since + 5000 ≤ s.now → exec .leaseRetuneBackDone s = .next (s.giveBack i)) ∧
    (¬ (x.st = .ended ∧ x.since + 5000 ≤ s.now) → exec .leaseRetuneBackDone s = .next s) ∧ (s.giveBack i).lease i = some { x with taken := 0, lent := [] } ∧
    (∃ y, (s.endLease i).lease i = some y ∧ (x.st ≠ .refused → x.st ≠ .ended → x.st ≠ .none → y.st = .ended ∧ y.granted = 0 ∧
      y.taken = x.taken ∧ y.since = s.now)))

/-- R419, R421 to R423, R502: BANK.RUN of a block that passes R421. When a unit of its mask runs or is suspended the predicate is 0
and nothing else changes; otherwise it is 1 and exactly the units of the mask in the operands' stack start at word 0 with the
block's microprogram, rows and scalars, and keep their accumulators. BANK.STAT writes the status word of a unit that the context
used, and 0 for another. Without near-bank units both trap `UNIT_ABSENT`, whatever their guard
reads (R189). -/
def Obligations.BankRuns : Prop :=
  (∀ (s s1 s2 s3 s4 : State) (c : Nat) (t t4 : Team) (x : S64) (fa o : Nat) (bs code : List Byte)
      (ops : List (List (Option (Nat × Nat)))), Guarded s c t x.r.pg → s.hasNearBank = true →
    let w := s.whoIs c t
    let h := (x.imm.extractLsb' 20 12).toNat
    let off := (t.sreg x.r.rs1.toNat + (x.imm.extractLsb' 0 20).signExtend 64).toNat
    let b := bytesWords 8 bs
    let prog := (byGroups 4 code).map fun q => BitVec.ofNat 32 (leNat q)
    (handleAt t.asid h off 64 false).run (s.withTeam c (t.past .strand 8)) = .ok (fa, o) s1 →
    fa % 64 = 0 → (loadFlat w fa 64).run s1 = .ok bs s2 → s2.cur = s.cur →
    (rbBad b = true → (s2.cell c).act = some t4 → exec (.bankRun x) s =
      .next (((s2.withTeam c { t4 with pc := t.pc }).did t).takeTrap c .strand .bankProg true t.pc {})) ∧
    (rbBad b = false →
      (load w ((nth b 0).extractLsb' 52 12).toNat ((nth b 0).extractLsb' 0 48).toNat (4 * rbNwords b)).run s2 = .ok code s3 →
      (nbAccepted prog fun k => rbOp b k != 0) = true →
      ((List.range 4).mapM fun k => bankOperand w b ((nbWritten prog).contains k) k).run s3 = .ok ops s4 →
      bankMembersOk ops = true → s4.cur = s.cur → (s4.cell c).act = some t4 →
      let ms := ops.map fun o => o.filterMap id
      let stack := match ms.find? fun o => !o.isEmpty with
        | some (m :: _) => groupOf m.1 % 8
        | _ => 0
      let mine : Nat → Prop := fun n => n / 32 = stack ∧ (rbMask b).testBit (n % 32) = true
      let busy := ∃ n, mine n ∧ ((s4.unit n).st = .run ∨ (s4.unit n).st = .suspended)
      (busy → exec (.bankRun x) s = .next ((s4.withTeam c (t4.setPred (x.r.rd.toNat % 8) false)).did t)) ∧
      (¬ busy → ∃ s', exec (.bankRun x) s = .next s' ∧ (s'.cell c).act = some (t4.setPred (x.r.rd.toNat % 8) true) ∧
        s'.mem = s4.mem ∧ (∀ n, ¬ mine n → s'.unit n = s4.unit n) ∧
        (∀ n, mine n → s'.unit n =
          { s4.unit n with
            st := .run, vfl := 0, stop := 0, pc := 0, susp := 0, ri := 0, nrows := rbNrows b, prog := prog, sc0 := (nth b 6).extractLsb' 0 32,
            sc1 := (nth b 6).extractLsb' 32 32, ops := ms, asid := t.asid, run := some s4.nextRun }) ∧
        ∃ r, Tab.find s'.runs s4.nextRun = some r ∧ r.team = t.ref ∧ (∀ n, n ∈ r.left ↔ mine n) ∧
          r.ssem = if (nth b 7).getLsbD 55 then some ((nth b 7).extractLsb' 56 8).toNat else none))) ∧
  (∀ (s : State) (c : Nat) (t : Team) (x : S64), Guarded s c t x.r.pg →
    let u := s.unit ((t.sreg x.r.rs1.toNat).extractLsb' 0 8).toNat
    let st := match u.st with
      | .idle => 0
      | .run => 1
      | .suspended => 2
      | .done => 3
      | .stopped => 4
    let v := if u.asid = t.asid ∧ u.st ≠ .idle then BitVec.ofNat 64 (st * 2 ^ 61 + u.vfl.toNat * 2 ^ 56 + u.stop % 256 * 2 ^ 48
      + u.pc % 64 * 2 ^ 32 + min 2047 u.susp * 2 ^ 21 + u.ri % 2048 * 2 ^ 10) else 0
    (s.hasNearBank = true → exec (.bankStat x) s = .next (s.after c ((t.past .strand 8).setSreg x.r.rd.toNat v)))) ∧
  (∀ (s : State) (c : Nat) (t : Team) (x : S64), Issues s c .strand t → s.hasNearBank = false →
    ∀ i ∈ [Instr.bankRun, .bankStat], exec (i x) s = .next (s.takeTrap c .strand .unitAbsent true t.pc {}))


/-- R422, R424, R425: the near-bank instructions in a unit that runs. NB.LDACC, NB.SCADD, NB.MAC, NB.SCALE and NB.CLR write every
element of one accumulator from the open row, the scalar and the accumulators before, one rounding for a fused operation, and
gather the flags; the other accumulators and memory keep their values. NB.LOOP counts a row, up to the last, and goes to its word while
rows are left. R342, R420, R422 to R425, R501: NB.OPEN takes the unit's two 1 KiB spans of the operand's current row as the open row,
NB.WR writes an accumulator to the spans of the row that was opened last, and NB.END ends the unit's part of the run. Both count as an access, and wait for a
swap of the row's group (R329). With ordinary requests waiting NB.OPEN and NB.END suspend the unit instead and count that; a poisoned row stops the unit with code 2. -/
def Obligations.NearBankMicrocode : Prop :=
  (∀ (s : State) (n : Nat) (x : NOpt) (y : N32) (z : N64), s.cur = .unit n → (s.unit n).st = .run →
    let u := s.unit n
    let len := if x.imm32.isSome then 2 else 1
    let fma : BitVec 32 → BitVec 32 → BitVec 32 → BitVec 32 × Flags := fun a b d =>
      (BitVec.ofNat 32 (fp32.fma .rne a.toNat b.toNat d.toNat).1, (fp32.fma .rne a.toNat b.toNat d.toNat).2)
    let writes : Instr → Nat → BitVec 3 → (Nat → BitVec 32 × Flags) → Prop := fun i k a f =>
      ∃ v, exec i s = .next (s.setUnit n v) ∧ v = { u with pc := u.pc + k, ba := v.ba, vfl := v.vfl } ∧
        (∀ b e, b < 8 → e < 512 → v.baOf b e = if b = a.toNat then (f e).1 else u.baOf b e) ∧
        (∀ j, v.vfl.getLsbD j = true ↔ u.vfl.getLsbD j = true ∨ ∃ e, e < 512 ∧ (f e).2.getLsbD j = true)
    let sc : BitVec 15 → BitVec 32 := fun k => if k.getLsbD 0 then u.sc1 else u.sc0
    writes (.nbLdacc x) len x.n.a (fun e => (u.row.getD e 0, 0)) ∧
    writes (.nbClr x) len x.n.a (fun _ => (0, 0)) ∧
    writes (.nbScadd y) 1 y.a (fun e => fma (u.baOf y.b.toNat e) (sc y.imm15) (u.baOf y.a.toNat e)) ∧
    writes (.nbScadd64 z) 2 z.n.a (fun e => fma (u.baOf z.n.b.toNat e) z.imm32 (u.baOf z.n.a.toNat e)) ∧
    writes (.nbMac y) 1 y.a (fun e => fma (u.row.getD e 0) (sc y.imm15) (u.baOf y.a.toNat e)) ∧
    writes (.nbMac64 z) 2 z.n.a (fun e => fma (u.row.getD e 0) z.imm32 (u.baOf z.n.a.toNat e)) ∧
    writes (.nbScale y) 1 y.a (fun e => fmul32 .rne (u.baOf y.a.toNat e) (sc y.imm15)) ∧
    writes (.nbScale64 z) 2 z.n.a (fun e => fmul32 .rne (u.baOf z.n.a.toNat e) z.imm32) ∧
    let ri := min u.nrows (u.ri + 1)
    let pc := if ri < u.nrows then x.n.imm15.toNat % 64 else u.pc + len
    exec (.nbLoop x) s = .next (s.setUnit n { u with ri := ri, pc := pc })) ∧
  (∀ (s : State) (n : Nat) (x : NOpt), s.cur = .unit n → (s.unit n).st = .run →
    let u := s.unit n
    let len := if x.imm32.isSome then 2 else 1
    let k := x.n.imm15.toNat % 4
    let spans : Nat → Nat × Nat := fun f =>
      let r := groupOf f / 8 % 64
      let a := (2 * (n % 32) + 64 - r) % 64
      let b := (2 * (n % 32) + 65 - r) % 64
      (f * 65536 + 1024 * min a b, f * 65536 + 1024 * max a b)
    (u.waiting = true → ∀ i ∈ [Instr.nbOpen, .nbEnd],
      exec (i x) s = .next (s.setUnit n { u with st := .suspended, susp := min 2047 (u.susp + 1) })) ∧
    (u.waiting = false →
      (∀ m, (u.ops.getD k [])[u.ri]? = some m → s.swapBlocks m.1 = true → exec (.nbOpen x) s = .next s) ∧
      (∀ m a b, (u.ops.getD k [])[u.ri]? = some m → s.swapBlocks m.1 = false → s.locRd (spans m.1).1 1024 m.2 = some a →
        s.locRd (spans m.1).2 1024 m.2 = some b →
        exec (.nbOpen x) s = .next ((s.countAccess m.1).setUnit n { u with
          pc := u.pc + len, openOp := k, openRow := u.ri,
          row := (byGroups 4 (a ++ b)).map fun q => BitVec.ofNat 32 (leNat q) })) ∧
      (∀ m, (u.ops.getD k [])[u.ri]? = some m → s.swapBlocks m.1 = false →
        (s.locRd (spans m.1).1 1024 m.2 = none ∨ s.locRd (spans m.1).2 1024 m.2 = none) →
        exec (.nbOpen x) s = .next ((s.countAccess m.1).stopUnit n 2)) ∧
      exec (.nbEnd x) s = .next ((s.setUnit n { u with st := .done }).unitEnds n)) ∧
    (∀ m, (u.ops.getD u.openOp [])[u.openRow]? = some m → s.swapBlocks m.1 = true → exec (.nbWr x) s = .next s) ∧
    (∀ m, (u.ops.getD u.openOp [])[u.openRow]? = some m → s.swapBlocks m.1 = false → s.boot.on = false →
      let (a, b) := spans m.1
      let byte : Nat → Byte := fun j => (u.baOf x.n.a.toNat (j / 4)).extractLsb' (8 * (j % 4)) 8
      ∃ s', exec (.nbWr x) s = .next s' ∧
        s'.unit n = { u with pc := u.pc + len, row := (List.range 512).map fun e => u.baOf x.n.a.toNat e } ∧
        (∀ d, s'.cell d = s.cell d) ∧ s'.mem.host = s.mem.host ∧ s'.mem.peer = s.mem.peer ∧
        ∀ q, s'.mem.phys.rd q =
          if a ≤ q ∧ q < a + 1024 then byte (q - a) else if b ≤ q ∧ q < b + 1024 then byte (1024 + (q - b))
          else s.mem.phys.rd q) ∧
    (∀ id r, u.run = some id → Tab.find s.runs id = some r → r.left = [n] → r.ssem = none →
      (s.unitEnds n).runs = Tab.del s.runs id ∧ (s.unitEnds n).nb = s.nb))

/-! ### System instructions (R476 to R483) -/

/-- R476 to R478, R483: CODE.REG, KEY.ALLOC, KEY.REVOKE, PART.STOP and CAL.SET, in both forms. The first issue leaves the request
with the hub and waits; once the hub has performed a request with the same operation and operands, the instruction takes its
result: CODE.REG and KEY.ALLOC write their registers, the others only go on. KEY.REVOKE of a number above 63 traps `ILL_RES`.
R30 to R32, R477, R478, R483, R489, R491, R515: what the hub performs for a waiting request (HUB_REQUEST_DONE): an image it can
read is registered with the status and hash that CODE.REG returns, a length it cannot be returns BADIMG; KEY.ALLOC binds the
lowest free slot, or returns bit 63 with 769 when every slot is taken; KEY.REVOKE waits for the
lines of CPC jobs under the slot, and frees it; PART.STOP begins the stop;
CAL.SET queues the change for the first rotation at least 128 ns away. -/
def Obligations.HubRequests : Prop :=
  (∀ (s : State) (c : Nat) (t : Team) (x : S32) (y : S64), Guarded s c t x.pg → Guarded s c t y.r.pg →
    let offx := (t.sreg x.rs1.toNat).toNat
    let offy := (t.sreg y.r.rs1.toNat + (y.imm.extractLsb' 0 20).signExtend 64).toNat
    let hy := (y.imm.extractLsb' 20 12).toNat
    let word : Nat → Word := fun n => BitVec.ofNat 64 n
    let image : Nat → Nat → Word → Prop := fun h off len =>
      len.toNat % 4 = 0 → 4 ≤ len.toNat → len.toNat ≤ 2 ^ 24 → ∃ e, HandleOk s t.asid h off len.toNat false e
    let plain : HubReq → Team → Team := fun _ u => u
    let calb : Bool → Word → Word := fun clr v => if clr then 0 else v
    let flag : Bool → Word := fun b => if b then 1 else 0
    let calOk : Word → Bool → Word → Prop := fun a clr b => s.boot.minimal = true →
      s.caps.getLsbD (4 + (a.extractLsb' 10 3).toNat) = true ∧ (clr = true ∨ b.getLsbD 15 = false ∨ b.extractLsb' 6 2 = 0)
    let read : Nat → Word → State := fun h len =>
      if len.toNat % 4 = 0 ∧ 4 ≤ len.toNat ∧ len.toNat ≤ 2 ^ 24 then s.handleRead t.asid h else s
    let asks : Instr → Nat → HubReq → (HubReq → Team → Team) → (z : State := s) → Prop := fun i len q writes z =>
      (t.hubReq = none → exec i s = .next
        (let s1 := z.withTeam c { t.past .strand len with hubReq := some q }
         (if q.op = 2 then s1.revokeBegin q.a.toNat else s1).modAct c fun u => { u with pc := t.pc, waitPeer := none })) ∧
      (∀ r : HubReq, t.hubReq = some r → r.op = q.op → r.a = q.a → r.b = q.b → r.c = q.c →
        (r.done = true → r.bad = none → exec i s = .next (z.after c (writes r { t.past .strand len with hubReq := none }))) ∧
        (r.done = false → exec i s = .next (z.withTeam c t.still)))
    (image x.rs2.toNat offx (t.sreg x.rd.toNat) →
      asks (.codeReg x) 4 { op := 0, a := word x.rs2.toNat, b := word offx, c := t.sreg x.rd.toNat } (fun r u =>
        (u.setSreg x.rd.toNat r.r0).setSreg (x.rd + 1).toNat r.r1) (read x.rs2.toNat (t.sreg x.rd.toNat))) ∧
    (image hy offy (t.sreg y.r.rd.toNat) →
      asks (.codeReg64 y) 8 { op := 0, a := word hy, b := word offy, c := t.sreg y.r.rd.toNat } (fun r u =>
        (u.setSreg y.r.rd.toNat r.r0).setSreg (y.r.rd + 1).toNat r.r1) (read hy (t.sreg y.r.rd.toNat))) ∧
    asks (.keyAlloc x) 4 { op := 1, a := t.sreg x.rs1.toNat } (fun r u => u.setSreg x.rd.toNat r.r0) ∧
    asks (.keyAlloc64 y) 8 { op := 1, a := y.imm.setWidth 64 } (fun r u => u.setSreg y.r.rd.toNat r.r0) ∧
    ((t.sreg x.rs1.toNat).toNat ≤ 63 → asks (.keyRevoke x) 4 { op := 2, a := t.sreg x.rs1.toNat } plain) ∧
    (y.imm.toNat ≤ 63 → asks (.keyRevoke64 y) 8 { op := 2, a := y.imm.setWidth 64 } plain) ∧
    (63 < (t.sreg x.rs1.toNat).toNat → exec (.keyRevoke x) s = .next (s.trapAt c .strand t.still .illRes {})) ∧
    asks (.partStop x) 4 { op := 5, a := t.sreg x.rs1.toNat } plain ∧
    asks (.partStop64 y) 8 { op := 5, a := y.imm.setWidth 64 } plain ∧
    (calOk (t.sreg x.rs1.toNat) (x.md.getLsbD 0) (t.sreg x.rs2.toNat) → asks (.calSet x) 4
      { op := 7, a := t.sreg x.rs1.toNat, b := calb (x.md.getLsbD 0) (t.sreg x.rs2.toNat), c := flag (x.md.getLsbD 0) } plain) ∧
    (calOk (y.imm.setWidth 64) (y.r.md.getLsbD 0) (t.sreg y.r.rs2.toNat) → asks (.calSet64 y) 8
      { op := 7, a := y.imm.setWidth 64, b := calb (y.r.md.getLsbD 0) (t.sreg y.r.rs2.toNat), c := flag (y.r.md.getLsbD 0) } plain)) ∧
  ((∀ (s : State) (b : Bool) (t : Team) (r : HubReq), (s.cell s.arg.a).team b = some t → s.arg.b = b.toNat → t.hubReq = some r →
    r.done = false → s.boot.start = .up →
    ∃ s1 q, s.hubPerform t.asid r = (s1, q) ∧
      exec .hubRequestDone s = .next (s1.modTeam (.here s.arg.a b) fun u => { u with hubReq := some q })) ∧
  (∀ (s : State) (a : Nat) (r : HubReq), r.op = 0 → (r.c.toNat % 4 ≠ 0 ∨ r.c.toNat < 4 ∨ 2 ^ 24 < r.c.toNat) →
    s.hubPerform a r = (s, { r with done := true, r0 := 4 })) ∧
  (∀ (s : State) (a : Nat) (bs : List Byte),
    let h := (sha384 bs).extractLsb' 320 64
    h ≠ 0 → (∀ p ∈ classTable bs, p.2.bad = false) →
    (∀ im, s.image h = some im → im.bytes ≠ bs → s.register a bs = (s, 2, h)) ∧
    (∀ im, s.image h = some im → im.bytes = bs → ∃ s', s.register a bs = (s', 1, h) ∧
      s'.image h = some { im with refs := im.refs ++ [a] } ∧ ∀ k, k ≠ h → s'.image k = s.image k) ∧
    (s.image h = none → s.hub.registry.length < 512 → ∃ s', s.register a bs = (s', 0, h) ∧
      s'.image h = some { bytes := bs, refs := [a] } ∧ ∀ k, k ≠ h → s'.image k = s.image k) ∧
    (s.image h = none → 512 ≤ s.hub.registry.length → s.register a bs = (s, 3, 0))) ∧
  (∀ (s : State) (a : Nat) (r : HubReq),
    let asid := (r.a.extractLsb' 0 10).toNat
    (r.op = 1 → s.boot.on = true → s.slotsOf asid = [] → (∀ k, k < 64 → ∃ v, Tab.find s.mem.keys k = some v ∧ v ≠ .free) →
      s.hubPerform a r = (s, { r with done := true, r0 := 2 ^ 63 + 769 })) ∧
    (∀ k, r.op = 1 → s.boot.on = true → s.slotsOf asid = [] → k < 64 → (Tab.find s.mem.keys k = none ∨ Tab.find s.mem.keys k = some .free) →
      (∀ j, j < k → ∃ v, Tab.find s.mem.keys j = some v ∧ v ≠ .free) →
      ∃ s', s.hubPerform a r = (s', { r with done := true, r0 := BitVec.ofNat 64 k }) ∧
        Tab.find s'.mem.keys k = some (.bound asid) ∧ s'.mem.phys = s.mem.phys) ∧
    (r.op = 2 → ∀ p ∈ s.teams, ∀ k ∈ p.2.cards, ∀ x ∈ k.lines, x.slot = r.a.toNat → s.hubPerform a r = (s, r)) ∧
    (r.op = 2 → Tab.find s.mem.keys r.a.toNat = some .revoking → (∀ p ∈ s.nb, p.2.busy = false) →
      (∀ p ∈ s.teams, ∀ k ∈ p.2.cards, ∀ x ∈ k.lines, x.slot ≠ r.a.toNat) →
      ∃ s', s.hubPerform a r = (s', { r with done := true }) ∧ s'.mem.keys = Tab.del s.mem.keys r.a.toNat ∧
        ∀ f, f ∈ s.framesUnder r.a.toNat → (s'.keyMapOf f).clr = true) ∧
    (r.op = 5 → s.hubPerform a r = (s.beginStop asid false false, { r with done := true })) ∧
    (r.op = 7 → ∃ x : CalPend, s.hubPerform a r =
        ({ s with mem := { s.mem with calPend := s.mem.calPend ++ [x] } }, { r with done := true }) ∧
      x.stack = (r.a.extractLsb' 10 3).toNat ∧ s.now + 128 ≤ 128 * x.rotation ∧ 128 * x.rotation < s.now + 256 ∧
      x.slot = (if r.c = 1 then none else some (r.a.extractLsb' 0 6).toNat) ∧
      x.owner = (if r.c ≠ 1 ∧ r.b.getLsbD 15 then some (64 * (r.b.extractLsb' 6 2).toNat + (r.b.extractLsb' 0 6).toNat) else none))))

/-- R478, R481: SCRUB with a length of 0 goes on; otherwise it writes 64 zero bytes at its offset, adds 64 to RS1 and takes 64 from
RD, and goes on when RD has come to 0, else stands at the instruction; a length or an offset that is no multiple of 64 traps
`ILL_RES`. HALT ends the team with `TEAM_HALT` and its immediate as DETAIL. R459, R478, R482: TLB.INV waits for the lines of CPC
jobs and for the packets to peers that used what it names, performs the posted stores concerned and drops what it names. With .ctx no translation and no handle of the context is cached any longer and its registers
as last written are in force; with .page no cached translation of the context covers the address; with .handle no handle of the
context is cached; with .all nothing is. A MOD above 3 traps `ILL_RES`. Memory itself keeps its bytes where no posted store was
on its way. -/
def Obligations.ScrubHaltInvalidate : Prop :=
  (∀ (s s2 : State) (c : Nat) (t t2 : Team) (x : S32) (y : S64), Guarded s c t x.pg → Guarded s c t y.r.pg →
    let offx := (t.sreg x.rs1.toNat).toNat
    let offy := (t.sreg y.r.rs1.toNat + (y.imm.extractLsb' 0 20).signExtend 64).toNat
    let hy := (y.imm.extractLsb' 20 12).toNat
    let scrub : Instr → Nat → Nat → Nat → Nat → Nat → Prop := fun i len rd rs1 h off =>
      ((t.sreg rd).toNat % 64 ≠ 0 ∨ off % 64 ≠ 0 → exec i s = .next (s.trapAt c .strand t.still .illRes {})) ∧
      (t.sreg rd = 0 → off % 64 = 0 → exec i s = .next (s.after c (t.past .strand len))) ∧
      (t.sreg rd ≠ 0 → (t.sreg rd).toNat % 64 = 0 → off % 64 = 0 →
        (store (s.whoIs c t) h off true (List.replicate 64 0)).run (s.withTeam c (t.past .strand len)) = .ok () s2 →
        s2.cur = s.cur → (s2.cell c).act = some t2 →
        let u := t2.setSreg rs1 (t2.sreg rs1 + 64)
        let v := u.setSreg rd (u.sreg rd - 64)
        (v.sreg rd = 0 → exec i s = .next ((s2.withTeam c v).did t)) ∧
        (v.sreg rd ≠ 0 → exec i s = .next (s2.withTeam c { v with pc := t.pc, waitPeer := none })))
    scrub (.scrub x) 4 x.rd.toNat x.rs1.toNat x.rs2.toNat offx ∧
    scrub (.scrub64 y) 8 y.r.rd.toNat y.r.rs1.toNat hy offy ∧
    (∀ p ∈ [(Instr.halt x, 4, (0 : BitVec 32)), (.halt64 y, 8, y.imm)], ∃ r : FRec,
      exec p.1 s = .next (((s.withTeam c (t.past .strand p.2.1)).stopTeam (.here c (s.cell c).active) r).did t) ∧
      r.cause = .teamHalt ∧ r.detail = p.2.2 ∧ r.asid = t.asid ∧ r.epc = t.pc.setWidth 32 ∧ r.prec = true ∧ r.time = s.now ∧
      r.team = BitVec.ofNat 32 t.no ∧ r.grid = BitVec.ofNat 32 t.grid)) ∧
  (∀ (s : State) (c : Nat) (t : Team) (x : S32) (y : S64), Guarded s c t x.pg → Guarded s c t y.r.pg →
    ∀ p ∈ [(Instr.tlbInv x, 4, x.md, t.sreg x.rs1.toNat, t.sreg x.rs2.toNat),
        (.tlbInv64 y, 8, y.r.md, y.imm.setWidth 64, t.sreg y.r.rs2.toNat)],
      let md := p.2.2.1
      let a := (p.2.2.2.1.extractLsb' 0 10).toNat
      let fa := p.2.2.2.2.toNat
      (4 ≤ md.toNat → exec p.1 s = .next (s.trapAt c .strand t.still .illRes {})) ∧
      (md.toNat < 4 → (∃ q ∈ s.packets, (md = 3 ∨ q.2.asid = a) ∧ q.2.done = false ∧ ∃ z bs, q.2.op = .write z bs) →
        exec p.1 s = .next (s.withTeam c t.still)) ∧
      (md.toNat < 4 → s.mem.posted = [] → (∀ q ∈ s.teams, (md = 3 ∨ q.2.asid = a) → ∀ k ∈ q.2.cards, k.lines = []) →
        (∀ q ∈ s.packets, (md = 3 ∨ q.2.asid = a) → q.2.done = true) → ∃ s', exec p.1 s = .next s' ∧
        (s'.cell c).act = some (t.past .strand p.2.1) ∧ s'.mem.phys = s.mem.phys ∧ s'.mem.host = s.mem.host ∧
        (md = 0 → (∀ e, e ∈ s'.mem.tlb ↔ e ∈ s.mem.tlb ∧ e.asid ≠ a) ∧ (∀ e, e ∈ s'.mem.hcache ↔ e ∈ s.mem.hcache ∧ e.asid ≠ a) ∧
          (s'.ctx a).regs = (s.ctx a).pend ∧ ∀ k, k ≠ a → s'.ctx k = s.ctx k) ∧
        (md = 1 → (∀ e, e ∈ s'.mem.tlb ↔ e ∈ s.mem.tlb ∧ ¬ (e.asid = a ∧ fa / 2 ^ e.logsz = e.base / 2 ^ e.logsz)) ∧
          s'.mem.hcache = s.mem.hcache ∧ s'.ctxs = s.ctxs) ∧
        (md = 2 → s'.mem.tlb = s.mem.tlb ∧ (∀ e, e ∈ s'.mem.hcache ↔ e ∈ s.mem.hcache ∧ e.asid ≠ a) ∧ s'.ctxs = s.ctxs) ∧
        (md = 3 → s'.mem.tlb = [] ∧ s'.mem.hcache = [] ∧ s'.ctxs = s.ctxs)))

/-- R473, R474, R479: CTX.SAVE, with no product in the array (log 47) and every started card that pops indices standing at an
empty queue (R452), writes the images of the team as ERET would leave it, each at
its place of R475 from the operand's offset on, and releases at DEVICE scope. The team image starts with FMT 4, CAPS.STEP, the flags
and the team's number, then the registers, the predicates and the counter EPC. An offset that is no multiple of 64 traps `ILL_RES`.
R459, R480: CTX.LOAD waits while a started card of the stage is not over; then it reads the team image and the others that its flags
name, and traps `SYS_INVALID` where the image is not one of this team and part; otherwise the team takes the image's state, as ERET
from it where it was saved in privileged mode (log 44), what R474 leaves open coming back under its number (log 35), and no
translation or handle of the context stays cached. -/
def Obligations.ContextSaveAndLoad : Prop :=
  ((∀ (s s1 s2 s3 : State) (c : Nat) (t : Team) (im : Images) (x : S32) (y : S64), Guarded s c t x.pg → Guarded s c t y.r.pg →
    let offy := (t.sreg y.r.rs1.toNat + (y.imm.extractLsb' 0 20).signExtend 64).toNat
    ∀ p ∈ [(Instr.ctxSave x, 4, x.md.getLsbD 0, x.rs2.toNat, (t.sreg x.rs1.toNat).toNat),
        (.ctxSave64 y, 8, y.r.md.getLsbD 0, (y.imm.extractLsb' 20 12).toNat, offy)],
      let t' := t.past .strand p.2.1
      let h := p.2.2.2.1
      let off := p.2.2.2.2
      let sh := (s.cell c).sh
      (off % 64 ≠ 0 → exec p.1 s = .next (s.trapAt c .strand t.still .illRes {})) ∧
      (off % 64 = 0 → sh.array ≠ [] ∨ t'.popsStand = false → ∃ s', exec p.1 s = .next s' ∧ s'.cells = (s.withTeam c t.still).cells ∧
        s'.mem.phys = s.mem.phys) ∧
      (off % 64 = 0 → sh.array = [] → t'.popsStand = true →
        (s.withTeam c t').images t'.returned.1 (if t'.returned.2 then { sh with landings := [] } else sh) p.2.2.1 = (s1, im) →
        (im.parts.forM fun q => store (s.whoIs c t) h (off + q.1) true q.2).run s1 = .ok () s2 →
        (release (s.whoIs c t) 3).run s2 = .ok () s3 → exec p.1 s = .next (s3.did t))) ∧
  (∀ (t : Team), t.returned.1.priv = false ∧ t.returned.1.pc = t.epc ∧ (t.loads = [] → t.returned.1.regs = t.regs)) ∧
  (∀ (s : State) (t : Team) (x : Shared) (acc : Bool),
    let im := (s.images t x acc).2
    let w0 := (imageWord im.main 0).toNat
    w0 / 2 ^ 56 = 4 ∧ w0 / 2 ^ 52 % 16 = s.caps.toNat / 2 ^ 28 ∧ w0 % 2 ^ 32 = t.no % 2 ^ 32 ∧
    (w0.testBit 51 ↔ x.landings ≠ [] ∨ x.array ≠ []) ∧ (w0.testBit 50 ↔ acc = true ∧ x.dirty0 = true) ∧
    (w0.testBit 49 ↔ acc = true ∧ x.dirty1 = true) ∧
    (im.flight.isSome ↔ x.landings ≠ [] ∨ x.array ≠ []) ∧ (im.bank0.isSome ↔ acc = true ∧ x.dirty0 = true) ∧
    (im.bank1.isSome ↔ acc = true ∧ x.dirty1 = true) ∧
    (∀ r, 1 ≤ r → r < 32 → imageWord im.main (8 * r) = Sparse.get 0 t.regs r) ∧
    imageWord im.main 256 = t.preds.setWidth 64 ∧ imageWord im.main 264 = t.pc)) ∧
  ((∀ (s s1 s2 s3 s4 : State) (c : Nat) (t t1 : Team) (x : S32) (y : S64) (bs : List Byte) (fl b0 b1 : Option (List Byte)),
    Guarded s c t x.pg → Guarded s c t y.r.pg →
    let offy := (t.sreg y.r.rs1.toNat + (y.imm.extractLsb' 0 20).signExtend 64).toNat
    let w := s.whoIs c t
    ∀ p ∈ [(Instr.ctxLoad x, 4, x.rs2.toNat, (t.sreg x.rs1.toNat).toNat), (.ctxLoad64 y, 8, (y.imm.extractLsb' 20 12).toNat, offy)],
      let t' := { t.past .strand p.2.1 with
        cards := t.cards.filter (fun k => !(t.past .strand p.2.1).savedCard k), waiters := t.waiters.filter fun w => w.2.1 == .strand }
      let h := p.2.2.1
      let off := p.2.2.2
      let reads : Bool → Nat → Nat → State → Option (List Byte) → State → Prop := fun b o n sa r sb =>
        if b = true then ∃ ws, r = some ws ∧ (load w h (off + o) n).run sa = .ok ws sb else r = none ∧ sb = sa
      (t.anyStarted = true → exec p.1 s = .next (s.withTeam c t.still)) ∧
      (t.anyStarted = false → (load w h off 49152).run (s.withTeam c t') = .ok bs s1 → s1.cur = s.cur →
        (s1.cell c).act = some t1 →
        (imageOk bs s1.silicon t.no = false → exec p.1 s =
          .next (((s1.withTeam c { t1 with pc := t.pc }).did t).takeTrap c .strand .sysInvalid true t.pc {})) ∧
        (imageOk bs s1.silicon t.no = true → reads (imageFlight bs) 0xC000 32768 s1 fl s2 →
          reads (imageBank bs false) 0x14000 262144 s2 b0 s3 → reads (imageBank bs true) 0x54000 262144 s3 b1 s4 →
          s4.cur = s.cur → (s4.cell c).act.isSome → (s4.cell c).active = (s.cell c).active →
          ∃ s', exec p.1 s = .next s' ∧ (s'.cell c).act =
              some ((t'.fromImage (s4.imageRest bs).team bs).resumed.1.rejoin (s4.cell c).nextCard) ∧
            (∀ e ∈ s'.mem.tlb, e.asid ≠ t.asid) ∧ (∀ e ∈ s'.mem.hcache, e.asid ≠ t.asid) ∧
            (s'.ctx t.asid).regs = (s4.ctx t.asid).pend ∧ s'.mem.phys = s4.mem.phys))) ∧
  (∀ (t r : Team) (bs : List Byte),
    let u := t.fromImage r bs
    (∀ k, 1 ≤ k → k < 32 → Sparse.get 0 u.regs k = imageWord bs (8 * k)) ∧ u.preds = (imageWord bs 256).setWidth 8 ∧
    u.pc = imageWord bs 264 ∧ u.epc = imageWord bs 512 ∧ u.vault = t.vault ∧ u.no = t.no ∧ u.grid = t.grid ∧
    (∀ i, i < 256 → u.sem i = BitVec.ofNat 32 (leNat ((bs.drop (0x400 + 4 * i)).take 4))) ∧
    u.resumed.1.priv = false ∧ u.resumed.1.pc = if (imageWord bs 544).getLsbD 9 then imageWord bs 512 else imageWord bs 264))

/-! ### Vector instructions (R237 to R274) -/

/-- R59, R174, R237, R238: a pending result lands when its latency has passed: in one stream cycle each result whose count is 1 is
written and raises its flags, in issue order, and every other one comes one cycle nearer. R54, R179, R245, R247, R248: what the
integer operations of a lane compute, for every integer type of `n` bits: the exact sum, difference or product reduced modulo
2^n, or clamped to the type with .sat; shifts by n or more leave zeros or copies of the sign; the bytes that each swizzle moves. -/
def Obligations.VectorIntegersLand : Prop :=
  (∀ (s : State) (c : Nat) (t : Team) (ls : List Landing), (s.cell c).act = some t → t.epilogue = none →
    (s.cell c).sh.landings = ls → (∀ l ∈ ls, l.poison = none ∧ 1 ≤ l.rem) →
    let due := ls.filter fun l => l.rem == 1
    let s' := s.streamCycle c
    (s'.cell c).sh = due.foldl Shared.land { (s.cell c).sh with
      landings := (ls.filter fun l => l.rem != 1).map fun l => { l with rem := l.rem - 1 } } ∧
    (∃ f, (s'.cell c).act = some { t with vflags := t.vflags ||| f } ∧
      ∀ j, f.getLsbD j = true ↔ ∃ l ∈ due, l.flags.getLsbD j = true) ∧
    (∀ d, d ≠ c → s'.cell d = s.cell d) ∧ s'.mem = s.mem) ∧
  ((∀ (ty : BitVec 4) (fn : BitVec 3) (a b d : Nat), tyInt ty = true →
    let n := tyWidth ty
    a < 2 ^ n → b < 2 ^ n → d < 2 ^ n →
    let val : Nat → Int := fun a => if tySigned ty then (BitVec.ofNat n a).toInt else a
    let lo : Int := if tySigned ty then -(2 : Int) ^ (n - 1) else 0
    let hi : Int := if tySigned ty then (2 : Int) ^ (n - 1) - 1 else (2 : Int) ^ n - 1
    ∀ p ∈ [(VArith.add, val a + val b), (.sub, val a - val b), (.mul, val a * val b), (.fma, val a * val b + val d),
        (.abs, ((val a).natAbs : Int)), (.neg, -val a)],
      let r := (vArithInt p.1 ty fn a b d).1
      r < 2 ^ n ∧ (fn.getLsbD 0 = false → ((r : Int) - p.2) % (2 : Int) ^ n = 0) ∧
      (fn.getLsbD 0 = true → val r = max lo (min hi p.2)) ∧ (vArithInt p.1 ty fn a b d).2 = 0) ∧
  (∀ (ty : BitVec 4) (fn : BitVec 3) (a b : Nat), tyInt ty = true →
    let n := tyWidth ty
    a < 2 ^ n → b < 2 ^ n →
    let A := BitVec.ofNat n a
    let B := BitVec.ofNat n b
    BitVec.ofNat n (vArithInt .and ty fn a b 0).1 = A &&& B ∧ BitVec.ofNat n (vArithInt .or ty fn a b 0).1 = A ||| B ∧
    BitVec.ofNat n (vArithInt .xor ty fn a b 0).1 = A ^^^ B ∧ BitVec.ofNat n (vArithInt .shl ty fn a b 0).1 = A <<< b ∧
    BitVec.ofNat n (vArithInt .shr ty fn a b 0).1 = (if fn.getLsbD 0 then A.sshiftRight b else A >>> b) ∧
    BitVec.ofNat n (vArithInt .min ty fn a b 0).1 = (if (if tySigned ty then A.sle B else A.ule B) then A else B) ∧
    BitVec.ofNat n (vArithInt .max ty fn a b 0).1 = (if (if tySigned ty then A.sle B else A.ule B) then B else A)) ∧
  (∀ w : BitVec 32,
    let byte : Nat → BitVec 8 := fun i => w.extractLsb' (8 * i) 8
    let half : Nat → BitVec 4 := fun i => w.extractLsb' (4 * i) 4
    swizzle 0 w = w ∧ swizzle 1 w = byte 2 ++ byte 3 ++ byte 0 ++ byte 1 ∧ swizzle 2 w = byte 1 ++ byte 0 ++ byte 3 ++ byte 2 ∧
    swizzle 3 w = byte 0 ++ byte 1 ++ byte 2 ++ byte 3 ∧
    swizzle 4 w = half 6 ++ half 7 ++ half 4 ++ half 5 ++ half 2 ++ half 3 ++ half 0 ++ half 1 ∧
    swizzle 5 w = byte 0 ++ byte 0 ++ byte 0 ++ byte 0 ∧ swizzle 6 w = byte 1 ++ byte 0 ++ byte 1 ++ byte 0 ∧
    swizzle 7 w = half 0 ++ half 1 ++ half 2 ++ half 3 ++ half 4 ++ half 5 ++ half 6 ++ half 7))

/-- R174, R177 to R179, R240, R245 to R248, R251 to R253, R257, R259: the lane-wise instructions. Each issues one pending result
with its latency; when it lands every active lane of the destination holds, element by element, the operation on the elements of the
swizzled first source and of the other two, inactive lanes and the rest of a lane keep their bits, and the flags are those of the
active elements. A 64-bit type works on register pairs. The value of a special function is free (log 12). -/
def Obligations.VectorLaneWise : Prop :=
  ∀ (s : State) (c : Nat) (t : Team) (x : V32) (y : V64), EngineIssues s c .vector t →
    let sh := (s.cell c).sh
    let wide : BitVec 4 → Bool := fun ty => ty64 ty
    let lat : VArith → BitVec 4 → Nat := fun op ty =>
      if op = .mul ∨ op = .fma then (if tyInt ty then 3 else 4)
      else if op = .add ∨ op = .sub then (if !tyInt ty then 4 else if wide ty then 2 else 1)
      else if !tyInt ty || wide ty then 2 else 1
    let rnd := Rnd.of y.rnd
    let sp : SpFn → (Nat → Nat → Nat → Nat × Flags) := fun f a _ _ =>
      ((f.run (y.fn.getLsbD 0) (BitVec.ofNat 32 a)).1.toNat, (f.run (y.fn.getLsbD 0) (BitVec.ofNat 32 a)).2)
    let spLat := if y.fn.getLsbD 0 then 20 else 8
    ∀ p ∈ ([(Instr.vadd x, 4, vFull x 8, lat .add 8, vArith .add (vFull x 8)), (.vaddFull y, 8, y, lat .add y.ty, vArith .add y),
        (.vsub x, 4, vFull x 8, lat .sub 8, vArith .sub (vFull x 8)), (.vsubFull y, 8, y, lat .sub y.ty, vArith .sub y),
        (.vmul x, 4, vFull x 8, lat .mul 8, vArith .mul (vFull x 8)), (.vmulFull y, 8, y, lat .mul y.ty, vArith .mul y),
        (.vfma y, 8, y, lat .fma y.ty, vArith .fma y),
        (.vmin x, 4, vFull x 8, lat .min 8, vArith .min (vFull x 8)), (.vminFull y, 8, y, lat .min y.ty, vArith .min y),
        (.vmax x, 4, vFull x 8, lat .max 8, vArith .max (vFull x 8)), (.vmaxFull y, 8, y, lat .max y.ty, vArith .max y),
        (.vabs y, 8, y, lat .abs y.ty, vArith .abs y), (.vneg y, 8, y, lat .neg y.ty, vArith .neg y),
        (.vand x, 4, vFull x 6, lat .and 6, vArith .and (vFull x 6)), (.vandFull y, 8, y, lat .and y.ty, vArith .and y),
        (.vor x, 4, vFull x 6, lat .or 6, vArith .or (vFull x 6)), (.vorFull y, 8, y, lat .or y.ty, vArith .or y),
        (.vxor x, 4, vFull x 6, lat .xor 6, vArith .xor (vFull x 6)), (.vxorFull y, 8, y, lat .xor y.ty, vArith .xor y),
        (.vshl y, 8, y, lat .shl y.ty, vArith .shl y), (.vshr y, 8, y, lat .shr y.ty, vArith .shr y),
        (.vmov x, 4, vFull x 6, 1, fun a _ _ => (a, 0)), (.vmovFull y, 8, y, if wide y.ty then 2 else 1, fun a _ _ => (a, 0)),
        (.vcvt y, 8, y, 3, fun a _ _ => tyConvert (y.vs3.extractLsb' 0 4) y.ty rnd (y.fn.getLsbD 0) false a),
        (.vrcp y, 8, y, spLat, sp .rcp), (.vrsq y, 8, y, spLat, sp .rsq), (.vexp y, 8, y, spLat, sp .exp),
        (.vlog y, 8, y, spLat, sp .log), (.vtanh y, 8, y, spLat, sp .tanh), (.vsigm y, 8, y, spLat, sp .sigm),
        (.vgelu y, 8, y, spLat, sp .gelu), (.vsin y, 8, y, spLat, sp .sin),
        (.vrcps y, 8, y, 8, fun a b _ => refine false rnd a b), (.vrsqs y, 8, y, 12, fun a b _ => refine true rnd a b)] :
        List (Instr × Nat × V64 × Nat × (Nat → Nat → Nat → Nat × Flags))),
      let v := p.2.2.1
      let f := p.2.2.2.2
      let d := if v.r.wbs = 1 then 64 + v.r.vd.toNat % 4 else v.r.vd.toNat
      ∃ l : Landing, exec p.1 s = .next (s.issuing c t p.2.1 l) ∧ l.plain v p.2.2.2.1 ∧
        (wide v.ty = false →
          let elem : (Nat → BitVec 32) → Nat → Nat → Nat → Nat := fun g i lo n => ((g i).extractLsb' lo n).toNat
          let r := fun i lo n => f (elem (srcLane v sh) i lo n) (elem (sh.laneAt v.r.vs2.toNat) i lo n) (elem (sh.laneAt v.vs3.toNat) i lo n)
          l.writesElems d (laneActive v sh) (elemsOf v.ty v.hs) (fun i lo n => (r i lo n).1) ∧
          ∀ j, l.flags.getLsbD j = true ↔
            ∃ i e, i < 128 ∧ laneActive v sh i = true ∧ e ∈ elemsOf v.ty v.hs ∧ (r i e.1 e.2).2.getLsbD j = true) ∧
        (wide v.ty = true →
          let r := fun i => f (sh.pairAt v.r.vs1.toNat i) (sh.pairAt v.r.vs2.toNat i) (sh.pairAt v.vs3.toNat i)
          l.writes (fun k i => if laneActive v sh i = true then
              (if k = d then some (BitVec.ofNat 32 (r i).1) else if k = d + 1 then some (BitVec.ofNat 32 ((r i).1 / 2 ^ 32)) else none)
            else none) ∧
          ∀ j, l.flags.getLsbD j = true ↔ ∃ i, i < 128 ∧ laneActive v sh i = true ∧ (r i).2.getLsbD j = true)

/-- R249 to R251, R254 to R256: VCMP writes the active bits of its mask by its condition; VSEL chooses each lane by a mask; VLI
writes its literal, or a half of the lane; VWID spreads the elements of a lane over a group of registers and VNAR gathers them;
VPACK and VUNPK pack and unpack fields of 16, 8, 4 or 2 bits. -/
def Obligations.VectorSelectAndPack : Prop :=
  ∀ (s : State) (c : Nat) (t : Team) (x : V64) (y : V96), EngineIssues s c .vector t →
    let sh := (s.cell c).sh
    let act := laneActive x sh
    let a := srcLane x sh
    let b := sh.laneAt x.r.vs2.toNat
    let d := if x.r.wbs = 1 then 64 + x.r.vd.toNat % 4 else x.r.vd.toNat
    let issue : Instr → Nat → Nat → (Landing → Prop) → Prop := fun i len lat p =>
      ∃ l : Landing, exec i s = .next (s.issuing c t len l) ∧ l.plain x lat ∧ p l
    let sty := x.vs3.extractLsb' 0 4
    let n := tyWidth x.ty
    let m := tyWidth sty
    let pk := 16 / 2 ^ (x.fn.toNat % 4)
    issue (.vcmp x) 8 2 (fun l => l.flags = 0 ∧ l.writesMask (x.r.vd.toNat % 16) act fun i =>
      let e := (elemsOf x.ty x.hs).headD (0, 32)
      if ty64 x.ty then vCond x.fn x.ty (sh.pairAt x.r.vs1.toNat i) (sh.pairAt x.r.vs2.toNat i)
      else vCond x.fn x.ty ((a i).extractLsb' e.1 e.2).toNat ((b i).extractLsb' e.1 e.2).toNat) ∧
    (let sel := sh.maskAt (x.vs3.toNat % 16)
     issue (.vsel x) 8 (if ty64 x.ty then 2 else 1) fun l => l.flags = 0 ∧ l.writes fun r i =>
      if act i = false then none
      else if r = d then some (if sel i then a i else b i)
      else if r = d + 1 ∧ ty64 x.ty = true then
        some (if sel i then sh.laneAt (x.r.vs1.toNat + 1) i else sh.laneAt (x.r.vs2.toNat + 1) i)
      else none) ∧
    (let dy := if y.v.r.wbs = 1 then 64 + y.v.r.vd.toNat % 4 else y.v.r.vd.toNat
     let f : Nat × Nat := if y.v.hs = 1 then (0, 16) else if y.v.hs = 2 then (16, 16) else (0, 32)
     ∃ l : Landing, exec (.vli y) s = .next (s.issuing c t 12 l) ∧ l.plain y.v 1 ∧ l.flags = 0 ∧
      l.writesElems dy (laneActive y.v sh) [f] fun _ _ _ => y.lit.toNat) ∧
    (∀ per, 0 < m → m < n → n = 16 ∧ per = 2 ∨ n = 32 ∧ per = 1 → issue (.vwid x) 8 3 fun l => l.flags = 0 ∧
      ∀ z : Shared, (z.land l).m = z.m ∧ (∀ i e, i < 128 → e < 32 / m → act i = true →
        ((z.land l).laneAt (x.r.vd.toNat + e / per) i).extractLsb' (n * (e % per)) n =
          BitVec.ofNat n (tyConvert sty x.ty .rne false false ((a i).extractLsb' (m * e) m).toNat).1) ∧
      ∀ r i, i < 128 → act i = false ∨ r < x.r.vd.toNat ∨ x.r.vd.toNat + 32 / m / per ≤ r → (z.land l).laneAt r i = z.laneAt r i) ∧
    (n = 64 → m = 32 → issue (.vwid x) 8 3 fun l => l.flags = 0 ∧ l.writes fun r i =>
      let v := BitVec.ofNat 64 (tyConvert sty x.ty .rne false false (a i).toNat).1
      if act i = false then none else if r = x.r.vd.toNat then some (v.extractLsb' 0 32)
      else if r = x.r.vd.toNat + 1 then some (v.extractLsb' 32 32) else none) ∧
    (∀ per, 0 < n → n < m → m = 16 ∧ per = 2 ∨ m = 32 ∧ per = 1 → issue (.vnar x) 8 3 fun l =>
      (let wide : Nat → Nat → Nat := fun i e =>
        ((sh.laneAt (x.r.vs1.toNat + e / per) i).extractLsb' (m * (e % per)) m).toNat
       let r := fun i e => tyConvert sty x.ty (Rnd.of x.rnd) (x.fn.getLsbD 0) (x.fn.getLsbD 1) (wide i e)
       l.writesElems d act ((List.range (32 / n)).map fun e => (n * e, n)) (fun i lo _ => (r i (lo / n)).1) ∧
       ∀ j, l.flags.getLsbD j = true ↔ ∃ i e, i < 128 ∧ act i = true ∧ e < 32 / n ∧ (r i e).2.getLsbD j = true)) ∧
    issue (.vpack x) 8 3 (fun l => l.flags = 0 ∧ l.writesElems d act ((List.range (32 / pk)).map fun e => (pk * e, pk)) fun i lo _ =>
      let v := tyIntVal x.ty (sh.laneAt (x.r.vs1.toNat + lo / pk) i).toNat
      let low : Int := if x.ty = 2 then -(2 : Int) ^ (pk - 1) else 0
      let top : Int := if x.ty = 2 then (2 : Int) ^ (pk - 1) - 1 else (2 : Int) ^ pk - 1
      ((if x.fn.getLsbD 2 then max low (min top v) else v) % (2 : Int) ^ pk).toNat) ∧
    issue (.vunpk x) 8 3 (fun l => l.flags = 0 ∧ l.writes fun r i =>
      let j := r - x.r.vd.toNat
      if act i = true ∧ x.r.vd.toNat ≤ r ∧ j < 32 / pk then
        some (if x.ty = 2 then ((a i).extractLsb' (pk * j) pk).signExtend 32 else ((a i).extractLsb' (pk * j) pk).setWidth 32)
      else none)

/-- R260 to R262: the reductions combine the lanes, with the identity in inactive ones, in a tree of neighbours and write the result
to every lane; VSCAN combines with the value 1, 2, 4 … 64 lanes below, and with .ex moves the results up one lane; VARGMAX and
VTOPK order the active lanes, the lower lane first among equal ones. R263 to R266: VPERM, VSHUF and VBCAST move lanes by index,
VIOTA writes lane numbers; the mask instructions combine masks bit by bit and VMPOP counts one; VQNT writes the codes of two
blocks of 64 lanes and their scales, VDQNT decodes codes with their scale. -/
def Obligations.VectorAcrossLanes : Prop :=
  (∀ (s : State) (c : Nat) (t : Team) (x : V64), EngineIssues s c .vector t →
    let sh := (s.cell c).sh
    let act := laneActive x sh
    let a := srcLane x sh
    let d := if x.r.wbs = 1 then 64 + x.r.vd.toNat % 4 else x.r.vd.toNat
    let issue : Instr → Nat → (Landing → Prop) → Prop := fun i lat p =>
      ∃ l : Landing, exec i s = .next (s.issuing c t 8 l) ∧ l.plain x lat ∧ p l
    let one : RedOp → BitVec 32 := fun op => match op with
      | .sum => if x.ty = 8 then 0x80000000 else 0
      | .max => if x.ty = 8 then 0xFF800000 else if x.ty = 2 then 0x80000000 else 0
      | .min => if x.ty = 8 then 0x7F800000 else if x.ty = 2 then 0x7FFFFFFF else 0xFFFFFFFF
    let comb : RedOp → BitVec 32 → BitVec 32 → BitVec 32 × Flags := fun op p q =>
      if x.ty = 8 then redCombine op x.ty (Rnd.of x.rnd) p q else
        let less := if x.ty = 2 then p.slt q else p.ult q
        (match op with
          | .sum => p + q
          | .max => if less then q else p
          | .min => if less then p else q, 0)
    let start : RedOp → Nat → BitVec 32 := fun op i => if act i then a i else one op
    (∀ p ∈ [(Instr.vrsum, RedOp.sum, 10), (.vrmax, .max, 8), (.vrmin, .min, 8)], issue (p.1 x) p.2.2 fun l =>
      ∃ tree : Nat → Nat → BitVec 32 × Flags, (∀ i, i < 128 → tree 0 i = (start p.2.1 i, 0)) ∧
        (∀ k i, k < 7 → i < 2 ^ (6 - k) → tree (k + 1) i = comb p.2.1 (tree k (2 * i)).1 (tree k (2 * i + 1)).1) ∧
        l.writes (fun r i => if r = d ∧ i < 128 then some (tree 7 0).1 else none) ∧
        ∀ j, l.flags.getLsbD j = true ↔ ∃ k i, k < 7 ∧ i < 2 ^ (6 - k) ∧ (tree (k + 1) i).2.getLsbD j = true) ∧
    (let op : RedOp := if x.fn.toNat % 4 = 1 then .max else if x.fn.toNat % 4 = 2 then .min else .sum
     issue (.vscan x) 10 fun l => ∃ u : Nat → Nat → BitVec 32 × Flags, (∀ i, i < 128 → u 0 i = (start op i, 0)) ∧
        (∀ k i, k < 7 → i < 128 → u (k + 1) i = if i < 2 ^ k then ((u k i).1, 0) else comb op (u k (i - 2 ^ k)).1 (u k i).1) ∧
        l.writes (fun r i => if r = d ∧ i < 128 ∧ act i = true then
            some (if x.fn.getLsbD 2 then (if i = 0 then one op else (u 7 (i - 1)).1) else (u 7 i).1) else none) ∧
        ∀ j, l.flags.getLsbD j = true ↔ ∃ k i, k < 7 ∧ i < 128 ∧ (u (k + 1) i).2.getLsbD j = true) ∧
    (let before : Nat → Nat → Prop := fun i j => selAbove x.ty (a i) (a j) = true ∨ selAbove x.ty (a j) (a i) = false ∧ i < j
     ∃ o : List Nat, o.Nodup ∧ (∀ i, i ∈ o ↔ i < 128 ∧ act i = true) ∧ o.Pairwise before ∧
      issue (.vargmax x) 9 (fun l => l.flags = 0 ∧ l.writes fun r i => if r = d ∧ i < 128 then
        some (match o.head? with
          | some k => BitVec.ofNat 32 k
          | none => 0xFFFFFFFF) else none) ∧
      issue (.vtopk x) 16 (fun l => l.flags = 0 ∧ l.writes fun r i =>
        if x.fn.toNat < i then none
        else if r = x.r.vd.toNat then some (match o[i]? with
          | some k => a k
          | none => one .max)
        else if r = x.r.vd.toNat + 1 then some (match o[i]? with
          | some k => BitVec.ofNat 32 k
          | none => 0xFFFFFFFF)
        else none))) ∧
  (∀ (s : State) (c : Nat) (t : Team) (x : V64), EngineIssues s c .vector t →
    let sh := (s.cell c).sh
    let act := laneActive x sh
    let a := srcLane x sh
    let b := sh.laneAt x.r.vs2.toNat
    let d := if x.r.wbs = 1 then 64 + x.r.vd.toNat % 4 else x.r.vd.toNat
    let lanes : Instr → Nat → (Nat → BitVec 32) → Prop := fun i lat f =>
      ∃ l : Landing, exec i s = .next (s.issuing c t 8 l) ∧ l.plain x lat ∧ l.flags = 0 ∧
        l.writes fun r i => if r = d ∧ i < 128 ∧ act i = true then some (f i) else none
    let bits : Instr → (Nat → Bool) → Prop := fun i f =>
      ∃ l : Landing, exec i s = .next (s.issuing c t 8 l) ∧ l.plain x 2 ∧ l.flags = 0 ∧ l.writesMask (x.r.vd.toNat % 16) act f
    let m1 := sh.maskAt (x.r.vs1.toNat % 16)
    let m2 := fun i => sh.maskAt (x.r.vs2.toNat % 16) i ^^ x.fn.getLsbD 0
    lanes (.vperm x) 3 (fun i => a ((b i).toNat % 128)) ∧
    lanes (.vshuf x) 3 (fun i =>
      let k := sh.laneAt x.vs3.toNat i
      if k.getLsbD 7 then b (k.toNat % 128) else a (k.toNat % 128)) ∧
    lanes (.vbcast x) 3 (fun _ => a ((b 0).toNat % 128)) ∧
    lanes (.viota x) 1 (fun i => BitVec.ofNat 32 i) ∧
    bits (.vmand x) (fun i => m1 i && m2 i) ∧ bits (.vmor x) (fun i => m1 i || m2 i) ∧ bits (.vmnot x) (fun i => !m1 i) ∧
    lanes (.vmpop x) 2 (fun _ => BitVec.ofNat 32 ((List.range 128).filter m1).length) ∧
    (let block : Nat → Nat × List Nat × Flags := fun k => qntBlock x.ty ((List.range 64).map fun i => fp32.value (a (64 * k + i)).toNat)
     ∃ l : Landing, exec (.vqnt x) s = .next (s.issuing c t 8 l) ∧ l.plain x 12 ∧ l.flags = (block 0).2.2 ||| (block 1).2.2 ∧
      l.writes fun r i => if 128 ≤ i then none
        else if r = x.r.vd.toNat then some (BitVec.ofNat 32 ((block (i / 64)).2.1.getD (i % 64) 0))
        else if r = x.r.vd.toNat + 1 then some (if i < 2 then BitVec.ofNat 32 (block i).1 else 0) else none) ∧
    lanes (.vdqnt x) 3 (fun i => BitVec.ofNat 32 (fp32.deliver .rne
      (mulExact (tyFV x.ty ((a i).toNat % 256)) (e4m3.value ((b (i / 64)).toNat % 256)))).1))

/-- R162, R267 to R269: VLD, VST, VLDX and VSTX on the team's vault, at the literal plus the address generator, and plus a
register's lanes for the indexed ones. A load's result is the little-endian words, or a trap that is due at its latency where a word
read is poisoned; a store writes the active lanes and no other byte, the highest lane last. An access that is out of the allotment
or not aligned traps before anything is written (for the two forms that are not indexed). That a load reads the vault as it issues
is the model's reading (log 23). -/
def Obligations.VectorMemory : Prop :=
  ∀ (s : State) (c : Nat) (t : Team) (x : V96), EngineIssues s c .vector t →
    let sh := (s.cell c).sh
    let act := laneActive x.v sh
    let d := if x.v.r.wbs = 1 then 64 + x.v.r.vd.toNat % 4 else x.v.r.vd.toNat
    let off : Int := x.lit.toNat + genOffset x t
    let size : Int := t.valloc * 65536
    let addr : Nat → Int := fun i => off + (sh.laneAt x.v.r.vs2.toNat i).toNat
    let ok := 0 ≤ off ∧ off + 512 ≤ size ∧ off % 64 = 0
    let okx := ∀ i, i < 128 → act i = true → 0 ≤ addr i ∧ addr i + 4 ≤ size ∧ addr i % 4 = 0
    let word : Nat → BitVec 32 := fun k => t.vault.rd (k + 3) ++ t.vault.rd (k + 2) ++ t.vault.rd (k + 1) ++ t.vault.rd k
    let clean : Nat → Nat → Prop := fun k n => ∀ j, k / 8 ≤ j → j * 8 < k + n → t.vpoison.mem j = false
    let pc := t.pcOf .vector
    let stored : State → Team → Prop := fun s' u => s' = (s.withTeam c u).cycled .vector c t ∧
      u = { t.past .vector 12 with vault := u.vault, vpoison := u.vpoison }
    (ok →
      (clean off.toNat 512 → ∃ l : Landing, exec (.vld x) s = .next (s.issuing c t 12 l) ∧ l.plain x.v 10 ∧ l.flags = 0 ∧
        l.writes fun r i => if r = d ∧ i < 128 ∧ act i = true then some (word (off.toNat + 4 * i)) else none) ∧
      (¬ clean off.toNat 512 → (t.past .vector 12).pcOf .vector = pc + 12 → exec (.vld x) s = .next (s.issuing c t 12 { rem := 10, sq := x.v.sq == 1, poison := some pc })) ∧
      ∃ s' u, exec (.vst x) s = .next s' ∧ stored s' u ∧ ∀ k,
        let i := (k - off.toNat) / 4
        u.vault.rd k = if off.toNat ≤ k ∧ i < 128 ∧ act i = true then
          (sh.laneAt x.v.r.vs1.toNat i).extractLsb' (8 * ((k - off.toNat) % 4)) 8 else t.vault.rd k) ∧
    (okx →
      ((∀ i, i < 128 → act i = true → clean (addr i).toNat 4) →
        ∃ l : Landing, exec (.vldx x) s = .next (s.issuing c t 12 l) ∧ l.plain x.v 14 ∧ l.flags = 0 ∧
        l.writes fun r i => if r = d ∧ i < 128 ∧ act i = true then some (word (addr i).toNat) else none) ∧
      ((∃ i, i < 128 ∧ act i = true ∧ ¬ clean (addr i).toNat 4) → (t.past .vector 12).pcOf .vector = pc + 12 →
        exec (.vldx x) s = .next (s.issuing c t 12 { rem := 14, sq := x.v.sq == 1, poison := some pc })) ∧
      ∃ s' u, exec (.vstx x) s = .next s' ∧ stored s' u ∧ ∀ k,
        (∀ i, i < 128 → act i = true → (addr i).toNat ≤ k → k < (addr i).toNat + 4 →
          (∀ j, i < j → j < 128 → act j = true → addr j ≠ addr i) →
          u.vault.rd k = (sh.laneAt x.v.r.vs1.toNat i).extractLsb' (8 * (k - (addr i).toNat)) 8) ∧
        ((∀ i, i < 128 → act i = true → k < (addr i).toNat ∨ (addr i).toNat + 4 ≤ k) → u.vault.rd k = t.vault.rd k)) ∧
    (off < 0 ∨ size < off + 512 → ∀ i ∈ [Instr.vld, .vst],
      exec (i x) s = .next (s.trapAt c .vector t .vaultBound { addr := (off % 2 ^ 64).toNat })) ∧
    (0 ≤ off → off + 512 ≤ size → off % 64 ≠ 0 → ∀ i ∈ [Instr.vld, .vst],
      exec (i x) s = .next (s.trapAt c .vector t .vaultAlign { addr := (off % 2 ^ 64).toNat }))

/-- R175, R241, R242, R270 to R274: VBR is taken by its condition on a mask and VLOOP while the count it lowers is not zero; a taken
branch discards the squashable results that do not land in its cycle and costs two cycles more. VDEFER pushes one 32-byte entry
for each active lane, lane number first, and traps `VQUEUE_FULL` when they do not fit; VDRAIN starts a batch of up to 128
entries, VDRET ends it and sends the lanes back to their origins. VTAKE reads a row of a full bank as FP32, VGIVE writes one,
and both wait for the bank. R401 to R403: VAMO performs one active element at a time, from the one that VRSTIDX names, and
then from the one after the last it performed: the lane's offset is added to the base in the descriptor register and the lane takes
the old value; after the last one VRSTIDX is 0 and the stream goes on. A trap of an element leaves VRSTIDX at it. VDRAIN of a
poisoned entry traps `POISON` (R323). -/
def Obligations.VectorControlAndAtomics : Prop :=
  (∀ (s : State) (c : Nat) (t : Team) (x : V64) (y : V96), EngineIssues s c .vector t →
    let sh := (s.cell c).sh
    let cycles : Nat → State → State := fun k u => Nat.repeat (fun v : State => v.streamCycle c) k u
    let ty := t.past .vector 12
    let tx := t.past .vector 8
    let kept : List Landing → List Landing := fun ls => ls.filter fun l => !(l.sq && decide (1 < l.rem))
    let target := t.pcOf .vector + y.lit.signExtend 64
    (ty.pcOf .vector = t.pcOf .vector + 12 →
     let m := sh.maskAt y.v.msk.toNat
     let any := ∃ i, i < 128 ∧ m i = true
     let all := ∀ i, i < 128 → m i = true
     let go := match y.v.fn.toNat with
       | 0 => True
       | 1 => any
       | 2 => ¬ any
       | 3 => all
       | _ => ¬ all
     (go → exec (.vbr y) s = .next ((cycles 2 ((s.withTeam c (ty.setPc .vector target)).withShared c
        { sh with landings := kept sh.landings })).cycled .vector c t)) ∧
     (¬ go → exec (.vbr y) s = .next ((s.withTeam c ty).cycled .vector c t))) ∧
    (ty.pcOf .vector = t.pcOf .vector + 12 →
     let n := sh.laneAt y.v.r.vd.toNat 0 - 1
     let l : Landing := { rem := 1, lanes := [(laneKey y.v.r.vd.toNat 0, 0xFFFFFFFF, n)] }
     (n ≠ 0 → exec (.vloop y) s = .next ((cycles 2 ((s.withTeam c (ty.setPc .vector target)).withShared c
        { sh with landings := kept sh.landings ++ [l] })).cycled .vector c t)) ∧
     (n = 0 → exec (.vloop y) s = .next (s.issuing c t 12 l))) ∧
    (let q := t.qw x.ty.toNat
     let lanes := (List.range 128).filter (laneActive x sh)
     let entry : Nat → List Byte := fun i =>
       leBytes 4 i ++ (List.range x.swz.toNat).flatMap fun k => leBytes 4 (sh.laneAt (x.r.vs1.toNat + k) i).toNat
     q.v = true → q.esz = 3 →
      (t.batch = false → lanes.length ≤ q.depth - q.count → exec (.vdefer x) s = .next ((cycles ((lanes.length + 63) / 64 + 1)
        (s.withTeam c (lanes.foldl (fun u i => u.qPush x.ty.toNat (entry i)) tx))).cycled .vector c t)) ∧
      (t.batch = false → q.depth - q.count < lanes.length → exec (.vdefer x) s = .next (s.trapAt c .vector t .vqueueFull {})) ∧
      (t.batch = true → exec (.vdefer x) s = .next (s.trapAt c .vector t .vdeferState {})) ∧
      (t.batch = false → t.vec.nest = none → sh.landings = [] →
        let m := x.r.vd.toNat % 16
        let n := min q.count 128
        let at_ : Nat → Nat := fun j => q.place (q.head + BitVec.ofNat 32 j)
        let due := 128 ≤ q.count ∨ x.fn.getLsbD 0 = true ∧ 0 < q.count
        (due → (∃ j, j < n ∧ t.vaultRd (at_ j) 32 = none) →
          ∃ a, exec (.vdrain x) s = .next (s.trapAt c .vector t .poison { addr := some a })) ∧
        (due → (∀ j, j < n → (t.vaultRd (at_ j) 32).isSome) → ∃ s' u, exec (.vdrain x) s = .next s' ∧ (s'.cell c).act = some u ∧
          u.batch = true ∧ u.batchN = n ∧ u.qw x.ty.toNat = { q with head := q.head + BitVec.ofNat 32 n } ∧ u.vault = t.vault ∧
          (∀ j, j < 128 → (s'.cell c).sh.maskAt m j = decide (j < n)) ∧
          (∀ j, j < n → let e := t.vault.rdBytes (at_ j) 32
            Sparse.get 0 u.origin j = leNat (e.take 4) % 128 ∧
            ∀ k, k < x.swz.toNat → x.r.vs1.toNat + k < 64 →
              (s'.cell c).sh.laneAt (x.r.vs1.toNat + k) j = BitVec.ofNat 32 (leNat ((e.drop (4 + 4 * k)).take 4))) ∧
          ∀ r j, 64 ≤ r → (s'.cell c).sh.laneAt r j = 0) ∧
        (q.count < 128 → x.fn.getLsbD 0 = false ∨ q.count = 0 → ∃ s', exec (.vdrain x) s = .next s' ∧
          (s'.cell c).act = some tx ∧ ∀ j, j < 128 → (s'.cell c).sh.maskAt m j = false))) ∧
    (t.batch = true → t.vec.nest = none → sh.landings = [] → x.r.vd.toNat < 64 → ∃ s', exec (.vdret x) s = .next s' ∧
      (s'.cell c).act = some { tx with batch := false } ∧
      (∀ j, j < 128 → laneActive x sh j = true → j < t.batchN → Sparse.get 0 t.origin j < 128 →
        (∀ k, j < k → k < 128 → laneActive x sh k = true → k < t.batchN → Sparse.get 0 t.origin k ≠ Sparse.get 0 t.origin j) →
        (s'.cell c).sh.laneAt x.r.vd.toNat (Sparse.get 0 t.origin j) = sh.laneAt x.r.vs1.toNat j) ∧
      ∀ r j, 64 ≤ r → (s'.cell c).sh.laneAt r j = 0) ∧
    (t.batch = false → t.vec.nest = none → sh.landings = [] → exec (.vdret x) s = .next (s.trapAt c .vector t .vdeferState {})) ∧
    (let k := x.fn.getLsbD 0
     let row := x.vs3.toNat
     let out : Nat → BitVec 32 × Flags := fun i => (sh.accOf k row i).toFp32 (sh.tensorA k) (sh.tensorB k)
     let d := if x.r.wbs = 1 then 64 + x.r.vd.toNat % 4 else x.r.vd.toNat
     let emptied : Shared → Shared := fun z => if x.fn.getLsbD 1 then z.setFull k false else z
     (sh.landings ≠ [] ∨ sh.full k = false → ∀ i ∈ [Instr.vtake, .vgive],
        exec (i x) s = .next ((s.withTeam c t).streamCycle c)) ∧
     (sh.landings = [] → sh.full k = true →
      (∃ l : Landing, exec (.vtake x) s = .next (((s.withTeam c tx).withShared c (emptied { sh with landings := [l] })).cycled .vector c t) ∧
        l.plain x 6 ∧ l.row = some row ∧ (l.writes fun r i => if r = d ∧ i < 128 then some (out i).1 else none) ∧
        ∀ j, l.flags.getLsbD j = true ↔ ∃ i, i < 128 ∧ (out i).2.getLsbD j = true) ∧
      (row < 128 → ∃ z, exec (.vgive x) s = .next (((s.withTeam c tx).withShared c z).cycled .vector c t) ∧
        z = { emptied (sh.setDirty k true) with acc := z.acc } ∧
        ∀ b r i, r < 128 → i < 128 → z.accOf b r i = if b = k ∧ r = row then accExact (srcLane x sh i) else sh.accOf b r i)))) ∧
  (∀ (s s2 : State) (c : Nat) (t : Team) (x : V64), EngineIssues s c .vector t → (s.cell c).sh.landings = [] →
    let sh := (s.cell c).sh
    let i0 := if t.vpos = 0 then t.vrstidx.toNat else t.vpos
    i0 < 128 →
    let tx := t.past .vector 8
    let left : Nat → Prop := fun i => i0 ≤ i ∧ i < 128 ∧ laneActive x sh i = true
    ((∀ i, ¬ left i) → exec (.vamo x) s = .next ((s.withTeam c { tx with vrstidx := 0, vpos := 0 }).cycled .vector c t)) ∧
    (∀ i, left i → (∀ j, left j → i ≤ j) →
      let w := s.whoIs c t .vector
      let d := x.vs3.toNat % 64
      let h := (sh.laneAt d 0).toNat % 4096
      let off := ((sh.laneAt d 1).toNat + 2 ^ 32 * (sh.laneAt d 2).toNat + (sh.laneAt x.r.vs2.toNat i).toNat) % 2 ^ 64
      let v := (sh.laneAt x.r.vs1.toNat i).toNat
      let last := ∀ j, left j → j = i
      (∀ old, (readModifyWrite w h off 4 i (vamoOp x) (!tySigned x.ty) v 0).run (s.withTeam c tx) = .ok old s2 →
        s2.cur = s.cur → (s2.cell c).act = some tx → (s2.cell c).sh = sh →
        let z := { sh with v := Sparse.set 0 sh.v (laneKey (dstReg x.r) i) (BitVec.ofNat 32 old) }
        let flags := t.vflags ||| (atomicNew (vamoOp x) (!tySigned x.ty) 32 old v 0).2
        let u := { tx with vflags := flags }
        (last → exec (.vamo x) s = .next (((s2.withTeam c { u with vrstidx := 0, vpos := 0 }).withShared c z).cycled .vector c t)) ∧
        (¬ last → ∃ s', exec (.vamo x) s = .next s' ∧ (s'.cell c).sh = z ∧ s'.mem = s2.mem ∧ (s'.cell c).act =
          some { t with vflags := flags, vpos := i + 1 })) ∧
      (off % 4 ≠ 0 → exec (.vamo x) s =
        .next (s.trapAt c .vector { t with vrstidx := BitVec.ofNat 8 i, vpos := 0 } .ldstAlign { addr := off, detail := i }))) ∧
    (∀ old v : Nat, x.ty ≠ 8 → old < 2 ^ 32 → v < 2 ^ 32 → x.fn.toNat ≤ 5 →
      let f : AmoFn := match x.fn.toNat with
        | 0 => .add
        | 1 => .min
        | 2 => .max
        | 3 => .xchg
        | 4 => .and
        | _ => .or
      (atomicNew (vamoOp x) (!tySigned x.ty) 32 old v 0).1.map (BitVec.ofNat 32) =
        some (amoSpec 32 f (!tySigned x.ty) (BitVec.ofNat 32 old) (BitVec.ofNat 32 v))))

/-! ### Matrix instructions (R278 to R302) -/

/-- R73 to R75, R281 to R289: MMA, MMAZ, MMAG and MCONST. When the operands pass the checks, the slots read FULL, the bank is EMPTY
and the array queue has a place, the product joins the queue with the descriptors, scales and index entries as they are then, the
bank takes its tensor scales and is DIRTY; while one of those does not hold, the stream waits and changes nothing. When the oldest
product lands, exactly the entries of its shape take the value that the meaning of R287 gives them, and every other entry keeps its
own; an entry that leaves its range saturates, and an invalid or saturated one stays as it is. -/
def Obligations.MatrixProducts : Prop :=
  (∀ (s : State) (c : Nat) (t : Team) (x : M64), EngineIssues s c .matrix t →
    let sh := (s.cell c).sh
    let t' := t.past .matrix 8
    let gen : BitVec 1 → BitVec 2 → Int := fun nr g => if nr = 1 then (t.running .matrix).elim 0 fun n => n.agOffset g.toNat else 0
    let a := t.tile x.ta.toNat
    let b := t.tile x.tb.toNat
    let bank := x.ab == 1
    let rows := 32 * 2 ^ x.m.toNat
    let cols := 16 * x.nn.toNat
    let one : BitVec 32 := 0x3F800000
    let scale : Tile → BitVec 32 := fun y => if y.prec.extractLsb' 12 2 = 2 then y.tscale else one
    ∀ p ∈ [(Instr.mma, 0), (.mmaz, 1), (.mmag, 2), (.mconst, 3)],
      let q : PReq := { kind := p.2, pa := a.prec, pb := b.prec, aOff := gen x.nra x.aga, bOff := gen x.nrb x.agb }
      let indexed := p.2 = 2 ∨ p.2 = 3 ∧ (x.sub = 1 ∨ x.sub = 3)
      let ready := (p.2 ≠ 3 → a.full = true) ∧ b.full = true ∧ (indexed → (t.tile x.tc.toNat).full = true) ∧
        sh.full bank = false ∧ sh.array.length < 3
      (productChecks x q).run (s.withTeam c t') = .ok () (s.withTeam c t') →
      (¬ ready → exec (p.1 x) s = .next (s.withTeam c t)) ∧
      (ready → (indexed → (t.vaultRd (t.tile x.tc.toNat).base.toNat (2 * rows)).isSome) →
        ∃ r : Product, r = { kind := p.2, sub := x.sub.toNat, bank := bank, m := rows, n := cols, a := a, b := b,
                             sa := t.tile (a.prec.extractLsb' 6 6).toNat, sb := t.tile (b.prec.extractLsb' 6 6).toNat,
                             ta := x.ta.toNat, tb := x.tb.toNat, aOff := q.aOff, bOff := q.bOff, idx := r.idx } ∧
          (¬ indexed → r.idx = []) ∧
          (indexed → r.idx = (List.range rows).map fun i =>
            leNat (t.vault.rdBytes ((t.tile x.tc.toNat).base.toNat + 2 * i) 2)) ∧
          exec (p.1 x) s = .next (((s.withTeam c t').withShared c
            { (((sh.setTensors bank (if p.2 = 3 then one else scale a) (scale b)).setDirty bank true)) with
                array := sh.array ++ [r] }).cycled .matrix c t))) ∧
  (∀ (s : State) (t : Team) (p : Product) (rest : List Product), (s.cell s.arg.a).act = some t → t.halted = false →
    (s.cell s.arg.a).sh.array = p :: rest → p.poisoned t = false → 0 < p.m → p.m * ((p.n + 127) / 128) ≤ 128 →
    let sh := (s.cell s.arg.a).sh
    ∃ z, exec .productLand s = .next (s.withShared s.arg.a z) ∧ z = { sh with array := rest, acc := z.acc } ∧
      ∀ k row col, row < 128 → col < 128 → z.accOf k row col =
        let c := row / p.m * 128 + col
        if k = p.bank ∧ c < p.n then p.entry t (row % p.m) c (((p.rowsA t)[row % p.m]?).getD ([], false)) (((p.colsB t)[c]?).getD [])
          (sh.accOf k row col) else sh.accOf k row col) ∧
  (∀ (a : AccE) (q : Int),
    (a.inv = false → a.ovf = false → -(2 : Int) ^ 63 ≤ a.s + q → a.s + q < (2 : Int) ^ 63 →
      a.addPartial false q a.e = { a with s := a.s + q }) ∧
    (a.inv = false → a.ovf = false → (2 : Int) ^ 63 ≤ a.s + q → a.addPartial false q a.e = { a with s := (2 : Int) ^ 63 - 1, ovf := true }) ∧
    (∀ e, a.inv = true ∨ a.ovf = true → a.addPartial false q e = a) ∧ (∀ e, (a.addPartial true q e).inv = true))

/-- R282, R290 to R293, R299: MPREC and MSCALE write one field of a slot's descriptor; MOWN writes the 128 owner entries to an empty
slot and fills it; MCLR makes every entry of the bank zero and leaves its tensor scales; MFREE empties slots that no queued
product reads and hands an empty bank without products to the vector engine. Each waits, changing nothing, while its slot or
bank is not ready. R78, R294 to R297: MCVT converts the M × N entries of a bank into the rows of an empty slot, once the
products into the bank have landed, and fills the slot; every byte of the vault outside its rows keeps its value and the flags
are those of every row. MSCAT outside a pass cell writes each row whose entry is not skipped through the entry's handle and
offset; a row that fails traps at its own number. -/
def Obligations.MatrixSlotsAndConvert : Prop :=
  (∀ (s : State) (c : Nat) (t : Team) (x : M64) (y : M96), EngineIssues s c .matrix t →
    let sh := (s.cell c).sh
    let t' := t.past .matrix 8
    let waits : Instr → Prop := fun i => exec i s = .next (s.withTeam c t)
    let bank := x.ab == 1
    let idle := sh.full bank = false ∧ ∀ p ∈ sh.array, p.bank ≠ bank
    let n := x.tc.toNat
    exec (.mprec y) s = .next ((s.withTeam c
      ((t.past .matrix 12).setTile y.x.tc.toNat { t.tile y.x.tc.toNat with prec := y.lit })).cycled .matrix c t) ∧
    exec (.mscale x) s = .next ((s.withTeam c
      (t'.setTile n { t.tile n with tscale := (t.sreg x.sreg.toNat).extractLsb' 0 32 })).cycled .matrix c t) ∧
    (let d := t.tile n
     let ok := d.valid = true ∧ d.base.toNat % 64 = 0 ∧ d.pitch.toNat % 64 = 0 ∧ d.base.toNat + 1024 ≤ t.valloc * 65536
     (ok → d.full = true → waits (.mown x)) ∧
     (d.valid = false → exec (.mown x) s = .next (s.trapAt c .matrix t .tileInvalid {})) ∧
     (ok → d.full = false → ∃ u, exec (.mown x) s = .next ((s.withTeam c u).cycled .matrix c t) ∧ u = { t' with vault := u.vault, vpoison := u.vpoison, tiles := u.tiles } ∧
       u.tile n = { d with full := true } ∧ (∀ k, k ≠ n → u.tile k = t.tile k) ∧
       (∀ k, (k < d.base.toNat ∨ d.base.toNat + 1024 ≤ k) → u.vault.rd k = t.vault.rd k) ∧
       (t.epilogue = none → ∀ r, r < 128 → leNat (u.vault.rdBytes (d.base.toNat + 8 * r) 8) =
         2 ^ 63 + t.asid % 1024 * 2 ^ 32 + 0xFFFFFFFF))) ∧
    (¬ idle → waits (.mclr x)) ∧
    (idle → ∃ z, exec (.mclr x) s = .next (((s.withTeam c t').withShared c z).cycled .matrix c t) ∧ z = { sh.setDirty bank false with acc := z.acc } ∧
      ∀ k row col, row < 128 → col < 128 → z.accOf k row col = if k = bank then {} else sh.accOf k row col) ∧
    (let named := (if x.sub.getLsbD 1 then [x.ta.toNat] else []) ++ (if x.sub.getLsbD 2 then [x.tb.toNat] else [])
     let free := (∀ k ∈ named, ∀ p ∈ sh.array, p.reads k = false) ∧ (x.sub.getLsbD 0 = true → idle)
     (¬ free → waits (.mfree x)) ∧
     (free → ∃ u, exec (.mfree x) s = .next
         (((s.withTeam c u).withShared c (if x.sub.getLsbD 0 then sh.setFull bank true else sh)).cycled .matrix c t) ∧
       u = { t' with tiles := u.tiles } ∧ ∀ k, u.tile k = if k ∈ named then { t.tile k with full := false } else t.tile k))) ∧
  ((∀ (s : State) (c : Nat) (t : Team) (x : M64), EngineIssues s c .matrix t → t.epilogue = none →
    let sh := (s.cell c).sh
    let bank := x.ab == 1
    let idle := sh.full bank = false ∧ ∀ p ∈ sh.array, p.bank ≠ bank
    let rows := 32 * 2 ^ x.m.toNat
    let cols := 16 * x.nn.toNat
    let half := x.sub == 1
    let es := if half then 2 else 4
    let d := t.tile x.tc.toNat
    let off : Int := if x.nra = 1 then (t.running .matrix).elim 0 fun n => n.agOffset x.aga.toNat else 0
    let line : Nat → Nat := fun r => ((d.base.toNat : Int) + off + (r * d.pitch.toNat : Nat)).toNat
    let conv : Nat → Nat → Nat × Flags := fun r k =>
      let v := (sh.accOf bank (r + rows * (k / 128)) (k % 128)).toFp32 (sh.tensorA bank) (sh.tensorB bank)
      if half then ((bf16.convert .rne false (fp32.value v.1.toNat)).1, v.2 ||| (bf16.convert .rne false (fp32.value v.1.toNat)).2)
      else (v.1.toNat, v.2)
    (mcvtChecks x off).run (s.withTeam c (t.past .matrix 8)) = .ok () (s.withTeam c (t.past .matrix 8)) →
    (¬ idle ∨ d.full = true → exec (.mcvt x) s = .next (s.withTeam c t)) ∧
    (idle → d.full = false → es * cols ≤ d.pitch.toNat → ∃ u, exec (.mcvt x) s = .next ((s.withTeam c u).cycled .matrix c t) ∧
      u = { t.past .matrix 8 with vault := u.vault, vpoison := u.vpoison, vflags := u.vflags, tiles := u.tiles } ∧
      u.tile x.tc.toNat = { d with full := true } ∧ (∀ k, k ≠ x.tc.toNat → u.tile k = t.tile k) ∧
      (∀ r k, r < rows → k < cols → u.vault.rdBytes (line r + es * k) es = leBytes es (conv r k).1) ∧
      (∀ a, (∀ r, r < rows → a < line r ∨ line r + es * cols ≤ a) → u.vault.rd a = t.vault.rd a) ∧
      (∀ j, u.vflags.getLsbD j = true ↔ t.vflags.getLsbD j = true ∨ ∃ r k, r < rows ∧ k < cols ∧ (conv r k).2.getLsbD j = true))) ∧
  (∀ (s s2 : State) (c : Nat) (t : Team) (x : M64) (table : List Byte), EngineIssues s c .matrix t → t.epilogue = none →
    let sh := (s.cell c).sh
    let bank := x.ab == 1
    let idle := sh.full bank = false ∧ ∀ p ∈ sh.array, p.bank ≠ bank
    let rows := 32 * 2 ^ x.m.toNat
    let cols := 16 * x.nn.toNat
    let s1 := s.withTeam c (t.past .matrix 8)
    let ag : Int := if x.nra = 1 then (t.running .matrix).elim 0 fun n => n.agOffset x.aga.toNat else 0
    (mscatChecks x).run s1 = .ok () s1 →
    (¬ idle → exec (.mscat x) s = .next (s.withTeam c t)) ∧
    (idle → t.vaultRd (t.tile x.tc.toNat).base.toNat (8 * rows) = some table →
      ((bytesWords rows table).zipIdx.forM fun p => if p.1.getLsbD 51 then pure () else do
          scatRow (s.whoIs c t .matrix) p.1 ag p.2 (convRow sh bank rows cols p.2 (x.sub == 1)).1
          rowFlags p.2 (convRow sh bank rows cols p.2 (x.sub == 1)).2).run s1 = .ok () s2 →
      exec (.mscat x) s = .next (s2.cycled .matrix c t)) ∧
    (idle → t.vaultRd (t.tile x.tc.toNat).base.toNat (8 * rows) = some table →
      (∀ i, i < rows → (nth (bytesWords rows table) i).getLsbD 51 = true) → exec (.mscat x) s = .next (s1.cycled .matrix c t))) ∧
  (∀ (s : State) (w : Who) (e : Word) (ag : Int) (r : Nat) (bs : List Byte),
    let h := (e.extractLsb' 52 12).toNat
    let off := ((((e.extractLsb' 0 48).toNat : Int) + ag) % (2 : Int) ^ 64).toNat
    (∀ fa o s1 s2, e.extractLsb' 48 3 = 0 → (handleAt w.asid h off bs.length true).run s = .ok (fa, o) s1 →
      (storeWhole w fa o bs).run s1 = .ok () s2 → (scatRow w e ag r bs).run s = .ok () s2) ∧
    (e.extractLsb' 48 3 ≠ 0 → (scatRow w e ag r bs).run s = .error (.trap .handleInvalid { detail := r }) s) ∧
    (e.extractLsb' 48 3 = 0 → s.handle? w.asid h = none → (∀ f, s.handleFrame w.asid h = some f → s.swapBlocks f = false) →
      (scatRow w e ag r bs).run s = .error (.trap .handleInvalid { detail := r }) (s.handleRead w.asid h))))

/-! ### Data movement (R345 to R370, R523) -/

/-- R345 to R352, R370: a job instruction, in the strand or the copy stream and in either form, reads the block at the literal part
(AUX × 64, or LIT) plus the strand's register or plus the address generator, and appends one waiting card with the block's
words, its number, its place in the cell's order, its semaphores and the footprint declared or implied. With 64 cards it waits;
a block that is not aligned, out of the allotment or not well formed traps, and without a fabric the remote jobs trap
`UNIT_ABSENT`. -/
def Obligations.JobInstructions : Prop :=
  ∀ (s : State) (c : Nat) (st : Stream) (t : Team) (x : C64) (y : C96), Issues s c st t → st = .strand ∨ st = .copy →
    ∀ p ∈ [(Instr.cp, Instr.cp96, 0x00), (.cpc, .cpc96, 0x01), (.cpg, .cpg96, 0x02), (.cps, .cps96, 0x03), (.cpk, .cpk96, 0x04),
        (.pref, .pref96, 0x09), (.pin, .pin96, 0x0A), (.unpin, .unpin96, 0x0B), (.kvcommit, .kvcommit96, 0x0C),
        (.rst, .rst96, 0x0D), (.rld, .rld96, 0x0E), (.lsend, .lsend96, 0x0F), (.lradd, .lradd96, 0x10)],
    ∀ q ∈ [(p.1 x, 8, x, (x.aux.toNat * 64 : Nat)), (p.2.1 y, 12, y.c, y.lit.toNat)],
      let op := p.2.2
      let i := q.1
      let j := q.2.2.1
      let t' := t.past st q.2.1
      let reg : Int := if st = .strand then ((t.sreg j.sa.toNat).toNat : Int) else 0
      let gen : Int := if j.nr = 1 then (match engineOf st with
        | none => 0
        | some e => (t.running e).elim 0 fun n => n.agOffset j.ag.toNat) else 0
      let off := (((q.2.2.2 : Int) + reg + gen) % (2 : Int) ^ 64).toNat
      let remote := op = 0x0D ∨ op = 0x0E ∨ op = 0x0F ∨ op = 0x10
      let still := s.withTeam c (if st = .strand then t.still else t)
      let traps : Cause → Info → Prop := fun k f =>
        exec i s = .next (s.trapAt c st (if st = .strand then t.still else t) k f)
      (remote → s.hasFabric = false → exec i s = .next (s.takeTrap c st .unitAbsent true (t.pcOf st) {})) ∧
      ((remote → s.hasFabric = true) → 64 ≤ t.cards.length → exec i s = .next still) ∧
      ((remote → s.hasFabric = true) → t.cards.length < 64 →
        (off % 64 ≠ 0 → traps .vaultAlign { addr := off }) ∧
        (off % 64 = 0 → t.valloc * 65536 < off + 64 → traps .vaultBound { addr := off }) ∧
        (∀ bs, off % 64 = 0 → off + 64 ≤ t.valloc * 65536 → t.vaultRd off 64 = some bs →
          let b := bytesWords 8 bs
          (jobBad op j.md j.qw.toNat b t = true → traps .jobInvalid { addr := off }) ∧
          (jobBad op j.md j.qw.toNat b t = false → t.epilogue = none →
            let wsem := if j.wv = 1 then some j.wsem.toNat else none
            let card : Card :=
              { seq := t.jobSeq, order := (s.cell c).nextCard, op := op, stream := st, block := b, wsem := wsem,
                ssem := if j.sv = 1 then some j.ssem.toNat else none, md := j.md, qw := j.qw.toNat,
                foot := ((if st = .copy then t.footC else t.footS).getD (s.implied t.asid op j.md b)) }
            let u : Team := { t' with
              cards := t.cards ++ [card], jobSeq := (t.jobSeq + 1) % 2 ^ 32,
              footC := if st = .copy then none else t.footC, footS := if st = .copy then t.footS else none }
            card.st = .waiting ∧
            exec i s = .next (((s.withTeam c (match wsem with
              | none => u
              | some k => ({ u with waiters := t.waiters ++ [(k, .card t.jobSeq, 1)] } : Team).serveSem k 65)).modCell c fun z =>
                { z with nextCard := z.nextCard + 1 }).usedReplies (t.key st)))))

/-- R350 to R354, R356, R363: two regions overlap exactly when they share a byte; JOB_START starts the first ready card of a cell in issue
order, whose semaphore count it has taken and which no earlier live card conflicts with; a unit of CP reads at most 2 KiB within one
64 KiB unit of the source and writes it at the destination (the size is the model's, log 24); JOB_COMPLETE of a performed card
performs its writes, signals its semaphore, charges its bytes and drops the card. A failing unit ends the job with its cause and
row; a job whose bytes are all sent waits for its packets. -/
def Obligations.JobsRun : Prop :=
  (∀ x y : Region,
    let touches : Region → Nat → Prop := fun r a => ∃ i, i < r.n ∧ r.lo + i * r.stride ≤ a ∧ a < r.lo + i * r.stride + r.len
    x.overlaps y = true ↔ ∃ a, touches x a ∧ touches y a) ∧
  (∀ (s : State) (b : Bool) (t : Team) (k : Card), let c := s.arg.a
    s.arg.b = b.toNat → (s.cell c).team b = some t → t.card s.arg.c = some k → s.cellUp c = true →
    let before : Card → Prop := fun y => ∃ l, (l, y) ∈ s.cellCards c ∧ y.order < k.order
    let ready : Card → Prop := fun z => z.st = .waiting ∧ (z.wsem = none ∨ z.took = true) ∧
      ∀ p ∈ s.cellCards c, p.2.order < z.order → p.2.st ≠ .recording → z.foot.edge p.2.foot = false
    (ready k → (∀ y, before y → ¬ ready y) → t.ended = false → t.halted = false → t.pre = none →
      exec .jobStart s = .next
        ((((s.drainPosted fun p => p.src == c).modCard (.here c b) s.arg.c fun z => { z with st := .running })).cardRun (.here c b)
          s.arg.c (if s.arg.d = 0 then k.bound else s.arg.d))) ∧
    (k.st = .waiting → ¬ ready k ∨ (∃ y, before y ∧ ready y) → exec .jobStart s = .next s) ∧
    (k.st = .running → exec .jobStart s = .next (s.cardRun (.here c b) s.arg.c (if s.arg.d = 0 then k.bound else s.arg.d)))) ∧
  (∀ (s : State) (l : Loc) (q : Nat) (k : Card), s.cardAt l q = some k →
    let w := s.cardWho l k
    (∀ k' s', k.sentAll = false → (unitOf w l k).run s = .ok k' s' →
      let z := s'.usedReplies w.key
      let k2 := if k'.st = .performed ∧ z.cardDue w = true then { k' with st := .running, sentAll := true } else k'
      s.cardUnit l q = (z.modCard l q fun _ => k2, k2.st == .running)) ∧
    (∀ z f s', k.sentAll = false → (unitOf w l k).run s = .error (.trap z f) s' → s.cardUnit l q =
      ((s'.usedReplies w.key).modCard l q fun y => { y with
        st := .performed, status := .cause z, lines := [], failRow := if f.detail = 0 then y.row else f.detail - 1 }, false)) ∧
    (k.sentAll = true → s.cardDue w = false →
      s.cardUnit l q = (s.modCard l q fun _ => { k with st := .performed, sentAll := false }, false)) ∧
    (k.sentAll = true → s.cardDue w = true → (s.ctx w.asid).quiesced = false ∨ (s.ctx w.asid).cut = true → s.cardUnit l q = (s, false))) ∧
  (∀ (s s1 s2 s3 s4 : State) (w : Who) (l : Loc) (k : Card) (so dord sa da : Nat) (sd dd : Dest) (bs : List Byte), k.op = 0 →
    let b := k.block
    let rs : Region := { lo := sa, len := jRowlen b, n := jCount b, stride := jSs b }
    let rd : Region := { lo := da, len := jRowlen b, n := jCount b, stride := jDs b }
    let a := sa + k.row * jSs b + k.off
    let z := da + k.row * jDs b + k.off
    let n := min (min 2048 (jRowlen b - k.off)) (min (65536 - a % 65536) (65536 - z % 65536))
    (spanAt w.asid (jSh b) (jSoff b) (jSs b) (jRowlen b) (jCount b) false).run s = .ok (sa, so) s →
    (spanAt w.asid (jDh b) (jDoff b) (jDs b) (jRowlen b) (jCount b) true).run s = .ok (da, dord) s →
    rs.overlaps rd = false → (destOf w a n false none).run s = .ok sd s1 → (destOf w z n true none).run s1 = .ok dd s2 →
    (readDest w a sd n so).run s2 = .ok bs s3 → (writeDest w dd dord false bs).run s3 = .ok () s4 →
    (unitOf w l k).run s = .ok ((k.moved n (jRowlen b)).endAt (jCount b)) s4) ∧
  (∀ (s s2 : State) (b : Bool) (t : Team) (k : Card), let l := Loc.here s.arg.a b
    s.arg.b = b.toNat → (s.cell s.arg.a).team b = some t → t.card s.arg.c = some k → k.st = .performed →
    (release (s.cardWho l k) (if jRemote k.op then 4 else 3)).run s = .ok () s2 → k.status = .ok → jEv k.block = false → k.ssem = none →
    t.ended = false → (s2.cell s.arg.a).team b = some t →
    ∃ s', exec .jobComplete s = .next s' ∧
      (s'.cell s.arg.a).team b = some { t with cards := t.cards.filter fun z => z.seq != s.arg.c } ∧ s'.mem = s2.mem)

/-- R365 to R367, R523: QINIT writes a queue word that R366 accepts and traps `QW_INVALID` otherwise; QPUSH appends an element,
padded with zeros, at the place of TAIL, QPOP removes the one at HEAD, QPEEK tells the occupancy or waits for it. In the strand
the operands are registers, in the copy stream bytes of the vault. QPUSH waits while the queue is full, QPOP while it is empty,
and an invalid word traps `QW_INVALID`. R368 to R370: TSLOT.SET writes a slot's descriptor but FULL; TFULL and TEMPTY, in every
stream, set and clear FULL once what the stream issued has been performed, and release at CELL scope; TWAIT goes on when FULL is
as it asks and waits otherwise; FOOT declares the regions that the stream's next job reads and writes. -/
def Obligations.VaultQueuesAndTiles : Prop :=
  (∀ (s : State) (c : Nat) (t : Team) (x : C64) (y : C96) (z : COpt),
    let forms : Stream → Prop := fun st => Issues s c st t
    let lit : Nat → C64 → Nat := fun off j => ((off : Int) + (if j.nr = 1 then
      (t.running .copy).elim 0 fun n => n.agOffset j.ag.toNat else 0)) % (2 : Int) ^ 64 |>.toNat
    let word : Nat → QWord := fun n => t.qw n
    let elem : QWord → Nat → Nat := fun q k => q.base.toNat + k % 2 ^ q.logd.toNat * (4 * 2 ^ q.esz.toNat)
    let put : Team → Nat → QWord → List Byte → Team := fun u n q bs =>
      (u.vaultWr (elem q q.tail.toNat) (bs ++ List.replicate (4 * 2 ^ q.esz.toNat - bs.length) 0)).setQw n { q with tail := q.tail + 1 }
    let size : QWord → Nat := fun q => 4 * 2 ^ q.esz.toNat
    let count : QWord → Nat := fun q => (q.tail - q.head).toNat
    let done : Stream → Instr → Team → Prop := fun st i u => exec i s = .next ((s.withTeam c u).usedReplies (t.key st))
    let waits : Instr → Team → Prop := fun i u => exec i s = .next (s.withTeam c u)
    let trapped : Instr → Stream → Cause → Info → Prop := fun i st k f =>
      exec i s = .next (s.trapAt c st (if st = .strand then t.still else t) k f)
    (forms .strand →
      ∀ p ∈ [(Instr.qinit x, Instr.qpush x, Instr.qpop x, 8, x), (.qinit96 y, .qpush96 y, .qpop96 y, 12, y.c)],
        let j := p.2.2.2.2
        let t' := t.past .strand p.2.2.2.1
        let n := j.qw.toNat
        let q := word n
        ((∀ k ∈ t.cards, jQ k.op k.md = true → k.qw = n → k.st = .recording) →
          match qwordOf (t.sreg j.sa.toNat) (t.sreg j.sb.toNat) t.valloc with
          | none => trapped p.1 .strand .qwInvalid {}
          | some w => done .strand p.1 (t'.setQw n w)) ∧
        (q.v = false → trapped p.2.1 .strand .qwInvalid {} ∧ trapped p.2.2.1 .strand .qwInvalid {}) ∧
        (q.v = true →
          (count q < 2 ^ q.logd.toNat → done .strand p.2.1 (put t' n q ((leBytes 8 (t.sreg j.sb.toNat).toNat).take (min 8 (size q))))) ∧
          (2 ^ q.logd.toNat ≤ count q → waits p.2.1 t.still) ∧
          (∀ bs, 0 < count q → t.vaultRd (elem q q.head.toNat) (size q) = some bs →
            done .strand p.2.2.1 ((t'.setQw n { q with head := q.head + 1 }).setSreg j.sb.toNat (BitVec.ofNat 64 (leNat (bs.take 8))))) ∧
          (count q = 0 → waits p.2.2.1 t.still))) ∧
    (forms .copy →
      ∀ p ∈ [(Instr.qinit x, Instr.qpush x, Instr.qpop x, 8, x, x.aux.toNat * 64), (.qinit96 y, .qpush96 y, .qpop96 y, 12, y.c, y.lit.toNat)],
        let j := p.2.2.2.2.1
        let off := lit p.2.2.2.2.2 j
        let t' := t.past .copy p.2.2.2.1
        let n := j.qw.toNat
        let q := word n
        let inside : Nat → Prop := fun k => off + k ≤ t.valloc * 65536
        (∀ bs, inside 16 → off % 16 = 0 → t.vaultRd off 16 = some bs →
          (∀ k ∈ t.cards, jQ k.op k.md = true → k.qw = n → k.st = .recording) →
          match qwordOf (nth (bytesWords 2 bs) 0) (nth (bytesWords 2 bs) 1) t.valloc with
          | none => trapped p.1 .copy .qwInvalid {}
          | some w => done .copy p.1 (t'.setQw n w)) ∧
        (inside 16 → off % 16 ≠ 0 → trapped p.1 .copy .vaultAlign { addr := off }) ∧
        (¬ inside 16 → trapped p.1 .copy .vaultBound { addr := off }) ∧
        (q.v = true → inside (size q) → off % 4 = 0 →
          (∀ bs, count q < 2 ^ q.logd.toNat → t.vaultRd off (size q) = some bs → done .copy p.2.1 (put t' n q bs)) ∧
          (∀ bs, 0 < count q → t.vaultRd (elem q q.head.toNat) (size q) = some bs →
            done .copy p.2.2.1 ((t'.setQw n { q with head := q.head + 1 }).vaultWr off bs)) ∧
          (2 ^ q.logd.toNat ≤ count q → waits p.2.1 t) ∧
          (count q = 0 → waits p.2.2.1 t))) ∧
    (let q := word z.c.qw.toNat
     let len := if z.lit.isSome then 12 else 8
     (forms .strand → q.v = true → done .strand (.qpeek z) ((t.past .strand len).setSreg z.c.sb.toNat (BitVec.ofNat 64 (count q)))) ∧
     (forms .copy → z.c.aux ≠ 0 → q.v = true →
       if z.c.aux.toNat ≤ count q then done .copy (.qpeek z) (t.past .copy len) else waits (.qpeek z) t) ∧
     (forms .copy → z.c.aux = 0 → trapped (.qpeek z) .copy .illRes {})) ∧
    (∀ (w0 w1 : Word) (va : Nat) (q : QWord), qwordOf w0 w1 va = some q ↔
      w0.extractLsb' 37 23 = 0 ∧ w0.extractLsb' 23 9 = 0 ∧ (w0.extractLsb' 32 5).toNat ≤ 20 ∧ (w0.extractLsb' 0 23).toNat % 64 = 0 ∧
      (w0.extractLsb' 0 23).toNat + 2 ^ (w0.extractLsb' 32 5).toNat * (4 * 2 ^ (w0.extractLsb' 60 3).toNat) ≤ va * 65536 ∧
      (w1.extractLsb' 0 32 - w1.extractLsb' 32 32).toNat ≤ 2 ^ (w0.extractLsb' 32 5).toNat ∧
      q = { v := w0.getLsbD 63, esz := w0.extractLsb' 60 3, logd := w0.extractLsb' 32 5, base := w0.extractLsb' 0 23,
            head := w1.extractLsb' 32 32, tail := w1.extractLsb' 0 32 })) ∧
  (∀ (s : State) (c : Nat) (st : Stream) (t : Team) (x : C64) (y : C96) (z : COpt), Issues s c st t →
    let lz := if z.lit.isSome then 12 else 8
    let tz := t.past st lz
    let n := z.c.aux.toNat % 64
    let cycled : State → State := fun u => if st = .vector then u.streamCycle c else u
    let quiet := (st = .vector → (s.cell c).sh.landings = []) ∧ (st = .matrix → (s.cell c).sh.array = []) ∧
      (st = .copy → ∀ k ∈ t.cards, k.stream = .copy → k.st = .recording)
    let still : Team := if st = .strand then t.still else t
    let did : State → State := fun u => cycled (u.usedReplies (t.key st))
    ((s.cell c).sh.duePoison = none →
      (¬ quiet → ∀ i ∈ [Instr.tfull, .tempty], exec (i z) s = .next (cycled (s.withTeam c still))) ∧
      (quiet →
        exec (.tfull z) s = .next (did (s.withTeam c (tz.setTile n { t.tile n with full := true }))) ∧
        exec (.tempty z) s = .next (did (s.withTeam c (tz.setTile n { t.tile n with full := false })))) ∧
      ((st = .vector → (s.cell c).sh.landings = []) → exec (.twait z) s = .next
        (if (t.tile n).full = !z.c.md.getLsbD 0 then did (s.withTeam c tz) else cycled (s.withTeam c still)))) ∧
    (st = .strand ∨ st = .copy →
      ∀ p ∈ [(Instr.tslotSet x, Instr.foot x, 8, x, 0, x.aux.toNat * 64), (.tslotSet96 y, .foot96 y, 12, y.c, y.lit.toNat, y.lit.toNat)],
        let j := p.2.2.2.1
        let t' := t.past st p.2.2.1
        let gen : Int := if j.nr = 1 then (match engineOf st with
          | none => 0
          | some e => (t.running e).elim 0 fun n => n.agOffset j.ag.toNat) else 0
        let traps : Instr → Cause → Info → Prop := fun i k f =>
          exec i s = .next (s.trapAt c st (if st = .strand then t.still else t) k f)
        let m := j.aux.toNat % 64
        let offC := (((p.2.2.2.2.1 : Nat) + gen) % (2 : Int) ^ 64).toNat
        (∀ w0 w1, (st = .strand → w0 = t.sreg j.sa.toNat ∧ w1 = t.sreg j.sb.toNat) →
          (st = .copy → offC + 16 ≤ t.valloc * 65536 ∧ offC % 16 = 0 ∧
            ∃ bs, t.vaultRd offC 16 = some bs ∧ w0 = nth (bytesWords 2 bs) 0 ∧ w1 = nth (bytesWords 2 bs) 1) →
          (w0.extractLsb' 55 7 = 0 → w0.extractLsb' 0 6 = 0 → w1.extractLsb' 0 6 = 0 → exec p.1 s = .next ((s.withTeam c (t'.setTile m
            { t.tile m with valid := w0.getLsbD 62, base := w0.extractLsb' 32 23, pitch := w0.extractLsb' 16 16,
                            rows := w0.extractLsb' 6 10, tscale := w1.extractLsb' 32 32, prec := w1.extractLsb' 0 32 })).usedReplies (t.key st))) ∧
          (w0.extractLsb' 55 7 ≠ 0 ∨ w0.extractLsb' 0 6 ≠ 0 ∨ w1.extractLsb' 0 6 ≠ 0 → traps p.1 .illRes {})) ∧
        (∀ bs r0 r1 wr,
          let reg : Int := if st = .strand then ((t.sreg j.sa.toNat).toNat : Int) else 0
          let off := (((p.2.2.2.2.2 : Nat) + reg + gen) % (2 : Int) ^ 64).toNat
          let b := bytesWords 8 bs
          let named : Nat → State → State := fun k u => if nth b (k + 1) = 0 then u else u.handleRead t.asid ((nth b k).extractLsb' 52 12).toNat
          let region : Nat → State → List Region → Prop := fun k u r =>
            let h := ((nth b k).extractLsb' 52 12).toNat
            let o := ((nth b k).extractLsb' 0 48).toNat
            let len := (nth b (k + 1)).toNat
            len = 0 ∧ r = [] ∨ len ≠ 0 ∧ ∃ e, HandleOk u t.asid h o len false e ∧
              r = [{ lo := e.path * 2 ^ 52 + e.base + o, len := len }]
          off % 64 = 0 → off + 64 ≤ t.valloc * 65536 → t.vaultRd off 64 = some bs →
          (∀ k ∈ [0, 2, 4], (nth b k).extractLsb' 48 4 = 0 ∧ (nth b (k + 1)).extractLsb' 48 16 = 0) → nth b 6 = 0 → nth b 7 = 0 →
          let s1 := s.withTeam c t'
          region 0 s1 r0 → region 2 (named 0 s1) r1 → region 4 (named 2 (named 0 s1)) wr →
          exec p.2.1 s = .next (((named 4 (named 2 (named 0 s1))).withTeam c (if st = .copy then { t' with footC := some { reads := r0 ++ r1, writes := wr } }
            else { t' with footS := some { reads := r0 ++ r1, writes := wr } })).usedReplies (t.key st)))))

/-! ### Submission queues and arbitration (R81 to R97, R99, R104) -/

/-- R81, R82, R86, R96, R99, R104: QUEUE_DOORBELL sets TAIL, and a TAIL further than the ring from HEAD disables the queue and keeps
what the ring holds; QUEUE_ENABLE enables a queue of a context and makes the context RUNNING, and QUEUE_DISABLE clears EN;
QUEUE_AGING raises the effective class of a queue whose head item has waited; ACCT_USED_WRITEBACK charges the
teams on cells for their cycles so far and adds the pending charges to USED, saturating; CHILD_SPILL_REFILL moves the oldest spilled child into the pool of its die. -/
def Obligations.SubmissionQueues : Prop :=
  (∀ s : State, let x := s.arg
    let k := 32 * x.a + x.b
    let q := s.queue k
    x.a ≤ 64 → x.b < 32 → s.boot.start = .up →
    (∃ s', exec .queueDoorbell s = .next s' ∧ (s'.queue k).tail = BitVec.ofNat 32 x.c ∧ (s'.queue k).head = q.head ∧
      (if q.en = true ∧ q.places < (BitVec.ofNat 32 x.c - q.head).toNat then
          (s'.queue k).en = false ∧ (s'.queue k).lim = some (q.head + BitVec.ofNat 32 q.places)
        else (s'.queue k).en = q.en ∧ (s'.queue k).lim = q.lim ∧ s'.hub.rings = s.hub.rings) ∧
      s'.mem = s.mem ∧ s'.cells = s.cells) ∧
    (q.en = false → q.size.toNat ≤ 10 → q.asid ≠ 0 → ∃ s', exec .queueEnable s = .next s' ∧
      ((s'.queue k).en = true ↔ (q.tail - q.head).toNat ≤ q.places) ∧ (s'.queue k).head = q.head ∧ (s'.queue k).tail = q.tail ∧
      (s'.tenant q.asid).st = (if (s.tenant q.asid).st = .free then .running else (s.tenant q.asid).st) ∧ s'.mem = s.mem) ∧
    (q.en = true ∨ 10 < q.size.toNat ∨ q.asid = 0 → exec .queueEnable s = .next s) ∧
    exec .queueDisable s = .next (s.modQueue k fun y => { y with en := false, lim := none }) ∧
    (∀ t, q.since = some t → ((s.readyNode q.asid k).isSome ∨ s.entryReady k = true) → q.cls.toNat + q.rise < 7 →
      t + (q.rise + 1) * (if q.age = 0 then 1000000 else q.age.toNat * 10000) ≤ s.now →
      exec .queueAging s = .next (s.modQueue k fun y => { y with rise := y.rise + 1 }))) ∧
  (∀ s : State, let s1 := (s.teams.map (·.1)).foldl State.chargeCell s
    exec .acctUsedWriteback s = .next ((s1.hub.acctPend.map (·.1)).foldl State.writeBack s1)) ∧
  (∀ (s : State) (a : Nat), let p := Sparse.get 0 s.hub.acctPend a
    let z := s.acctAddr a + 16
    let x := z % 2 ^ 52
    p ≠ 0 → s.boot.on = false →
      z / 2 ^ 52 % 16 = 6 ∨ (x + 8 ≤ frames * 65536 ∧ ∀ l ∈ linesOf x 8, s.mem.bad.mem l = false ∧ (s.keyMapOf (l / 1024)).clr = false) →
      leNat ((s.writeBack a).sysRd z 8) = min (leNat (s.sysRd z 8) + p) (2 ^ 64 - 1) ∧
      Sparse.get 0 (s.writeBack a).hub.acctPend a = 0 ∧ (s.writeBack a).cells = s.cells) ∧
  (∀ (s : State) (k : Child), (s.hub.pool.find? fun y => y.asid == s.arg.a && y.spilled) = some k → s.poolUsed k.die < 3840 →
    ∃ s', exec .childSpillRefill s = .next s' ∧
      s'.hub.pool = s.hub.pool.map (fun y => if y.order = k.order then { y with spilled := false } else y) ∧
      (s'.ctx k.asid).spHead = (s.ctx k.asid).spHead + 1 ∧ s'.mem = s.mem)

/-- R83 to R85, R92 to R95: ARBITRATION_DISPATCH begins the reads that ready items need and offers the placement to the functions in the order of the slice table. The item
that a context takes is ready and accepted, of the highest class among those, and HEAD goes on by one for each entry taken; an
entry that is not well formed is reported to ERING and not run; a launch taken debits its context 4096 units a team and joins
the placement queue. SLICE_END goes to the next valid entry of the slice table. -/
def Obligations.Arbitration : Prop :=
  (∀ s : State, s.boot.start = .up → s.boot.ready = true → exec .arbitrationDispatch s = .next (s.beginReads.dispatchTo s.fnOrder)) ∧
  (∀ (s s1 : State) (f a pos cls : Nat) (fs : List Nat) (i : Item),
    (s.pickFor f = (s1, some (a, pos, cls, i)) → s.dispatchTo (f :: fs) = s1.takeItem a pos cls i) ∧
    (s.pickFor f = (s1, none) → s.dispatchTo (f :: fs) = s1.dispatchTo fs)) ∧
  (∀ (s : State) (a : Nat) (p : Nat × Nat × Item), s.pick a = some p → p ∈ s.readyItems a ∧ s.accepts a p.2.2 = true ∧
    ∀ z ∈ s.readyItems a, s.accepts a z.2.2 = true → z.2.1 ≤ p.2.1) ∧
  (∀ (s : State) (k cls : Nat), let q := s.queue k
    let w := s.headEntry k
    let o : Origin := { asid := q.asid, fn := k / 32, queue := k, cls := cls, entry := some k }
    (s.entryBad q.asid w = true → s.takeEntry k cls = some ((s.passEntry k 1).queueError k .qentryInvalid (.entry k))) ∧
    (∀ s1 bs al, s.entryBad q.asid w = false → qeKind w = 0 → (hubRead q.asid (qeH w) (qeOff w) 128 128).run s = .ok (bs, al) s1 →
      s.takeEntry k cls = some (((s1.usedReplies (hubKey q.asid)).passEntry k 1).takeLaunch o (bytesWords 16 bs) al)) ∧
    ((s.passEntry k 1).queue k).head = q.head + 1) ∧
  (∀ (s : State) (o : Origin) (r : List Word) (al : Bool), s.checkLaunch o.asid o.fn r al o.node.isNone = none →
    ∃ id, ((s.takeLaunch o r al).ctx o.asid).places = (s.ctx o.asid).places ++ gangsOf id r ∧
      ((s.takeLaunch o r al).ctx o.asid).deficit = (s.ctx o.asid).deficit - 4096 * (lrTotal r : Int) ∧
      (s.takeLaunch o r al).mem = s.mem) ∧
  (∀ (s : State) (j : Nat) (rest : List Nat), let i := s.hub.sliceIdx
    let e := s.sliceEntry i
    s.slicesFrom ((i + 1) % 64) = j :: rest →
    (slValid e = true → s.now < s.hub.sliceStart + 1000 * slLen e → exec .sliceEnd s = .next s) ∧
    (slValid e = false ∨ s.hub.sliceStart + 1000 * slLen e ≤ s.now →
      (∃ s', exec .sliceEnd s = .next s' ∧ s'.hub.sliceIdx = j ∧ s'.hub.sliceStart = s.now ∧ s'.mem = s.mem) ∧
      (slPreempt e = false → exec .sliceEnd s = .next { s with hub := { s.hub with sliceIdx := j, sliceStart := s.now } })))

/-! ### Host rings and registers (R9, R81, R91, R101, R506 to R511) -/

/-- R507 to R511: RING_ENABLE starts a ring at counts of 0; HOST_RING_ENTRY_WRITE writes the oldest waiting entry into the place of
TAIL, 64 bytes and no others, holds it while the ring is full, and counts it dropped where the ring is disabled;
RING_INTERRUPT_TIMEOUT sends the message of a ring's vector, or sets its pending bit while the vector is masked; unmasking sends
it. R9, R81, R82, R91, R98, R101, R330, R485, R506, R511, R514: what REGISTER_WRITE does to the registers of BAR 0 that a write
only stores: the queue and ring blocks, the slice table, the account base, the rates, tier control, CONFCTL and the stop table.
An account base with a path other than 0x0 is not taken. A field that is fixed while EN is set keeps its value; a rate written 0 keeps its value. -/
def Obligations.RingsAndRegisterBlocks : Prop :=
  (∀ s : State, let k := 256 * s.arg.a + s.arg.b
    let r := s.ring k
    s.arg.a ≤ 64 → s.arg.b < 256 → s.boot.start = .up →
    (r.en = false → r.logd.toNat ≤ 10 → exec .ringEnable s = .next
      (s.setRing k { r with en := true, tail := 0, head := 0, drop := 0, ipend := 0, t0 := 0 })) ∧
    (r.en = true ∨ 10 < r.logd.toNat → exec .ringEnable s = .next s) ∧
    (∀ p rest, r.wait = p :: rest → p.after = .nothing →
      (r.en = false → exec .hostRingEntryWrite s = .next (s.setRing k
        { r with wait := rest, drop := if r.drop = 0xFFFFFFFF then r.drop else r.drop + 1 })) ∧
      (r.en = true → (r.tail - r.head).toNat = 2 ^ (r.logd.toNat + 6) → exec .hostRingEntryWrite s = .next s) ∧
      (r.en = true → (r.tail - r.head).toNat ≠ 2 ^ (r.logd.toNat + 6) → p.cr.length = 8 →
        let at0 := 64 * r.rbase.toNat + 64 * (r.tail.toNat % 2 ^ (r.logd.toNat + 6))
        ∃ s', exec .hostRingEntryWrite s = .next s' ∧ (s'.ring k).wait = rest ∧ (s'.ring k).tail = r.tail + 1 ∧
          (s'.ring k).head = r.head ∧
          s'.hostRd at0 64 = wordsBytes (ringWords s.now p.cr (r.tail.toNat / 2 ^ (r.logd.toNat + 6) % 2 == 0)) ∧
          (∀ z, z < at0 ∨ at0 + 64 ≤ z → s'.mem.host.rd z = s.mem.host.rd z) ∧ s'.mem.phys = s.mem.phys ∧ s'.cells = s.cells)) ∧
    (let due := r.ie = true ∧ 0 < r.ipend ∧ (max r.cnt.toNat 1 ≤ r.ipend ∨ (r.tmo ≠ 0 ∧ r.t0 + 1000 * r.tmo.toNat ≤ s.now))
     (¬ due → exec .ringInterruptTimeout s = .next s) ∧
     (due → ∃ s', exec .ringInterruptTimeout s = .next s' ∧ s'.ring k = { r with ipend := 0 } ∧ s'.mem = s.mem ∧
       if s.hub.masked.mem (256 * s.arg.a + r.vec.toNat) then
         s'.out = s.out ∧ s'.hub.msixPend.mem (256 * s.arg.a + r.vec.toNat) = true
       else s'.out = s.out ++ [.msix s.arg.a r.vec.toNat] ∧ s'.hub.msixPend = s.hub.msixPend)) ∧
    (∃ s', exec .msixVectorUnmask s = .next s' ∧ s'.hub.masked.mem k = false ∧ s'.hub.msixPend.mem k = false ∧
      s'.out = (if s.hub.msixPend.mem k then s.out ++ [.msix s.arg.a s.arg.b] else s.out))) ∧
  (∀ s : State, let x := s.arg
    let w := nth x.w 0
    let h := s.hub
    s.boot.start = .up → x.a ≤ 64 → x.c ≤ 64 →
    (x.d = 1 → ∃ s', exec .registerWrite s = .next s' ∧ s'.hub.masked.mem (256 * x.a + x.b % 256) = true ∧ s'.out = s.out) ∧
    (x.d ≠ 1 →
      (∀ q, q < 32 → (x.b = 0x1000 + 32 * q ∨ x.b = 0x1008 + 32 * q) →
        let k := 32 * (if x.a = 0 then x.c else x.a) + q
        let y := s.queue k
        ∃ s', exec .registerWrite s = .next s' ∧ s'.mem = s.mem ∧ s'.queue k =
          if x.b % 32 = 0 then (if y.en then y else { y with qbase := w.extractLsb' 6 58 })
          else { y with age := w.extractLsb' 30 16, ering := w.extractLsb' 22 8,
                        asid := if x.a = 0 then (w.extractLsb' 50 10).toNat else y.asid,
                        cls := if y.en then y.cls else w.extractLsb' 60 3,
                        size := if y.en then y.size else w.extractLsb' 46 4 }) ∧
      (∀ r, r < 256 → x.b = 0x8000 + 32 * r ∨ x.b = 0x8018 + 32 * r →
        let k := 256 * x.a + r
        let y := s.ring k
        ∃ s', exec .registerWrite s = .next s' ∧ s'.mem = s.mem ∧ s'.ring k =
          if x.b % 32 = 0 then (if y.en then y else { y with rbase := w.extractLsb' 6 58 })
          else { y with head := w.extractLsb' 0 32 }) ∧
      (x.a = 0 → x.b = 0x3000 → w.extractLsb' 52 4 = 0 → exec .registerWrite s = .next { s with hub := { h with acctBase := w } }) ∧
      (x.a = 0 → x.b = 0x3000 → w.extractLsb' 52 4 ≠ 0 → exec .registerWrite s = .next s) ∧
      (x.a = 0 → x.b = 0x3010 → ∃ s', exec .registerWrite s = .next s' ∧ s'.mem = s.mem ∧
        s'.hub.collRate = (if w.extractLsb' 32 16 = 0 then h.collRate else (w.extractLsb' 32 16).toNat) ∧
        s'.hub.crypRate = (if w.extractLsb' 16 16 = 0 then h.crypRate else (w.extractLsb' 16 16).toNat) ∧
        s'.hub.copyRate = (if w.extractLsb' 0 16 = 0 then h.copyRate else (w.extractLsb' 0 16).toNat)) ∧
      (x.a = 0 → x.b = 0x3020 → ∃ s', exec .registerWrite s = .next s' ∧ s'.tier =
        { migthr := w.extractLsb' 40 8, swthr := w.extractLsb' 32 8, decay := w.extractLsb' 16 16,
          swen := w.getLsbD 0 && !s.boot.minimal }) ∧
      (x.a = 0 → x.b = 0x6000 → ∃ s', exec .registerWrite s = .next s' ∧
        s'.boot = { s.boot with nextOn := w.getLsbD 1 && !s.boot.minimal }) ∧
      (∀ a, 1 ≤ a → a < 1024 → x.a = 0 → (x.b = 0xA000 + 16 * a ∨ x.b = 0xA008 + 16 * a) →
        ∃ s', exec .registerWrite s = .next s' ∧ s'.tenant a =
          if (s.tenant a).st = .stopping then s.tenant a
          else if x.b % 16 = 0 then { s.tenant a with rpt := w.extractLsb' 6 58 }
          else { s.tenant a with size := w.extractLsb' 0 32 })))

/-! ### Graph nodes (R45 to R47, R89, R520) -/

/-- R45, R46, R89, R100: GRAPH_CONDITIONAL_READ compares the word it reads with the node's operand and re-arms while the comparison
holds and the limit is not reached, else completes the node; a failing read fails the node. GRAPH_REARM puts the node and
everything reachable from TARGET back to waiting and counts. GRAPH_COPY_NODE_DONE moves the bytes of a
copy, waits until they are globally performed and completes it, charging its units, or fails it. -/
def Obligations.GraphNodes : Prop :=
  (∀ (s : State) (g : Graph), let p := s.arg.a
    let j := s.arg.b
    let n := g.nodes.getD j []
    s.graph p = some g → s.mayRun g.asid = true →
    (nodeStat g j = .running → ndKind n = 3 →
      let rd := (hubRead g.asid (ndH (nth n 1)) (ndOff (nth n 1)) 8 1).run s
      (∀ bs al s1, rd = .ok (bs, al) s1 →
        let hit := ndHit (ndCmp n) (wd (leNat bs)) (nth n 2)
        let s1 := s1.usedReplies (hubKey g.asid)
        (hit = true → (Tab.find g.rearms j).getD 0 < ndLimit n → g.failed = none →
          exec .graphConditionalRead s = .next ((s1.modGraph p fun y => { y with sts := y.sts.set j .rearm }).advanceGraph p)) ∧
        (hit = false → exec .graphConditionalRead s = .next
          ((s1.modGraph p fun y => { y with limitHit := y.limitHit || false }).nodeDone p j)) ∧
        (hit = true → ndLimit n ≤ (Tab.find g.rearms j).getD 0 → exec .graphConditionalRead s = .next
          ((s1.modGraph p fun y => { y with limitHit := y.limitHit || true }).nodeDone p j)) ∧
        (hit = true → (Tab.find g.rearms j).getD 0 < ndLimit n → g.failed.isSome → exec .graphConditionalRead s = .next
          ((s1.modGraph p fun y => { y with limitHit := y.limitHit || false }).nodeDone p j))) ∧
      (∀ c i s1, rd = .error (.trap c i) s1 →
        exec .graphConditionalRead s = .next ((s1.usedReplies (hubKey g.asid)).nodeFail p j (.cause c)))) ∧
    (let set := reachable g.nodes (ndTarget n) j
     nodeStat g j = .rearm → g.failed = none → (∀ i ∈ set, nodeStat g i = .done) → exec .graphRearm s = .next
      ((s.modGraph p fun y =>
        { y with rearms := Tab.put y.rearms j ((Tab.find y.rearms j).getD 0 + 1),
                 sts := y.sts.zipIdx.map fun (x, i) => if i == j || set.contains i then .waiting else x }).advanceGraph p))) ∧
  (∀ x y : Word, (ndHit 0 x y = true ↔ x = y) ∧ (ndHit 1 x y = true ↔ x ≠ y) ∧ (ndHit 2 x y = true ↔ x.toNat < y.toNat) ∧
    (ndHit 3 x y = true ↔ y.toNat ≤ x.toNat) ∧ (ndHit 4 x y = true ↔ x.toInt < y.toInt) ∧ (ndHit 5 x y = true ↔ y.toInt ≤ x.toInt)) ∧
  (∀ (s : State) (c : CopyNode), let p := s.arg.a
    let j := s.arg.b
    (s.hub.copies.find? fun x => x.place == p && x.node == j) = some c →
    let units := (c.len + s.hub.copyRate - 1) / s.hub.copyRate
    let acct := ((s.graph p).map fun g => ghAcct g.hdr).getD 0
    let work : M Unit := do
      let _ <- handleAt c.asid (ndH c.src) (ndOff c.src) c.len false
      let _ <- handleAt c.asid (ndH c.dst) (ndOff c.dst) c.len true
      copyPieces (hubWho c.asid) (ndH c.src) (ndOff c.src) (ndH c.dst) (ndOff c.dst) (c.len / 4096 + 1) 0 c.len
    let at_ : CopyNode → Bool := fun x => x.place == p && x.node == j
    let key := hubKey c.asid
    let marked : State → State := fun s =>
      { s with hub := { s.hub with copies := s.hub.copies.map fun x => if at_ x then { x with moved := true } else x } }
    let gone : State → State := fun s =>
      { s with hub := { s.hub with copies := s.hub.copies.filter fun x => !at_ x } }
    (∀ s1, (if c.moved = true then s1 = s else ∃ s0, work.run s = .ok () s0 ∧ s1 = s0.usedReplies key) →
      (∀ s2, (release (hubWho c.asid) 4).run (marked s1) = .ok () s2 →
        exec .graphCopyNodeDone s = .next (((gone (s2.usedReplies key)).charge c.asid acct units units).nodeDone p j)) ∧
      (∀ q s2, (release (hubWho c.asid) 4).run (marked s1) = .error (.wait q) s2 →
        ∃ s3, exec .graphCopyNodeDone s = .next s3 ∧ s3.hub.copies = (marked s1).hub.copies)) ∧
    (∀ k i s1, c.moved = false → work.run s = .error (.trap k i) s1 → exec .graphCopyNodeDone s = .next
      (((gone (s1.usedReplies key)).modCtx c.asid fun x => { x with deficit := x.deficit + units }).nodeFail p j (.cause k))))

/-! ### Stages, pre-emption, placement (R22, R92, R107 to R123, R469 to R475) -/

/-- R110, R198, R469 to R471: PREEMPT_REQUEST cancels a switch of the cell, stops the strand of a team of an active stage at its next boundary, where it
forgets what it waited for, and clamps its nests, and
an inactive one has stopped already; PREEMPT_DRAINED ends the stop of a drained cell; PREEMPT_HARD_STOP ends it after 840
cycles, with products and pending results as they are. -/
def Obligations.Preemption : Prop :=
  ∀ (s : State) (b : Bool) (t : Team), let c := s.arg.a
    let l := Loc.here c b
    s.arg.b = b.toNat → (s.cell c).team b = some t →
    (s.preReason l = none → exec .preemptRequest s = .next s) ∧
    (∀ w, s.preReason l = some w → t.ended = false → t.pre = none →
      ((s.cell c).active = b → exec .preemptRequest s = .next
        ((s.cancelSwitch c).modTeam l fun u => { u.clampAll.interrupted with pre := some (w, s.now) })) ∧
      ((s.cell c).active ≠ b → exec .preemptRequest s = .next
        ((s.abandonSwitch c).modTeam l fun u => { u with pre := some (w, s.now), halted := true }))) ∧
    (((s.cancelSwitch c).cell c).sw = none ∧ ((s.abandonSwitch c).cell c).sw = none ∧
      ((s.cell c).sw = none → s.cancelSwitch c = s ∧ s.abandonSwitch c = s)) ∧
    (∀ e, ((t.clampAll).eng e).stopped = ((t.eng e).stopped || ((t.eng e).st == .run && (t.eng e).nest.isNone))) ∧
    (s.mayRun t.asid = false → t.epilogue = none → s.preReason l = some .stop) ∧
    ((s.cell c).active = b → t.halted = false →
      (t.pre.isSome → s.drainedCell c = true → exec .preemptDrained s = .next (s.modTeam l fun u => { u with halted := true })) ∧
      (s.drainedCell c = false → exec .preemptDrained s = .next s) ∧
      (∀ w t0, t.pre = some (w, t0) → s.drainedCell c = false →
        (840 ≤ cyclesOf s.now - cyclesOf t0 → exec .preemptHardStop s = .next (s.modTeam l fun u => { u.stopAll with halted := true })) ∧
        (cyclesOf s.now - cyclesOf t0 < 840 → exec .preemptHardStop s = .next s)))

/-- R22, R112 to R118: CELL_ALLOT_WRITE takes effect at once in an empty cell and waits for an occupied one whose
allotment it changes; GANG_PLACE places the
head gang of a placement queue on cells that are free for it, and a team placed for the first time stands at its entry with s1
to s4 and its level ids as the launch record gives them. -/
def Obligations.Placement : Prop :=
  (∀ s : State, let c := s.arg.a
    let w := nth s.arg.w 0
    let kind := w.extractLsb' 30 2
    let asid : BitVec 10 := if kind = 1 then w.extractLsb' 19 10 else 0
    c < 256 → kind ≠ 3 → (kind = 1 → asid ≠ 0) → (s.boot.minimal = true → c < 64) → (s.cell c).lost = false → s.boot.start = .up →
    ((s.cell c).a = none → (s.cell c).b = none → s.pass c = none → ∃ s', exec .cellAllotWrite s = .next s' ∧
      s'.allotOf c = (kind, asid) ∧ Tab.find s'.hub.allotPend c = none ∧ (∀ d, d ≠ c → s'.allotOf d = s.allotOf d) ∧
      s'.cells = s.cells ∧ s'.mem = s.mem) ∧
    ((s.cell c).a.isSome ∨ (s.cell c).b.isSome ∨ (s.pass c).isSome → ∃ s', exec .cellAllotWrite s = .next s' ∧
      Tab.find s'.hub.allotPend c = (if s.allotOf c = (kind, asid) then none else some (kind, asid)) ∧ s'.hub.allot = s.hub.allot ∧
      s'.mem = s.mem)) ∧
  (∀ (s : State) (x : Gang) (rest : List Gang), let a := s.arg.a
    (s.ctx a).places = x :: rest → s.arg.b = 0 → s.boot.start = .up → s.boot.ready = true → s.mayRun a = true →
    (s.gangCells a x (fun _ => true) = none → exec .gangPlace s = .next s) ∧
    (∀ cs, s.gangCells a x (fun _ => true) = some cs →
      exec .gangPlace s = .next ((s.modCtx a fun y => { y with places := rest }).placeGang x cs) ∧
      ∃ g, s.grid x.grid = some g ∧ ∀ c ∈ cs, s.cellFree a (lrStage g.lrec) (lrVallot g.lrec) c = true)) ∧
  (∀ (s : State) (gid c n : Nat) (g : Grid), s.grid gid = some g → (∀ k ∈ g.kept, k.1 ≠ n) →
    ∃ s', s.placeTeam gid c n = s' ∧ (s'.cell c).team (lrStage g.lrec) = some (newTeam gid g n s.now) ∧
      (s'.cell c).team (!lrStage g.lrec) = (s.cell c).team (!lrStage g.lrec) ∧ s'.mem = s.mem) ∧
  (∀ (gid n now : Nat) (g : Grid), let t := newTeam gid g n now
    let spill := lrSpilloff g.lrec + 64 * lrSpillstride g.lrec * n
    t.asid = g.asid ∧ t.grid = gid ∧ t.no = n ∧ t.pc = BitVec.ofNat 64 (lrEntry g.lrec) ∧ t.valloc = lrVallot g.lrec ∧
    t.sreg 1 = BitVec.ofNat 64 (lrArgoff g.lrec) ∧ t.sreg 2 = BitVec.ofNat 64 (lrArgh g.lrec) ∧
    t.sreg 3 = BitVec.ofNat 64 (lrSpillh g.lrec) ∧ t.sreg 4 = BitVec.ofNat 64 spill ∧
    (∀ r, 5 ≤ r → r < 32 → t.sreg r = 0) ∧ t.priv = false ∧ t.ras = [] ∧
    (∀ i, i < 8 → t.lvl.getD i 0 = if i < lrNlev g.lrec then
        BitVec.ofNat 32 (65536 * lrExtent g.lrec i + n / lrTeams g.lrec i % lrExtent g.lrec i) else 0x10000))

/-- R119 to R123, R472 to R475, R503 to R505: GANG_SLICE_END sends a gang out whose slice is over and whose cells are needed, gives
it another slice where they are not, and queues a gang again that has left; SWAP_OUT_COMPLETE frees the cell of a halted team
and keeps the whole of it; SWAP_IN_COMPLETE lets it run again where it stood; GRID_COMPLETE of a grid whose teams have all
retired releases their stores at SYSTEM scope, waits until they are performed, and ends it with its status and its record (R393). -/
def Obligations.SwapsAndGrids : Prop :=
  (∀ (s : State) (r : Resident), let same : Resident → Bool := fun x => x.gang.grid == s.arg.a && x.gang.first == s.arg.b
    s.hub.residents.find? same = some r →
    (r.leaving = true → s.gangOn r.gang = [] → exec .gangSliceEnd s = .next (s.gangOut r.gang r.asid)) ∧
    (r.leaving = false → s.now < r.since + s.sliceOf r.gang → exec .gangSliceEnd s = .next s) ∧
    (let later := s.hub.residents.map fun x => if same x then { x with since := x.since + s.sliceOf x.gang } else x
     r.leaving = false → r.arriving = false → (s.ctx r.asid).places ≠ [] → r.since + s.sliceOf r.gang ≤ s.now →
      (s.needed r = true → exec .gangSliceEnd s = .next (s.sendOut r.gang .swap)) ∧
      (s.needed r = false → exec .gangSliceEnd s = .next { s with hub := { s.hub with residents := later } }))) ∧
  (∀ (s : State) (b : Bool) (t : Team), let c := s.arg.a
    s.arg.b = b.toNat → (s.cell c).team b = some t → ∀ r, s.residentOf t = some r →
    (r.leaving = true → t.halted = true → t.pre.isSome → t.ended = false → t.startedCards = false → ∃ s',
      exec .swapOutComplete s = .next s' ∧ (s'.cell c).team b = none ∧
      { team := { t with pre := none, frozen := [] }, sh := (s.cell c).sharedOf b t } ∈ s'.hub.saved ∧
      (∀ v ∈ s.hub.saved, v ∈ s'.hub.saved)) ∧
    (r.leaving = false → exec .swapOutComplete s = .next s) ∧
    (r.arriving = true → t.halted = true → t.pre = none → ∃ s' t', exec .swapInComplete s = .next s' ∧
      (s'.cell c).team b = some t' ∧ t'.halted = false ∧ t'.chargeFrom = s.now ∧ t'.pc = t.pc ∧ t'.regs = t.regs ∧
      t'.preds = t.preds ∧ t'.vault = t.vault ∧ t'.sems = t.sems ∧ t'.priv = t.priv ∧
      (∀ e, (t'.eng e).stopped = false ∧ (t'.eng e).pc = (t.eng e).pc) ∧ s'.mem = s.mem)) ∧
  (∀ (s : State) (g : Grid), let gid := s.arg.a
    let s1 := s.gridRelease g.asid
    s.grid gid = some g → g.closing = false → g.total ≤ g.retired → s.gridRsts gid false = false →
    let st := s1.gridStatus gid g
    (s1.gridDue gid g.asid = true → exec .gridComplete s = .next s1) ∧
    (s1.gridDue gid g.asid = false → (lrEvkind g.lrec = 0 → g.entry = none → g.node = none → ∃ s', exec .gridComplete s = .next s' ∧ s'.grid gid = none ∧
      s'.cells = s1.cells) ∧
    (lrEvkind g.lrec = 1 → ∃ s', exec .gridComplete s = .next s' ∧
      s'.grid gid = some { g with closing := true, prov := 0 } ∧
      let k := 256 * g.fn + lrRing g.lrec
      (s'.ring k).wait = (s1.ring k).wait ++
        [{ cr := ({ src := 2, st := st, tag := lrTag g.lrec, id := gid } : CR).words, after := .grid gid st }])) ∧
    (∀ k, g.cause = some k → st = .cause k) ∧
    (g.cause = none → (g.discarded = true ∨ s1.gridRsts gid true = true) → st = .remoteLost) ∧
    (g.cause = none → g.discarded = false → s1.gridRsts gid true = false → g.remoteFault = true → st = .remoteFaultSt) ∧
    (g.cause = none → g.discarded = false → s1.gridRsts gid true = false → g.remoteFault = false → st = .ok)) ∧
  (∀ (s : State) (g : Grid), s.grid s.arg.a = some g → g.retired < g.total → exec .gridComplete s = .next s)

/-! ### Passes (R102, R124 to R141, R446 to R448, R497 to R499) -/

/-- R124, R126, R128, R129, R132, R134, R141, R448, R497, R498: TASK_ACCEPT queues a task with its deadline, TASK_DEADLINE makes it due; PASS_FORM puts
whole tasks of one group, at most 128 rows, into a pass of a free pass cell; PASS_GATHER_DONE lays their rows into the latch;
PASS_COLUMN_GROUP_END goes to the next group, and after the last to the epilogue; PASS_SCATTER_DONE stores the rows of a pass
whose epilogue has ended, and ends it when they are performed; RESUMED_SCATTER_DONE does the same for what was parked. -/
def Obligations.Passes : Prop :=
  (∀ (s : State) (t : Task), s.task s.arg.a = some t →
    (t.st = .pending → t.target = none → s.boot.start = .up → s.boot.ready = true → s.mayRun t.asid = true → s.tileRoom t.die (tkBulk t.desc) = true →
      (∀ k ∈ s.hub.pool, k.task = some s.arg.a → k.started = true) →
      ∃ s', exec .taskAccept s = .next s' ∧ s'.task s.arg.a = some
        { t with st := .queued, order := s.rm.nextOrder, accepted := s.now, deadline := s.now + 500 * tkPatience t.desc,
                 due := tkPatience t.desc == 0 } ∧ s'.mem = s.mem) ∧
    (∀ d rs s1, t.st = .pending → t.target = some d → s.boot.start = .up → s.boot.ready = true → s.mayRun t.asid = true →
      (∀ k ∈ s.hub.pool, k.task = some s.arg.a → k.started = true) →
      (gatherStage t (s.groupClass [t]).abytes).run s = .ok rs s1 →
      let s2 := s1.usedReplies (taskKey t.uid)
      exec .taskAccept s = .next (({ s2 with hub := { s2.hub with pool := s.hub.pool.filter fun k => k.task != some s.arg.a } } :
        State).sendAway t d rs)) ∧
    (t.st = .queued → t.deadline ≤ s.now → exec .taskDeadline s = .next (s.modTask s.arg.a fun x => { x with due := true })) ∧
    (t.st = .queued → s.now < t.deadline → exec .taskDeadline s = .next s)) ∧
  (∀ (s : State) (ts : List Task), rowsIn (s.filled ts) ≤ 128 ∧ ∀ t ∈ s.filled ts, t ∈ ts) ∧
  (∀ (s s1 : State) (g : List Task) (t : Task) (ts : List Task), let c := s.arg.a
    s.passCellFree c = true → s.boot.start = .up → s.boot.ready = true → s.chooseGroup (c / 64) c = (s1, some g) →
    s1.filled g = t :: ts → ∃ s' p, exec .passForm s = .next s' ∧ s'.pass c = some p ∧ p.st = .gather ∧
      p.hash = tkHash t.desc ∧ p.wid = tkWid t.desc ∧ p.shape = tkShape t.desc ∧ p.groups = s1.groupCols g ∧
      p.rows = (t :: ts).flatMap (fun x => x.rows 0) ∧ p.remainder = t.upto.isSome ∧ s'.mem = s1.mem) ∧
  (∀ (s s1 : State) (p : Pass), let c := s.arg.a
    s.pass c = some p →
    let cls := (s.taskClass p.hash p.shape).getD {}
    (∀ rs, p.st = .gather → (gatherRows c cls.abytes p.rows).run s = .ok rs s1 →
      let s1 := s1.usedReplies (passKey c)
      exec .passGatherDone s = .next
      ((s1.latch c 0 rs).modPass c fun y => { y with st := .run, g := 0, early := ((s1.latch c 0 rs).sameQueue c y).map (·.uid) })) ∧
    (p.st = .run → (groupProducts c p p.g).run s = .ok () s1 →
      let s1 := s1.usedReplies (passKey c)
      (p.groups ≤ p.g + 1 → exec .passColumnGroupEnd s = .next ((s1.chargeSpan p p.span p.groups).startEpilogue c)) ∧
      (p.g + 1 < p.groups → p.remainder = true ∨ s1.admitted c p s.arg.b = [] → exec .passColumnGroupEnd s = .next
        (s1.modPass c fun y => { y with g := p.g + 1, early := (s1.sameQueue c y).map (·.uid) }))) ∧
    (∀ bad s2, p.st = .epilogue → p.ended = true →
      (p.stored = none ∧ (scatterPass c p).run s = .ok bad s1 ∧ s2 = s1.usedReplies (passKey c)) ∨ (p.stored = some bad ∧ s2 = s) →
      let s3 := s2.modPass c fun y => { y with stored := some bad }
      (s3.outstandingOf (passKey c) (fun _ => true) = true → exec .passScatterDone s = .next s3) ∧
      (s3.outstandingOf (passKey c) (fun _ => true) = false →
        exec .passScatterDone s = .next (s3.endPass c p bad) ∧ (s3.endPass c p bad).pass c = none))) ∧
  (∀ (s : State) (c : Nat) (p : Pass), s.pass c = some p →
    let t := epilogueTeam p (s.cell c).work (s.cell c).workBad
    ((s.startEpilogue c).cell c).a = some t ∧ ((s.startEpilogue c).pass c) = some { p with st := .epilogue } ∧ t.pc = 0 ∧
      t.sreg 1 = BitVec.ofNat 64 p.rows.length ∧ t.sreg 2 = BitVec.ofNat 64 p.groups ∧ t.sreg 3 = BitVec.ofNat 64 p.shape) ∧
  (∀ (s s1 s2 : State) (e : Parked) (ys : List (Nat × M Unit)), let c := s.arg.a
    let mine : Parked → Bool := fun y => y.cell == c && y.owner == s.arg.b && y.resuming
    let rest : State → List Parked → State := fun s more =>
      { s with rm := { s.rm with parked := s.rm.parked.eraseP mine ++ more } }
    let due : State → Bool := fun s => s.outstandingOf (passKey c) fun _ => true
    s.rm.parked.find? mine = some e →
    (e.stored = true → due s = false → exec .resumedScatterDone s = .next (e.tasks.foldl State.portion (rest s []))) ∧
    (e.stored = true → due s = true → exec .resumedScatterDone s = .next s) ∧
    (e.stored = false → (translate (passKey c) c e.kept).run s = .ok (.ok ys) s1 → (ys.forM fun y => y.2).run s1 = .ok () s2 →
      let s3 := (s2.drainPosted fun x => x.src == c).usedReplies (passKey c)
      (due s3 = false → exec .resumedScatterDone s = .next (e.tasks.foldl State.portion (rest s3 []))) ∧
      (due s3 = true → exec .resumedScatterDone s = .next (rest s3 [{ e with stored := true }]))))

/-! ### The Barker (R142 to R145) -/

/-- R138, R142 to R145: BARKER_ADVERTISE_TABLE sends every identity that is not withdrawn, BARKER_ADVERTISE_CHANGE one;
BARKER_ADVERT_RECEIVE enters a pair or removes a withdrawn one, BARKER_PAIR_EXPIRE drops pairs 300 µs old; a steered task is
refused that fails a check of R37, and queued otherwise; a refusal steers again, the fourth completes the task NOT_RESIDENT;
results that arrive are stored, and when they are performed the task
completes, with the cause of a trap that ended the target's epilogue; RESUME_DOORBELL resumes a parked task for the contexts of its function. -/
def Obligations.Barker : Prop :=
  (∀ s : State, s.hasFabric = true → s.fab.fv = true → s.boot.start = .up → let x := s.arg
    exec .barkerAdvertiseTable s = .next
      { s with out := s.out ++ (s.hub.weights.filter fun p => !p.2.withdrawn).map fun p => s.advertOf true p.1 } ∧
    exec .barkerAdvertiseChange s = .next { s with out := s.out ++ [s.advertOf false (nth x.w 0)] } ∧
    (x.c = 1 → exec .barkerAdvertReceive s = .next { s with hub := { s.hub with
      barker := s.hub.barker.filter fun y => !(y.wid == nth x.w 0 && y.peer == x.a) } }) ∧
    (x.c ≠ 1 → s.hub.barker.length < 32768 →
      let new : Advert := { wid := nth x.w 0, peer := x.a, queue := min 65535 x.b, fresh := s.now }
      ∃ s', exec .barkerAdvertReceive s = .next s' ∧ new ∈ s'.hub.barker ∧
        (∀ y, ¬ (y.wid = new.wid ∧ y.peer = new.peer) → (y ∈ s'.hub.barker ↔ y ∈ s.hub.barker)) ∧ s'.mem = s.mem) ∧
    (∀ n, n < 6 → s.checkTask 0 0 x.w true false false = some n →
      exec .steeredTaskArrive s = .next { s with out := s.out ++ [.refuse x.a (BitVec.ofNat 32 x.c)] }) ∧
    (s.checkTask 0 0 x.w true false false = none ∨ (∃ n, 6 ≤ n ∧ s.checkTask 0 0 x.w true false false = some n) →
      ∃ s' t, exec .steeredTaskArrive s = .next s' ∧ s'.rm.tasks = s.rm.tasks ++ [t] ∧ t.id = BitVec.ofNat 32 x.c ∧
        t.desc = x.w ∧ t.origin = some x.a ∧ t.st = .pending ∧ t.acts.length = tkRows x.w ∧ s'.out = s.out)) ∧
  (∀ s : State, exec .barkerPairExpire s = .next
    { s with hub := { s.hub with barker := s.hub.barker.filter fun y => decide (s.now < y.fresh + 300000) } }) ∧
  (∀ (s : State) (t : Task), s.awayTask s.arg.a s.arg.c = some t →
    let s1 := s.modTask t.uid fun y => { y with refused := y.refused ++ [s.arg.a] }
    (3 ≤ t.refused.length → exec .steerRefused s = .next (s1.finishTask t.uid .notResident t.parkAddr)) ∧
    (t.refused.length < 3 → exec .steerRefused s = .next (s1.steerAgain t.uid)) ∧
    (∀ s2 s3 ys, (translate (taskKey t.uid) 256 (pieceList t.uid s.arg.w s.arg.bytes)).run s = .ok (.ok ys) s2 →
      (ys.forM fun y => y.2).run s2 = .ok () s3 →
      let s4 := (s3.drainPosted fun y => y.src == 256).usedReplies (taskKey t.uid)
      let s5 := (s4.modTask t.uid fun y => { y with vfl := y.vfl ||| BitVec.ofNat 5 s.arg.b, target := none }).chargeTask t.uid s.arg.d
      (s.arg.b < 32 → exec .steeredResultsReceive s = .next
        (s5.modTask t.uid fun y => { y with ending := some (.ok, t.parkAddr.toNat) }).landTasks) ∧
      (∀ k, allCauses.find? (fun y => y.code == s.arg.b / 32 % 1024) = some k → exec .steeredResultsReceive s = .next
        (s5.modTask t.uid fun y => { y with ending := some (.cause k, s.arg.b / 2 ^ 15) }).landTasks))) ∧
  (∀ (s : State) (t : Task) (st : Status) (a : Nat), t.ending = some (st, a) →
    (s.outstandingOf (taskKey t.uid) (fun _ => true) = false → s.landTask t = s.finishTask t.uid st (BitVec.ofNat 64 a)) ∧
    (s.outstandingOf (taskKey t.uid) (fun _ => true) = true → s.landTask t = s)) ∧
  (∀ (s : State) (t : Task) (d : Nat), s.task t.uid = some t → (s.aimFor t.desc t.refused).1 = some d →
    ∃ t', (s.steerAgain t.uid).task t.uid = some t' ∧
      t' = { t with st := .pending, target := if d = s.fab.devno then none else some d, refused := t'.refused }) ∧
  (∀ s : State, s.boot.start = .up → exec .resumeDoorbell s = .next
    ((s.ctxs.filter fun p => p.2.fn == s.arg.a).foldl (fun s p => s.resumeTask steerParked p.1 (BitVec.ofNat 32 s.arg.c)) s)) ∧
  (∀ (s : State) (wid : Word) (refused : List Nat) (d : Nat), s.steerTo wid refused = some d → refused.contains d = false ∧
    (d = s.fab.devno ∨ ∃ y ∈ s.hub.barker, y.wid = wid ∧ y.peer = d))

/-! ### What the memory system does by itself (R197, R238, R315, R322, R323, R329, R332 to R336, R342, R425) -/

/-- R197, R238, R311, R315, R322, R323, R328 to R330, R332 to R336, R342, R425: VE_RESULT_LAND counts a cycle of a vector stream
that fetches a nest's body; LOAD_RETURN writes the register of an outstanding load, which no read can tell from before;
POSTED_STORE_PERFORM stores the oldest posted bytes of a vault where the team of the same context holds them, or discards them;
PAGE_WALK_COMPLETE enters a leaf that passes check 4 of R309 for the cells that wait; TIER_SWAP_COMPLETE moves the member into the fast
frame and the one that leaves into its capacity slot; COUNTER_DECAY halves every counter at each period's end; VAULT_SCRUB counts;
CAROUSEL_SLOT serves the lines whose slots have come: one whose member is not fast is answered late, starts a swap and takes the same
slot of the next rotation, with the lines behind it (log 111), and what a slot has read lands 200 cycles after its start;
NB_RESUME lets a suspended unit run; NB_ILLEGAL_WORD stops one. -/
def Obligations.MemoryEvents : Prop :=
  (∀ (s : State) (t : Team), let c := s.arg.a
    let fetching := t.vec.st = .run ∧ t.vec.held = false ∧ t.vec.stopped = false ∧ t.priv = false ∧ t.halted = false ∧
      t.ended = false ∧ t.firstFetch = true
    (s.cell c).act = some t → s.cellUp c = true →
    (fetching → exec .veResultLand s = .next (s.streamCycle c)) ∧ (¬ fetching → exec .veResultLand s = .next s)) ∧
  (∀ (s : State) (b : Bool) (t : Team) (x : Load), let c := s.arg.a
    let i := s.arg.c
    s.arg.b = b.toNat → (s.cell c).team b = some t → t.loads[i]? = some x →
    (∀ j y, t.loads[j]? = some y → y.reg = x.reg → x.reg ≠ none → j = i) →
    ∃ s' t', exec .loadReturn s = .next s' ∧ (s'.cell c).team b = some t' ∧ t'.loads = t.loads.eraseIdx i ∧
      (∀ r, r < 32 → t'.sreg r = t.sreg r) ∧ (∀ r, x.reg = some r → r ≠ 0 → t'.regOf r = x.value) ∧
      t'.pc = t.pc ∧ t'.preds = t.preds ∧ s'.mem = s.mem) ∧
  (∀ (s : State) (p : Posted), let here : Posted → Bool := fun y => y.cell == s.arg.a
    s.mem.posted.find? here = some p →
    let s1 : State := { s with mem := { s.mem with posted := s.mem.posted.eraseP here } }
    (∀ t, (s.cell s.arg.a).act = some t → t.asid = p.asid → p.off + p.bytes.length ≤ t.valloc * 65536 →
      exec .postedStorePerform s = .next (s1.withTeam s.arg.a (t.vaultWr p.off p.bytes))) ∧
    ((∀ t, (s.cell s.arg.a).act = some t → t.asid ≠ p.asid ∨ t.valloc * 65536 < p.off + p.bytes.length) →
      exec .postedStorePerform s = .next s1)) ∧
  (∀ (s : State), let w := s.arg
    let asked : Walk → Bool := fun y => y.asid == w.a && y.page == w.b / 65536 * 65536
    ((s.walking w.c).find? asked = none → exec .pageWalkComplete s = .next s) ∧
    (∀ x, (s.walking w.c).find? asked = some x →
      let s1 : State := { s with mem := { s.mem with walks := s.mem.walks.filter (· != x) } }
      (∀ leaf pa, s1.walkRest x w.b = some (leaf, pa) →
        (s1.leafOk (w.b / 2 ^ 52 % 16) leaf = true → exec .pageWalkComplete s = .next
          (x.cells.foldl (fun u c => u.tlbFill c w.a w.b leaf) s1)) ∧
        (s1.leafOk (w.b / 2 ^ 52 % 16) leaf = false → exec .pageWalkComplete s = .next s1)) ∧
      (s1.walkRest x w.b = none → exec .pageWalkComplete s = .next s1))) ∧
  (∀ (s : State) (x : TierSwap), let g := s.arg.a
    let left := s.mem.swaps.filter fun y => y.group != g
    s.swapOf g = some x → ∃ s' : State, exec .tierSwapComplete s = .next s'.drainAll ∧
      (∀ h, Sparse.get 0 s'.mem.remap h = if h = g then x.member else Sparse.get 0 s.mem.remap h) ∧
      s'.capSlot g (s.fastOf g) = s.capSlot g x.member ∧ s'.mem.phys = s.mem.phys ∧
      (s.lockOf g = none → s'.mem.swaps = left) ∧
      (∀ k, s.lockOf g = some k → s.boot.minimal = false →
        s'.mem.swaps = if k.member = x.member then left else left ++ [{ group := g, member := k.member, priority := true }])) ∧
  (∀ s : State, Sparse.wf 0 s.mem.counts = true →
    let period := 1000 * (if s.tier.decay = 0 then 1000 else s.tier.decay.toNat)
    let k := (s.now - s.tier.lastDecay) / period
    ∃ s', exec .counterDecay s = .next s' ∧ (∀ f, Sparse.get 0 s'.mem.counts f = Sparse.get 0 s.mem.counts f / 2 ^ k) ∧
      s'.tier.lastDecay = s.tier.lastDecay + k * period ∧ s'.mem.phys = s.mem.phys ∧ s'.cells = s.cells) ∧
  (∀ s : State, exec .vaultScrub s = .next { s with mem := { s.mem with corrected := s.mem.corrected + s.arg.b } }) ∧
  (∀ s : State, s.boot.start = .up → exec .carouselSlot s = .next (s.carousel
    (fun x => x.got.isNone && pseudoOf x.pa == (s.arg.a, s.arg.b) && decide (x.time ≤ s.now)) s.cpcLines.length)) ∧
  (∀ (s : State) (cell : Nat) (l : Loc) (k : Card) (x : CpcLine), let g := groupOf (x.pa / 65536)
    let m := memberOf (x.pa / 65536)
    let cycle := x.time * 7 / 10
    let s1 := s.countAccess (x.pa / 65536)
    let late : State → (CpcLine → CpcLine) → State := fun s f => s.setLine l k x (if x.late.isNone then 1 else 0)
      fun y => some (f { y with late := some (y.late.getD cycle) })
    s.slotOwner (pseudoOf x.pa).1 (x.time % 128 / 2) = some cell →
    (cycle < x.from_ ∨ (s.swapOf g).isSome → s.serveLine cell l k x = s.missSlot cell x) ∧
    (x.from_ ≤ cycle → s.swapOf g = none →
      (∀ bs, x.cap = true ∨ s.fastOf g = m → s1.locRd x.pa 64 x.slot = some bs →
        s.serveLine cell l k x = s1.setLine l k x 0 fun y => some { y with got := some bs }) ∧
      (x.cap = false → s.fastOf g ≠ m → s.lockOf g = none →
        s.serveLine cell l k x = (late (s.startSwap g m true) id).missSlot cell x) ∧
      (x.cap = false → s.fastOf g ≠ m → (s.lockOf g).isSome → s.serveLine cell l k x =
        (late s fun y => { y with cap := true, from_ := y.late.getD cycle + 600 }).missSlot cell x))) ∧
  (∀ (s : State) (cell : Nat) (x : CpcLine) (b : Bool),
    let later : CpcLine → CpcLine := fun y =>
      if pseudoOf y.pa = pseudoOf x.pa ∧ y.got = none ∧ x.time ≤ y.time then { y with time := y.time + 128 } else y
    ((s.missSlot cell x).cell cell).team b = ((s.cell cell).team b).map fun t =>
      { t with cards := t.cards.map fun c => { c with lines := c.lines.map later } }) ∧
  (∀ (s : State) (l : Loc) (k : Card) (x : CpcLine) (bs : List Byte), s.landLine l k x bs =
    ((s.modTeam l fun t => t.vaultWr x.off bs).setLine l k x 0 fun _ => none).modCard l k.seq fun y => { y with bytes := y.bytes + 64 }) ∧
  (∀ x : CpcLine, (x.got = none → x.due = x.time) ∧
    (x.got.isSome → x.time * 7 / 10 + 200 ≤ x.due * 7 / 10 ∧ ∀ d, d < x.due → d * 7 / 10 < x.time * 7 / 10 + 200)) ∧
  (∀ s : State, let n := s.arg.a
    let u := s.unit n
    (u.st = .suspended → u.waiting = false → exec .nbResume s = .next (s.setUnit n { u with st := .run })) ∧
    (u.st ≠ .suspended ∨ u.waiting = true → exec .nbResume s = .next s) ∧
    (u.st = .run → decodeUnitOp u.words = none → exec .nbIllegalWord s = .next (s.stopUnit n (if u.prog.length ≤ u.pc then 3 else 1)) ∧
      (u.run = none → s.stopUnit n (if u.prog.length ≤ u.pc then 3 else 1) =
        s.setUnit n { u with st := .stopped, stop := if u.prog.length ≤ u.pc then 3 else 1 })))

/-! ### Leases and the fabric (R363, R364, R414, R418, R429 to R442, R504) -/

/-- R363, R364, R414, R431 to R433, R504: bytes that arrive at a port wait there when no collective and no running LRADD takes them,
and at the sender when the buffer has no room; a running collective takes what it needs of them, chunk by chunk; a packet of a peer is performed, a strong one in the order of its sequence
numbers, within a window of 256; an acknowledged
packet is performed at its peer and removed, with the answer of a read, and a credit is added to its link; a reported fault marks its grid and is recorded;
COLL_CHUNK_ACK lets a collective send its next chunk. -/
def Obligations.FabricPackets : Prop :=
  (∀ s : State, let c := s.arg.a
    let p := s.arg.b
    c < 256 → p < 64 → s.collPort c p = none →
    (∀ k ∈ s.cellCards c, ¬ (k.2.op = jLRADD ∧ jPort k.2.block = p ∧ k.2.st = .running)) →
    ∀ i ∈ [Instr.portReceive, .collChunkReceive],
      ((s.port c p).length + s.arg.bytes.length ≤ 65536 → exec i s = .next (s.setPort c p (s.port c p ++ s.arg.bytes))) ∧
      (65536 < (s.port c p).length + s.arg.bytes.length → exec i s = .next s)) ∧
  (∀ (s : State) (x : Coll), let c := s.arg.a
    let p := s.arg.b
    let bs := s.port c p ++ s.arg.bytes
    c < 256 → p < 64 → s.collPort c p = some x →
    ∀ i ∈ [Instr.portReceive, .collChunkReceive],
      (bs.length ≤ 65536 + x.wants → exec i s = .next
        (((((s.setPort c p bs).setPort c p (bs.drop x.wants)).modColl x.asid x.name.toNat fun y =>
          { y with part := y.part ++ bs.take x.wants }).collFeed x.asid x.name.toNat (2 * x.steps + 1)).portToCards c p)) ∧
      (65536 + x.wants < bs.length → exec i s = .next s)) ∧
  (∀ (s : State) (x : Coll) (a name n : Nat), s.collRun a name = some x → let len := 4 * x.count
    let vs := (byGroups 4 (x.part.take len)).map fun b => BitVec.ofNat 32 (leNat b)
    (x.count ≠ 0 → len ≤ x.part.length → x.received < x.steps → s.collFeed a name (n + 1) =
      (((s.modColl a name fun _ => { x with part := x.part.drop len }).collTake { x with part := x.part.drop len } vs).collFeed a name n)) ∧
    (x.part.length < len ∨ x.steps ≤ x.received → s.collFeed a name (n + 1) = s)) ∧
  (∀ s : State, let d := s.arg.a
    let p := s.peerOf d
    let q := s.arg.c
    s.hasFabric = true →
    (s.arg.b ≠ 1 → s.pktBlocked s.arg.packet = false → exec .fabricPacketReceive s = .next (s.performPkt d s.arg.packet)) ∧
    (s.arg.b ≠ 1 → s.pktBlocked s.arg.packet = true → exec .fabricPacketReceive s = .next s) ∧
    (s.arg.b = 1 → (q < p.recvSeq ∨ p.recvSeq + 256 ≤ q) → exec .fabricPacketReceive s = .next s) ∧
    (s.arg.b = 1 → q = p.recvSeq → s.pktBlocked s.arg.packet = false → Tab.find p.reorder (q + 1) = none → ∃ s1 : State,
      exec .fabricPacketReceive s = .next (s1.performPkt d s.arg.packet) ∧ (s1.peerOf d).recvSeq = q + 1 ∧ s1.mem = s.mem ∧
      s1.cells = s.cells) ∧
    (s.arg.b = 1 → p.recvSeq < q → q < p.recvSeq + 256 → Tab.find p.reorder p.recvSeq = none → ∃ s',
      exec .fabricPacketReceive s = .next s' ∧ (s'.peerOf d).recvSeq = p.recvSeq ∧
      Tab.find (s'.peerOf d).reorder q = some { op := s.arg.packet } ∧ s'.mem = s.mem ∧ s'.out = s.out)) ∧
  (∀ (s : State) (d pa n : Nat) (bs : List Byte), let f := pa / 65536
    let slot := (s.keyMapOf f).slot.toNat
    let s1 := s.countAccess f
    0 < n → pa % 65536 + n ≤ 65536 → bs.length = n → s.boot.on = false →
    (s.frameExists f = false → ∀ p ∈ [PktOp.write pa bs, .poison pa bs, .read pa n, .amo pa 0 false n 0 0],
      s.performPkt d p = s.emit (.fault d)) ∧
    (s.frameExists f = true →
      s.performPkt d (.write pa bs) = (s1.locWr pa bs slot).emit (.ack d) ∧
      (∀ v, s.locRd pa n slot = some v → s.performPkt d (.read pa n) = s1.emit (.reply d v)) ∧
      (s.locRd pa n slot = none → s.performPkt d (.read pa n) = s1.emit (.fault d)) ∧
      (∀ v u y z, s.locRd pa n slot = some v → s.performPkt d (.amo pa 0 u n y z) =
        (s1.locWr pa (leBytes n (leNat v + y)) slot).emit (.reply d v)))) ∧
  (∀ (s : State) (d : Nat) (p : Packet), let left := (s.peerOf d).unacked.filter fun u => u.no != p.no
    s.packetNo d p.no = some p →
    (p.done = true → ((s.acked d p).peerOf d).unacked = left ∧ (s.acked d p).mem = s.mem) ∧
    (p.done = false → s.mayPerform d p = false → s.acked d p = s) ∧
    (∀ a bs, p.done = false → s.mayPerform d p = true → p.op = .write a bs → ((s.acked d p).peerOf d).unacked = left ∧
      ((s.acked d p).peerMem d) = (s.peerMem d).wrBytes a bs ∧ (s.acked d p).mem.phys = s.mem.phys) ∧
    (∀ a k, p.done = false → s.mayPerform d p = true → p.op = .read a k → s.peerIll d a k = false →
      ((s.acked d p).peerOf d).unacked = left ∧ (s.acked d p).mem = s.mem ∧
      (s.acked d p).fab.replies = s.fab.replies ++ [{ peer := d, key := p.key, op := p.op, bytes := some ((s.peerMem d).rdBytes a k) }])) ∧
  (∀ s : State, let x := s.arg
    exec .rstAcknowledge s = .next ((((s.peerOf x.a).unacked.filter fun u =>
      u.rst && u.team == some { grid := x.b, no := x.c }).foldl (fun s p => s.acked x.a p) s).heard x.a) ∧
    (x.b = 0 → exec .fabricAckReceive s = .next
      (((((s.peerOf x.a).unacked.drop x.c).take x.d).foldl (fun s p => s.acked x.a p) s).heard x.a)) ∧
    (∀ i, x.b = 2 → s.entryOf x.a = some i → ∃ s', exec .fabricAckReceive s = .next s' ∧ (s'.peerOf x.a).lastAck = s.now ∧
      Sparse.get 0 s'.fab.credits i = Sparse.get 0 s.fab.credits i + x.d ∧
      (s'.peerOf x.a).unacked.map (·.no) = (s.peerOf x.a).unacked.map (·.no) ∧ s'.cells = s.cells ∧ s'.mem = s.mem) ∧
    (∀ d, ((s.heard d).peerOf d).lastAck = s.now ∧ ((s.heard d).peerOf d).unacked = (s.peerOf d).unacked ∧ (s.heard d).mem = s.mem) ∧
    (∀ g, s.grid x.b = some g → ∃ s1 : State, exec .remoteFault s = .next (s1.offer
        { cause := .remoteFault, asid := g.asid, team := BitVec.ofNat 32 x.c, time := s.now, addr := BitVec.ofNat 64 x.d,
          peer := x.a, grid := BitVec.ofNat 32 x.b }) ∧ s1.grid x.b = some { g with remoteFault := true } ∧ s1.cells = s.cells) ∧
    (∀ k, s.collRun x.a x.b = some k →
      (k.sent = true → exec .collChunkAck s = .next
        (((s.modColl x.a x.b fun y => { y with sent := false, step := y.step + 1 }).heard k.successor).collGo x.a x.b)) ∧
      (k.sent = false → exec .collChunkAck s = .next s)))

/-- R428, R429, R441, R442, R494: a peer silent for 20 µs of waiting, or declared lost, is lost; PARTITION_QUIESCE records the loss
for every context of the partition and, at a first loss, stops their fabric work; QUIESCE_LIFT ends it, and the contexts go on
when their routes are written, with the packets and chunks that waited; FABCFG_WRITE writes the fabric's registers unless the wavelengths would exceed 1,024; a spare
wavelength changes nothing, and a spare memory channel poisons only what could not be copied. -/
def Obligations.FabricEvents : Prop :=
  (∀ s : State, let d := s.arg.a
    (∀ t, (s.peerOf d).waitFrom = some t →
      (max t (s.peerOf d).lastAck + 20000 ≤ s.now → exec .peerLossTimeout s = .next (s.modPeer d fun p => { p with lost := true })) ∧
      (s.now < max t (s.peerOf d).lastAck + 20000 → exec .peerLossTimeout s = .next s)) ∧
    ((s.peerOf d).waitFrom = none → exec .peerLossTimeout s = .next s) ∧
    (∃ s', exec .peerLostDeclare s = .next s' ∧ (s'.peerOf d).lost = true ∧ (∀ e, e ≠ d → s'.peerOf e = s.peerOf e) ∧
      s'.mem = s.mem)) ∧
  (∀ s : State, let d := s.arg.b
    let as_ := s.partCtxs s.arg.a
    let s1 := s.modPeer d fun p => { p with lost := true }
    let s2 := as_.foldl (fun s a => s.offer { cause := .peerLost, asid := a, time := s.now, detail := BitVec.ofNat 32 d, peer := d }) s1
    (s.fab.qui = true → (∀ a ∈ as_, (s.ctx a).quiesced = true) → exec .partitionQuiesce s = .next s2) ∧
    (¬ (s.fab.qui = true ∧ ∀ a ∈ as_, (s.ctx a).quiesced = true) →
      let s3 := as_.foldl (fun s a => s.modCtx a fun x => { x with quiesced := true, cut := false }) { s2 with fab := { s2.fab with qui := true } }
      let keys := (s3.packets.filter fun p => as_.contains p.2.asid).map fun p => p.2.key
      let s4 := as_.foldl State.abandonColls (s3.discardPackets as_)
      let s5 := (s4.fab.leases.filter fun p => as_.contains p.2.asid).foldl (fun s p => s.endLease p.1) s4
      (∀ a ∈ as_, (s3.ctx a).quiesced = true) ∧ exec .partitionQuiesce s = .next
        ((s5.teams.filter fun p => as_.contains p.2.asid && p.2.epilogue.isNone).foldl (fun s p => s.teamLost keys p.1 d) s5))) ∧
  (∀ s : State, ∃ s', exec .quiesceLift s = .next s' ∧ s'.mem = s.mem ∧
    (s'.fab.qui = true ↔ ∃ x ∈ s'.ctxs, x.2.quiesced = true ∧ x.2.cut = false) ∧
    ∀ a ∈ s.partCtxs s.arg.a, (s'.ctx a).quiesced = (s.ctx a).quiesced ∧ ((s.ctx a).quiesced = true → (s'.ctx a).cut = true)) ∧
  (∀ s : State, let w := nth s.arg.w 0
    let f := s.fab
    let sum : Sparse Nbr → Nat → Nat := fun n k => ((n.filter fun p => p.2.v).map fun p => p.2.base.toNat + k).foldl (· + ·) 0
    (s.hasFabric = false → exec .fabcfgWrite s = .next s) ∧
    (s.hasFabric = true →
      (s.arg.a = 0 → let k := (w.extractLsb' 44 8).toNat
        let used := if s.hasSkidway then k else 0
        (1024 < sum f.nbrs used → exec .fabcfgWrite s = .next s) ∧
        (sum f.nbrs used ≤ 1024 → exec .fabcfgWrite s = .next { s with fab :=
          { f with fv := w.getLsbD 63, devno := (w.extractLsb' 52 10).toNat, skwl := k, floor := max 4 (w.extractLsb' 36 8).toNat } })) ∧
      (∀ i, i < 32 → s.arg.a = i + 1 →
        let e : Nbr := { v := w.getLsbD 63, peer := w.extractLsb' 53 10, base := w.extractLsb' 45 8, leased := (s.nbr i).leased }
        let nbrs := Sparse.set {} f.nbrs i e
        (1024 < sum nbrs s.skwl → exec .fabcfgWrite s = .next s) ∧
        (sum nbrs s.skwl ≤ 1024 → exec .fabcfgWrite s = .next ({ s with fab := { f with nbrs := nbrs } } : State).fabricGo)) ∧
      (s.arg.a = 100 → ∃ s' : State, exec .fabcfgWrite s = .next s'.fabricGo ∧ s'.fab.routes.mem s.arg.b = true ∧ (s'.peerOf s.arg.b).lost = false ∧
        ((s.ctx s.arg.c).cut = true → (s'.ctx s.arg.c).quiesced = false) ∧
        ((s.ctx s.arg.c).cut = false → (s'.ctx s.arg.c).quiesced = (s.ctx s.arg.c).quiesced)))) ∧
  (∀ s : State, exec .wavelengthFail s = .next s ∧ ∃ s', exec .hbmChannelSpare s = .next s' ∧ s'.mem.phys = s.mem.phys ∧
    s'.cells = s.cells ∧ (∀ l, s'.mem.bad.mem l = (s.mem.bad.mem l || s.arg.w.any fun w => w.toNat == l)) ∧
    s'.boot.hbmSpare.getLsbD (s.arg.a % 8) = true)

/-! ### The device (R485 to R496, R513 to R519) -/

/-- R485 to R487, R492, R493, R495, R496, R518, R519: FULL_RESET puts the registers of the hub, of the resource manager, of the
fabric and of tiering to their reset values, forgets cells and contexts, and starts the device again, SCRUB_END clears memory,
START_COMPLETE makes it READY, a failed start names its reason and the third in a row leads to minimal mode; ATTEST names a request
and ATTEST_REPORT_DONE writes its report; CELL_FAIL takes a spare of the die, or takes the cell out of service. -/
def Obligations.DeviceEvents : Prop :=
  (∀ s : State, ∃ s', exec .fullReset s = .next s' ∧ s'.mem.phys = s.mem.phys ∧ s'.mem.host = s.mem.host ∧ s'.cells = [] ∧
    s'.ctxs = [] ∧ s'.hub = State.reset.hub ∧ s'.rm = State.reset.rm ∧ s'.fab = State.reset.fab ∧ s'.tier = { State.reset.tier with lastDecay := s.now } ∧
    s'.nb = [] ∧ s'.now = s.now ∧ s'.boot.on = s.boot.nextOn ∧ s'.boot.ready = false ∧
    s'.boot.start = (if s.boot.on = true ∨ s.boot.nextOn = true then .scrubbing else .starting)) ∧
  (∀ s : State, s.boot.start = .scrubbing → ∃ s', exec .scrubEnd s = .next s' ∧ (∀ a, s'.mem.phys.rd a = 0) ∧
    (∀ l, s'.mem.bad.mem l = false) ∧ s'.mem.host = s.mem.host ∧ s'.boot.scrubbed = true ∧ s'.boot.start = .starting) ∧
  (∀ s : State, s.boot.start ≠ .scrubbing → exec .scrubEnd s = .next s) ∧
  (∀ s : State, s.boot.start = .starting → ∃ s', exec .startComplete s = .next s' ∧ s'.boot.start = .up ∧ s'.boot.ready = true ∧
    s'.boot.on = s.boot.on ∧ s'.caps = capsAfter s.boot.minimal s.arg.a ∧ (s.boot.minimal = false → s'.boot.fails = 0) ∧
    s'.mem = s.mem ∧ s'.cells = s.cells) ∧
  (∀ s : State,
    (s.boot.start ≠ .up → 1 ≤ s.arg.a → s.arg.a ≤ 8 → exec .startFail s = .next (s.startFailed s.arg.a)) ∧
    (s.boot.start ≠ .up → s.boot.startAt + 30000000000 ≤ s.now → exec .startTimeout s = .next (s.startFailed 7)) ∧
    (s.boot.start = .scrubbing → s.boot.startAt + 2500000000 ≤ s.now → exec .scrubTimeout s = .next (s.startFailed 6)) ∧
    (s.boot.start = .up → exec .startFail s = .next s ∧ exec .startTimeout s = .next s ∧ exec .scrubTimeout s = .next s) ∧
    (∀ n, (s.startFailed n).boot.reason = n ∧ (s.startFailed n).boot.fails = min 15 (s.boot.fails + 1) ∧
      (s.startFailed n).boot.minimal = (s.boot.minimal || decide (3 ≤ min 15 (s.boot.fails + 1))) ∧
      ((s.startFailed n).boot.minimal = true → (s.startFailed n).boot.on = false) ∧ (s.startFailed n).boot.ready = false)) ∧
  (∀ s : State, s.boot.start = .up → let w := nth s.arg.w 0
    exec .attest s = .next { s with hub := { s.hub with attest := w, attestDue := some w } }) ∧
  (∀ (s : State) (a : Word), s.hub.attestDue = some a →
    let rq := s.hostRd a.toNat 64
    let body := s.attestBody (rq.take 32)
    exec .attestReportDone s = .next
      (let s1 := s.hostWr (leNat ((rq.drop 32).take 8)) (body ++ bigBytes 96 (Config.ecdsa body).toNat)
       let s2 := s1.hostWr (a.toNat + 40) [1]
       { s2 with hub := { s2.hub with attestDue := none } })) ∧
  (∀ s : State, let c := s.arg.a
    let used := s.boot.spares.getD (c / 64) 0
    c < 256 → (s.cell c).lost = false → s.boot.start = .up → (s.cell c).a = none → (s.cell c).b = none → s.pass c = none →
    s.boot.spares.length = 4 → (∀ e ∈ s.rm.parked, e.cell ≠ c) → ∃ s', exec .cellFail s = .next s' ∧
      (used < 2 → (s'.cell c).lost = false ∧ s'.boot.spares.getD (c / 64) 0 = used + 1 ∧ s'.allotOf c = s.allotOf c) ∧
      (2 ≤ used → (s'.cell c).lost = true ∧ s'.allotOf c = (0, 0)) ∧ s'.mem = s.mem) ∧
  (∀ s : State, let c := s.arg.a
    256 ≤ c ∨ (s.cell c).lost = true ∨ s.boot.start ≠ .up → exec .cellFail s = .next s)

/-- R513 to R518: STOP_COMMAND begins to stop a RUNNING context, and leaves another as it is; what has not started is dropped
without records. STOP_REPORT ends a stop when nothing of the context runs any longer, and FREE_COMMAND frees a stopped context,
which is FREE afterwards and has no collective names. A reset of a virtual function stops every context of it that runs, frees the
stopped ones, and resets its queues and rings. -/
def Obligations.StopAndFree : Prop :=
  (∀ s : State, let a := s.arg.a
    let cmd : Nat → State := fun n => { s with hub := { s.hub with stopcmd := BitVec.ofNat 64 (n * 2 ^ 62 + a) } }
    1 ≤ a → a ≤ 1023 → s.boot.start = .up →
    exec .stopCommand s = .next ((cmd 1).beginStop a false false) ∧
    ((s.tenant a).st = .running → exec .freeCommand s = .next ((cmd 2).beginStop a true false)) ∧
    ((s.tenant a).st = .stopping → exec .freeCommand s = .next ((cmd 2).modTenant a fun t => { t with freeAfter := true })) ∧
    ((s.tenant a).st = .stopped → exec .freeCommand s = .next ((cmd 2).freeCtx a)) ∧
    ((s.tenant a).st = .stopping → s.stopDone a = true → (∀ x ∈ s.mem.lines, x.asid = a → x.dirty = false) →
      exec .stopReport s = .next (s.endStop a)) ∧
    ((s.tenant a).st = .stopping → s.stopDone a = true → ∀ s1,
      (writeBackLines { asid := a } fun x => x.asid == a).run s = .ok () s1 →
      exec .stopReport s = .next (if s1.stopDone a then s1.endStop a else s1)) ∧
    ((s.tenant a).st ≠ .stopping ∨ s.stopDone a = false → exec .stopReport s = .next s)) ∧
  (∀ (s : State) (a : Nat) (f g : Bool), ((s.tenant a).st ≠ .running → s.beginStop a f g = s) ∧
    ∃ s', s.dropWaiting a = s' ∧ (s'.ctx a).places = [] ∧ (∀ k ∈ s'.hub.pool, k.asid ≠ a) ∧ s'.hub.rings = s.hub.rings ∧
      (∀ t ∈ s'.rm.tasks, t.asid = a → t.origin = none → t.st ≠ .queued ∧ t.st ≠ .pending) ∧ s'.mem = s.mem ∧ s'.cells = s.cells) ∧
  (∀ (s : State) (a : Nat), (s.tenant a).flr = false → (s.tenant a).freeAfter = false → ((s.freeCtx a).tenant a).st = .free ∧
    ((s.freeCtx a).ctx a).colls = []) ∧
  (∀ (s : State), let f := s.arg.a
    (f = 0 ∨ 64 < f → exec .vfFunctionLevelReset s = .next s) ∧
    (1 ≤ f → f ≤ 64 →
      let as_ := (s.hub.tenants.filter fun p => p.2.st != .free && (s.ctx p.1).fn == f).map (·.1)
      let one : State → Nat → State := fun s a =>
        if (s.tenant a).st = .running then s.beginStop a true true
        else if (s.tenant a).st = .stopping then s.modTenant a fun t => { t with freeAfter := true, flr := true }
        else s.freeCtx a
      exec .vfFunctionLevelReset s = .next ((as_.foldl one s).resetBlocks f)) ∧
    (1 ≤ f → f ≤ 64 → (∀ p ∈ s.hub.tenants, p.2.st ≠ .free → (s.ctx p.1).fn ≠ f) → ∃ s', exec .vfFunctionLevelReset s = .next s' ∧
      (∀ q, q < 32 → s'.queue (32 * f + q) = {}) ∧ (∀ r, r < 256 → s'.ring (256 * f + r) = {}) ∧ s'.mem = s.mem))

/-! ### Decoding, the step, reset (R146 to R191) -/

/-- Worked encodings of the spec, at least one in each class, decode to the instruction they stand for (R166 to R173, R182 to R188).
-/
def Obligations.KnownWordsDecode : Prop :=
  decodeTableWord 32 0x0208C000 = some (.add { md := 0, rs2 := 2, rs1 := 1, rd := 3, pg := 0 }) ∧
  decodeTableWord 32 0x4311C2E0 = some (.ld { md := 2, rs2 := 3, rs1 := 2, rd := 7, pg := 0 }) ∧
  decodeTableWord 64 0x0280008073324301 = some (.stImm { r := { md := 3, rs2 := 19, rs1 := 6, rd := 9, pg := 0 }, imm := 0x02800080 }) ∧
  decodeTableWord 96 0x000000000000000520000422 = some (.fork
    { r := { md := 1, rs2 := 0, rs1 := 0, rd := 0, pg := 0 }, imm := 5, lit := 0 }) ∧
  decodeTableWord 32 0x14061004 = some (.vadd { vd := 5, wbs := 0, vs1 := 1, vs2 := 66 }) ∧
  decodeTableWord 64 0x00004002080C21A5 = some (.vcmp
    { r := { vd := 2, wbs := 0, vs1 := 3, vs2 := 4 }, f := 0, l := 0, lv := 0, vs3 := 0, men := 0, msk := 0, ty := 8, rnd := 0, sq := 0,
      hs := 0, swz := 0, fn := 2 }) ∧
  decodeTableWord 96 0xFFFFFFE000020001000006E6 = some (.vbr { lit := 0xFFFFFFE0, v :=
    { r := { vd := 0, wbs := 0, vs1 := 0, vs2 := 0 }, f := 0, l := 0, lv := 0, vs3 := 0, men := 0, msk := 4, ty := 0, rnd := 0, sq := 0,
      hs := 0, swz := 0, fn := 1 } }) ∧
  decodeTableWord 64 0x01860000007C4069 = some (.mconst
    { ta := 0, tb := 7, ab := 1, m := 2, nn := 8, f := 0, l := 0, lv := 0, tc := 12, sub := 3, nra := 0, aga := 0, nrb := 0, agb := 0,
      sreg := 0, rsv := 0 }) ∧
  decodeTableWord 96 0x00010000002000000382584E = some (.cpg96 { lit := 0x10000, c :=
    { wsem := 3, wv := 1, ssem := 4, sv := 1, md := 3, f := 0, l := 0, lv := 0, ag := 0, nr := 0, qw := 2, sa := 0, sb := 0, aux := 0 } }) ∧
  decodeTableWord 64 0x00603000281028F1 = some (.vamo
    { r := { vd := 10, wbs := 0, vs1 := 4, vs2 := 5 }, f := 0, l := 0, lv := 0, vs3 := 6, men := 0, msk := 0, ty := 6, rnd := 0, sq := 0,
      hs := 0, swz := 0, fn := 0 }) ∧
  decodeTableWord 32 0x60480110 = some (.fence { md := 3, rs2 := 0, rs1 := 9, rd := 0, pg := 0 }) ∧
  decodeTableWord 32 0x0049C034 = some (.keyAlloc { md := 0, rs2 := 0, rs1 := 9, rd := 7, pg := 0 }) ∧
  decodeTableWord 64 0x0280008020300075 = some (.ctxSave64 { r := { md := 1, rs2 := 0, rs1 := 6, rd := 0, pg := 0 }, imm := 0x02800080 }) ∧
  decodeTableWord 32 0x00000818 = some (.nbOpen { n := { a := 0, b := 0, imm15 := 1 }, imm32 := none })

/-- R146, R166 to R173, R182 to R188: decoding the encoding of an instruction gives the instruction back, and the bytes after it, in
every stream that decodes it, whatever its fields hold that the checks of R189 allow; and in a near-bank unit likewise. -/
def Obligations.EncodeDecodeRoundTrip : Prop :=
  (∀ (st : Stream) (priv nest : Bool) (i : Instr) (o : Op) (w : W32) (ws : List W32) (rest : List Byte), i.op = some o →
    encode i = w :: ws → classInStream st w.cls = true → opInStream st w.cls o = true → (w.cls = 5 → priv = true) →
    i.check st nest = none → decodeBytes st priv nest (encodeBytes i ++ rest) = .ok (i, rest)) ∧
  (∀ (i : Instr) (o : Op), i.op = some o → o.code.1 = 6 → i.check .strand false = none → decodeUnit (encode i) = some i)

/-- R151, R166, R167, R187 to R189: what no stream decodes as an instruction traps with the cause of a failing check: length code
0b11, class 0b111, a class that the stream does not decode, an opcode unassigned at its length, and a system instruction outside
privileged mode. The trap is taken at the instruction's offset, as it issues or at DECODE_TRAP. -/
def Obligations.ReservedEncodingsTrap : Prop :=
  (∀ (st : Stream) (priv nest : Bool) (w : W32) (ws : List W32),
    (w.len = 3 → decodeOp st priv nest (w :: ws) = .error .illLen) ∧
    (w.len ≠ 3 → w.cls = 7 → decodeOp st priv nest (w :: ws) = .error .illOp) ∧
    (w.len ≠ 3 → w.cls = 6 → decodeOp st priv nest (w :: ws) = .error .illClass) ∧
    (w.len ≠ 3 → w.cls ≠ 7 → classInStream st w.cls = false → decodeOp st priv nest (w :: ws) = .error .illClass) ∧
    (w.len ≠ 3 → classInStream st w.cls = true → opAt w.cls.toNat w.len.toNat w.op.toNat = none →
      decodeOp st priv nest (w :: ws) = .error .illOp) ∧
    (∀ o f, w.len ≠ 3 → w.cls = 5 → parseWords (w :: ws) = some (o, f) →
      decodeOp .strand false nest (w :: ws) = .error .illPriv)) ∧
  (∀ (c : BitVec 3), (classInStream .strand c = true ↔ c = 0 ∨ c = 3 ∨ c = 4 ∨ c = 5) ∧
    (classInStream .vector c = true ↔ c = 1 ∨ c = 3 ∨ c = 4) ∧ (classInStream .matrix c = true ↔ c = 2 ∨ c = 3 ∨ c = 4) ∧
    (classInStream .copy c = true ↔ c = 3 ∨ c = 4)) ∧
  (∀ (s s1 s2 : State) (t : Team) (ws : List W32) (k : Cause), let c := s.arg.a
    s.arg.b = 0 → (s.cell c).act = some t → s.strandRuns c t = true → t.apend = [] →
    s1 = { (s.modAct c fun t => { t with started := true }) with cur := .stream c .strand } →
    (fetchInstr (s.fetchWho c t .strand) t t.pc.toNat).run s1 = .ok ws s2 → decodeOp .strand t.priv false ws = .error k →
    let s2 := s2.usedReplies (t.fetchKey .strand)
    exec .decodeTrap s = .next (s2.takeTrap c .strand k true (s2.pcAt c .strand) { addr := (s2.pcAt c .strand).toNat })) ∧
  (∀ (st : Stream) (nest : Bool) (i : Instr) (o : Op) (w : W32) (ws : List W32) (k : Cause), i.op = some o → encode i = w :: ws →
    classInStream st w.cls = true → opInStream st w.cls o = true → w.cls ≠ 5 → i.check st nest = some k →
    decodeIn st false nest (w :: ws) = .error k)

/-- A step runs the decoded instruction. When a stream may issue and the words at its counter decode, the step is that instruction's
meaning in the state that the fetch leaves, with the stream as the one that issues; inside a nest the body instruction at the
position issues when its iteration flags say so and is passed over otherwise (R161); a near-bank unit runs the word at its
counter; an event of the input list happens, with its argument (log 1); and time passes before a listed move. -/
def Obligations.StepRunsInstruction : Prop :=
  (∀ (s u : State) (g : Agent),
    (s.inputs = [] ∧ s.cur = g ∧ u = s) ∨ (∃ dt rest, s.inputs = { dt := dt, act := .run g } :: rest ∧
      u = { ({ s with inputs := rest } : State).tick dt with cur := g }) →
    (∀ (c : Nat) (t : Team) (ws : List W32) (i : Instr) (u1 : State), g = .stream c .strand → (u.cell c).act = some t →
      u.strandRuns c t = true → (t.apend = [] ∨ t.priv = true) →
      (fetchInstr (u.fetchWho c t .strand) t t.pc.toNat).run (u.modAct c fun t => { t with started := true }) = .ok ws u1 →
      decodeIn .strand t.priv false ws = .ok i → step s = exec i { u1.usedReplies (t.fetchKey .strand) with cur := g }) ∧
    (∀ (c : Nat) (e : Engine) (t : Team) (ws : List W32) (i : Instr) (u1 : State), g = .stream c e.stream → (u.cell c).act = some t →
      u.engineRuns c t e = true → (t.eng e).nest = none →
      (fetchInstr (u.fetchWho c t e.stream) t (t.eng e).pc.toNat).run u = .ok ws u1 →
      decodeIn e.stream t.priv false ws = .ok i → step s = exec i { u1.usedReplies (t.fetchKey e.stream) with cur := g }) ∧
    (∀ (c : Nat) (e : Engine) (t : Team) (k : Bool) (off : Nat) (ws : List W32) (i : Instr) (o : Op) (f : Fields),
      g = .stream c e.stream → (u.cell c).act = some t → u.engineRuns c t e = true → (t.eng e).nest = some k →
      (t.slot k).body[(t.slot k).pos]? = some (off, ws) → parseWords ws = some (o, f) →
      let v := u.modAct c fun t => t.modEng e fun x => { x with pc := BitVec.ofNat 64 off }
      ((t.slot k).issues (nestFlagsOf f) = true → decodeIn e.stream t.priv true ws = .ok i → step s = exec i { v with cur := g }) ∧
      ((t.slot k).issues (nestFlagsOf f) = false → step s = .next (v.modAct c fun t => t.nestStep e))) ∧
    (∀ (n : Nat) (i : Instr), g = .unit n → (u.unit n).st = .run → decodeUnit (u.unit n).words = some i → step s = exec i u)) ∧
  (∀ (s : State) (dt : Nat) (i : Instr) (a : EvArg) (rest : List Move), s.inputs = { dt := dt, act := .event i a } :: rest →
    i.op = none → step s = exec i { ({ s with inputs := rest } : State).tick dt with arg := a }) ∧
  (∀ (s : State) (dt : Nat) (o : Outside) (rest : List Move), s.inputs = { dt := dt, act := .outside o } :: rest →
    step s = .next ((({ s with inputs := rest } : State).tick dt).disturb o))

/-- What reset leaves where the spec gives a value: no queue is enabled and every ring is disabled (R82, R507), entry 0 of the slice
table is valid for function 0 (R91), the rates, tier control and fabric registers hold their defaults (R101, R330, R429), every cell
is unassigned and holds no team (R112), every context is free (R514), memory lists nothing, and READY is 0 until a start is complete
(R519). After START_COMPLETE the device takes work. That memory which nothing has written reads 0 is the model's (log 4). -/
def Obligations.ResetState : Prop :=
  let s := State.reset
  (∀ k, (s.queue k).en = false ∧ (s.ring k).en = false) ∧ s.sliceEntry 0 = 0x80000000 ∧ (∀ i, i ≠ 0 → s.sliceEntry i = 0) ∧
  s.hub.collRate = 64 ∧ s.hub.crypRate = 128 ∧ s.hub.copyRate = 256 ∧
  s.tier = { migthr := 64, swthr := 16, decay := 1000, swen := true } ∧ s.fab.fv = false ∧ s.fab.qui = false ∧
  s.fab.devno = 1023 ∧ s.fab.skwl = 4 ∧ s.fab.floor = 4 ∧ (∀ i, s.nbr i = {}) ∧
  (∀ c, s.allotOf c = (0, 0) ∧ (s.cell c).a = none ∧ (s.cell c).b = none) ∧ (∀ a, (s.tenant a).st = .free) ∧
  (∀ a, s.mem.phys.rd a = 0 ∧ s.mem.host.rd a = 0) ∧ s.mem.wf = true ∧ s.boot.ready = false ∧ s.boot.on = false ∧
  s.memoryWf ∧ s.hubUp = false ∧ (∀ d w, ∃ t, exec .startComplete { s with arg := { a := d, w := w } } = .next t ∧ t.hubUp = true)

/-- Memory keeps its canonical form, in which an address that is not listed reads 0 (the model's, log 4): writing bytes to local,
host or vault memory keeps keys rising and lists no zero byte, and what is read afterwards is what was written there, and elsewhere
what was there before (R309, R320). -/
def Obligations.MemoryCanonical : Prop :=
  (∀ (m : Memory) (a : Nat) (bs : List Byte), m.wf = true → (m.wrBytes a bs).wf = true ∧
    (∀ i, i < bs.length → (m.wrBytes a bs).rd (a + i) = bs.getD i 0) ∧
    (∀ x, x < a ∨ a + bs.length ≤ x → (m.wrBytes a bs).rd x = m.rd x)) ∧
  (∀ m n : Memory, m.wf = true → n.wf = true → (∀ a, m.rd a = n.rd a) → m = n) ∧
  (∀ (s : State) (pa slot : Nat) (bs : List Byte), s.mem.wf = true → (s.locWr pa bs slot).mem.wf = true) ∧
  (∀ (s : State) (a d : Nat) (bs : List Byte), s.mem.wf = true → (s.hostWr a bs).mem.wf = true ∧ (s.sysWr a bs).mem.wf = true ∧
    (s.hostWrite a bs).mem.wf = true ∧ (s.peerWr d a bs).mem.wf = true) ∧
  (∀ (t : Team) (off : Nat) (bs : List Byte), t.vaultWf = true → (t.vaultWr off bs).vaultWf = true)

/-- The canonical form is an invariant: from every state whose memories are in canonical form, a step leads to a state whose
memories are. Local, host and peer memory, every vault and every swapped-out vault are named (the memories of R309 and R320; the
form is the model's, log 4). -/
def Obligations.StepKeepsMemoryCanonical : Prop :=
  ∀ s s' : State, s.memoryWf → step s = .next s' → s'.memoryWf
end

