-- ==== Sys2Proof/Laws/Encoding.lean ====
section
/-! SUPPORT. Laws of the encoding: each layout's fields come back from its words (R168 to R173), and the words of every encoded
instruction parse to its name and fields. -/
namespace Sys2Proof

/-! ### Bits -/

theorem toNat_app {m n : Nat} (x : BitVec m) (y : BitVec n) : (x ++ y).toNat = x.toNat * 2 ^ n + y.toNat := by
  rw [BitVec.toNat_append, Nat.shiftLeft_eq, Nat.mul_comm, ← Nat.two_pow_add_eq_or_of_lt y.isLt]

theorem toNat_ext {w : Nat} (x : BitVec w) (s l : Nat) : (x.extractLsb' s l).toNat = x.toNat / 2 ^ s % 2 ^ l := by
  simp [BitVec.extractLsb'_toNat, Nat.shiftRight_eq_div_pow]

/-! ### Layouts -/

theorem S32.ofWord_word (x : S32) (o : BitVec 6) (c : BitVec 3) (l : BitVec 2) : S32.ofWord (x.word o c l) = x := by
  obtain ⟨md, rs2, rs1, rd, pg⟩ := x
  simp only [S32.ofWord, S32.word, S32.mk.injEq]
  have hmd := md.isLt
  have hrs2 := rs2.isLt
  have hrs1 := rs1.isLt
  have hrd := rd.isLt
  have hpg := pg.isLt
  have ho := o.isLt
  have hc := c.isLt
  have hl := l.isLt
  refine ⟨?_, ?_, ?_, ?_, ?_⟩ <;> apply BitVec.eq_of_toNat_eq <;> rw [toNat_ext] <;> simp only [toNat_app] <;> omega

theorem S32.len_word (x : S32) (o : BitVec 6) (c : BitVec 3) (l : BitVec 2) : (x.word o c l).len = l := by
  simp only [W32.len, S32.word]
  have ho := o.isLt
  have hl := l.isLt
  have hc := c.isLt
  apply BitVec.eq_of_toNat_eq
  rw [toNat_ext]
  simp only [toNat_app]
  omega

theorem S32.cls_word (x : S32) (o : BitVec 6) (c : BitVec 3) (l : BitVec 2) : (x.word o c l).cls = c := by
  simp only [W32.cls, S32.word]
  have ho := o.isLt
  have hl := l.isLt
  have hc := c.isLt
  apply BitVec.eq_of_toNat_eq
  rw [toNat_ext]
  simp only [toNat_app]
  omega

theorem S32.op_word (x : S32) (o : BitVec 6) (c : BitVec 3) (l : BitVec 2) : (x.word o c l).op = o := by
  simp only [W32.op, S32.word]
  have ho := o.isLt
  have hl := l.isLt
  have hc := c.isLt
  apply BitVec.eq_of_toNat_eq
  rw [toNat_ext]
  simp only [toNat_app]
  omega

theorem V32.ofWord_word (x : V32) (o : BitVec 6) (c : BitVec 3) (l : BitVec 2) : V32.ofWord (x.word o c l) = x := by
  obtain ⟨vd, wbs, vs1, vs2⟩ := x
  simp only [V32.ofWord, V32.word, V32.mk.injEq]
  have hvd := vd.isLt
  have hwbs := wbs.isLt
  have hvs1 := vs1.isLt
  have hvs2 := vs2.isLt
  have ho := o.isLt
  have hc := c.isLt
  have hl := l.isLt
  refine ⟨?_, ?_, ?_, ?_⟩ <;> apply BitVec.eq_of_toNat_eq <;> rw [toNat_ext] <;> simp only [toNat_app] <;> omega

theorem V32.len_word (x : V32) (o : BitVec 6) (c : BitVec 3) (l : BitVec 2) : (x.word o c l).len = l := by
  simp only [W32.len, V32.word]
  have ho := o.isLt
  have hl := l.isLt
  have hc := c.isLt
  apply BitVec.eq_of_toNat_eq
  rw [toNat_ext]
  simp only [toNat_app]
  omega

theorem V32.cls_word (x : V32) (o : BitVec 6) (c : BitVec 3) (l : BitVec 2) : (x.word o c l).cls = c := by
  simp only [W32.cls, V32.word]
  have ho := o.isLt
  have hl := l.isLt
  have hc := c.isLt
  apply BitVec.eq_of_toNat_eq
  rw [toNat_ext]
  simp only [toNat_app]
  omega

theorem V32.op_word (x : V32) (o : BitVec 6) (c : BitVec 3) (l : BitVec 2) : (x.word o c l).op = o := by
  simp only [W32.op, V32.word]
  have ho := o.isLt
  have hl := l.isLt
  have hc := c.isLt
  apply BitVec.eq_of_toNat_eq
  rw [toNat_ext]
  simp only [toNat_app]
  omega

theorem N32.ofWord_word (x : N32) (o : BitVec 6) (l : BitVec 2) : N32.ofWord (x.word o l) = x := by
  obtain ⟨a, b, imm15⟩ := x
  simp only [N32.ofWord, N32.word, N32.mk.injEq]
  have ha := a.isLt
  have hb := b.isLt
  have himm15 := imm15.isLt
  have ho := o.isLt
  have hl := l.isLt
  refine ⟨?_, ?_, ?_⟩ <;> apply BitVec.eq_of_toNat_eq <;> rw [toNat_ext] <;> simp only [toNat_app] <;> omega

theorem N32.len_word (x : N32) (o : BitVec 6) (l : BitVec 2) : (x.word o l).len = l := by
  simp only [W32.len, N32.word]
  have ho := o.isLt
  have hl := l.isLt
  apply BitVec.eq_of_toNat_eq
  rw [toNat_ext]
  simp only [toNat_app]
  omega

theorem N32.cls_word (x : N32) (o : BitVec 6) (l : BitVec 2) : (x.word o l).cls = 6 := by
  simp only [W32.cls, N32.word]
  have ho := o.isLt
  have hl := l.isLt
  apply BitVec.eq_of_toNat_eq
  rw [toNat_ext]
  simp only [toNat_app]
  omega

theorem N32.op_word (x : N32) (o : BitVec 6) (l : BitVec 2) : (x.word o l).op = o := by
  simp only [W32.op, N32.word]
  have ho := o.isLt
  have hl := l.isLt
  apply BitVec.eq_of_toNat_eq
  rw [toNat_ext]
  simp only [toNat_app]
  omega

theorem Mark.ofWord_word (x : Mark) (o : BitVec 6) : Mark.ofWord x.eng (x.word o) = x := by
  obtain ⟨eng, rsv, slot⟩ := x
  simp only [Mark.ofWord, Mark.word, Mark.mk.injEq, true_and]
  have hr := rsv.isLt
  have hs := slot.isLt
  have ho := o.isLt
  have hc := eng.cls.isLt
  refine ⟨?_, ?_⟩ <;> apply BitVec.eq_of_toNat_eq <;> rw [toNat_ext] <;> simp only [toNat_app] <;> omega

theorem Mark.len_word (x : Mark) (o : BitVec 6) : (x.word o).len = 0 := by
  simp only [W32.len, Mark.word]
  have ho := o.isLt
  have hc := x.eng.cls.isLt
  apply BitVec.eq_of_toNat_eq
  rw [toNat_ext]
  simp only [toNat_app]
  omega

theorem Mark.cls_word (x : Mark) (o : BitVec 6) : (x.word o).cls = x.eng.cls := by
  simp only [W32.cls, Mark.word]
  have ho := o.isLt
  have hc := x.eng.cls.isLt
  apply BitVec.eq_of_toNat_eq
  rw [toNat_ext]
  simp only [toNat_app]
  omega

theorem Mark.op_word (x : Mark) (o : BitVec 6) : (x.word o).op = o := by
  simp only [W32.op, Mark.word]
  have ho := o.isLt
  have hc := x.eng.cls.isLt
  apply BitVec.eq_of_toNat_eq
  rw [toNat_ext]
  simp only [toNat_app]
  omega

theorem V64.ofWords_words (x : V64) (o : BitVec 6) (c : BitVec 3) (l : BitVec 2) : V64.ofWords (x.r.word o c l) x.word1 = x := by
  obtain ⟨r, f, l, lv, vs3, men, msk, ty, rnd, sq, hs, swz, fn⟩ := x
  simp only [V64.ofWords, V64.word1, V64.mk.injEq, V32.ofWord_word, true_and]
  have hf := f.isLt
  have hl := l.isLt
  have hlv := lv.isLt
  have hvs3 := vs3.isLt
  have hmen := men.isLt
  have hmsk := msk.isLt
  have hty := ty.isLt
  have hrnd := rnd.isLt
  have hsq := sq.isLt
  have hhs := hs.isLt
  have hswz := swz.isLt
  have hfn := fn.isLt
  refine ⟨?_, ?_, ?_, ?_, ?_, ?_, ?_, ?_, ?_, ?_, ?_, ?_⟩ <;> apply BitVec.eq_of_toNat_eq <;> rw [toNat_ext] <;> simp only [toNat_app] <;> omega

theorem M64.ofWords_words (x : M64) (o : BitVec 6) (len : BitVec 2) : M64.ofWords (x.word o len) x.word1 = x := by
  obtain ⟨ta, tb, ab, m, nn, f, ll, lv, tc, sub, nra, aga, nrb, agb, sreg, rsv⟩ := x
  simp only [M64.ofWords, M64.word, M64.word1, M64.mk.injEq]
  have hta := ta.isLt
  have htb := tb.isLt
  have hab := ab.isLt
  have hm := m.isLt
  have hnn := nn.isLt
  have hf := f.isLt
  have hll := ll.isLt
  have hlv := lv.isLt
  have htc := tc.isLt
  have hsub := sub.isLt
  have hnra := nra.isLt
  have haga := aga.isLt
  have hnrb := nrb.isLt
  have hagb := agb.isLt
  have hsreg := sreg.isLt
  have hrsv := rsv.isLt
  have ho := o.isLt
  have hlen := len.isLt
  refine ⟨?_, ?_, ?_, ?_, ?_, ?_, ?_, ?_, ?_, ?_, ?_, ?_, ?_, ?_, ?_, ?_⟩ <;> apply BitVec.eq_of_toNat_eq <;> rw [toNat_ext] <;>
    simp only [toNat_app] <;> omega

theorem M64.len_word (x : M64) (o : BitVec 6) (len : BitVec 2) : (x.word o len).len = len := by
  simp only [W32.len, M64.word]
  have ho := o.isLt
  have hl := len.isLt
  apply BitVec.eq_of_toNat_eq
  rw [toNat_ext]
  simp only [toNat_app]
  omega

theorem M64.cls_word (x : M64) (o : BitVec 6) (len : BitVec 2) : (x.word o len).cls = 2 := by
  simp only [W32.cls, M64.word]
  have ho := o.isLt
  have hl := len.isLt
  apply BitVec.eq_of_toNat_eq
  rw [toNat_ext]
  simp only [toNat_app]
  omega

theorem M64.op_word (x : M64) (o : BitVec 6) (len : BitVec 2) : (x.word o len).op = o := by
  simp only [W32.op, M64.word]
  have ho := o.isLt
  have hl := len.isLt
  apply BitVec.eq_of_toNat_eq
  rw [toNat_ext]
  simp only [toNat_app]
  omega

theorem C64.ofWords_words (x : C64) (o : BitVec 6) (len : BitVec 2) : C64.ofWords (x.word o len) x.word1 = x := by
  obtain ⟨wsem, wv, ssem, sv, md, f, ll, lv, ag, nr, qw, sa, sb, aux⟩ := x
  simp only [C64.ofWords, C64.word, C64.word1, C64.mk.injEq]
  have hwsem := wsem.isLt
  have hwv := wv.isLt
  have hssem := ssem.isLt
  have hsv := sv.isLt
  have hmd := md.isLt
  have hf := f.isLt
  have hll := ll.isLt
  have hlv := lv.isLt
  have hag := ag.isLt
  have hnr := nr.isLt
  have hqw := qw.isLt
  have hsa := sa.isLt
  have hsb := sb.isLt
  have haux := aux.isLt
  have ho := o.isLt
  have hlen := len.isLt
  refine ⟨?_, ?_, ?_, ?_, ?_, ?_, ?_, ?_, ?_, ?_, ?_, ?_, ?_, ?_⟩ <;> apply BitVec.eq_of_toNat_eq <;> rw [toNat_ext] <;>
    simp only [toNat_app] <;> omega

theorem C64.len_word (x : C64) (o : BitVec 6) (len : BitVec 2) : (x.word o len).len = len := by
  simp only [W32.len, C64.word]
  have ho := o.isLt
  have hl := len.isLt
  apply BitVec.eq_of_toNat_eq
  rw [toNat_ext]
  simp only [toNat_app]
  omega

theorem C64.cls_word (x : C64) (o : BitVec 6) (len : BitVec 2) : (x.word o len).cls = 3 := by
  simp only [W32.cls, C64.word]
  have ho := o.isLt
  have hl := len.isLt
  apply BitVec.eq_of_toNat_eq
  rw [toNat_ext]
  simp only [toNat_app]
  omega

theorem C64.op_word (x : C64) (o : BitVec 6) (len : BitVec 2) : (x.word o len).op = o := by
  simp only [W32.op, C64.word]
  have ho := o.isLt
  have hl := len.isLt
  apply BitVec.eq_of_toNat_eq
  rw [toNat_ext]
  simp only [toNat_app]
  omega


/-! ### Words of the fields -/

/-- The layout of the fields is the one that class, length and opcode select. -/
def Fields.fits (c : BitVec 3) (o : BitVec 6) : Fields → Bool
  | .s32 _ | .s64 _ => decide (c = 0 ∨ c = 5 ∨ (c = 4 ∧ o ≠ 7))
  | .s96 _ => decide (c = 0)
  | .v32 _ => decide (c = 1 ∧ o.toNat < 0x3C)
  | .v64 _ => decide (c = 1 ∨ (c = 4 ∧ o = 7))
  | .v96 _ => decide (c = 1)
  | .m64 _ | .m96 _ => decide (c = 2)
  | .c64 _ | .c96 _ => decide (c = 3)
  | .mark x => decide (c = x.eng.cls ∧ 0x3C ≤ o.toNat)
  | .n32 _ | .n64 _ => decide (c = 6)
  | .event => false

/-- Length code of a layout. -/
def Fields.lenCode : Fields → BitVec 2
  | .s32 _ | .v32 _ | .mark _ | .n32 _ | .event => 0
  | .s64 _ | .v64 _ | .m64 _ | .c64 _ | .n64 _ => 1
  | .s96 _ | .v96 _ | .m96 _ | .c96 _ => 2

/-- The first word of the fields carries their length code, class and opcode (R166, R167). -/
theorem Fields.words_head (f : Fields) (c : BitVec 3) (o : BitVec 6) (h : f.fits c o = true) :
    ∃ w rest, f.words c o = w :: rest ∧ w.len = f.lenCode ∧ w.cls = c ∧ w.op = o ∧ rest.length = f.lenCode.toNat := by
  cases f with
  | event => simp [Fields.fits] at h
  | mark x =>
    simp only [Fields.fits, decide_eq_true_eq] at h
    exact ⟨_, _, rfl, Mark.len_word .., by rw [Mark.cls_word, h.1], Mark.op_word .., rfl⟩
  | s32 x => exact ⟨_, _, rfl, S32.len_word .., S32.cls_word .., S32.op_word .., rfl⟩
  | s64 x => exact ⟨_, _, rfl, S32.len_word .., S32.cls_word .., S32.op_word .., rfl⟩
  | s96 x => exact ⟨_, _, rfl, S32.len_word .., S32.cls_word .., S32.op_word .., rfl⟩
  | v32 x => exact ⟨_, _, rfl, V32.len_word .., V32.cls_word .., V32.op_word .., rfl⟩
  | v64 x => exact ⟨_, _, rfl, V32.len_word .., V32.cls_word .., V32.op_word .., rfl⟩
  | v96 x => exact ⟨_, _, rfl, V32.len_word .., V32.cls_word .., V32.op_word .., rfl⟩
  | m64 x =>
    simp only [Fields.fits, decide_eq_true_eq] at h
    exact ⟨_, _, rfl, M64.len_word .., by rw [M64.cls_word, h], M64.op_word .., rfl⟩
  | m96 x =>
    simp only [Fields.fits, decide_eq_true_eq] at h
    exact ⟨_, _, rfl, M64.len_word .., by rw [M64.cls_word, h], M64.op_word .., rfl⟩
  | c64 x =>
    simp only [Fields.fits, decide_eq_true_eq] at h
    exact ⟨_, _, rfl, C64.len_word .., by rw [C64.cls_word, h], C64.op_word .., rfl⟩
  | c96 x =>
    simp only [Fields.fits, decide_eq_true_eq] at h
    exact ⟨_, _, rfl, C64.len_word .., by rw [C64.cls_word, h], C64.op_word .., rfl⟩
  | n32 x =>
    simp only [Fields.fits, decide_eq_true_eq] at h
    exact ⟨_, _, rfl, N32.len_word .., by rw [N32.cls_word, h], N32.op_word .., rfl⟩
  | n64 x =>
    simp only [Fields.fits, decide_eq_true_eq] at h
    exact ⟨_, _, rfl, N32.len_word .., by rw [N32.cls_word, h], N32.op_word .., rfl⟩

/-- The fields come back from their words (R168 to R173). -/
theorem Fields.ofWords_words (f : Fields) (c : BitVec 3) (o : BitVec 6) (h : f.fits c o = true) :
    Fields.ofWords (f.words c o) = some f := by
  cases f with
  | event => simp [Fields.fits] at h
  | mark x =>
    simp only [Fields.fits, decide_eq_true_eq] at h
    simp only [Fields.words, Fields.ofWords, Mark.len_word, Mark.cls_word, Mark.op_word]
    have hm := Mark.ofWord_word x o
    cases he : x.eng <;> simp [he, Engine.cls] at hm ⊢ <;> simp [hm, h.2]
  | s32 x =>
    simp only [Fields.fits, decide_eq_true_eq] at h
    simp only [Fields.words, Fields.ofWords, S32.len_word, S32.cls_word, S32.ofWord_word]
    rcases h with rfl | rfl | ⟨rfl, _⟩ <;> rfl
  | s64 x =>
    simp only [Fields.fits, decide_eq_true_eq] at h
    simp only [Fields.words, Fields.ofWords, S32.len_word, S32.cls_word, S32.op_word, S32.ofWord_word]
    rcases h with rfl | rfl | ⟨rfl, h⟩ <;> simp_all
  | s96 x =>
    simp only [Fields.fits, decide_eq_true_eq] at h
    subst h
    simp only [Fields.words, Fields.ofWords, S32.len_word, S32.cls_word, S32.ofWord_word]
    rfl
  | v32 x =>
    simp only [Fields.fits, decide_eq_true_eq] at h
    obtain ⟨rfl, h⟩ := h
    simp only [Fields.words, Fields.ofWords, V32.len_word, V32.cls_word, V32.op_word, V32.ofWord_word]
    simp [show ¬ 0x3C ≤ o.toNat by omega]
  | v64 x =>
    simp only [Fields.fits, decide_eq_true_eq] at h
    simp only [Fields.words, Fields.ofWords, V32.len_word, V32.cls_word, V32.op_word, V64.ofWords_words]
    rcases h with rfl | ⟨rfl, rfl⟩ <;> rfl
  | v96 x =>
    simp only [Fields.fits, decide_eq_true_eq] at h
    subst h
    simp only [Fields.words, Fields.ofWords, V32.len_word, V32.cls_word, V64.ofWords_words]
    rfl
  | m64 x =>
    simp only [Fields.words, Fields.ofWords, M64.len_word, M64.cls_word, M64.ofWords_words]
    rfl
  | m96 x =>
    simp only [Fields.words, Fields.ofWords, M64.len_word, M64.cls_word, M64.ofWords_words]
    rfl
  | c64 x =>
    simp only [Fields.words, Fields.ofWords, C64.len_word, C64.cls_word, C64.ofWords_words]
    rfl
  | c96 x =>
    simp only [Fields.words, Fields.ofWords, C64.len_word, C64.cls_word, C64.ofWords_words]
    rfl
  | n32 x =>
    simp only [Fields.words, Fields.ofWords, N32.len_word, N32.cls_word, N32.ofWord_word]
    rfl
  | n64 x =>
    simp only [Fields.words, Fields.ofWords, N32.len_word, N32.cls_word, N32.ofWord_word]
    rfl

/-- Words of fields that fit their name parse to the name and the fields. -/
theorem parseWords_words (op : Op) (f : Fields) (c : BitVec 3) (o : BitVec 6) (h : f.fits c o = true)
    (ha : opAt c.toNat f.lenCode.toNat o.toNat = some op) : parseWords (f.words c o) = some (op, f) := by
  obtain ⟨w, rest, hw, hl, hc, ho, _⟩ := f.words_head c o h
  have hf := f.ofWords_words c o h
  rw [hw] at hf ⊢
  simp [parseWords, hf, hl, hc, ho, ha]

/-! ### Bytes -/

theorem wordOfBytes_bytesOfWord (w : W32) :
    wordOfBytes (w.extractLsb' 0 8) (w.extractLsb' 8 8) (w.extractLsb' 16 8) (w.extractLsb' 24 8) = w := by
  have h := w.isLt
  apply BitVec.eq_of_toNat_eq
  simp only [wordOfBytes, toNat_app, toNat_ext]
  omega

/-- Words come back from their bytes, with the bytes after them (R146). -/
theorem takeWords_bytes (ws : List W32) (rest : List Byte) : takeWords ws.length (ws.flatMap bytesOfWord ++ rest) = some (ws, rest) := by
  induction ws with
  | nil => rfl
  | cons w ws ih =>
    simp only [List.flatMap_cons, bytesOfWord, List.cons_append, List.nil_append, List.length_cons, takeWords, ih,
      wordOfBytes_bytesOfWord]

theorem takeWords_one (w : W32) (ws : List W32) (rest : List Byte) :
    ∃ r, takeWords 1 ((w :: ws).flatMap bytesOfWord ++ rest) = some ([w], r) := by
  refine ⟨ws.flatMap bytesOfWord ++ rest, ?_⟩
  have h := takeWords_bytes [w] (ws.flatMap bytesOfWord ++ rest)
  simpa using h

end Sys2Proof
end

