-- ==== Sys2Proof/Laws/Sparse.lean ====
section
/-! SUPPORT. Laws of the stores and tables: reads after writes, and that every operation keeps the canonical form. -/
namespace Sys2Proof.Machine

variable {α : Type}

/-! ### Key order -/

theorem keysFrom_mono {lo lo' : Nat} (h : lo' ≤ lo) : ∀ {t : List (Nat × α)}, keysFrom lo t = true → keysFrom lo' t = true
  | [], _ => rfl
  | (k, _) :: t, ht => by
    simp only [keysFrom, Bool.and_eq_true, decide_eq_true_eq] at ht ⊢
    exact ⟨by omega, ht.2⟩

theorem keysFrom_mem {lo : Nat} : ∀ {t : List (Nat × α)}, keysFrom lo t = true → ∀ p ∈ t, lo ≤ p.1
  | [], _, p, hp => by simp at hp
  | (k, v) :: t, h, p, hp => by
    simp only [keysFrom, Bool.and_eq_true, decide_eq_true_eq] at h
    rcases List.mem_cons.1 hp with rfl | hp
    · exact h.1
    · have := keysFrom_mem h.2 p hp
      omega

theorem keysFrom_filter (p : Nat × α → Bool) : ∀ {lo : Nat} {t : List (Nat × α)}, keysFrom lo t = true → keysFrom lo (t.filter p) = true
  | _, [], _ => rfl
  | lo, (k, v) :: t, h => by
    simp only [keysFrom, Bool.and_eq_true, decide_eq_true_eq] at h
    have ih := keysFrom_filter p h.2
    by_cases hp : p (k, v) = true
    · simp [hp, keysFrom, h.1, ih]
    · simp only [List.filter_cons, hp]
      exact keysFrom_mono (by omega) ih

theorem keysFrom_map (f : Nat × α → Nat × α) (hf : ∀ p, (f p).1 = p.1) :
    ∀ {lo : Nat} {t : List (Nat × α)}, keysFrom lo t = true → keysFrom lo (t.map f) = true
  | _, [], _ => rfl
  | lo, (k, v) :: t, h => by
    simp only [keysFrom, Bool.and_eq_true, decide_eq_true_eq] at h
    simp [keysFrom, hf (k, v), h.1, keysFrom_map f hf h.2]

/-! ### Tables -/

theorem Tab.find_put_self (v : α) (k : Nat) : ∀ {t : Tab α}, Tab.find (Tab.put t k v) k = some v
  | [] => by simp [Tab.put, Tab.find]
  | (a, w) :: t => by
    simp only [Tab.put]
    by_cases hk : k = a
    · simp [hk, Tab.find]
    · by_cases hlt : k < a
      · simp [hk, hlt, Tab.find]
      · simp [hk, hlt, Tab.find, Tab.find_put_self v k]

theorem Tab.find_put_ne (v : α) {k j : Nat} (hj : j ≠ k) : ∀ {t : Tab α}, Tab.find (Tab.put t k v) j = Tab.find t j
  | [] => by simp [Tab.put, Tab.find, hj]
  | (a, w) :: t => by
    simp only [Tab.put]
    by_cases hk : k = a
    · subst hk
      simp [Tab.find, hj]
    · by_cases hlt : k < a
      · simp [hk, hlt, Tab.find, hj]
      · simp [hk, hlt, Tab.find, Tab.find_put_ne v hj]

/-- What a table holds after a record was put. -/
theorem Tab.find_put (t : Tab α) (k j : Nat) (v : α) : Tab.find (Tab.put t k v) j = if j = k then some v else Tab.find t j := by
  by_cases hj : j = k
  · subst hj
    simp [Tab.find_put_self]
  · simp [hj, Tab.find_put_ne v hj]

/-- What a table holds after a record was removed. -/
theorem Tab.find_del (k j : Nat) : ∀ (t : Tab α), Tab.find (Tab.del t k) j = if j = k then none else Tab.find t j
  | [] => by simp [Tab.del, Tab.find]
  | (a, w) :: t => by
    have ih := Tab.find_del k j t
    simp only [Tab.del] at ih ⊢
    by_cases ha : a = k
    · subst ha
      by_cases hj : j = a
      · simpa [hj] using ih
      · simpa [Tab.find, hj] using ih
    · by_cases hj : j = a
      · simp [ha, hj, Tab.find]
      · simpa [ha, hj, Tab.find] using ih

theorem Tab.keys_put (v : α) (k : Nat) : ∀ {t : Tab α} {lo : Nat}, keysFrom lo t = true → lo ≤ k →
    keysFrom lo (Tab.put t k v) = true
  | [], lo, _, hlo => by simp [Tab.put, keysFrom, hlo]
  | (a, w) :: t, lo, h, hlo => by
    simp only [keysFrom, Bool.and_eq_true, decide_eq_true_eq] at h
    simp only [Tab.put]
    by_cases hk : k = a
    · subst hk
      simp [keysFrom, hlo, h.2]
    · by_cases hlt : k < a
      · simp only [if_neg hk, if_pos hlt, keysFrom, Bool.and_eq_true, decide_eq_true_eq]
        exact ⟨hlo, by omega, h.2⟩
      · simp only [if_neg hk, if_neg hlt, keysFrom, Bool.and_eq_true, decide_eq_true_eq]
        exact ⟨h.1, Tab.keys_put v k h.2 (by omega)⟩

theorem Tab.wf_put {t : Tab α} (h : t.wf = true) (k : Nat) (v : α) : (Tab.put t k v).wf = true := Tab.keys_put v k h (by omega)
theorem Tab.wf_del {t : Tab α} (h : t.wf = true) (k : Nat) : (Tab.del t k).wf = true := keysFrom_filter _ h
theorem Tab.wf_upd {t : Tab α} (h : t.wf = true) (k : Nat) (f : α → α) : (Tab.upd t k f).wf = true :=
  keysFrom_map _ (fun p => by by_cases hp : p.1 = k <;> simp [hp]) h
theorem Tab.wf_keep {t : Tab α} (h : t.wf = true) (p : Nat → α → Bool) : (Tab.keep t p).wf = true := keysFrom_filter _ h
theorem Tab.wf_mapv {t : Tab α} (h : t.wf = true) (f : Nat → α → α) : (Tab.mapv t f).wf = true :=
  keysFrom_map (fun x => (x.1, f x.1 x.2)) (fun _ => rfl) h

/-! ### Stores -/

@[simp] theorem Sparse.get_nil (d : α) (k : Nat) : Sparse.get d ([] : Sparse α) k = d := rfl

theorem Sparse.get_find (d : α) (k : Nat) : ∀ (m : Sparse α), Sparse.get d m k = (Tab.find m k).getD d
  | [] => rfl
  | (a, v) :: t => by
    by_cases h : k = a
    · simp [Sparse.get, Tab.find, h]
    · simp [Sparse.get, Tab.find, h, Sparse.get_find d k t]

theorem Sparse.get_below (d : α) {lo : Nat} : ∀ {m : Sparse α}, keysFrom lo m = true → ∀ k, k < lo → Sparse.get d m k = d
  | [], _, _, _ => rfl
  | (a, v) :: t, h, k, hk => by
    simp only [keysFrom, Bool.and_eq_true, decide_eq_true_eq] at h
    simp only [Sparse.get]
    rw [if_neg (by omega)]
    exact Sparse.get_below d h.2 k (by omega)

variable [DecidableEq α]

/-- A read after a write: the value written at its key, every other key as before. -/
theorem Sparse.get_set (d : α) (m : Sparse α) (k j : Nat) (v : α) :
    Sparse.get d (Sparse.set d m k v) j = if j = k then v else Sparse.get d m j := by
  by_cases hv : v = d
  · by_cases hj : j = k <;> simp [Sparse.set, hv, Sparse.get_find, Tab.find_del, hj]
  · by_cases hj : j = k <;> simp [Sparse.set, hv, Sparse.get_find, Tab.find_put, hj]

@[simp] theorem Sparse.get_set_self (d : α) (m : Sparse α) (k : Nat) (v : α) : Sparse.get d (Sparse.set d m k v) k = v := by
  simp [Sparse.get_set]

theorem Sparse.get_set_ne (d : α) (m : Sparse α) {k j : Nat} (v : α) (h : j ≠ k) :
    Sparse.get d (Sparse.set d m k v) j = Sparse.get d m j := by simp [Sparse.get_set, h]

theorem Tab.vals_put {d v : α} (hv : v ≠ d) (k : Nat) : ∀ {m : Sparse α}, (m.all fun p => p.2 != d) = true →
    ((Tab.put m k v).all fun p => p.2 != d) = true
  | [], _ => by simp [Tab.put, hv]
  | (a, w) :: t, h => by
    simp only [List.all_cons, Bool.and_eq_true, bne_iff_ne, ne_eq] at h
    simp only [Tab.put]
    have ih := Tab.vals_put hv k h.2
    by_cases hk : k = a
    · simpa [hk, hv] using h.2
    · by_cases hlt : k < a
      · simpa [hk, hlt, hv] using h
      · simp only [if_neg hk, if_neg hlt, List.all_cons, Bool.and_eq_true, bne_iff_ne, ne_eq]
        exact ⟨h.1, ih⟩

/-- Keeping only some entries keeps the canonical form. -/
theorem Sparse.wf_filter (d : α) {m : Sparse α} (h : Sparse.wf d m = true) (p : Nat × α → Bool) :
    Sparse.wf d (m.filter p) = true := by
  simp only [Sparse.wf, Bool.and_eq_true] at h ⊢
  refine ⟨keysFrom_filter p h.1, ?_⟩
  have h2 := h.2
  simp only [List.all_eq_true, bne_iff_ne, ne_eq] at h2 ⊢
  exact fun x hx => h2 x (List.mem_filter.1 hx).1

/-- A write keeps the canonical form. -/
theorem Sparse.wf_set (d : α) {m : Sparse α} (h : Sparse.wf d m = true) (k : Nat) (v : α) : Sparse.wf d (Sparse.set d m k v) = true := by
  by_cases hv : v = d
  · simp only [Sparse.set, if_pos hv, Tab.del]
    exact Sparse.wf_filter d h _
  · simp only [Sparse.set, if_neg hv]
    simp only [Sparse.wf, Bool.and_eq_true] at h ⊢
    exact ⟨Tab.keys_put v k h.1 (by omega), Tab.vals_put hv k h.2⟩

@[simp] theorem Sparse.wf_nil (d : α) : Sparse.wf d ([] : Sparse α) = true := rfl

/-- A store in canonical form is its reads: two that read alike are equal. -/
theorem Sparse.ext {d : α} : ∀ {m n : Sparse α} {lo : Nat}, keysFrom lo m = true → keysFrom lo n = true →
    (m.all fun p => p.2 != d) = true → (n.all fun p => p.2 != d) = true →
    (∀ k, Sparse.get d m k = Sparse.get d n k) → m = n
  | [], [], _, _, _, _, _, _ => rfl
  | [], (a, v) :: t, _, _, hn, _, vn, h => by
    have := h a
    simp [Sparse.get] at this vn
    exact absurd this.symm vn.1
  | (a, v) :: t, [], _, hm, _, vm, _, h => by
    have := h a
    simp [Sparse.get] at this vm
    exact absurd this vm.1
  | (a, v) :: t, (b, w) :: u, lo, hm, hn, vm, vn, h => by
    simp only [keysFrom, Bool.and_eq_true, decide_eq_true_eq] at hm hn
    simp only [List.all_cons, Bool.and_eq_true, bne_iff_ne, ne_eq] at vm vn
    rcases Nat.lt_trichotomy a b with hab | hab | hab
    · have := h a
      simp [Sparse.get, show a ≠ b by omega, Sparse.get_below d hn.2 a (by omega)] at this
      exact absurd this vm.1
    · subst hab
      have hv := h a
      simp [Sparse.get] at hv
      subst hv
      have ht : t = u := by
        refine Sparse.ext (d := d) hm.2 hn.2 vm.2 vn.2 fun k => ?_
        by_cases hk : k ≤ a
        · rw [Sparse.get_below d hm.2 k (by omega), Sparse.get_below d hn.2 k (by omega)]
        · have := h k
          simpa [Sparse.get, show k ≠ a by omega] using this
      rw [ht]
    · have := h b
      simp [Sparse.get, show b ≠ a by omega, Sparse.get_below d hm.2 b (by omega)] at this
      exact absurd this.symm vn.1

/-! ### Memory -/

/-- A byte write keeps the canonical form. -/
theorem Memory.wf_wr {m : Memory} (h : m.wf = true) (a : Nat) (v : Byte) : (m.wr a v).wf = true := Sparse.wf_set _ h a v

/-- Writing bytes keeps the canonical form. -/
theorem Memory.wf_wrBytes : ∀ (bs : List Byte) {m : Memory}, m.wf = true → ∀ a, (m.wrBytes a bs).wf = true
  | [], _, h, _ => h
  | b :: bs, _, h, a => Memory.wf_wrBytes bs (Memory.wf_wr h a b) (a + 1)

/-- A byte read after a byte write. -/
theorem Memory.rd_wr (m : Memory) (a k : Nat) (v : Byte) : (m.wr a v).rd k = if k = a then v else m.rd k :=
  Sparse.get_set unlistedByte m a k v

/-- A byte read after bytes were written: inside them the byte written, outside them the byte as before. -/
theorem Memory.rd_wrBytes : ∀ (bs : List Byte) (m : Memory) (a k : Nat),
    (m.wrBytes a bs).rd k = if h : a ≤ k ∧ k < a + bs.length then bs[k - a]'(by omega) else m.rd k
  | [], m, a, k => by
    simp [Memory.wrBytes]
  | b :: bs, m, a, k => by
    have ih := Memory.rd_wrBytes bs (m.wr a b) (a + 1) k
    simp only [Memory.wrBytes]
    rw [ih, Memory.rd_wr]
    by_cases h1 : a + 1 ≤ k ∧ k < a + 1 + bs.length
    · have h2 : a ≤ k ∧ k < a + (b :: bs).length := by simp; omega
      rw [dif_pos h1, dif_pos h2]
      obtain ⟨j, rfl⟩ : ∃ j, k = a + 1 + j := ⟨k - (a + 1), by omega⟩
      have e1 : a + 1 + j - (a + 1) = j := by omega
      have e2 : a + 1 + j - a = j + 1 := by omega
      simp [e1, e2]
    · rw [dif_neg h1]
      by_cases hk : k = a
      · subst hk
        simp
      · have h2 : ¬ (a ≤ k ∧ k < a + (b :: bs).length) := by simp; omega
        rw [dif_neg h2, if_neg hk]

/-- Bytes written elsewhere are not seen. -/
theorem Memory.rd_wrBytes_out (bs : List Byte) (m : Memory) {a k : Nat} (hk : k < a ∨ a + bs.length ≤ k) :
    (m.wrBytes a bs).rd k = m.rd k := by
  rw [Memory.rd_wrBytes bs m, dif_neg (by omega)]

/-- Reading back what was written. -/
theorem Memory.rdBytes_wrBytes (bs : List Byte) (m : Memory) (a : Nat) :
    (m.wrBytes a bs).rdBytes a bs.length = bs := by
  have gen : ∀ (n i : Nat), i + n ≤ bs.length → (m.wrBytes a bs).rdBytes (a + i) n = (bs.drop i).take n := by
    intro n
    induction n with
    | zero => intro i _; simp [Memory.rdBytes]
    | succ n ih =>
      intro i hi
      have hr : (m.wrBytes a bs).rd (a + i) = bs[i] := by
        rw [Memory.rd_wrBytes bs m, dif_pos (by omega)]
        simp
      have hd : bs.drop i = bs[i] :: bs.drop (i + 1) := (List.getElem_cons_drop (by omega)).symm
      simp only [Memory.rdBytes, hr]
      rw [hd, List.take_succ_cons]
      congr 1
      have := ih (i + 1) (by omega)
      rwa [← Nat.add_assoc] at this
  have := gen bs.length 0 (by omega)
  simpa using this

/-- Two memories in canonical form that read alike are equal. -/
theorem Memory.ext {m n : Memory} (hm : m.wf = true) (hn : n.wf = true) (h : ∀ a, m.rd a = n.rd a) : m = n := by
  simp only [Memory.wf, Sparse.wf, Bool.and_eq_true] at hm hn
  exact Sparse.ext hm.1 hn.1 hm.2 hn.2 h

end Sys2Proof.Machine
end

