-- ==== Sys2Proof/Laws/Memory.lean ====
section
/-! SUPPORT. Every operation that writes memory keeps the canonical form, and reset has it. -/
namespace Sys2Proof.Machine

variable {α : Type}

/-! ### Memories as lists -/

/-- Keys that rise from `lo` stay below a bound when all do, and a list of higher keys may follow. -/
theorem keysFrom_append {hi : Nat} : ∀ {lo : Nat} {t u : List (Nat × α)}, keysFrom lo t = true → (∀ p ∈ t, p.1 < hi) → lo ≤ hi →
    keysFrom hi u = true → keysFrom lo (t ++ u) = true
  | lo, [], u, _, _, h, hu => keysFrom_mono h hu
  | lo, (k, v) :: t, u, ht, hb, h, hu => by
    simp only [keysFrom, Bool.and_eq_true, decide_eq_true_eq, List.cons_append] at ht ⊢
    have hk := hb (k, v) (by simp)
    exact ⟨ht.1, keysFrom_append ht.2 (fun p hp => hb p (by simp [hp])) (by simpa using hk) hu⟩

theorem keysFrom_shift (a : Nat) : ∀ {lo : Nat} {t : List (Nat × α)}, keysFrom lo t = true →
    keysFrom (lo + a) (t.map fun p => (p.1 + a, p.2)) = true
  | _, [], _ => rfl
  | lo, (k, v) :: t, h => by
    simp only [keysFrom, Bool.and_eq_true, decide_eq_true_eq, List.map_cons] at h ⊢
    refine ⟨by omega, ?_⟩
    have := keysFrom_shift a h.2
    rwa [show k + 1 + a = k + a + 1 by omega] at this

theorem keysFrom_unshift (a : Nat) : ∀ {lo : Nat} {t : List (Nat × α)}, keysFrom lo t = true → (∀ p ∈ t, a ≤ p.1) →
    keysFrom (lo - a) (t.map fun p => (p.1 - a, p.2)) = true
  | _, [], _, _ => rfl
  | lo, (k, v) :: t, h, hb => by
    simp only [keysFrom, Bool.and_eq_true, decide_eq_true_eq, List.map_cons] at h ⊢
    have hk : a ≤ k := hb (k, v) (by simp)
    refine ⟨by omega, ?_⟩
    have := keysFrom_unshift a h.2 (fun p hp => hb p (by simp [hp]))
    rwa [show k + 1 - a = k - a + 1 by omega] at this

theorem Memory.wf_iff (m : Memory) : m.wf = true ↔ keysFrom 0 m = true ∧ ∀ p ∈ m, p.2 ≠ unlistedByte := by
  simp [Memory.wf, Sparse.wf, List.all_eq_true]

theorem Memory.wf_filter {m : Memory} (h : m.wf = true) (p : Nat × Byte → Bool) : Memory.wf (m.filter p) = true :=
  Sparse.wf_filter _ h p

/-- A part of a memory, moved to offset 0. -/
theorem Memory.wf_part {m : Memory} (h : m.wf = true) (a n : Nat) : (m.part a n).wf = true := by
  rw [Memory.wf_iff] at h ⊢
  refine ⟨?_, ?_⟩
  · have := keysFrom_unshift a (keysFrom_filter (fun p => decide (a ≤ p.1 ∧ p.1 < a + n)) h.1)
      (fun p hp => by have := (List.mem_filter.1 hp).2; simp at this; exact this.1)
    simpa [Memory.part] using this
  · intro p hp
    simp only [Memory.part, List.mem_map] at hp
    obtain ⟨q, hq, rfl⟩ := hp
    exact h.2 q (List.mem_filter.1 hq).1

/-- A memory with a block replaced by one of another memory. -/
theorem Memory.wf_blit {m x : Memory} (h : m.wf = true) (hx : x.wf = true) (a n : Nat) : (m.blit a n x).wf = true := by
  rw [Memory.wf_iff] at h hx ⊢
  refine ⟨?_, ?_⟩
  · have low := keysFrom_filter (fun p => decide (p.1 < a)) h.1
    have mid := keysFrom_shift a (keysFrom_filter (fun p => decide (p.1 < n)) hx.1)
    have high : keysFrom (a + n) (m.filter fun p => decide (a + n ≤ p.1)) = true := by
      have hb : ∀ {lo : Nat} {t : List (Nat × Byte)}, keysFrom lo t = true → keysFrom (max lo (a + n)) (t.filter fun p => decide (a + n ≤ p.1)) = true := by
        intro lo t
        induction t generalizing lo with
        | nil => intro _; rfl
        | cons q t ih =>
          intro ht
          obtain ⟨k, v⟩ := q
          simp only [keysFrom, Bool.and_eq_true, decide_eq_true_eq] at ht
          have := ih ht.2
          by_cases hk : a + n ≤ k
          · simp only [List.filter_cons, hk, decide_true, if_true, keysFrom, Bool.and_eq_true, decide_eq_true_eq]
            exact ⟨by omega, by rwa [show max (k + 1) (a + n) = k + 1 by omega] at this⟩
          · simp only [List.filter_cons, hk, decide_false, Bool.false_eq_true, if_false]
            exact keysFrom_mono (by omega) this
      simpa using hb h.1
    have tail := keysFrom_append (hi := a + n) (u := m.filter fun p => decide (a + n ≤ p.1)) mid
      (fun p hp => by
        obtain ⟨q, hq, rfl⟩ := List.mem_map.1 hp
        have := (List.mem_filter.1 hq).2
        simp at this ⊢; omega) (by omega) high
    have := keysFrom_append (hi := a) low (fun p hp => by have := (List.mem_filter.1 hp).2; simpa using this) (by omega)
      (by simpa using tail)
    simpa [Memory.blit, List.append_assoc] using this
  · intro p hp
    simp only [Memory.blit, List.mem_append, List.mem_map, List.mem_filter] at hp
    rcases hp with (hp | ⟨q, hq, rfl⟩) | hp
    · exact h.2 p hp.1
    · exact hx.2 q hq.1
    · exact h.2 p hp.1

/-! ### The memory system -/

theorem Mem.wf_iff (m : Mem) : m.wf = true ↔ m.phys.wf = true ∧ m.host.wf = true ∧ ∀ p ∈ m.peer, p.2.wf = true := by
  simp [Mem.wf, List.all_eq_true, and_assoc]

theorem Mem.wf_phys {m : Mem} {x : Memory} (h : m.wf = true) (hx : x.wf = true) : ({ m with phys := x } : Mem).wf = true := by
  rw [Mem.wf_iff] at h ⊢; exact ⟨hx, h.2⟩
theorem Mem.wf_host {m : Mem} {x : Memory} (h : m.wf = true) (hx : x.wf = true) : ({ m with host := x } : Mem).wf = true := by
  rw [Mem.wf_iff] at h ⊢; exact ⟨h.1, hx, h.2.2⟩

/-- Writing under a key is writing some bytes. -/
theorem Memory.wf_wrKey {m : Memory} (h : m.wf = true) (k a : Nat) (bs : List Byte) : (m.wrKey k a bs).wf = true := by
  unfold Memory.wrKey
  split <;> exact Memory.wf_wrBytes _ h _

/-- Counters, locks and swaps are no memory (R327 to R331). -/
theorem State.startSwap_stores (s : State) (g m : Nat) (b : Bool) : (s.startSwap g m b).mem.phys = s.mem.phys ∧
    (s.startSwap g m b).mem.host = s.mem.host ∧ (s.startSwap g m b).mem.peer = s.mem.peer := by
  unfold State.startSwap
  split
  · exact ⟨rfl, rfl, rfl⟩
  · exact ⟨rfl, rfl, rfl⟩

theorem State.countAccess_stores (s : State) (f : Nat) : (s.countAccess f).mem.phys = s.mem.phys ∧
    (s.countAccess f).mem.host = s.mem.host ∧ (s.countAccess f).mem.peer = s.mem.peer := by
  unfold State.countAccess
  split
  · exact ⟨rfl, rfl, rfl⟩
  · dsimp only
    split
    · exact State.startSwap_stores _ _ _ _
    · exact ⟨rfl, rfl, rfl⟩

theorem State.countAccess_wf {s : State} (h : s.mem.wf = true) (f : Nat) : (s.countAccess f).mem.wf = true := by
  obtain ⟨hp, hh, hr⟩ := s.countAccess_stores f
  rw [Mem.wf_iff] at h ⊢
  rwa [hp, hh, hr]

theorem State.keyFill_wf (s : State) (f : Nat) (slot : Option Nat) (h : s.mem.wf = true) : (s.keyFill f slot).mem.wf = true := by
  rw [Mem.wf_iff] at h ⊢
  unfold State.keyFill
  split
  · exact h
  · refine ⟨?_, h.2⟩
    dsimp only
    split
    · exact Memory.wf_filter h.1 _
    · exact h.1

theorem State.keyFill_host (s : State) (f : Nat) (slot : Option Nat) : (s.keyFill f slot).mem.host = s.mem.host := by
  unfold State.keyFill; split <;> rfl
theorem State.keyFill_peer (s : State) (f : Nat) (slot : Option Nat) : (s.keyFill f slot).mem.peer = s.mem.peer := by
  unfold State.keyFill; split <;> rfl

/-- A write of lines keeps the form. -/
theorem State.wrLines_wf {s : State} (h : s.mem.wf = true) (pa : Nat) (bs : List Byte) (k : Nat) (slot : Option Nat) :
    (s.wrLines pa bs k slot).mem.wf = true := by
  have hk := s.keyFill_wf (pa / 65536) slot h
  rw [Mem.wf_iff] at hk ⊢
  exact ⟨Memory.wf_wrBytes _ hk.1 _, hk.2⟩

/-- A write at a system address keeps the form. -/
theorem State.wf_of_sysWr {s : State} (h : s.mem.wf = true) (a : Nat) (bs : List Byte) : (s.sysWr a bs).mem.wf = true := by
  unfold State.sysWr
  dsimp only
  split
  · exact Mem.wf_host h (Memory.wf_wrKey ((Mem.wf_iff _).1 h).2.1 _ _ _)
  · split
    · exact h
    · exact State.countAccess_wf (State.wrLines_wf h _ _ _ _) _

theorem State.setDirty_wf (s : State) (cell a fa ea : Nat) (leaf : Word) (h : s.mem.wf = true) :
    (s.setDirty cell a fa ea leaf).mem.wf = true := by
  have hw := State.wf_of_sysWr h (ea + 4) [s.mem.phys.rd (ea + 4) ||| 0x10]
  rw [Mem.wf_iff] at hw ⊢
  exact hw

theorem keysFrom_zipIdx (p : α × Nat → Bool) : ∀ (xs : List α) (k : Nat),
    keysFrom k (((xs.zipIdx k).filter p).map fun q => (q.2, q.1)) = true
  | [], _ => rfl
  | x :: xs, k => by
    have ih := keysFrom_zipIdx p xs (k + 1)
    rw [List.zipIdx_cons, List.filter_cons]
    split
    · simpa [keysFrom] using ih
    · exact keysFrom_mono (Nat.le_succ k) ih

/-- The bytes of a list as a memory. -/
theorem Memory.wf_sparseOf (bs : List Byte) : Memory.wf (sparseOf unlistedByte bs) = true := by
  rw [Memory.wf_iff]
  refine ⟨keysFrom_zipIdx _ bs 0, fun p hp => ?_⟩
  obtain ⟨q, hq, rfl⟩ := List.mem_map.1 hp
  simpa using (List.mem_filter.1 hq).2

theorem State.foldl_wf {α : Type} (f : State → α → State) (hf : ∀ s x, s.mem.wf = true → (f s x).mem.wf = true) (xs : List α)
    {s : State} (h : s.mem.wf = true) : (xs.foldl f s).mem.wf = true := by
  induction xs generalizing s with
  | nil => exact h
  | cons x xs ih => exact ih (hf s x h)

theorem State.sysBlit_wf (s : State) (a n : Nat) (x : Memory) (h : s.mem.wf = true) (hx : x.wf = true) :
    (s.sysBlit a n x).mem.wf = true := by
  have hm := (Mem.wf_iff _).1 h
  unfold State.sysBlit
  dsimp only
  split
  · split
    · exact State.wf_of_sysWr h _ _
    · exact Mem.wf_host h (Memory.wf_blit hm.2.1 hx _ _)
  · split
    · exact State.foldl_wf _ (fun s _ hs => State.countAccess_wf hs _) _ (Mem.wf_phys h (Memory.wf_blit hm.1 hx _ _))
    · exact State.foldl_wf _ (fun s _ hs => State.wf_of_sysWr hs _ _) _ h

theorem State.sysPart_wf (s : State) (a n : Nat) (h : s.mem.wf = true) : (s.sysPart a n).wf = true := by
  rw [Mem.wf_iff] at h
  unfold State.sysPart
  dsimp only
  split
  · split
    · exact Memory.wf_sparseOf _
    · exact Memory.wf_part h.2.1 _ _
  · split
    · exact Memory.wf_part h.1 _ _
    · exact Memory.wf_sparseOf _

/-- What a write of local memory does to the stores. -/
theorem State.locWr_mem (s : State) (pa : Nat) (bs : List Byte) (slot : Nat) :
    (s.locWr pa bs slot).mem.phys = (s.keyFill (pa / 65536) (some slot)).mem.phys.wrBytes pa bs ∧
    (s.locWr pa bs slot).mem.host = s.mem.host ∧ (s.locWr pa bs slot).mem.peer = s.mem.peer ∧
    (s.locWr pa bs slot).cells = s.cells := by
  refine ⟨rfl, ?_, ?_, ?_⟩
  · exact State.keyFill_host s _ _
  · exact State.keyFill_peer s _ _
  · unfold State.locWr State.wrLines State.keyFill; split <;> rfl

/-- Reset: memory lists nothing, and no team has a vault. -/
theorem State.reset_memory : State.reset.mem.wf = true ∧ State.reset.cells = [] ∧ State.reset.hub.saved = [] := by decide

end Sys2Proof.Machine
end

