-- ==== Sys2Proof/Laws/State.lean ====
section
/-! SUPPORT. What each update of the state leaves alone: one lemma per field per update. -/
namespace Sys2Proof.Machine

variable (s : State)

@[simp] theorem State.setCell_caps (c : Nat) (x : Cell) : (s.setCell c x).caps = s.caps := rfl
@[simp] theorem State.setCell_now (c : Nat) (x : Cell) : (s.setCell c x).now = s.now := rfl
@[simp] theorem State.setCell_mem (c : Nat) (x : Cell) : (s.setCell c x).mem = s.mem := rfl
@[simp] theorem State.setCell_tier (c : Nat) (x : Cell) : (s.setCell c x).tier = s.tier := rfl
@[simp] theorem State.setCell_ctxs (c : Nat) (x : Cell) : (s.setCell c x).ctxs = s.ctxs := rfl
@[simp] theorem State.setCell_hub (c : Nat) (x : Cell) : (s.setCell c x).hub = s.hub := rfl
@[simp] theorem State.setCell_rm (c : Nat) (x : Cell) : (s.setCell c x).rm = s.rm := rfl
@[simp] theorem State.setCell_fab (c : Nat) (x : Cell) : (s.setCell c x).fab = s.fab := rfl
@[simp] theorem State.setCell_boot (c : Nat) (x : Cell) : (s.setCell c x).boot = s.boot := rfl
@[simp] theorem State.setCell_nb (c : Nat) (x : Cell) : (s.setCell c x).nb = s.nb := rfl
@[simp] theorem State.setCell_runs (c : Nat) (x : Cell) : (s.setCell c x).runs = s.runs := rfl
@[simp] theorem State.setCell_nextRun (c : Nat) (x : Cell) : (s.setCell c x).nextRun = s.nextRun := rfl
@[simp] theorem State.setCell_out (c : Nat) (x : Cell) : (s.setCell c x).out = s.out := rfl
@[simp] theorem State.setCell_free (c : Nat) (x : Cell) : (s.setCell c x).free = s.free := rfl
@[simp] theorem State.setCell_inputs (c : Nat) (x : Cell) : (s.setCell c x).inputs = s.inputs := rfl
@[simp] theorem State.setCell_cur (c : Nat) (x : Cell) : (s.setCell c x).cur = s.cur := rfl
@[simp] theorem State.setCell_arg (c : Nat) (x : Cell) : (s.setCell c x).arg = s.arg := rfl

@[simp] theorem State.modCell_caps (c : Nat) (f : Cell → Cell) : (s.modCell c f).caps = s.caps := rfl
@[simp] theorem State.modCell_now (c : Nat) (f : Cell → Cell) : (s.modCell c f).now = s.now := rfl
@[simp] theorem State.modCell_mem (c : Nat) (f : Cell → Cell) : (s.modCell c f).mem = s.mem := rfl
@[simp] theorem State.modCell_tier (c : Nat) (f : Cell → Cell) : (s.modCell c f).tier = s.tier := rfl
@[simp] theorem State.modCell_ctxs (c : Nat) (f : Cell → Cell) : (s.modCell c f).ctxs = s.ctxs := rfl
@[simp] theorem State.modCell_hub (c : Nat) (f : Cell → Cell) : (s.modCell c f).hub = s.hub := rfl
@[simp] theorem State.modCell_rm (c : Nat) (f : Cell → Cell) : (s.modCell c f).rm = s.rm := rfl
@[simp] theorem State.modCell_fab (c : Nat) (f : Cell → Cell) : (s.modCell c f).fab = s.fab := rfl
@[simp] theorem State.modCell_boot (c : Nat) (f : Cell → Cell) : (s.modCell c f).boot = s.boot := rfl
@[simp] theorem State.modCell_nb (c : Nat) (f : Cell → Cell) : (s.modCell c f).nb = s.nb := rfl
@[simp] theorem State.modCell_runs (c : Nat) (f : Cell → Cell) : (s.modCell c f).runs = s.runs := rfl
@[simp] theorem State.modCell_nextRun (c : Nat) (f : Cell → Cell) : (s.modCell c f).nextRun = s.nextRun := rfl
@[simp] theorem State.modCell_out (c : Nat) (f : Cell → Cell) : (s.modCell c f).out = s.out := rfl
@[simp] theorem State.modCell_free (c : Nat) (f : Cell → Cell) : (s.modCell c f).free = s.free := rfl
@[simp] theorem State.modCell_inputs (c : Nat) (f : Cell → Cell) : (s.modCell c f).inputs = s.inputs := rfl
@[simp] theorem State.modCell_cur (c : Nat) (f : Cell → Cell) : (s.modCell c f).cur = s.cur := rfl
@[simp] theorem State.modCell_arg (c : Nat) (f : Cell → Cell) : (s.modCell c f).arg = s.arg := rfl

@[simp] theorem State.setCtx_caps (a : Nat) (x : Ctx) : (s.setCtx a x).caps = s.caps := rfl
@[simp] theorem State.setCtx_now (a : Nat) (x : Ctx) : (s.setCtx a x).now = s.now := rfl
@[simp] theorem State.setCtx_mem (a : Nat) (x : Ctx) : (s.setCtx a x).mem = s.mem := rfl
@[simp] theorem State.setCtx_tier (a : Nat) (x : Ctx) : (s.setCtx a x).tier = s.tier := rfl
@[simp] theorem State.setCtx_cells (a : Nat) (x : Ctx) : (s.setCtx a x).cells = s.cells := rfl
@[simp] theorem State.setCtx_hub (a : Nat) (x : Ctx) : (s.setCtx a x).hub = s.hub := rfl
@[simp] theorem State.setCtx_rm (a : Nat) (x : Ctx) : (s.setCtx a x).rm = s.rm := rfl
@[simp] theorem State.setCtx_fab (a : Nat) (x : Ctx) : (s.setCtx a x).fab = s.fab := rfl
@[simp] theorem State.setCtx_boot (a : Nat) (x : Ctx) : (s.setCtx a x).boot = s.boot := rfl
@[simp] theorem State.setCtx_nb (a : Nat) (x : Ctx) : (s.setCtx a x).nb = s.nb := rfl
@[simp] theorem State.setCtx_runs (a : Nat) (x : Ctx) : (s.setCtx a x).runs = s.runs := rfl
@[simp] theorem State.setCtx_nextRun (a : Nat) (x : Ctx) : (s.setCtx a x).nextRun = s.nextRun := rfl
@[simp] theorem State.setCtx_out (a : Nat) (x : Ctx) : (s.setCtx a x).out = s.out := rfl
@[simp] theorem State.setCtx_free (a : Nat) (x : Ctx) : (s.setCtx a x).free = s.free := rfl
@[simp] theorem State.setCtx_inputs (a : Nat) (x : Ctx) : (s.setCtx a x).inputs = s.inputs := rfl
@[simp] theorem State.setCtx_cur (a : Nat) (x : Ctx) : (s.setCtx a x).cur = s.cur := rfl
@[simp] theorem State.setCtx_arg (a : Nat) (x : Ctx) : (s.setCtx a x).arg = s.arg := rfl

@[simp] theorem State.modCtx_caps (a : Nat) (f : Ctx → Ctx) : (s.modCtx a f).caps = s.caps := rfl
@[simp] theorem State.modCtx_now (a : Nat) (f : Ctx → Ctx) : (s.modCtx a f).now = s.now := rfl
@[simp] theorem State.modCtx_mem (a : Nat) (f : Ctx → Ctx) : (s.modCtx a f).mem = s.mem := rfl
@[simp] theorem State.modCtx_tier (a : Nat) (f : Ctx → Ctx) : (s.modCtx a f).tier = s.tier := rfl
@[simp] theorem State.modCtx_cells (a : Nat) (f : Ctx → Ctx) : (s.modCtx a f).cells = s.cells := rfl
@[simp] theorem State.modCtx_hub (a : Nat) (f : Ctx → Ctx) : (s.modCtx a f).hub = s.hub := rfl
@[simp] theorem State.modCtx_rm (a : Nat) (f : Ctx → Ctx) : (s.modCtx a f).rm = s.rm := rfl
@[simp] theorem State.modCtx_fab (a : Nat) (f : Ctx → Ctx) : (s.modCtx a f).fab = s.fab := rfl
@[simp] theorem State.modCtx_boot (a : Nat) (f : Ctx → Ctx) : (s.modCtx a f).boot = s.boot := rfl
@[simp] theorem State.modCtx_nb (a : Nat) (f : Ctx → Ctx) : (s.modCtx a f).nb = s.nb := rfl
@[simp] theorem State.modCtx_runs (a : Nat) (f : Ctx → Ctx) : (s.modCtx a f).runs = s.runs := rfl
@[simp] theorem State.modCtx_nextRun (a : Nat) (f : Ctx → Ctx) : (s.modCtx a f).nextRun = s.nextRun := rfl
@[simp] theorem State.modCtx_out (a : Nat) (f : Ctx → Ctx) : (s.modCtx a f).out = s.out := rfl
@[simp] theorem State.modCtx_free (a : Nat) (f : Ctx → Ctx) : (s.modCtx a f).free = s.free := rfl
@[simp] theorem State.modCtx_inputs (a : Nat) (f : Ctx → Ctx) : (s.modCtx a f).inputs = s.inputs := rfl
@[simp] theorem State.modCtx_cur (a : Nat) (f : Ctx → Ctx) : (s.modCtx a f).cur = s.cur := rfl
@[simp] theorem State.modCtx_arg (a : Nat) (f : Ctx → Ctx) : (s.modCtx a f).arg = s.arg := rfl

@[simp] theorem State.modGrid_caps (g : Nat) (f : Grid → Grid) : (s.modGrid g f).caps = s.caps := rfl
@[simp] theorem State.modGrid_now (g : Nat) (f : Grid → Grid) : (s.modGrid g f).now = s.now := rfl
@[simp] theorem State.modGrid_mem (g : Nat) (f : Grid → Grid) : (s.modGrid g f).mem = s.mem := rfl
@[simp] theorem State.modGrid_tier (g : Nat) (f : Grid → Grid) : (s.modGrid g f).tier = s.tier := rfl
@[simp] theorem State.modGrid_ctxs (g : Nat) (f : Grid → Grid) : (s.modGrid g f).ctxs = s.ctxs := rfl
@[simp] theorem State.modGrid_cells (g : Nat) (f : Grid → Grid) : (s.modGrid g f).cells = s.cells := rfl
@[simp] theorem State.modGrid_rm (g : Nat) (f : Grid → Grid) : (s.modGrid g f).rm = s.rm := rfl
@[simp] theorem State.modGrid_fab (g : Nat) (f : Grid → Grid) : (s.modGrid g f).fab = s.fab := rfl
@[simp] theorem State.modGrid_boot (g : Nat) (f : Grid → Grid) : (s.modGrid g f).boot = s.boot := rfl
@[simp] theorem State.modGrid_nb (g : Nat) (f : Grid → Grid) : (s.modGrid g f).nb = s.nb := rfl
@[simp] theorem State.modGrid_runs (g : Nat) (f : Grid → Grid) : (s.modGrid g f).runs = s.runs := rfl
@[simp] theorem State.modGrid_nextRun (g : Nat) (f : Grid → Grid) : (s.modGrid g f).nextRun = s.nextRun := rfl
@[simp] theorem State.modGrid_out (g : Nat) (f : Grid → Grid) : (s.modGrid g f).out = s.out := rfl
@[simp] theorem State.modGrid_free (g : Nat) (f : Grid → Grid) : (s.modGrid g f).free = s.free := rfl
@[simp] theorem State.modGrid_inputs (g : Nat) (f : Grid → Grid) : (s.modGrid g f).inputs = s.inputs := rfl
@[simp] theorem State.modGrid_cur (g : Nat) (f : Grid → Grid) : (s.modGrid g f).cur = s.cur := rfl
@[simp] theorem State.modGrid_arg (g : Nat) (f : Grid → Grid) : (s.modGrid g f).arg = s.arg := rfl

@[simp] theorem State.modGraph_caps (p : Nat) (f : Graph → Graph) : (s.modGraph p f).caps = s.caps := rfl
@[simp] theorem State.modGraph_now (p : Nat) (f : Graph → Graph) : (s.modGraph p f).now = s.now := rfl
@[simp] theorem State.modGraph_mem (p : Nat) (f : Graph → Graph) : (s.modGraph p f).mem = s.mem := rfl
@[simp] theorem State.modGraph_tier (p : Nat) (f : Graph → Graph) : (s.modGraph p f).tier = s.tier := rfl
@[simp] theorem State.modGraph_ctxs (p : Nat) (f : Graph → Graph) : (s.modGraph p f).ctxs = s.ctxs := rfl
@[simp] theorem State.modGraph_cells (p : Nat) (f : Graph → Graph) : (s.modGraph p f).cells = s.cells := rfl
@[simp] theorem State.modGraph_rm (p : Nat) (f : Graph → Graph) : (s.modGraph p f).rm = s.rm := rfl
@[simp] theorem State.modGraph_fab (p : Nat) (f : Graph → Graph) : (s.modGraph p f).fab = s.fab := rfl
@[simp] theorem State.modGraph_boot (p : Nat) (f : Graph → Graph) : (s.modGraph p f).boot = s.boot := rfl
@[simp] theorem State.modGraph_nb (p : Nat) (f : Graph → Graph) : (s.modGraph p f).nb = s.nb := rfl
@[simp] theorem State.modGraph_runs (p : Nat) (f : Graph → Graph) : (s.modGraph p f).runs = s.runs := rfl
@[simp] theorem State.modGraph_nextRun (p : Nat) (f : Graph → Graph) : (s.modGraph p f).nextRun = s.nextRun := rfl
@[simp] theorem State.modGraph_out (p : Nat) (f : Graph → Graph) : (s.modGraph p f).out = s.out := rfl
@[simp] theorem State.modGraph_free (p : Nat) (f : Graph → Graph) : (s.modGraph p f).free = s.free := rfl
@[simp] theorem State.modGraph_inputs (p : Nat) (f : Graph → Graph) : (s.modGraph p f).inputs = s.inputs := rfl
@[simp] theorem State.modGraph_cur (p : Nat) (f : Graph → Graph) : (s.modGraph p f).cur = s.cur := rfl
@[simp] theorem State.modGraph_arg (p : Nat) (f : Graph → Graph) : (s.modGraph p f).arg = s.arg := rfl

@[simp] theorem State.emit_caps (o : Out) : (s.emit o).caps = s.caps := rfl
@[simp] theorem State.emit_now (o : Out) : (s.emit o).now = s.now := rfl
@[simp] theorem State.emit_mem (o : Out) : (s.emit o).mem = s.mem := rfl
@[simp] theorem State.emit_tier (o : Out) : (s.emit o).tier = s.tier := rfl
@[simp] theorem State.emit_ctxs (o : Out) : (s.emit o).ctxs = s.ctxs := rfl
@[simp] theorem State.emit_cells (o : Out) : (s.emit o).cells = s.cells := rfl
@[simp] theorem State.emit_hub (o : Out) : (s.emit o).hub = s.hub := rfl
@[simp] theorem State.emit_rm (o : Out) : (s.emit o).rm = s.rm := rfl
@[simp] theorem State.emit_fab (o : Out) : (s.emit o).fab = s.fab := rfl
@[simp] theorem State.emit_boot (o : Out) : (s.emit o).boot = s.boot := rfl
@[simp] theorem State.emit_nb (o : Out) : (s.emit o).nb = s.nb := rfl
@[simp] theorem State.emit_runs (o : Out) : (s.emit o).runs = s.runs := rfl
@[simp] theorem State.emit_nextRun (o : Out) : (s.emit o).nextRun = s.nextRun := rfl
@[simp] theorem State.emit_free (o : Out) : (s.emit o).free = s.free := rfl
@[simp] theorem State.emit_inputs (o : Out) : (s.emit o).inputs = s.inputs := rfl
@[simp] theorem State.emit_cur (o : Out) : (s.emit o).cur = s.cur := rfl
@[simp] theorem State.emit_arg (o : Out) : (s.emit o).arg = s.arg := rfl

@[simp] theorem State.setUnit_caps (n : Nat) (u : NbUnit) : (s.setUnit n u).caps = s.caps := rfl
@[simp] theorem State.setUnit_now (n : Nat) (u : NbUnit) : (s.setUnit n u).now = s.now := rfl
@[simp] theorem State.setUnit_mem (n : Nat) (u : NbUnit) : (s.setUnit n u).mem = s.mem := rfl
@[simp] theorem State.setUnit_tier (n : Nat) (u : NbUnit) : (s.setUnit n u).tier = s.tier := rfl
@[simp] theorem State.setUnit_ctxs (n : Nat) (u : NbUnit) : (s.setUnit n u).ctxs = s.ctxs := rfl
@[simp] theorem State.setUnit_cells (n : Nat) (u : NbUnit) : (s.setUnit n u).cells = s.cells := rfl
@[simp] theorem State.setUnit_hub (n : Nat) (u : NbUnit) : (s.setUnit n u).hub = s.hub := rfl
@[simp] theorem State.setUnit_rm (n : Nat) (u : NbUnit) : (s.setUnit n u).rm = s.rm := rfl
@[simp] theorem State.setUnit_fab (n : Nat) (u : NbUnit) : (s.setUnit n u).fab = s.fab := rfl
@[simp] theorem State.setUnit_boot (n : Nat) (u : NbUnit) : (s.setUnit n u).boot = s.boot := rfl
@[simp] theorem State.setUnit_runs (n : Nat) (u : NbUnit) : (s.setUnit n u).runs = s.runs := rfl
@[simp] theorem State.setUnit_nextRun (n : Nat) (u : NbUnit) : (s.setUnit n u).nextRun = s.nextRun := rfl
@[simp] theorem State.setUnit_out (n : Nat) (u : NbUnit) : (s.setUnit n u).out = s.out := rfl
@[simp] theorem State.setUnit_free (n : Nat) (u : NbUnit) : (s.setUnit n u).free = s.free := rfl
@[simp] theorem State.setUnit_inputs (n : Nat) (u : NbUnit) : (s.setUnit n u).inputs = s.inputs := rfl
@[simp] theorem State.setUnit_cur (n : Nat) (u : NbUnit) : (s.setUnit n u).cur = s.cur := rfl
@[simp] theorem State.setUnit_arg (n : Nat) (u : NbUnit) : (s.setUnit n u).arg = s.arg := rfl

@[simp] theorem State.withTeam_caps (c : Nat) (t : Team) : (s.withTeam c t).caps = s.caps := rfl
@[simp] theorem State.withTeam_now (c : Nat) (t : Team) : (s.withTeam c t).now = s.now := rfl
@[simp] theorem State.withTeam_mem (c : Nat) (t : Team) : (s.withTeam c t).mem = s.mem := rfl
@[simp] theorem State.withTeam_tier (c : Nat) (t : Team) : (s.withTeam c t).tier = s.tier := rfl
@[simp] theorem State.withTeam_ctxs (c : Nat) (t : Team) : (s.withTeam c t).ctxs = s.ctxs := rfl
@[simp] theorem State.withTeam_hub (c : Nat) (t : Team) : (s.withTeam c t).hub = s.hub := rfl
@[simp] theorem State.withTeam_rm (c : Nat) (t : Team) : (s.withTeam c t).rm = s.rm := rfl
@[simp] theorem State.withTeam_fab (c : Nat) (t : Team) : (s.withTeam c t).fab = s.fab := rfl
@[simp] theorem State.withTeam_boot (c : Nat) (t : Team) : (s.withTeam c t).boot = s.boot := rfl
@[simp] theorem State.withTeam_nb (c : Nat) (t : Team) : (s.withTeam c t).nb = s.nb := rfl
@[simp] theorem State.withTeam_runs (c : Nat) (t : Team) : (s.withTeam c t).runs = s.runs := rfl
@[simp] theorem State.withTeam_nextRun (c : Nat) (t : Team) : (s.withTeam c t).nextRun = s.nextRun := rfl
@[simp] theorem State.withTeam_out (c : Nat) (t : Team) : (s.withTeam c t).out = s.out := rfl
@[simp] theorem State.withTeam_free (c : Nat) (t : Team) : (s.withTeam c t).free = s.free := rfl
@[simp] theorem State.withTeam_inputs (c : Nat) (t : Team) : (s.withTeam c t).inputs = s.inputs := rfl
@[simp] theorem State.withTeam_cur (c : Nat) (t : Team) : (s.withTeam c t).cur = s.cur := rfl
@[simp] theorem State.withTeam_arg (c : Nat) (t : Team) : (s.withTeam c t).arg = s.arg := rfl

@[simp] theorem State.withShared_caps (c : Nat) (x : Shared) : (s.withShared c x).caps = s.caps := rfl
@[simp] theorem State.withShared_now (c : Nat) (x : Shared) : (s.withShared c x).now = s.now := rfl
@[simp] theorem State.withShared_mem (c : Nat) (x : Shared) : (s.withShared c x).mem = s.mem := rfl
@[simp] theorem State.withShared_tier (c : Nat) (x : Shared) : (s.withShared c x).tier = s.tier := rfl
@[simp] theorem State.withShared_ctxs (c : Nat) (x : Shared) : (s.withShared c x).ctxs = s.ctxs := rfl
@[simp] theorem State.withShared_hub (c : Nat) (x : Shared) : (s.withShared c x).hub = s.hub := rfl
@[simp] theorem State.withShared_rm (c : Nat) (x : Shared) : (s.withShared c x).rm = s.rm := rfl
@[simp] theorem State.withShared_fab (c : Nat) (x : Shared) : (s.withShared c x).fab = s.fab := rfl
@[simp] theorem State.withShared_boot (c : Nat) (x : Shared) : (s.withShared c x).boot = s.boot := rfl
@[simp] theorem State.withShared_nb (c : Nat) (x : Shared) : (s.withShared c x).nb = s.nb := rfl
@[simp] theorem State.withShared_runs (c : Nat) (x : Shared) : (s.withShared c x).runs = s.runs := rfl
@[simp] theorem State.withShared_nextRun (c : Nat) (x : Shared) : (s.withShared c x).nextRun = s.nextRun := rfl
@[simp] theorem State.withShared_out (c : Nat) (x : Shared) : (s.withShared c x).out = s.out := rfl
@[simp] theorem State.withShared_free (c : Nat) (x : Shared) : (s.withShared c x).free = s.free := rfl
@[simp] theorem State.withShared_inputs (c : Nat) (x : Shared) : (s.withShared c x).inputs = s.inputs := rfl
@[simp] theorem State.withShared_cur (c : Nat) (x : Shared) : (s.withShared c x).cur = s.cur := rfl
@[simp] theorem State.withShared_arg (c : Nat) (x : Shared) : (s.withShared c x).arg = s.arg := rfl

@[simp] theorem State.modPeer_caps (d : Nat) (f : Peer → Peer) : (s.modPeer d f).caps = s.caps := rfl
@[simp] theorem State.modPeer_now (d : Nat) (f : Peer → Peer) : (s.modPeer d f).now = s.now := rfl
@[simp] theorem State.modPeer_mem (d : Nat) (f : Peer → Peer) : (s.modPeer d f).mem = s.mem := rfl
@[simp] theorem State.modPeer_tier (d : Nat) (f : Peer → Peer) : (s.modPeer d f).tier = s.tier := rfl
@[simp] theorem State.modPeer_ctxs (d : Nat) (f : Peer → Peer) : (s.modPeer d f).ctxs = s.ctxs := rfl
@[simp] theorem State.modPeer_cells (d : Nat) (f : Peer → Peer) : (s.modPeer d f).cells = s.cells := rfl
@[simp] theorem State.modPeer_hub (d : Nat) (f : Peer → Peer) : (s.modPeer d f).hub = s.hub := rfl
@[simp] theorem State.modPeer_rm (d : Nat) (f : Peer → Peer) : (s.modPeer d f).rm = s.rm := rfl
@[simp] theorem State.modPeer_boot (d : Nat) (f : Peer → Peer) : (s.modPeer d f).boot = s.boot := rfl
@[simp] theorem State.modPeer_nb (d : Nat) (f : Peer → Peer) : (s.modPeer d f).nb = s.nb := rfl
@[simp] theorem State.modPeer_runs (d : Nat) (f : Peer → Peer) : (s.modPeer d f).runs = s.runs := rfl
@[simp] theorem State.modPeer_nextRun (d : Nat) (f : Peer → Peer) : (s.modPeer d f).nextRun = s.nextRun := rfl
@[simp] theorem State.modPeer_out (d : Nat) (f : Peer → Peer) : (s.modPeer d f).out = s.out := rfl
@[simp] theorem State.modPeer_free (d : Nat) (f : Peer → Peer) : (s.modPeer d f).free = s.free := rfl
@[simp] theorem State.modPeer_inputs (d : Nat) (f : Peer → Peer) : (s.modPeer d f).inputs = s.inputs := rfl
@[simp] theorem State.modPeer_cur (d : Nat) (f : Peer → Peer) : (s.modPeer d f).cur = s.cur := rfl
@[simp] theorem State.modPeer_arg (d : Nat) (f : Peer → Peer) : (s.modPeer d f).arg = s.arg := rfl

@[simp] theorem State.hostWr_caps (a : Nat) (bs : List Byte) : (s.hostWr a bs).caps = s.caps := rfl
@[simp] theorem State.hostWr_now (a : Nat) (bs : List Byte) : (s.hostWr a bs).now = s.now := rfl
@[simp] theorem State.hostWr_tier (a : Nat) (bs : List Byte) : (s.hostWr a bs).tier = s.tier := rfl
@[simp] theorem State.hostWr_ctxs (a : Nat) (bs : List Byte) : (s.hostWr a bs).ctxs = s.ctxs := rfl
@[simp] theorem State.hostWr_cells (a : Nat) (bs : List Byte) : (s.hostWr a bs).cells = s.cells := rfl
@[simp] theorem State.hostWr_hub (a : Nat) (bs : List Byte) : (s.hostWr a bs).hub = s.hub := rfl
@[simp] theorem State.hostWr_rm (a : Nat) (bs : List Byte) : (s.hostWr a bs).rm = s.rm := rfl
@[simp] theorem State.hostWr_fab (a : Nat) (bs : List Byte) : (s.hostWr a bs).fab = s.fab := rfl
@[simp] theorem State.hostWr_boot (a : Nat) (bs : List Byte) : (s.hostWr a bs).boot = s.boot := rfl
@[simp] theorem State.hostWr_nb (a : Nat) (bs : List Byte) : (s.hostWr a bs).nb = s.nb := rfl
@[simp] theorem State.hostWr_runs (a : Nat) (bs : List Byte) : (s.hostWr a bs).runs = s.runs := rfl
@[simp] theorem State.hostWr_nextRun (a : Nat) (bs : List Byte) : (s.hostWr a bs).nextRun = s.nextRun := rfl
@[simp] theorem State.hostWr_free (a : Nat) (bs : List Byte) : (s.hostWr a bs).free = s.free := rfl
@[simp] theorem State.hostWr_inputs (a : Nat) (bs : List Byte) : (s.hostWr a bs).inputs = s.inputs := rfl
@[simp] theorem State.hostWr_cur (a : Nat) (bs : List Byte) : (s.hostWr a bs).cur = s.cur := rfl
@[simp] theorem State.hostWr_arg (a : Nat) (bs : List Byte) : (s.hostWr a bs).arg = s.arg := rfl

@[simp] theorem State.peerWr_caps (d a : Nat) (bs : List Byte) : (s.peerWr d a bs).caps = s.caps := rfl
@[simp] theorem State.peerWr_now (d a : Nat) (bs : List Byte) : (s.peerWr d a bs).now = s.now := rfl
@[simp] theorem State.peerWr_tier (d a : Nat) (bs : List Byte) : (s.peerWr d a bs).tier = s.tier := rfl
@[simp] theorem State.peerWr_ctxs (d a : Nat) (bs : List Byte) : (s.peerWr d a bs).ctxs = s.ctxs := rfl
@[simp] theorem State.peerWr_cells (d a : Nat) (bs : List Byte) : (s.peerWr d a bs).cells = s.cells := rfl
@[simp] theorem State.peerWr_hub (d a : Nat) (bs : List Byte) : (s.peerWr d a bs).hub = s.hub := rfl
@[simp] theorem State.peerWr_rm (d a : Nat) (bs : List Byte) : (s.peerWr d a bs).rm = s.rm := rfl
@[simp] theorem State.peerWr_fab (d a : Nat) (bs : List Byte) : (s.peerWr d a bs).fab = s.fab := rfl
@[simp] theorem State.peerWr_boot (d a : Nat) (bs : List Byte) : (s.peerWr d a bs).boot = s.boot := rfl
@[simp] theorem State.peerWr_nb (d a : Nat) (bs : List Byte) : (s.peerWr d a bs).nb = s.nb := rfl
@[simp] theorem State.peerWr_runs (d a : Nat) (bs : List Byte) : (s.peerWr d a bs).runs = s.runs := rfl
@[simp] theorem State.peerWr_nextRun (d a : Nat) (bs : List Byte) : (s.peerWr d a bs).nextRun = s.nextRun := rfl
@[simp] theorem State.peerWr_out (d a : Nat) (bs : List Byte) : (s.peerWr d a bs).out = s.out := rfl
@[simp] theorem State.peerWr_free (d a : Nat) (bs : List Byte) : (s.peerWr d a bs).free = s.free := rfl
@[simp] theorem State.peerWr_inputs (d a : Nat) (bs : List Byte) : (s.peerWr d a bs).inputs = s.inputs := rfl
@[simp] theorem State.peerWr_cur (d a : Nat) (bs : List Byte) : (s.peerWr d a bs).cur = s.cur := rfl
@[simp] theorem State.peerWr_arg (d a : Nat) (bs : List Byte) : (s.peerWr d a bs).arg = s.arg := rfl

@[simp] theorem State.logError_caps (r : FRec) : (s.logError r).caps = s.caps := rfl
@[simp] theorem State.logError_now (r : FRec) : (s.logError r).now = s.now := rfl
@[simp] theorem State.logError_tier (r : FRec) : (s.logError r).tier = s.tier := rfl
@[simp] theorem State.logError_ctxs (r : FRec) : (s.logError r).ctxs = s.ctxs := rfl
@[simp] theorem State.logError_cells (r : FRec) : (s.logError r).cells = s.cells := rfl
@[simp] theorem State.logError_hub (r : FRec) : (s.logError r).hub = s.hub := rfl
@[simp] theorem State.logError_rm (r : FRec) : (s.logError r).rm = s.rm := rfl
@[simp] theorem State.logError_fab (r : FRec) : (s.logError r).fab = s.fab := rfl
@[simp] theorem State.logError_boot (r : FRec) : (s.logError r).boot = s.boot := rfl
@[simp] theorem State.logError_nb (r : FRec) : (s.logError r).nb = s.nb := rfl
@[simp] theorem State.logError_runs (r : FRec) : (s.logError r).runs = s.runs := rfl
@[simp] theorem State.logError_nextRun (r : FRec) : (s.logError r).nextRun = s.nextRun := rfl
@[simp] theorem State.logError_out (r : FRec) : (s.logError r).out = s.out := rfl
@[simp] theorem State.logError_free (r : FRec) : (s.logError r).free = s.free := rfl
@[simp] theorem State.logError_inputs (r : FRec) : (s.logError r).inputs = s.inputs := rfl
@[simp] theorem State.logError_cur (r : FRec) : (s.logError r).cur = s.cur := rfl
@[simp] theorem State.logError_arg (r : FRec) : (s.logError r).arg = s.arg := rfl

@[simp] theorem State.writeAt_caps (d a : Nat) (bs : List Byte) : (s.writeAt d a bs).caps = s.caps := rfl
@[simp] theorem State.writeAt_now (d a : Nat) (bs : List Byte) : (s.writeAt d a bs).now = s.now := rfl
@[simp] theorem State.writeAt_tier (d a : Nat) (bs : List Byte) : (s.writeAt d a bs).tier = s.tier := rfl
@[simp] theorem State.writeAt_ctxs (d a : Nat) (bs : List Byte) : (s.writeAt d a bs).ctxs = s.ctxs := rfl
@[simp] theorem State.writeAt_cells (d a : Nat) (bs : List Byte) : (s.writeAt d a bs).cells = s.cells := rfl
@[simp] theorem State.writeAt_hub (d a : Nat) (bs : List Byte) : (s.writeAt d a bs).hub = s.hub := rfl
@[simp] theorem State.writeAt_rm (d a : Nat) (bs : List Byte) : (s.writeAt d a bs).rm = s.rm := rfl
@[simp] theorem State.writeAt_fab (d a : Nat) (bs : List Byte) : (s.writeAt d a bs).fab = s.fab := rfl
@[simp] theorem State.writeAt_boot (d a : Nat) (bs : List Byte) : (s.writeAt d a bs).boot = s.boot := rfl
@[simp] theorem State.writeAt_nb (d a : Nat) (bs : List Byte) : (s.writeAt d a bs).nb = s.nb := rfl
@[simp] theorem State.writeAt_runs (d a : Nat) (bs : List Byte) : (s.writeAt d a bs).runs = s.runs := rfl
@[simp] theorem State.writeAt_nextRun (d a : Nat) (bs : List Byte) : (s.writeAt d a bs).nextRun = s.nextRun := rfl
@[simp] theorem State.writeAt_out (d a : Nat) (bs : List Byte) : (s.writeAt d a bs).out = s.out := rfl
@[simp] theorem State.writeAt_free (d a : Nat) (bs : List Byte) : (s.writeAt d a bs).free = s.free := rfl
@[simp] theorem State.writeAt_inputs (d a : Nat) (bs : List Byte) : (s.writeAt d a bs).inputs = s.inputs := rfl
@[simp] theorem State.writeAt_cur (d a : Nat) (bs : List Byte) : (s.writeAt d a bs).cur = s.cur := rfl
@[simp] theorem State.writeAt_arg (d a : Nat) (bs : List Byte) : (s.writeAt d a bs).arg = s.arg := rfl

@[simp] theorem State.putLine_caps (x : PeerLine) : (s.putLine x).caps = s.caps := rfl
@[simp] theorem State.putLine_now (x : PeerLine) : (s.putLine x).now = s.now := rfl
@[simp] theorem State.putLine_tier (x : PeerLine) : (s.putLine x).tier = s.tier := rfl
@[simp] theorem State.putLine_ctxs (x : PeerLine) : (s.putLine x).ctxs = s.ctxs := rfl
@[simp] theorem State.putLine_cells (x : PeerLine) : (s.putLine x).cells = s.cells := rfl
@[simp] theorem State.putLine_hub (x : PeerLine) : (s.putLine x).hub = s.hub := rfl
@[simp] theorem State.putLine_rm (x : PeerLine) : (s.putLine x).rm = s.rm := rfl
@[simp] theorem State.putLine_fab (x : PeerLine) : (s.putLine x).fab = s.fab := rfl
@[simp] theorem State.putLine_boot (x : PeerLine) : (s.putLine x).boot = s.boot := rfl
@[simp] theorem State.putLine_nb (x : PeerLine) : (s.putLine x).nb = s.nb := rfl
@[simp] theorem State.putLine_runs (x : PeerLine) : (s.putLine x).runs = s.runs := rfl
@[simp] theorem State.putLine_nextRun (x : PeerLine) : (s.putLine x).nextRun = s.nextRun := rfl
@[simp] theorem State.putLine_out (x : PeerLine) : (s.putLine x).out = s.out := rfl
@[simp] theorem State.putLine_free (x : PeerLine) : (s.putLine x).free = s.free := rfl
@[simp] theorem State.putLine_inputs (x : PeerLine) : (s.putLine x).inputs = s.inputs := rfl
@[simp] theorem State.putLine_cur (x : PeerLine) : (s.putLine x).cur = s.cur := rfl
@[simp] theorem State.putLine_arg (x : PeerLine) : (s.putLine x).arg = s.arg := rfl

@[simp] theorem State.tlbPut_caps (e : TlbE) : (s.tlbPut e).caps = s.caps := rfl
@[simp] theorem State.tlbPut_now (e : TlbE) : (s.tlbPut e).now = s.now := rfl
@[simp] theorem State.tlbPut_tier (e : TlbE) : (s.tlbPut e).tier = s.tier := rfl
@[simp] theorem State.tlbPut_ctxs (e : TlbE) : (s.tlbPut e).ctxs = s.ctxs := rfl
@[simp] theorem State.tlbPut_cells (e : TlbE) : (s.tlbPut e).cells = s.cells := rfl
@[simp] theorem State.tlbPut_hub (e : TlbE) : (s.tlbPut e).hub = s.hub := rfl
@[simp] theorem State.tlbPut_rm (e : TlbE) : (s.tlbPut e).rm = s.rm := rfl
@[simp] theorem State.tlbPut_fab (e : TlbE) : (s.tlbPut e).fab = s.fab := rfl
@[simp] theorem State.tlbPut_boot (e : TlbE) : (s.tlbPut e).boot = s.boot := rfl
@[simp] theorem State.tlbPut_nb (e : TlbE) : (s.tlbPut e).nb = s.nb := rfl
@[simp] theorem State.tlbPut_runs (e : TlbE) : (s.tlbPut e).runs = s.runs := rfl
@[simp] theorem State.tlbPut_nextRun (e : TlbE) : (s.tlbPut e).nextRun = s.nextRun := rfl
@[simp] theorem State.tlbPut_out (e : TlbE) : (s.tlbPut e).out = s.out := rfl
@[simp] theorem State.tlbPut_free (e : TlbE) : (s.tlbPut e).free = s.free := rfl
@[simp] theorem State.tlbPut_inputs (e : TlbE) : (s.tlbPut e).inputs = s.inputs := rfl
@[simp] theorem State.tlbPut_cur (e : TlbE) : (s.tlbPut e).cur = s.cur := rfl
@[simp] theorem State.tlbPut_arg (e : TlbE) : (s.tlbPut e).arg = s.arg := rfl

@[simp] theorem State.tlbFill_caps (cell a fa : Nat) (leaf : Word) : (s.tlbFill cell a fa leaf).caps = s.caps := rfl
@[simp] theorem State.tlbFill_now (cell a fa : Nat) (leaf : Word) : (s.tlbFill cell a fa leaf).now = s.now := rfl
@[simp] theorem State.tlbFill_tier (cell a fa : Nat) (leaf : Word) : (s.tlbFill cell a fa leaf).tier = s.tier := rfl
@[simp] theorem State.tlbFill_ctxs (cell a fa : Nat) (leaf : Word) : (s.tlbFill cell a fa leaf).ctxs = s.ctxs := rfl
@[simp] theorem State.tlbFill_cells (cell a fa : Nat) (leaf : Word) : (s.tlbFill cell a fa leaf).cells = s.cells := rfl
@[simp] theorem State.tlbFill_hub (cell a fa : Nat) (leaf : Word) : (s.tlbFill cell a fa leaf).hub = s.hub := rfl
@[simp] theorem State.tlbFill_rm (cell a fa : Nat) (leaf : Word) : (s.tlbFill cell a fa leaf).rm = s.rm := rfl
@[simp] theorem State.tlbFill_fab (cell a fa : Nat) (leaf : Word) : (s.tlbFill cell a fa leaf).fab = s.fab := rfl
@[simp] theorem State.tlbFill_boot (cell a fa : Nat) (leaf : Word) : (s.tlbFill cell a fa leaf).boot = s.boot := rfl
@[simp] theorem State.tlbFill_nb (cell a fa : Nat) (leaf : Word) : (s.tlbFill cell a fa leaf).nb = s.nb := rfl
@[simp] theorem State.tlbFill_runs (cell a fa : Nat) (leaf : Word) : (s.tlbFill cell a fa leaf).runs = s.runs := rfl
@[simp] theorem State.tlbFill_nextRun (cell a fa : Nat) (leaf : Word) : (s.tlbFill cell a fa leaf).nextRun = s.nextRun := rfl
@[simp] theorem State.tlbFill_out (cell a fa : Nat) (leaf : Word) : (s.tlbFill cell a fa leaf).out = s.out := rfl
@[simp] theorem State.tlbFill_free (cell a fa : Nat) (leaf : Word) : (s.tlbFill cell a fa leaf).free = s.free := rfl
@[simp] theorem State.tlbFill_inputs (cell a fa : Nat) (leaf : Word) : (s.tlbFill cell a fa leaf).inputs = s.inputs := rfl
@[simp] theorem State.tlbFill_cur (cell a fa : Nat) (leaf : Word) : (s.tlbFill cell a fa leaf).cur = s.cur := rfl
@[simp] theorem State.tlbFill_arg (cell a fa : Nat) (leaf : Word) : (s.tlbFill cell a fa leaf).arg = s.arg := rfl

@[simp] theorem State.countAccess_caps (f : Nat) : (s.countAccess f).caps = s.caps := by unfold State.countAccess State.startSwap; dsimp only; split_ifs <;> rfl
@[simp] theorem State.countAccess_now (f : Nat) : (s.countAccess f).now = s.now := by unfold State.countAccess State.startSwap; dsimp only; split_ifs <;> rfl
@[simp] theorem State.countAccess_tier (f : Nat) : (s.countAccess f).tier = s.tier := by unfold State.countAccess State.startSwap; dsimp only; split_ifs <;> rfl
@[simp] theorem State.countAccess_ctxs (f : Nat) : (s.countAccess f).ctxs = s.ctxs := by unfold State.countAccess State.startSwap; dsimp only; split_ifs <;> rfl
@[simp] theorem State.countAccess_cells (f : Nat) : (s.countAccess f).cells = s.cells := by unfold State.countAccess State.startSwap; dsimp only; split_ifs <;> rfl
@[simp] theorem State.countAccess_hub (f : Nat) : (s.countAccess f).hub = s.hub := by unfold State.countAccess State.startSwap; dsimp only; split_ifs <;> rfl
@[simp] theorem State.countAccess_rm (f : Nat) : (s.countAccess f).rm = s.rm := by unfold State.countAccess State.startSwap; dsimp only; split_ifs <;> rfl
@[simp] theorem State.countAccess_fab (f : Nat) : (s.countAccess f).fab = s.fab := by unfold State.countAccess State.startSwap; dsimp only; split_ifs <;> rfl
@[simp] theorem State.countAccess_boot (f : Nat) : (s.countAccess f).boot = s.boot := by unfold State.countAccess State.startSwap; dsimp only; split_ifs <;> rfl
@[simp] theorem State.countAccess_nb (f : Nat) : (s.countAccess f).nb = s.nb := by unfold State.countAccess State.startSwap; dsimp only; split_ifs <;> rfl
@[simp] theorem State.countAccess_runs (f : Nat) : (s.countAccess f).runs = s.runs := by unfold State.countAccess State.startSwap; dsimp only; split_ifs <;> rfl
@[simp] theorem State.countAccess_nextRun (f : Nat) : (s.countAccess f).nextRun = s.nextRun := by unfold State.countAccess State.startSwap; dsimp only; split_ifs <;> rfl
@[simp] theorem State.countAccess_out (f : Nat) : (s.countAccess f).out = s.out := by unfold State.countAccess State.startSwap; dsimp only; split_ifs <;> rfl
@[simp] theorem State.countAccess_free (f : Nat) : (s.countAccess f).free = s.free := by unfold State.countAccess State.startSwap; dsimp only; split_ifs <;> rfl
@[simp] theorem State.countAccess_inputs (f : Nat) : (s.countAccess f).inputs = s.inputs := by unfold State.countAccess State.startSwap; dsimp only; split_ifs <;> rfl
@[simp] theorem State.countAccess_cur (f : Nat) : (s.countAccess f).cur = s.cur := by unfold State.countAccess State.startSwap; dsimp only; split_ifs <;> rfl
@[simp] theorem State.countAccess_arg (f : Nat) : (s.countAccess f).arg = s.arg := by unfold State.countAccess State.startSwap; dsimp only; split_ifs <;> rfl

@[simp] theorem State.usedReplies_caps (k : AgentKey) : (s.usedReplies k).caps = s.caps := by unfold State.usedReplies; split <;> rfl
@[simp] theorem State.usedReplies_now (k : AgentKey) : (s.usedReplies k).now = s.now := by unfold State.usedReplies; split <;> rfl
@[simp] theorem State.usedReplies_mem (k : AgentKey) : (s.usedReplies k).mem = s.mem := by unfold State.usedReplies; split <;> rfl
@[simp] theorem State.usedReplies_tier (k : AgentKey) : (s.usedReplies k).tier = s.tier := by unfold State.usedReplies; split <;> rfl
@[simp] theorem State.usedReplies_ctxs (k : AgentKey) : (s.usedReplies k).ctxs = s.ctxs := by unfold State.usedReplies; split <;> rfl
@[simp] theorem State.usedReplies_cells (k : AgentKey) : (s.usedReplies k).cells = s.cells := by unfold State.usedReplies; split <;> rfl
@[simp] theorem State.usedReplies_hub (k : AgentKey) : (s.usedReplies k).hub = s.hub := by unfold State.usedReplies; split <;> rfl
@[simp] theorem State.usedReplies_rm (k : AgentKey) : (s.usedReplies k).rm = s.rm := by unfold State.usedReplies; split <;> rfl
@[simp] theorem State.usedReplies_boot (k : AgentKey) : (s.usedReplies k).boot = s.boot := by unfold State.usedReplies; split <;> rfl
@[simp] theorem State.usedReplies_nb (k : AgentKey) : (s.usedReplies k).nb = s.nb := by unfold State.usedReplies; split <;> rfl
@[simp] theorem State.usedReplies_runs (k : AgentKey) : (s.usedReplies k).runs = s.runs := by unfold State.usedReplies; split <;> rfl
@[simp] theorem State.usedReplies_nextRun (k : AgentKey) : (s.usedReplies k).nextRun = s.nextRun := by unfold State.usedReplies; split <;> rfl
@[simp] theorem State.usedReplies_out (k : AgentKey) : (s.usedReplies k).out = s.out := by unfold State.usedReplies; split <;> rfl
@[simp] theorem State.usedReplies_free (k : AgentKey) : (s.usedReplies k).free = s.free := by unfold State.usedReplies; split <;> rfl
@[simp] theorem State.usedReplies_inputs (k : AgentKey) : (s.usedReplies k).inputs = s.inputs := by unfold State.usedReplies; split <;> rfl
@[simp] theorem State.usedReplies_cur (k : AgentKey) : (s.usedReplies k).cur = s.cur := by unfold State.usedReplies; split <;> rfl
@[simp] theorem State.usedReplies_arg (k : AgentKey) : (s.usedReplies k).arg = s.arg := by unfold State.usedReplies; split <;> rfl

@[simp] theorem State.keyFill_caps (f : Nat) (k : Option Nat) : (s.keyFill f k).caps = s.caps := by unfold State.keyFill; split <;> rfl
@[simp] theorem State.keyFill_now (f : Nat) (k : Option Nat) : (s.keyFill f k).now = s.now := by unfold State.keyFill; split <;> rfl
@[simp] theorem State.keyFill_tier (f : Nat) (k : Option Nat) : (s.keyFill f k).tier = s.tier := by unfold State.keyFill; split <;> rfl
@[simp] theorem State.keyFill_ctxs (f : Nat) (k : Option Nat) : (s.keyFill f k).ctxs = s.ctxs := by unfold State.keyFill; split <;> rfl
@[simp] theorem State.keyFill_cells (f : Nat) (k : Option Nat) : (s.keyFill f k).cells = s.cells := by unfold State.keyFill; split <;> rfl
@[simp] theorem State.keyFill_hub (f : Nat) (k : Option Nat) : (s.keyFill f k).hub = s.hub := by unfold State.keyFill; split <;> rfl
@[simp] theorem State.keyFill_rm (f : Nat) (k : Option Nat) : (s.keyFill f k).rm = s.rm := by unfold State.keyFill; split <;> rfl
@[simp] theorem State.keyFill_fab (f : Nat) (k : Option Nat) : (s.keyFill f k).fab = s.fab := by unfold State.keyFill; split <;> rfl
@[simp] theorem State.keyFill_boot (f : Nat) (k : Option Nat) : (s.keyFill f k).boot = s.boot := by unfold State.keyFill; split <;> rfl
@[simp] theorem State.keyFill_nb (f : Nat) (k : Option Nat) : (s.keyFill f k).nb = s.nb := by unfold State.keyFill; split <;> rfl
@[simp] theorem State.keyFill_runs (f : Nat) (k : Option Nat) : (s.keyFill f k).runs = s.runs := by unfold State.keyFill; split <;> rfl
@[simp] theorem State.keyFill_nextRun (f : Nat) (k : Option Nat) : (s.keyFill f k).nextRun = s.nextRun := by unfold State.keyFill; split <;> rfl
@[simp] theorem State.keyFill_out (f : Nat) (k : Option Nat) : (s.keyFill f k).out = s.out := by unfold State.keyFill; split <;> rfl
@[simp] theorem State.keyFill_free (f : Nat) (k : Option Nat) : (s.keyFill f k).free = s.free := by unfold State.keyFill; split <;> rfl
@[simp] theorem State.keyFill_inputs (f : Nat) (k : Option Nat) : (s.keyFill f k).inputs = s.inputs := by unfold State.keyFill; split <;> rfl
@[simp] theorem State.keyFill_cur (f : Nat) (k : Option Nat) : (s.keyFill f k).cur = s.cur := by unfold State.keyFill; split <;> rfl
@[simp] theorem State.keyFill_arg (f : Nat) (k : Option Nat) : (s.keyFill f k).arg = s.arg := by unfold State.keyFill; split <;> rfl

@[simp] theorem State.wrLines_caps (pa : Nat) (bs : List Byte) (n : Nat) (k : Option Nat) : (s.wrLines pa bs n k).caps = s.caps := s.keyFill_caps _ _
@[simp] theorem State.wrLines_now (pa : Nat) (bs : List Byte) (n : Nat) (k : Option Nat) : (s.wrLines pa bs n k).now = s.now := s.keyFill_now _ _
@[simp] theorem State.wrLines_tier (pa : Nat) (bs : List Byte) (n : Nat) (k : Option Nat) : (s.wrLines pa bs n k).tier = s.tier := s.keyFill_tier _ _
@[simp] theorem State.wrLines_ctxs (pa : Nat) (bs : List Byte) (n : Nat) (k : Option Nat) : (s.wrLines pa bs n k).ctxs = s.ctxs := s.keyFill_ctxs _ _
@[simp] theorem State.wrLines_cells (pa : Nat) (bs : List Byte) (n : Nat) (k : Option Nat) : (s.wrLines pa bs n k).cells = s.cells := s.keyFill_cells _ _
@[simp] theorem State.wrLines_hub (pa : Nat) (bs : List Byte) (n : Nat) (k : Option Nat) : (s.wrLines pa bs n k).hub = s.hub := s.keyFill_hub _ _
@[simp] theorem State.wrLines_rm (pa : Nat) (bs : List Byte) (n : Nat) (k : Option Nat) : (s.wrLines pa bs n k).rm = s.rm := s.keyFill_rm _ _
@[simp] theorem State.wrLines_fab (pa : Nat) (bs : List Byte) (n : Nat) (k : Option Nat) : (s.wrLines pa bs n k).fab = s.fab := s.keyFill_fab _ _
@[simp] theorem State.wrLines_boot (pa : Nat) (bs : List Byte) (n : Nat) (k : Option Nat) : (s.wrLines pa bs n k).boot = s.boot := s.keyFill_boot _ _
@[simp] theorem State.wrLines_nb (pa : Nat) (bs : List Byte) (n : Nat) (k : Option Nat) : (s.wrLines pa bs n k).nb = s.nb := s.keyFill_nb _ _
@[simp] theorem State.wrLines_runs (pa : Nat) (bs : List Byte) (n : Nat) (k : Option Nat) : (s.wrLines pa bs n k).runs = s.runs := s.keyFill_runs _ _
@[simp] theorem State.wrLines_nextRun (pa : Nat) (bs : List Byte) (n : Nat) (k : Option Nat) : (s.wrLines pa bs n k).nextRun = s.nextRun := s.keyFill_nextRun _ _
@[simp] theorem State.wrLines_out (pa : Nat) (bs : List Byte) (n : Nat) (k : Option Nat) : (s.wrLines pa bs n k).out = s.out := s.keyFill_out _ _
@[simp] theorem State.wrLines_free (pa : Nat) (bs : List Byte) (n : Nat) (k : Option Nat) : (s.wrLines pa bs n k).free = s.free := s.keyFill_free _ _
@[simp] theorem State.wrLines_inputs (pa : Nat) (bs : List Byte) (n : Nat) (k : Option Nat) : (s.wrLines pa bs n k).inputs = s.inputs := s.keyFill_inputs _ _
@[simp] theorem State.wrLines_cur (pa : Nat) (bs : List Byte) (n : Nat) (k : Option Nat) : (s.wrLines pa bs n k).cur = s.cur := s.keyFill_cur _ _
@[simp] theorem State.wrLines_arg (pa : Nat) (bs : List Byte) (n : Nat) (k : Option Nat) : (s.wrLines pa bs n k).arg = s.arg := s.keyFill_arg _ _

@[simp] theorem State.locWr_caps (pa : Nat) (bs : List Byte) (k : Nat) : (s.locWr pa bs k).caps = s.caps := s.wrLines_caps pa bs _ _
@[simp] theorem State.locWr_now (pa : Nat) (bs : List Byte) (k : Nat) : (s.locWr pa bs k).now = s.now := s.wrLines_now pa bs _ _
@[simp] theorem State.locWr_tier (pa : Nat) (bs : List Byte) (k : Nat) : (s.locWr pa bs k).tier = s.tier := s.wrLines_tier pa bs _ _
@[simp] theorem State.locWr_ctxs (pa : Nat) (bs : List Byte) (k : Nat) : (s.locWr pa bs k).ctxs = s.ctxs := s.wrLines_ctxs pa bs _ _
@[simp] theorem State.locWr_cells (pa : Nat) (bs : List Byte) (k : Nat) : (s.locWr pa bs k).cells = s.cells := s.wrLines_cells pa bs _ _
@[simp] theorem State.locWr_hub (pa : Nat) (bs : List Byte) (k : Nat) : (s.locWr pa bs k).hub = s.hub := s.wrLines_hub pa bs _ _
@[simp] theorem State.locWr_rm (pa : Nat) (bs : List Byte) (k : Nat) : (s.locWr pa bs k).rm = s.rm := s.wrLines_rm pa bs _ _
@[simp] theorem State.locWr_fab (pa : Nat) (bs : List Byte) (k : Nat) : (s.locWr pa bs k).fab = s.fab := s.wrLines_fab pa bs _ _
@[simp] theorem State.locWr_boot (pa : Nat) (bs : List Byte) (k : Nat) : (s.locWr pa bs k).boot = s.boot := s.wrLines_boot pa bs _ _
@[simp] theorem State.locWr_nb (pa : Nat) (bs : List Byte) (k : Nat) : (s.locWr pa bs k).nb = s.nb := s.wrLines_nb pa bs _ _
@[simp] theorem State.locWr_runs (pa : Nat) (bs : List Byte) (k : Nat) : (s.locWr pa bs k).runs = s.runs := s.wrLines_runs pa bs _ _
@[simp] theorem State.locWr_nextRun (pa : Nat) (bs : List Byte) (k : Nat) : (s.locWr pa bs k).nextRun = s.nextRun := s.wrLines_nextRun pa bs _ _
@[simp] theorem State.locWr_out (pa : Nat) (bs : List Byte) (k : Nat) : (s.locWr pa bs k).out = s.out := s.wrLines_out pa bs _ _
@[simp] theorem State.locWr_free (pa : Nat) (bs : List Byte) (k : Nat) : (s.locWr pa bs k).free = s.free := s.wrLines_free pa bs _ _
@[simp] theorem State.locWr_inputs (pa : Nat) (bs : List Byte) (k : Nat) : (s.locWr pa bs k).inputs = s.inputs := s.wrLines_inputs pa bs _ _
@[simp] theorem State.locWr_cur (pa : Nat) (bs : List Byte) (k : Nat) : (s.locWr pa bs k).cur = s.cur := s.wrLines_cur pa bs _ _
@[simp] theorem State.locWr_arg (pa : Nat) (bs : List Byte) (k : Nat) : (s.locWr pa bs k).arg = s.arg := s.wrLines_arg pa bs _ _

end Sys2Proof.Machine
end

