-- ==== Sys2Proof/Laws/Ops.lean ====
section
/-! SUPPORT. What the shared operations do, said once: cells and teams after a write, the monad's reads and writes at a state
whose active team is known, and the frames in which the instructions of a stream run. -/
namespace Sys2Proof.Machine

/-! ### Cells, contexts, units -/

theorem State.cell_setCell (s : State) (c k : Nat) (x : Cell) : (s.setCell c x).cell k = if k = c then x else s.cell k :=
  Sparse.get_set ({} : Cell) s.cells c k x

@[simp] theorem State.cell_setCell_self (s : State) (c : Nat) (x : Cell) : (s.setCell c x).cell c = x := by
  simp [State.cell_setCell]

theorem State.cell_modCell (s : State) (c k : Nat) (f : Cell → Cell) :
    (s.modCell c f).cell k = if k = c then f (s.cell c) else s.cell k := State.cell_setCell s c k _

@[simp] theorem State.cell_modCell_self (s : State) (c : Nat) (f : Cell → Cell) : (s.modCell c f).cell c = f (s.cell c) := by
  simp [State.cell_modCell]

@[simp] theorem State.ctx_setCtx_self (s : State) (a : Nat) (x : Ctx) : (s.setCtx a x).ctx a = x :=
  Sparse.get_set_self ({} : Ctx) s.ctxs a x

@[simp] theorem State.ctx_modCtx_self (s : State) (a : Nat) (f : Ctx → Ctx) : (s.modCtx a f).ctx a = f (s.ctx a) :=
  State.ctx_setCtx_self s a _

@[simp] theorem State.unit_setUnit_self (s : State) (n : Nat) (u : NbUnit) : (s.setUnit n u).unit n = u :=
  Sparse.get_set_self ({} : NbUnit) s.nb n u

/-- Two puts at one key are the second. -/
theorem Tab.put_put {α : Type} (v w : α) (k : Nat) : ∀ (t : Tab α), Tab.put (Tab.put t k v) k w = Tab.put t k w
  | [] => by simp [Tab.put]
  | (a, x) :: t => by
    simp only [Tab.put]
    by_cases h : k = a
    · simp [h, Tab.put]
    · by_cases h2 : k < a
      · simp [h, h2, Tab.put]
      · simp [h, h2, Tab.put, Tab.put_put v w k t]

/-- Two writes of a cell are the second, where the first leaves something in it. -/
theorem State.setCell_setCell (s : State) (c : Nat) (x y : Cell) (hx : x ≠ {}) :
    (s.setCell c x).setCell c y = s.setCell c y := by
  have h : Sparse.set {} (Sparse.set {} s.cells c x) c y = Sparse.set {} s.cells c y := by
    simp only [Sparse.set, if_neg hx]
    by_cases hy : y = {}
    · simp only [if_pos hy]
      generalize s.cells = m
      induction m with
      | nil => simp [Tab.put, Tab.del]
      | cons p t ih =>
        obtain ⟨a, v⟩ := p
        simp only [Tab.put]
        by_cases h : c = a
        · simp [h, Tab.del]
        · by_cases h2 : c < a
          · simp [h, h2, Tab.del]
          · simp only [h, h2, if_false]
            simp only [Tab.del, List.filter_cons] at ih ⊢
            simp_all
    · simp only [if_neg hy, Tab.put_put]
  simp only [State.setCell, h]

/-- A cell with a team is not empty. -/
theorem Cell.ne_empty_of_team {x : Cell} {b : Bool} {t : Team} (h : x.team b = some t) : x ≠ {} := by
  rintro rfl
  cases b <;> simp [Cell.team] at h

@[simp] theorem Cell.team_setTeam_self (x : Cell) (b : Bool) (t : Option Team) : (x.setTeam b t).team b = t := by
  cases b <;> rfl
@[simp] theorem Cell.team_setTeam_other (x : Cell) (b : Bool) (t : Option Team) : (x.setTeam b t).team (!b) = x.team (!b) := by
  cases b <;> rfl
@[simp] theorem Cell.active_setTeam (x : Cell) (b : Bool) (t : Option Team) : (x.setTeam b t).active = x.active := by
  cases b <;> rfl
@[simp] theorem Cell.sh_setTeam (x : Cell) (b : Bool) (t : Option Team) : (x.setTeam b t).sh = x.sh := by
  cases b <;> rfl
@[simp] theorem Cell.sw_setTeam (x : Cell) (b : Bool) (t : Option Team) : (x.setTeam b t).sw = x.sw := by
  cases b <;> rfl
@[simp] theorem Cell.setTeam_setTeam (x : Cell) (b : Bool) (t u : Option Team) :
    (x.setTeam b t).setTeam b u = x.setTeam b u := by
  cases b <;> rfl

/-! ### The active team replaced -/

@[simp] theorem State.cell_withTeam (s : State) (c : Nat) (t : Team) :
    (s.withTeam c t).cell c = (s.cell c).setTeam (s.cell c).active (some t) := by
  simp [State.withTeam, State.putTeam]

theorem State.cell_withTeam_ne (s : State) (c k : Nat) (t : Team) (h : k ≠ c) : (s.withTeam c t).cell k = s.cell k := by
  simp [State.withTeam, State.putTeam, State.cell_modCell, h]

@[simp] theorem State.act_withTeam (s : State) (c : Nat) (t : Team) : ((s.withTeam c t).cell c).act = some t := by
  simp [Cell.act]

@[simp] theorem State.withTeam_withTeam (s : State) (c : Nat) (t u : Team) : (s.withTeam c t).withTeam c u = s.withTeam c u := by
  have h : (s.cell c).setTeam (s.cell c).active (some t) ≠ {} :=
    Cell.ne_empty_of_team (b := (s.cell c).active) (t := t) (by simp)
  simp only [State.withTeam, State.putTeam, State.modCell, State.cell_setCell_self, Cell.active_setTeam,
    Cell.setTeam_setTeam]
  exact State.setCell_setCell s c _ _ h

@[simp] theorem State.teamAt_withTeam (s : State) (c : Nat) (t : Team) :
    (s.withTeam c t).teamAt (.here c (s.cell c).active) = some t := by
  simp [State.teamAt]

@[simp] theorem State.modAct_withTeam (s : State) (c : Nat) (t : Team) (f : Team → Team) :
    (s.withTeam c t).modAct c f = s.withTeam c (f t) := by
  simp only [State.modAct, State.cell_withTeam, Cell.active_setTeam, State.modTeam, State.teamAt_withTeam]
  have h := State.withTeam_withTeam s c t (f t)
  rw [State.withTeam, State.cell_withTeam, Cell.active_setTeam] at h
  exact h

/-- Changing the active team of a cell. -/
theorem State.modAct_of_act {s : State} {c : Nat} {t : Team} (h : (s.cell c).act = some t) (f : Team → Team) :
    s.modAct c f = s.withTeam c (f t) := by
  simp only [Cell.act] at h
  simp [State.modAct, State.modTeam, State.teamAt, State.withTeam, h]

/-- Moving a stream past its instruction. -/
theorem State.passed_of_act {s : State} {c : Nat} {t : Team} (h : (s.cell c).act = some t) (st : Stream) (len : Nat) :
    s.passed c st len = s.withTeam c (t.past st len) := by
  rw [State.passed, State.modAct_of_act h]
  rfl

/-! ### Replies that an instruction has used -/

@[simp] theorem State.cell_usedReplies (s : State) (k : AgentKey) (c : Nat) : (s.usedReplies k).cell c = s.cell c := by
  simp [State.cell]
@[simp] theorem State.act_after (s : State) (c : Nat) (t : Team) : ((s.after c t).cell c).act = some t := by
  rw [State.after, State.cell_usedReplies, State.act_withTeam]
@[simp] theorem State.act_did (s : State) (c : Nat) (t : Team) : ((s.did t).cell c).act = (s.cell c).act := by
  simp [State.did]

/-! ### The monad at a state whose active team is known -/

section
variable {s : State} {c : Nat} {st : Stream} {t : Team}

@[simp] theorem run_pure {α : Type} (a : α) (s : State) : (pure a : M α).run s = .ok a s := rfl
@[simp] theorem run_get (s : State) : (get : M State).run s = .ok s s := rfl
@[simp] theorem run_set (s s' : State) : (set s' : M Unit).run s = .ok () s' := rfl
@[simp] theorem run_modify (f : State → State) (s : State) : (modify f : M Unit).run s = .ok () (f s) := rfl
@[simp] theorem run_trap {α : Type} (k : Cause) (i : Info) (s : State) : (trap k i : M α).run s = .error (.trap k i) s := rfl
@[simp] theorem run_wait {α : Type} (s : State) : (wait : M α).run s = .error (.wait none) s := rfl
theorem run_need (b : Bool) (k : Cause) (i : Info) (s : State) :
    (need b k i).run s = if b then .ok () s else .error (.trap k i) s := by
  cases b <;> rfl
theorem run_waitFor (b : Bool) (s : State) : (waitFor b).run s = if b then .ok () s else .error (.wait none) s := by
  cases b <;> rfl

theorem run_theCell (h : s.cur = .stream c st) : theCell.run s = .ok c s := by
  simp [theCell, h]
theorem run_theStream (h : s.cur = .stream c st) : theStream.run s = .ok st s := by
  simp [theStream, h]
theorem run_theLoc (h : s.cur = .stream c st) : theLoc.run s = .ok (.here c (s.cell c).active) s := by
  simp [theLoc, run_theCell h]
theorem run_team (h : s.cur = .stream c st) (ht : (s.cell c).act = some t) : team.run s = .ok t s := by
  simp [team, run_theCell h, ht]
theorem run_modTeam (h : s.cur = .stream c st) (f : Team → Team) : (modTeam f).run s = .ok () (s.modAct c f) := by
  simp [modTeam, run_theLoc h, State.modAct]
theorem run_shared (h : s.cur = .stream c st) : shared.run s = .ok (s.cell c).sh s := by
  simp [shared, run_theCell h]
theorem run_modShared (h : s.cur = .stream c st) (f : Shared → Shared) :
    (modShared f).run s = .ok () (s.modCell c fun x => { x with sh := f x.sh }) := by
  simp [modShared, run_theCell h]
theorem run_sreg (h : s.cur = .stream c st) (ht : (s.cell c).act = some t) (r : BitVec 5) :
    (sreg r).run s = .ok (t.sreg r.toNat) s := by
  simp [sreg, run_team h ht]
theorem run_setSreg (h : s.cur = .stream c st) (r : BitVec 5) (v : Word) :
    (setSreg r v).run s = .ok () (s.modAct c fun t => t.setSreg r.toNat v) := run_modTeam h _
theorem run_setPred (h : s.cur = .stream c st) (p : Nat) (b : Bool) :
    (setPred p b).run s = .ok () (s.modAct c fun t => t.setPred p b) := run_modTeam h _
theorem run_jumpTo (h : s.cur = .stream c st) (o : Word) : (jumpTo o).run s = .ok () (s.modAct c fun t => t.setPc st o) := by
  simp [jumpTo, run_theStream h, run_modTeam h]
theorem run_pcHere (h : s.cur = .stream c st) (ht : (s.cell c).act = some t) (n : Nat) :
    (pcHere n).run s = .ok (t.pcOf st - wd n) s := by
  simp [pcHere, run_theStream h, run_team h ht]
theorem run_theWho (h : s.cur = .stream c st) (ht : (s.cell c).act = some t) :
    theWho.run s = .ok (s.whoIs c t st) s := by
  simp [theWho, run_theCell h, run_team h ht, run_theStream h, State.whoIs, Team.key]

end

/-! ### The same where the active team has just been replaced -/

section
variable {s : State} {c : Nat} {st : Stream} (hc : s.cur = .stream c st) (t : Team)
include hc

theorem runw_theCell : theCell.run (s.withTeam c t) = .ok c (s.withTeam c t) := run_theCell (by simpa using hc)
theorem runw_theStream : theStream.run (s.withTeam c t) = .ok st (s.withTeam c t) := run_theStream (by simpa using hc)
theorem runw_theLoc : theLoc.run (s.withTeam c t) = .ok (.here c (s.cell c).active) (s.withTeam c t) := by
  rw [run_theLoc (by simpa using hc)]
  simp
theorem runw_team : team.run (s.withTeam c t) = .ok t (s.withTeam c t) := run_team (by simpa using hc) (State.act_withTeam ..)
theorem runw_modTeam (f : Team → Team) : (modTeam f).run (s.withTeam c t) = .ok () (s.withTeam c (f t)) := by
  rw [run_modTeam (by simpa using hc), State.modAct_withTeam]
theorem runw_shared : shared.run (s.withTeam c t) = .ok (s.cell c).sh (s.withTeam c t) := by
  rw [run_shared (by simpa using hc)]
  simp
theorem runw_sreg (r : BitVec 5) : (sreg r).run (s.withTeam c t) = .ok (t.sreg r.toNat) (s.withTeam c t) :=
  run_sreg (by simpa using hc) (State.act_withTeam ..) r
theorem runw_setSreg (r : BitVec 5) (v : Word) :
    (setSreg r v).run (s.withTeam c t) = .ok () (s.withTeam c (t.setSreg r.toNat v)) := runw_modTeam hc t _
theorem runw_setPred (p : Nat) (b : Bool) : (setPred p b).run (s.withTeam c t) = .ok () (s.withTeam c (t.setPred p b)) :=
  runw_modTeam hc t _
theorem runw_jumpTo (o : Word) : (jumpTo o).run (s.withTeam c t) = .ok () (s.withTeam c (t.setPc st o)) := by
  rw [run_jumpTo (by simpa using hc), State.modAct_withTeam]
theorem runw_pcHere (n : Nat) : (pcHere n).run (s.withTeam c t) = .ok (t.pcOf st - wd n) (s.withTeam c t) :=
  run_pcHere (by simpa using hc) (State.act_withTeam ..) n
theorem runw_theWho : theWho.run (s.withTeam c t) = .ok (s.whoIs c t st) (s.withTeam c t) := by
  rw [run_theWho (by simpa using hc) (State.act_withTeam ..)]
  simp [State.whoIs]

end

/-! ### The frames -/

section
variable {s s' : State} {c : Nat} {t : Team} {len : Nat} {pg : BitVec 3} {body : M Unit}

/-- An instruction of the strand whose body completes. -/
theorem strandOp_ok (h : Guarded s c t pg) (hb : body.run (s.withTeam c (t.past .strand len)) = .ok () s') :
    strandOp len pg body s = .next (s'.did t) := by
  obtain ⟨⟨hc, ha⟩, hp⟩ := h
  simp [strandOp, hc, ha, hp, runAt, State.passed_of_act ha, hb, State.did]

/-- An instruction of the strand whose guard does not hold. -/
theorem strandOp_off (h : Issues s c .strand t) (hp : t.pred pg.toNat = false) :
    strandOp len pg body s = .next (s.withTeam c (t.past .strand len)) := by
  obtain ⟨hc, ha⟩ := h
  simp [strandOp, hc, ha, hp, State.passed_of_act ha]

/-- An instruction of an engine stream whose body completes. -/
theorem engineOp_ok {e : Engine} (h : EngineIssues s c e t)
    (hb : body.run (s.withTeam c (t.past e.stream len)) = .ok () s') : engineOp e len body s = .next (s'.cycled e c t) := by
  obtain ⟨⟨hc, ha⟩, hp⟩ := h
  cases e <;> simp_all [engineOp, runAt, State.passed_of_act ha, Engine.stream, State.cycled]

/-- An instruction that several streams decode, in the strand. -/
theorem sharedOp_strand {sts : List Stream} (h : Guarded s c t pg) (hm : Stream.strand ∈ sts)
    (hb : body.run (s.withTeam c (t.past .strand len)) = .ok () s') : sharedOp len pg sts body s = .next (s'.did t) := by
  obtain ⟨⟨hc, ha⟩, hp⟩ := h
  simp [sharedOp, hc, ha, hp, hm, runAt, State.passed_of_act ha, hb, State.did]

/-- An instruction of a unit that the device has. -/
theorem gatedOp_has {has : State → Bool} (run : State → Res) (h : has s = true) : gatedOp has run s = run s := by
  unfold gatedOp
  split <;> simp [h]

/-- An instruction of a unit that the device lacks traps whatever its guard reads (R189). -/
theorem gatedOp_absent {has : State → Bool} {st : Stream} (run : State → Res) (hi : Issues s c st t) (h : has s = false) :
    gatedOp has run s = .next (s.takeTrap c st .unitAbsent true (t.pcOf st)) := by
  obtain ⟨hc, ha⟩ := hi
  simp [gatedOp, hc, ha, h, State.pcAt]

/-- An instruction of the strand whose body traps: the strand stands at it, and what peers answered to it is used. -/
theorem strandOp_trap {k : Cause} {i : Info} (h : Guarded s c t pg)
    (hb : body.run (s.withTeam c (t.past .strand len)) = .error (.trap k i) s') :
    strandOp len pg body s =
      .next (((s'.rewound c .strand t.pc t.nt0.pos t.nt1.pos).usedReplies (t.key .strand)).takeTrap c .strand k true t.pc i) := by
  obtain ⟨⟨hc, ha⟩, hp⟩ := h
  simp [strandOp, hc, ha, hp, runAt, State.passed_of_act ha, hb, Team.pcOf, engineOf]

/-- An instruction of the strand whose body waits: the strand stands at it. -/
theorem strandOp_wait {p : Option Nat} (h : Guarded s c t pg)
    (hb : body.run (s.withTeam c (t.past .strand len)) = .error (.wait p) s') :
    strandOp len pg body s =
      .next ((s'.rewound c .strand t.pc t.nt0.pos t.nt1.pos).modAct c fun u => { u with waitPeer := p }) := by
  obtain ⟨⟨hc, ha⟩, hp⟩ := h
  simp [strandOp, hc, ha, hp, runAt, State.passed_of_act ha, hb, Team.pcOf, engineOf]

/-- An instruction that several streams decode, in an engine stream. -/
theorem sharedOp_engine {e : Engine} {sts : List Stream} (h : EngineIssues s c e t) (hm : e.stream ∈ sts)
    (hb : body.run (s.withTeam c (t.past e.stream len)) = .ok () s') : sharedOp len pg sts body s = .next (s'.cycled e c t) := by
  obtain ⟨⟨hc, ha⟩, hp⟩ := h
  cases e <;> simp_all [sharedOp, runAt, State.passed_of_act ha, Engine.stream, State.cycled]

end

end Sys2Proof.Machine
end

