-- ==== Sys2Proof/Laws/PerInstr.lean ====
section
/-! SUPPORT. One lemma per constructor of `Instr`: its words parse to its name and fields, and the fields build it again. -/
namespace Sys2Proof.Laws.RoundTrip

/-- The words of an encoded instruction give back its name, its fields and itself. -/
def Statement (i : Instr) : Prop :=
  ∀ o, i.op = some o → parseWords (encode i) = some (o, i.fields) ∧ buildInstr o i.fields = some i

theorem queueDoorbell : Statement .queueDoorbell := fun _ h => by cases h
theorem queueEnable : Statement .queueEnable := fun _ h => by cases h
theorem queueDisable : Statement .queueDisable := fun _ h => by cases h
theorem arbitrationDispatch : Statement .arbitrationDispatch := fun _ h => by cases h
theorem sliceEnd : Statement .sliceEnd := fun _ h => by cases h
theorem queueAging : Statement .queueAging := fun _ h => by cases h
theorem acctUsedWriteback : Statement .acctUsedWriteback := fun _ h => by cases h
theorem childSpillRefill : Statement .childSpillRefill := fun _ h => by cases h
theorem graphConditionalRead : Statement .graphConditionalRead := fun _ h => by cases h
theorem graphRearm : Statement .graphRearm := fun _ h => by cases h
theorem graphCopyNodeDone : Statement .graphCopyNodeDone := fun _ h => by cases h
theorem hubStageSwitch : Statement .hubStageSwitch := fun _ h => by cases h
theorem switchHardStop : Statement .switchHardStop := fun _ h => by cases h
theorem stageSwitchFlip : Statement .stageSwitchFlip := fun _ h => by cases h
theorem cellAllotWrite : Statement .cellAllotWrite := fun _ h => by cases h
theorem gangPlace : Statement .gangPlace := fun _ h => by cases h
theorem gangSliceEnd : Statement .gangSliceEnd := fun _ h => by cases h
theorem swapOutComplete : Statement .swapOutComplete := fun _ h => by cases h
theorem swapInComplete : Statement .swapInComplete := fun _ h => by cases h
theorem taskAccept : Statement .taskAccept := fun _ h => by cases h
theorem taskDeadline : Statement .taskDeadline := fun _ h => by cases h
theorem passForm : Statement .passForm := fun _ h => by cases h
theorem passGatherDone : Statement .passGatherDone := fun _ h => by cases h
theorem passColumnGroupEnd : Statement .passColumnGroupEnd := fun _ h => by cases h
theorem passScatterDone : Statement .passScatterDone := fun _ h => by cases h
theorem resumeDoorbell : Statement .resumeDoorbell := fun _ h => by cases h
theorem resumedScatterDone : Statement .resumedScatterDone := fun _ h => by cases h
theorem barkerAdvertiseTable : Statement .barkerAdvertiseTable := fun _ h => by cases h
theorem barkerAdvertiseChange : Statement .barkerAdvertiseChange := fun _ h => by cases h
theorem barkerAdvertReceive : Statement .barkerAdvertReceive := fun _ h => by cases h
theorem barkerPairExpire : Statement .barkerPairExpire := fun _ h => by cases h
theorem steeredTaskArrive : Statement .steeredTaskArrive := fun _ h => by cases h
theorem steerRefused : Statement .steerRefused := fun _ h => by cases h
theorem steeredResultsReceive : Statement .steeredResultsReceive := fun _ h => by cases h
theorem veResultLand : Statement .veResultLand := fun _ h => by cases h
theorem productLand : Statement .productLand := fun _ h => by cases h
theorem loadReturn : Statement .loadReturn := fun _ h => by cases h
theorem pageWalkComplete : Statement .pageWalkComplete := fun _ h => by cases h
theorem tierSwapComplete : Statement .tierSwapComplete := fun _ h => by cases h
theorem counterDecay : Statement .counterDecay := fun _ h => by cases h
theorem vaultScrub : Statement .vaultScrub := fun _ h => by cases h
theorem carouselSlot : Statement .carouselSlot := fun _ h => by cases h
theorem nbResume : Statement .nbResume := fun _ h => by cases h
theorem jobStart : Statement .jobStart := fun _ h => by cases h
theorem jobComplete : Statement .jobComplete := fun _ h => by cases h
theorem portReceive : Statement .portReceive := fun _ h => by cases h
theorem rstAcknowledge : Statement .rstAcknowledge := fun _ h => by cases h
theorem remoteFault : Statement .remoteFault := fun _ h => by cases h
theorem collChunkReceive : Statement .collChunkReceive := fun _ h => by cases h
theorem collChunkAck : Statement .collChunkAck := fun _ h => by cases h
theorem leaseGrant : Statement .leaseGrant := fun _ h => by cases h
theorem leaseRetuneDone : Statement .leaseRetuneDone := fun _ h => by cases h
theorem leaseDurationEnd : Statement .leaseDurationEnd := fun _ h => by cases h
theorem leaseRevokeNotice : Statement .leaseRevokeNotice := fun _ h => by cases h
theorem leaseNoticeExpire : Statement .leaseNoticeExpire := fun _ h => by cases h
theorem leaseRetuneBackDone : Statement .leaseRetuneBackDone := fun _ h => by cases h
theorem fabricPacketReceive : Statement .fabricPacketReceive := fun _ h => by cases h
theorem fabricAckReceive : Statement .fabricAckReceive := fun _ h => by cases h
theorem peerLossTimeout : Statement .peerLossTimeout := fun _ h => by cases h
theorem peerLostDeclare : Statement .peerLostDeclare := fun _ h => by cases h
theorem partitionQuiesce : Statement .partitionQuiesce := fun _ h => by cases h
theorem quiesceLift : Statement .quiesceLift := fun _ h => by cases h
theorem fabcfgWrite : Statement .fabcfgWrite := fun _ h => by cases h
theorem wavelengthFail : Statement .wavelengthFail := fun _ h => by cases h
theorem hbmChannelSpare : Statement .hbmChannelSpare := fun _ h => by cases h
theorem cellFail : Statement .cellFail := fun _ h => by cases h
theorem preemptRequest : Statement .preemptRequest := fun _ h => by cases h
theorem preemptDrained : Statement .preemptDrained := fun _ h => by cases h
theorem preemptHardStop : Statement .preemptHardStop := fun _ h => by cases h
theorem asyncTrapTake : Statement .asyncTrapTake := fun _ h => by cases h
theorem hubRequestDone : Statement .hubRequestDone := fun _ h => by cases h
theorem gridComplete : Statement .gridComplete := fun _ h => by cases h
theorem hostRingEntryWrite : Statement .hostRingEntryWrite := fun _ h => by cases h
theorem ringInterruptTimeout : Statement .ringInterruptTimeout := fun _ h => by cases h
theorem ringEnable : Statement .ringEnable := fun _ h => by cases h
theorem stopCommand : Statement .stopCommand := fun _ h => by cases h
theorem freeCommand : Statement .freeCommand := fun _ h => by cases h
theorem stopReport : Statement .stopReport := fun _ h => by cases h
theorem attest : Statement .attest := fun _ h => by cases h
theorem attestReportDone : Statement .attestReportDone := fun _ h => by cases h
theorem fullReset : Statement .fullReset := fun _ h => by cases h
theorem scrubEnd : Statement .scrubEnd := fun _ h => by cases h
theorem scrubTimeout : Statement .scrubTimeout := fun _ h => by cases h
theorem startComplete : Statement .startComplete := fun _ h => by cases h
theorem startFail : Statement .startFail := fun _ h => by cases h
theorem startTimeout : Statement .startTimeout := fun _ h => by cases h
theorem vfFunctionLevelReset : Statement .vfFunctionLevelReset := fun _ h => by cases h
theorem registerWrite : Statement .registerWrite := fun _ h => by cases h
theorem add (x : S32) : Statement (.add x) := fun _ h => by
  cases h
  exact ⟨parseWords_words .add (.s32 x) _ _ rfl rfl, rfl⟩
theorem addImm (x : S64) : Statement (.addImm x) := fun _ h => by
  cases h
  exact ⟨parseWords_words .addImm (.s64 x) _ _ rfl rfl, rfl⟩
theorem sub (x : S32) : Statement (.sub x) := fun _ h => by
  cases h
  exact ⟨parseWords_words .sub (.s32 x) _ _ rfl rfl, rfl⟩
theorem subImm (x : S64) : Statement (.subImm x) := fun _ h => by
  cases h
  exact ⟨parseWords_words .subImm (.s64 x) _ _ rfl rfl, rfl⟩
theorem mul (x : S32) : Statement (.mul x) := fun _ h => by
  cases h
  exact ⟨parseWords_words .mul (.s32 x) _ _ rfl rfl, rfl⟩
theorem mulImm (x : S64) : Statement (.mulImm x) := fun _ h => by
  cases h
  exact ⟨parseWords_words .mulImm (.s64 x) _ _ rfl rfl, rfl⟩
theorem mulh (x : S32) : Statement (.mulh x) := fun _ h => by
  cases h
  exact ⟨parseWords_words .mulh (.s32 x) _ _ rfl rfl, rfl⟩
theorem mulhImm (x : S64) : Statement (.mulhImm x) := fun _ h => by
  cases h
  exact ⟨parseWords_words .mulhImm (.s64 x) _ _ rfl rfl, rfl⟩
theorem div (x : S32) : Statement (.div x) := fun _ h => by
  cases h
  exact ⟨parseWords_words .div (.s32 x) _ _ rfl rfl, rfl⟩
theorem divImm (x : S64) : Statement (.divImm x) := fun _ h => by
  cases h
  exact ⟨parseWords_words .divImm (.s64 x) _ _ rfl rfl, rfl⟩
theorem rem (x : S32) : Statement (.rem x) := fun _ h => by
  cases h
  exact ⟨parseWords_words .rem (.s32 x) _ _ rfl rfl, rfl⟩
theorem remImm (x : S64) : Statement (.remImm x) := fun _ h => by
  cases h
  exact ⟨parseWords_words .remImm (.s64 x) _ _ rfl rfl, rfl⟩
theorem and (x : S32) : Statement (.and x) := fun _ h => by
  cases h
  exact ⟨parseWords_words .and (.s32 x) _ _ rfl rfl, rfl⟩
theorem andImm (x : S64) : Statement (.andImm x) := fun _ h => by
  cases h
  exact ⟨parseWords_words .andImm (.s64 x) _ _ rfl rfl, rfl⟩
theorem or (x : S32) : Statement (.or x) := fun _ h => by
  cases h
  exact ⟨parseWords_words .or (.s32 x) _ _ rfl rfl, rfl⟩
theorem orImm (x : S64) : Statement (.orImm x) := fun _ h => by
  cases h
  exact ⟨parseWords_words .orImm (.s64 x) _ _ rfl rfl, rfl⟩
theorem xor (x : S32) : Statement (.xor x) := fun _ h => by
  cases h
  exact ⟨parseWords_words .xor (.s32 x) _ _ rfl rfl, rfl⟩
theorem xorImm (x : S64) : Statement (.xorImm x) := fun _ h => by
  cases h
  exact ⟨parseWords_words .xorImm (.s64 x) _ _ rfl rfl, rfl⟩
theorem shl (x : S32) : Statement (.shl x) := fun _ h => by
  cases h
  exact ⟨parseWords_words .shl (.s32 x) _ _ rfl rfl, rfl⟩
theorem shlImm (x : S64) : Statement (.shlImm x) := fun _ h => by
  cases h
  exact ⟨parseWords_words .shlImm (.s64 x) _ _ rfl rfl, rfl⟩
theorem shr (x : S32) : Statement (.shr x) := fun _ h => by
  cases h
  exact ⟨parseWords_words .shr (.s32 x) _ _ rfl rfl, rfl⟩
theorem shrImm (x : S64) : Statement (.shrImm x) := fun _ h => by
  cases h
  exact ⟨parseWords_words .shrImm (.s64 x) _ _ rfl rfl, rfl⟩
theorem sra (x : S32) : Statement (.sra x) := fun _ h => by
  cases h
  exact ⟨parseWords_words .sra (.s32 x) _ _ rfl rfl, rfl⟩
theorem sraImm (x : S64) : Statement (.sraImm x) := fun _ h => by
  cases h
  exact ⟨parseWords_words .sraImm (.s64 x) _ _ rfl rfl, rfl⟩
theorem min (x : S32) : Statement (.min x) := fun _ h => by
  cases h
  exact ⟨parseWords_words .min (.s32 x) _ _ rfl rfl, rfl⟩
theorem minImm (x : S64) : Statement (.minImm x) := fun _ h => by
  cases h
  exact ⟨parseWords_words .minImm (.s64 x) _ _ rfl rfl, rfl⟩
theorem max (x : S32) : Statement (.max x) := fun _ h => by
  cases h
  exact ⟨parseWords_words .max (.s32 x) _ _ rfl rfl, rfl⟩
theorem maxImm (x : S64) : Statement (.maxImm x) := fun _ h => by
  cases h
  exact ⟨parseWords_words .maxImm (.s64 x) _ _ rfl rfl, rfl⟩
theorem clz (x : S32) : Statement (.clz x) := fun _ h => by
  cases h
  exact ⟨parseWords_words .clz (.s32 x) _ _ rfl rfl, rfl⟩
theorem popc (x : S32) : Statement (.popc x) := fun _ h => by
  cases h
  exact ⟨parseWords_words .popc (.s32 x) _ _ rfl rfl, rfl⟩
theorem bfx (x : S32) : Statement (.bfx x) := fun _ h => by
  cases h
  exact ⟨parseWords_words .bfx (.s32 x) _ _ rfl rfl, rfl⟩
theorem bfxImm (x : S64) : Statement (.bfxImm x) := fun _ h => by
  cases h
  exact ⟨parseWords_words .bfxImm (.s64 x) _ _ rfl rfl, rfl⟩
theorem bfi (x : S32) : Statement (.bfi x) := fun _ h => by
  cases h
  exact ⟨parseWords_words .bfi (.s32 x) _ _ rfl rfl, rfl⟩
theorem bfiImm (x : S64) : Statement (.bfiImm x) := fun _ h => by
  cases h
  exact ⟨parseWords_words .bfiImm (.s64 x) _ _ rfl rfl, rfl⟩
theorem ext (x : S32) : Statement (.ext x) := fun _ h => by
  cases h
  exact ⟨parseWords_words .ext (.s32 x) _ _ rfl rfl, rfl⟩
theorem extImm (x : S64) : Statement (.extImm x) := fun _ h => by
  cases h
  exact ⟨parseWords_words .extImm (.s64 x) _ _ rfl rfl, rfl⟩
theorem cmp (x : S32) : Statement (.cmp x) := fun _ h => by
  cases h
  exact ⟨parseWords_words .cmp (.s32 x) _ _ rfl rfl, rfl⟩
theorem cmpImm (x : S64) : Statement (.cmpImm x) := fun _ h => by
  cases h
  exact ⟨parseWords_words .cmpImm (.s64 x) _ _ rfl rfl, rfl⟩
theorem sel (x : S32) : Statement (.sel x) := fun _ h => by
  cases h
  exact ⟨parseWords_words .sel (.s32 x) _ _ rfl rfl, rfl⟩
theorem li64 (x : S64) : Statement (.li64 x) := fun _ h => by
  cases h
  exact ⟨parseWords_words .li64 (.s64 x) _ _ rfl rfl, rfl⟩
theorem li96 (x : S96) : Statement (.li96 x) := fun _ h => by
  cases h
  exact ⟨parseWords_words .li96 (.s96 x) _ _ rfl rfl, rfl⟩
theorem lea (x : S64) : Statement (.lea x) := fun _ h => by
  cases h
  exact ⟨parseWords_words .lea (.s64 x) _ _ rfl rfl, rfl⟩
theorem ld (x : S32) : Statement (.ld x) := fun _ h => by
  cases h
  exact ⟨parseWords_words .ld (.s32 x) _ _ rfl rfl, rfl⟩
theorem ldImm (x : S64) : Statement (.ldImm x) := fun _ h => by
  cases h
  exact ⟨parseWords_words .ldImm (.s64 x) _ _ rfl rfl, rfl⟩
theorem st (x : S32) : Statement (.st x) := fun _ h => by
  cases h
  exact ⟨parseWords_words .st (.s32 x) _ _ rfl rfl, rfl⟩
theorem stImm (x : S64) : Statement (.stImm x) := fun _ h => by
  cases h
  exact ⟨parseWords_words .stImm (.s64 x) _ _ rfl rfl, rfl⟩
theorem br (x : S64) : Statement (.br x) := fun _ h => by
  cases h
  exact ⟨parseWords_words .br (.s64 x) _ _ rfl rfl, rfl⟩
theorem jmp (x : S64) : Statement (.jmp x) := fun _ h => by
  cases h
  exact ⟨parseWords_words .jmp (.s64 x) _ _ rfl rfl, rfl⟩
theorem call (x : S64) : Statement (.call x) := fun _ h => by
  cases h
  exact ⟨parseWords_words .call (.s64 x) _ _ rfl rfl, rfl⟩
theorem loop (x : S64) : Statement (.loop x) := fun _ h => by
  cases h
  exact ⟨parseWords_words .loop (.s64 x) _ _ rfl rfl, rfl⟩
theorem jmpx (x : S32) : Statement (.jmpx x) := fun _ h => by
  cases h
  exact ⟨parseWords_words .jmpx (.s32 x) _ _ rfl rfl, rfl⟩
theorem ret (x : S32) : Statement (.ret x) := fun _ h => by
  cases h
  exact ⟨parseWords_words .ret (.s32 x) _ _ rfl rfl, rfl⟩
theorem nop (x : S32) : Statement (.nop x) := fun _ h => by
  cases h
  exact ⟨parseWords_words .nop (.s32 x) _ _ rfl rfl, rfl⟩
theorem nop64 (x : S64) : Statement (.nop64 x) := fun _ h => by
  cases h
  exact ⟨parseWords_words .nop64 (.s64 x) _ _ rfl rfl, rfl⟩
theorem nop96 (x : S96) : Statement (.nop96 x) := fun _ h => by
  cases h
  exact ⟨parseWords_words .nop96 (.s96 x) _ _ rfl rfl, rfl⟩
theorem endTeam (x : S32) : Statement (.endTeam x) := fun _ h => by
  cases h
  exact ⟨parseWords_words .endTeam (.s32 x) _ _ rfl rfl, rfl⟩
theorem fork (x : S96) : Statement (.fork x) := fun _ h => by
  cases h
  exact ⟨parseWords_words .fork (.s96 x) _ _ rfl rfl, rfl⟩
theorem join (x : S32) : Statement (.join x) := fun _ h => by
  cases h
  exact ⟨parseWords_words .join (.s32 x) _ _ rfl rfl, rfl⟩
theorem nestSet (x : S32) : Statement (.nestSet x) := fun _ h => by
  cases h
  exact ⟨parseWords_words .nestSet (.s32 x) _ _ rfl rfl, rfl⟩
theorem nestGo (x : S32) : Statement (.nestGo x) := fun _ h => by
  cases h
  exact ⟨parseWords_words .nestGo (.s32 x) _ _ rfl rfl, rfl⟩
theorem nestClamp (x : S32) : Statement (.nestClamp x) := fun _ h => by
  cases h
  exact ⟨parseWords_words .nestClamp (.s32 x) _ _ rfl rfl, rfl⟩
theorem launch (x : S64) : Statement (.launch x) := fun _ h => by
  cases h
  exact ⟨parseWords_words .launch (.s64 x) _ _ rfl rfl, rfl⟩
theorem tsub (x : S64) : Statement (.tsub x) := fun _ h => by
  cases h
  exact ⟨parseWords_words .tsub (.s64 x) _ _ rfl rfl, rfl⟩
theorem tresume (x : S32) : Statement (.tresume x) := fun _ h => by
  cases h
  exact ⟨parseWords_words .tresume (.s32 x) _ _ rfl rfl, rfl⟩
theorem graphArm (x : S64) : Statement (.graphArm x) := fun _ h => by
  cases h
  exact ⟨parseWords_words .graphArm (.s64 x) _ _ rfl rfl, rfl⟩
theorem evqPop (x : S32) : Statement (.evqPop x) := fun _ h => by
  cases h
  exact ⟨parseWords_words .evqPop (.s32 x) _ _ rfl rfl, rfl⟩
theorem evqWait (x : S32) : Statement (.evqWait x) := fun _ h => by
  cases h
  exact ⟨parseWords_words .evqWait (.s32 x) _ _ rfl rfl, rfl⟩
theorem semSig (x : S32) : Statement (.semSig x) := fun _ h => by
  cases h
  exact ⟨parseWords_words .semSig (.s32 x) _ _ rfl rfl, rfl⟩
theorem semSigImm (x : S64) : Statement (.semSigImm x) := fun _ h => by
  cases h
  exact ⟨parseWords_words .semSigImm (.s64 x) _ _ rfl rfl, rfl⟩
theorem semWait (x : S32) : Statement (.semWait x) := fun _ h => by
  cases h
  exact ⟨parseWords_words .semWait (.s32 x) _ _ rfl rfl, rfl⟩
theorem semWaitImm (x : S64) : Statement (.semWaitImm x) := fun _ h => by
  cases h
  exact ⟨parseWords_words .semWaitImm (.s64 x) _ _ rfl rfl, rfl⟩
theorem semSet (x : S64) : Statement (.semSet x) := fun _ h => by
  cases h
  exact ⟨parseWords_words .semSet (.s64 x) _ _ rfl rfl, rfl⟩
theorem semRsig (x : S64) : Statement (.semRsig x) := fun _ h => by
  cases h
  exact ⟨parseWords_words .semRsig (.s64 x) _ _ rfl rfl, rfl⟩
theorem ctlRd (x : S32) : Statement (.ctlRd x) := fun _ h => by
  cases h
  exact ⟨parseWords_words .ctlRd (.s32 x) _ _ rfl rfl, rfl⟩
theorem ctlWr (x : S32) : Statement (.ctlWr x) := fun _ h => by
  cases h
  exact ⟨parseWords_words .ctlWr (.s32 x) _ _ rfl rfl, rfl⟩
theorem tstamp (x : S32) : Statement (.tstamp x) := fun _ h => by
  cases h
  exact ⟨parseWords_words .tstamp (.s32 x) _ _ rfl rfl, rfl⟩
theorem stageSw (x : S32) : Statement (.stageSw x) := fun _ h => by
  cases h
  exact ⟨parseWords_words .stageSw (.s32 x) _ _ rfl rfl, rfl⟩
theorem trap (x : S32) : Statement (.trap x) := fun _ h => by
  cases h
  exact ⟨parseWords_words .trap (.s32 x) _ _ rfl rfl, rfl⟩
theorem eret (x : S32) : Statement (.eret x) := fun _ h => by
  cases h
  exact ⟨parseWords_words .eret (.s32 x) _ _ rfl rfl, rfl⟩
theorem vadd (x : V32) : Statement (.vadd x) := fun _ h => by
  cases h
  exact ⟨parseWords_words .vadd (.v32 x) _ _ rfl rfl, rfl⟩
theorem vaddFull (x : V64) : Statement (.vaddFull x) := fun _ h => by
  cases h
  exact ⟨parseWords_words .vaddFull (.v64 x) _ _ rfl rfl, rfl⟩
theorem vsub (x : V32) : Statement (.vsub x) := fun _ h => by
  cases h
  exact ⟨parseWords_words .vsub (.v32 x) _ _ rfl rfl, rfl⟩
theorem vsubFull (x : V64) : Statement (.vsubFull x) := fun _ h => by
  cases h
  exact ⟨parseWords_words .vsubFull (.v64 x) _ _ rfl rfl, rfl⟩
theorem vmul (x : V32) : Statement (.vmul x) := fun _ h => by
  cases h
  exact ⟨parseWords_words .vmul (.v32 x) _ _ rfl rfl, rfl⟩
theorem vmulFull (x : V64) : Statement (.vmulFull x) := fun _ h => by
  cases h
  exact ⟨parseWords_words .vmulFull (.v64 x) _ _ rfl rfl, rfl⟩
theorem vfma (x : V64) : Statement (.vfma x) := fun _ h => by
  cases h
  exact ⟨parseWords_words .vfma (.v64 x) _ _ rfl rfl, rfl⟩
theorem vmin (x : V32) : Statement (.vmin x) := fun _ h => by
  cases h
  exact ⟨parseWords_words .vmin (.v32 x) _ _ rfl rfl, rfl⟩
theorem vminFull (x : V64) : Statement (.vminFull x) := fun _ h => by
  cases h
  exact ⟨parseWords_words .vminFull (.v64 x) _ _ rfl rfl, rfl⟩
theorem vmax (x : V32) : Statement (.vmax x) := fun _ h => by
  cases h
  exact ⟨parseWords_words .vmax (.v32 x) _ _ rfl rfl, rfl⟩
theorem vmaxFull (x : V64) : Statement (.vmaxFull x) := fun _ h => by
  cases h
  exact ⟨parseWords_words .vmaxFull (.v64 x) _ _ rfl rfl, rfl⟩
theorem vabs (x : V64) : Statement (.vabs x) := fun _ h => by
  cases h
  exact ⟨parseWords_words .vabs (.v64 x) _ _ rfl rfl, rfl⟩
theorem vneg (x : V64) : Statement (.vneg x) := fun _ h => by
  cases h
  exact ⟨parseWords_words .vneg (.v64 x) _ _ rfl rfl, rfl⟩
theorem vand (x : V32) : Statement (.vand x) := fun _ h => by
  cases h
  exact ⟨parseWords_words .vand (.v32 x) _ _ rfl rfl, rfl⟩
theorem vandFull (x : V64) : Statement (.vandFull x) := fun _ h => by
  cases h
  exact ⟨parseWords_words .vandFull (.v64 x) _ _ rfl rfl, rfl⟩
theorem vor (x : V32) : Statement (.vor x) := fun _ h => by
  cases h
  exact ⟨parseWords_words .vor (.v32 x) _ _ rfl rfl, rfl⟩
theorem vorFull (x : V64) : Statement (.vorFull x) := fun _ h => by
  cases h
  exact ⟨parseWords_words .vorFull (.v64 x) _ _ rfl rfl, rfl⟩
theorem vxor (x : V32) : Statement (.vxor x) := fun _ h => by
  cases h
  exact ⟨parseWords_words .vxor (.v32 x) _ _ rfl rfl, rfl⟩
theorem vxorFull (x : V64) : Statement (.vxorFull x) := fun _ h => by
  cases h
  exact ⟨parseWords_words .vxorFull (.v64 x) _ _ rfl rfl, rfl⟩
theorem vshl (x : V64) : Statement (.vshl x) := fun _ h => by
  cases h
  exact ⟨parseWords_words .vshl (.v64 x) _ _ rfl rfl, rfl⟩
theorem vshr (x : V64) : Statement (.vshr x) := fun _ h => by
  cases h
  exact ⟨parseWords_words .vshr (.v64 x) _ _ rfl rfl, rfl⟩
theorem vcmp (x : V64) : Statement (.vcmp x) := fun _ h => by
  cases h
  exact ⟨parseWords_words .vcmp (.v64 x) _ _ rfl rfl, rfl⟩
theorem vsel (x : V64) : Statement (.vsel x) := fun _ h => by
  cases h
  exact ⟨parseWords_words .vsel (.v64 x) _ _ rfl rfl, rfl⟩
theorem vmov (x : V32) : Statement (.vmov x) := fun _ h => by
  cases h
  exact ⟨parseWords_words .vmov (.v32 x) _ _ rfl rfl, rfl⟩
theorem vmovFull (x : V64) : Statement (.vmovFull x) := fun _ h => by
  cases h
  exact ⟨parseWords_words .vmovFull (.v64 x) _ _ rfl rfl, rfl⟩
theorem vli (x : V96) : Statement (.vli x) := fun _ h => by
  cases h
  exact ⟨parseWords_words .vli (.v96 x) _ _ rfl rfl, rfl⟩
theorem vcvt (x : V64) : Statement (.vcvt x) := fun _ h => by
  cases h
  exact ⟨parseWords_words .vcvt (.v64 x) _ _ rfl rfl, rfl⟩
theorem vwid (x : V64) : Statement (.vwid x) := fun _ h => by
  cases h
  exact ⟨parseWords_words .vwid (.v64 x) _ _ rfl rfl, rfl⟩
theorem vnar (x : V64) : Statement (.vnar x) := fun _ h => by
  cases h
  exact ⟨parseWords_words .vnar (.v64 x) _ _ rfl rfl, rfl⟩
theorem vpack (x : V64) : Statement (.vpack x) := fun _ h => by
  cases h
  exact ⟨parseWords_words .vpack (.v64 x) _ _ rfl rfl, rfl⟩
theorem vunpk (x : V64) : Statement (.vunpk x) := fun _ h => by
  cases h
  exact ⟨parseWords_words .vunpk (.v64 x) _ _ rfl rfl, rfl⟩
theorem vrcp (x : V64) : Statement (.vrcp x) := fun _ h => by
  cases h
  exact ⟨parseWords_words .vrcp (.v64 x) _ _ rfl rfl, rfl⟩
theorem vrsq (x : V64) : Statement (.vrsq x) := fun _ h => by
  cases h
  exact ⟨parseWords_words .vrsq (.v64 x) _ _ rfl rfl, rfl⟩
theorem vexp (x : V64) : Statement (.vexp x) := fun _ h => by
  cases h
  exact ⟨parseWords_words .vexp (.v64 x) _ _ rfl rfl, rfl⟩
theorem vlog (x : V64) : Statement (.vlog x) := fun _ h => by
  cases h
  exact ⟨parseWords_words .vlog (.v64 x) _ _ rfl rfl, rfl⟩
theorem vtanh (x : V64) : Statement (.vtanh x) := fun _ h => by
  cases h
  exact ⟨parseWords_words .vtanh (.v64 x) _ _ rfl rfl, rfl⟩
theorem vsigm (x : V64) : Statement (.vsigm x) := fun _ h => by
  cases h
  exact ⟨parseWords_words .vsigm (.v64 x) _ _ rfl rfl, rfl⟩
theorem vgelu (x : V64) : Statement (.vgelu x) := fun _ h => by
  cases h
  exact ⟨parseWords_words .vgelu (.v64 x) _ _ rfl rfl, rfl⟩
theorem vsin (x : V64) : Statement (.vsin x) := fun _ h => by
  cases h
  exact ⟨parseWords_words .vsin (.v64 x) _ _ rfl rfl, rfl⟩
theorem vrcps (x : V64) : Statement (.vrcps x) := fun _ h => by
  cases h
  exact ⟨parseWords_words .vrcps (.v64 x) _ _ rfl rfl, rfl⟩
theorem vrsqs (x : V64) : Statement (.vrsqs x) := fun _ h => by
  cases h
  exact ⟨parseWords_words .vrsqs (.v64 x) _ _ rfl rfl, rfl⟩
theorem vrsum (x : V64) : Statement (.vrsum x) := fun _ h => by
  cases h
  exact ⟨parseWords_words .vrsum (.v64 x) _ _ rfl rfl, rfl⟩
theorem vrmax (x : V64) : Statement (.vrmax x) := fun _ h => by
  cases h
  exact ⟨parseWords_words .vrmax (.v64 x) _ _ rfl rfl, rfl⟩
theorem vrmin (x : V64) : Statement (.vrmin x) := fun _ h => by
  cases h
  exact ⟨parseWords_words .vrmin (.v64 x) _ _ rfl rfl, rfl⟩
theorem vscan (x : V64) : Statement (.vscan x) := fun _ h => by
  cases h
  exact ⟨parseWords_words .vscan (.v64 x) _ _ rfl rfl, rfl⟩
theorem vargmax (x : V64) : Statement (.vargmax x) := fun _ h => by
  cases h
  exact ⟨parseWords_words .vargmax (.v64 x) _ _ rfl rfl, rfl⟩
theorem vtopk (x : V64) : Statement (.vtopk x) := fun _ h => by
  cases h
  exact ⟨parseWords_words .vtopk (.v64 x) _ _ rfl rfl, rfl⟩
theorem vperm (x : V64) : Statement (.vperm x) := fun _ h => by
  cases h
  exact ⟨parseWords_words .vperm (.v64 x) _ _ rfl rfl, rfl⟩
theorem vshuf (x : V64) : Statement (.vshuf x) := fun _ h => by
  cases h
  exact ⟨parseWords_words .vshuf (.v64 x) _ _ rfl rfl, rfl⟩
theorem vbcast (x : V64) : Statement (.vbcast x) := fun _ h => by
  cases h
  exact ⟨parseWords_words .vbcast (.v64 x) _ _ rfl rfl, rfl⟩
theorem viota (x : V64) : Statement (.viota x) := fun _ h => by
  cases h
  exact ⟨parseWords_words .viota (.v64 x) _ _ rfl rfl, rfl⟩
theorem vmand (x : V64) : Statement (.vmand x) := fun _ h => by
  cases h
  exact ⟨parseWords_words .vmand (.v64 x) _ _ rfl rfl, rfl⟩
theorem vmor (x : V64) : Statement (.vmor x) := fun _ h => by
  cases h
  exact ⟨parseWords_words .vmor (.v64 x) _ _ rfl rfl, rfl⟩
theorem vmnot (x : V64) : Statement (.vmnot x) := fun _ h => by
  cases h
  exact ⟨parseWords_words .vmnot (.v64 x) _ _ rfl rfl, rfl⟩
theorem vmpop (x : V64) : Statement (.vmpop x) := fun _ h => by
  cases h
  exact ⟨parseWords_words .vmpop (.v64 x) _ _ rfl rfl, rfl⟩
theorem vqnt (x : V64) : Statement (.vqnt x) := fun _ h => by
  cases h
  exact ⟨parseWords_words .vqnt (.v64 x) _ _ rfl rfl, rfl⟩
theorem vdqnt (x : V64) : Statement (.vdqnt x) := fun _ h => by
  cases h
  exact ⟨parseWords_words .vdqnt (.v64 x) _ _ rfl rfl, rfl⟩
theorem vld (x : V96) : Statement (.vld x) := fun _ h => by
  cases h
  exact ⟨parseWords_words .vld (.v96 x) _ _ rfl rfl, rfl⟩
theorem vst (x : V96) : Statement (.vst x) := fun _ h => by
  cases h
  exact ⟨parseWords_words .vst (.v96 x) _ _ rfl rfl, rfl⟩
theorem vldx (x : V96) : Statement (.vldx x) := fun _ h => by
  cases h
  exact ⟨parseWords_words .vldx (.v96 x) _ _ rfl rfl, rfl⟩
theorem vstx (x : V96) : Statement (.vstx x) := fun _ h => by
  cases h
  exact ⟨parseWords_words .vstx (.v96 x) _ _ rfl rfl, rfl⟩
theorem vdefer (x : V64) : Statement (.vdefer x) := fun _ h => by
  cases h
  exact ⟨parseWords_words .vdefer (.v64 x) _ _ rfl rfl, rfl⟩
theorem vdrain (x : V64) : Statement (.vdrain x) := fun _ h => by
  cases h
  exact ⟨parseWords_words .vdrain (.v64 x) _ _ rfl rfl, rfl⟩
theorem vdret (x : V64) : Statement (.vdret x) := fun _ h => by
  cases h
  exact ⟨parseWords_words .vdret (.v64 x) _ _ rfl rfl, rfl⟩
theorem vbr (x : V96) : Statement (.vbr x) := fun _ h => by
  cases h
  exact ⟨parseWords_words .vbr (.v96 x) _ _ rfl rfl, rfl⟩
theorem vloop (x : V96) : Statement (.vloop x) := fun _ h => by
  cases h
  exact ⟨parseWords_words .vloop (.v96 x) _ _ rfl rfl, rfl⟩
theorem vtake (x : V64) : Statement (.vtake x) := fun _ h => by
  cases h
  exact ⟨parseWords_words .vtake (.v64 x) _ _ rfl rfl, rfl⟩
theorem vgive (x : V64) : Statement (.vgive x) := fun _ h => by
  cases h
  exact ⟨parseWords_words .vgive (.v64 x) _ _ rfl rfl, rfl⟩
theorem nestBeg (x : Mark) : Statement (.nestBeg x) := fun _ h => by
  cases h
  obtain ⟨e, r, k⟩ := x
  cases e with
  | vector => exact ⟨parseWords_words .nestBeg (.mark ⟨.vector, r, k⟩) 1 _ rfl rfl, rfl⟩
  | matrix => exact ⟨parseWords_words .nestBeg (.mark ⟨.matrix, r, k⟩) 2 _ rfl rfl, rfl⟩
  | copy => exact ⟨parseWords_words .nestBeg (.mark ⟨.copy, r, k⟩) 3 _ rfl rfl, rfl⟩
theorem nestEnd (x : Mark) : Statement (.nestEnd x) := fun _ h => by
  cases h
  obtain ⟨e, r, k⟩ := x
  cases e with
  | vector => exact ⟨parseWords_words .nestEnd (.mark ⟨.vector, r, k⟩) 1 _ rfl rfl, rfl⟩
  | matrix => exact ⟨parseWords_words .nestEnd (.mark ⟨.matrix, r, k⟩) 2 _ rfl rfl, rfl⟩
  | copy => exact ⟨parseWords_words .nestEnd (.mark ⟨.copy, r, k⟩) 3 _ rfl rfl, rfl⟩
theorem rdv (x : Mark) : Statement (.rdv x) := fun _ h => by
  cases h
  obtain ⟨e, r, k⟩ := x
  cases e with
  | vector => exact ⟨parseWords_words .rdv (.mark ⟨.vector, r, k⟩) 1 _ rfl rfl, rfl⟩
  | matrix => exact ⟨parseWords_words .rdv (.mark ⟨.matrix, r, k⟩) 2 _ rfl rfl, rfl⟩
  | copy => exact ⟨parseWords_words .rdv (.mark ⟨.copy, r, k⟩) 3 _ rfl rfl, rfl⟩
theorem engineEnd (x : Mark) : Statement (.engineEnd x) := fun _ h => by
  cases h
  obtain ⟨e, r, k⟩ := x
  cases e with
  | vector => exact ⟨parseWords_words .engineEnd (.mark ⟨.vector, r, k⟩) 1 _ rfl rfl, rfl⟩
  | matrix => exact ⟨parseWords_words .engineEnd (.mark ⟨.matrix, r, k⟩) 2 _ rfl rfl, rfl⟩
  | copy => exact ⟨parseWords_words .engineEnd (.mark ⟨.copy, r, k⟩) 3 _ rfl rfl, rfl⟩
theorem mma (x : M64) : Statement (.mma x) := fun _ h => by
  cases h
  exact ⟨parseWords_words .mma (.m64 x) 2 _ rfl rfl, rfl⟩
theorem mmaz (x : M64) : Statement (.mmaz x) := fun _ h => by
  cases h
  exact ⟨parseWords_words .mmaz (.m64 x) 2 _ rfl rfl, rfl⟩
theorem mmag (x : M64) : Statement (.mmag x) := fun _ h => by
  cases h
  exact ⟨parseWords_words .mmag (.m64 x) 2 _ rfl rfl, rfl⟩
theorem mconst (x : M64) : Statement (.mconst x) := fun _ h => by
  cases h
  exact ⟨parseWords_words .mconst (.m64 x) 2 _ rfl rfl, rfl⟩
theorem mprec (x : M96) : Statement (.mprec x) := fun _ h => by
  cases h
  exact ⟨parseWords_words .mprec (.m96 x) 2 _ rfl rfl, rfl⟩
theorem mscale (x : M64) : Statement (.mscale x) := fun _ h => by
  cases h
  exact ⟨parseWords_words .mscale (.m64 x) 2 _ rfl rfl, rfl⟩
theorem mown (x : M64) : Statement (.mown x) := fun _ h => by
  cases h
  exact ⟨parseWords_words .mown (.m64 x) 2 _ rfl rfl, rfl⟩
theorem mclr (x : M64) : Statement (.mclr x) := fun _ h => by
  cases h
  exact ⟨parseWords_words .mclr (.m64 x) 2 _ rfl rfl, rfl⟩
theorem mcvt (x : M64) : Statement (.mcvt x) := fun _ h => by
  cases h
  exact ⟨parseWords_words .mcvt (.m64 x) 2 _ rfl rfl, rfl⟩
theorem mscat (x : M64) : Statement (.mscat x) := fun _ h => by
  cases h
  exact ⟨parseWords_words .mscat (.m64 x) 2 _ rfl rfl, rfl⟩
theorem mfree (x : M64) : Statement (.mfree x) := fun _ h => by
  cases h
  exact ⟨parseWords_words .mfree (.m64 x) 2 _ rfl rfl, rfl⟩
theorem cp (x : C64) : Statement (.cp x) := fun _ h => by
  cases h
  exact ⟨parseWords_words .cp (.c64 x) 3 _ rfl rfl, rfl⟩
theorem cp96 (x : C96) : Statement (.cp96 x) := fun _ h => by
  cases h
  exact ⟨parseWords_words .cp96 (.c96 x) 3 _ rfl rfl, rfl⟩
theorem cpc (x : C64) : Statement (.cpc x) := fun _ h => by
  cases h
  exact ⟨parseWords_words .cpc (.c64 x) 3 _ rfl rfl, rfl⟩
theorem cpc96 (x : C96) : Statement (.cpc96 x) := fun _ h => by
  cases h
  exact ⟨parseWords_words .cpc96 (.c96 x) 3 _ rfl rfl, rfl⟩
theorem cpg (x : C64) : Statement (.cpg x) := fun _ h => by
  cases h
  exact ⟨parseWords_words .cpg (.c64 x) 3 _ rfl rfl, rfl⟩
theorem cpg96 (x : C96) : Statement (.cpg96 x) := fun _ h => by
  cases h
  exact ⟨parseWords_words .cpg96 (.c96 x) 3 _ rfl rfl, rfl⟩
theorem cps (x : C64) : Statement (.cps x) := fun _ h => by
  cases h
  exact ⟨parseWords_words .cps (.c64 x) 3 _ rfl rfl, rfl⟩
theorem cps96 (x : C96) : Statement (.cps96 x) := fun _ h => by
  cases h
  exact ⟨parseWords_words .cps96 (.c96 x) 3 _ rfl rfl, rfl⟩
theorem cpk (x : C64) : Statement (.cpk x) := fun _ h => by
  cases h
  exact ⟨parseWords_words .cpk (.c64 x) 3 _ rfl rfl, rfl⟩
theorem cpk96 (x : C96) : Statement (.cpk96 x) := fun _ h => by
  cases h
  exact ⟨parseWords_words .cpk96 (.c96 x) 3 _ rfl rfl, rfl⟩
theorem qinit (x : C64) : Statement (.qinit x) := fun _ h => by
  cases h
  exact ⟨parseWords_words .qinit (.c64 x) 3 _ rfl rfl, rfl⟩
theorem qinit96 (x : C96) : Statement (.qinit96 x) := fun _ h => by
  cases h
  exact ⟨parseWords_words .qinit96 (.c96 x) 3 _ rfl rfl, rfl⟩
theorem qpush (x : C64) : Statement (.qpush x) := fun _ h => by
  cases h
  exact ⟨parseWords_words .qpush (.c64 x) 3 _ rfl rfl, rfl⟩
theorem qpush96 (x : C96) : Statement (.qpush96 x) := fun _ h => by
  cases h
  exact ⟨parseWords_words .qpush96 (.c96 x) 3 _ rfl rfl, rfl⟩
theorem qpop (x : C64) : Statement (.qpop x) := fun _ h => by
  cases h
  exact ⟨parseWords_words .qpop (.c64 x) 3 _ rfl rfl, rfl⟩
theorem qpop96 (x : C96) : Statement (.qpop96 x) := fun _ h => by
  cases h
  exact ⟨parseWords_words .qpop96 (.c96 x) 3 _ rfl rfl, rfl⟩
theorem qpeek (x : COpt) : Statement (.qpeek x) := fun _ h => by
  cases h
  obtain ⟨c, lit⟩ := x
  cases lit with
  | none => exact ⟨parseWords_words .qpeek (.c64 c) 3 _ rfl rfl, rfl⟩
  | some w => exact ⟨parseWords_words .qpeek (.c96 ⟨c, w⟩) 3 _ rfl rfl, rfl⟩
theorem pref (x : C64) : Statement (.pref x) := fun _ h => by
  cases h
  exact ⟨parseWords_words .pref (.c64 x) 3 _ rfl rfl, rfl⟩
theorem pref96 (x : C96) : Statement (.pref96 x) := fun _ h => by
  cases h
  exact ⟨parseWords_words .pref96 (.c96 x) 3 _ rfl rfl, rfl⟩
theorem pin (x : C64) : Statement (.pin x) := fun _ h => by
  cases h
  exact ⟨parseWords_words .pin (.c64 x) 3 _ rfl rfl, rfl⟩
theorem pin96 (x : C96) : Statement (.pin96 x) := fun _ h => by
  cases h
  exact ⟨parseWords_words .pin96 (.c96 x) 3 _ rfl rfl, rfl⟩
theorem unpin (x : C64) : Statement (.unpin x) := fun _ h => by
  cases h
  exact ⟨parseWords_words .unpin (.c64 x) 3 _ rfl rfl, rfl⟩
theorem unpin96 (x : C96) : Statement (.unpin96 x) := fun _ h => by
  cases h
  exact ⟨parseWords_words .unpin96 (.c96 x) 3 _ rfl rfl, rfl⟩
theorem kvcommit (x : C64) : Statement (.kvcommit x) := fun _ h => by
  cases h
  exact ⟨parseWords_words .kvcommit (.c64 x) 3 _ rfl rfl, rfl⟩
theorem kvcommit96 (x : C96) : Statement (.kvcommit96 x) := fun _ h => by
  cases h
  exact ⟨parseWords_words .kvcommit96 (.c96 x) 3 _ rfl rfl, rfl⟩
theorem rst (x : C64) : Statement (.rst x) := fun _ h => by
  cases h
  exact ⟨parseWords_words .rst (.c64 x) 3 _ rfl rfl, rfl⟩
theorem rst96 (x : C96) : Statement (.rst96 x) := fun _ h => by
  cases h
  exact ⟨parseWords_words .rst96 (.c96 x) 3 _ rfl rfl, rfl⟩
theorem rld (x : C64) : Statement (.rld x) := fun _ h => by
  cases h
  exact ⟨parseWords_words .rld (.c64 x) 3 _ rfl rfl, rfl⟩
theorem rld96 (x : C96) : Statement (.rld96 x) := fun _ h => by
  cases h
  exact ⟨parseWords_words .rld96 (.c96 x) 3 _ rfl rfl, rfl⟩
theorem lsend (x : C64) : Statement (.lsend x) := fun _ h => by
  cases h
  exact ⟨parseWords_words .lsend (.c64 x) 3 _ rfl rfl, rfl⟩
theorem lsend96 (x : C96) : Statement (.lsend96 x) := fun _ h => by
  cases h
  exact ⟨parseWords_words .lsend96 (.c96 x) 3 _ rfl rfl, rfl⟩
theorem lradd (x : C64) : Statement (.lradd x) := fun _ h => by
  cases h
  exact ⟨parseWords_words .lradd (.c64 x) 3 _ rfl rfl, rfl⟩
theorem lradd96 (x : C96) : Statement (.lradd96 x) := fun _ h => by
  cases h
  exact ⟨parseWords_words .lradd96 (.c96 x) 3 _ rfl rfl, rfl⟩
theorem tslotSet (x : C64) : Statement (.tslotSet x) := fun _ h => by
  cases h
  exact ⟨parseWords_words .tslotSet (.c64 x) 3 _ rfl rfl, rfl⟩
theorem tslotSet96 (x : C96) : Statement (.tslotSet96 x) := fun _ h => by
  cases h
  exact ⟨parseWords_words .tslotSet96 (.c96 x) 3 _ rfl rfl, rfl⟩
theorem tfull (x : COpt) : Statement (.tfull x) := fun _ h => by
  cases h
  obtain ⟨c, lit⟩ := x
  cases lit with
  | none => exact ⟨parseWords_words .tfull (.c64 c) 3 _ rfl rfl, rfl⟩
  | some w => exact ⟨parseWords_words .tfull (.c96 ⟨c, w⟩) 3 _ rfl rfl, rfl⟩
theorem tempty (x : COpt) : Statement (.tempty x) := fun _ h => by
  cases h
  obtain ⟨c, lit⟩ := x
  cases lit with
  | none => exact ⟨parseWords_words .tempty (.c64 c) 3 _ rfl rfl, rfl⟩
  | some w => exact ⟨parseWords_words .tempty (.c96 ⟨c, w⟩) 3 _ rfl rfl, rfl⟩
theorem twait (x : COpt) : Statement (.twait x) := fun _ h => by
  cases h
  obtain ⟨c, lit⟩ := x
  cases lit with
  | none => exact ⟨parseWords_words .twait (.c64 c) 3 _ rfl rfl, rfl⟩
  | some w => exact ⟨parseWords_words .twait (.c96 ⟨c, w⟩) 3 _ rfl rfl, rfl⟩
theorem foot (x : C64) : Statement (.foot x) := fun _ h => by
  cases h
  exact ⟨parseWords_words .foot (.c64 x) 3 _ rfl rfl, rfl⟩
theorem foot96 (x : C96) : Statement (.foot96 x) := fun _ h => by
  cases h
  exact ⟨parseWords_words .foot96 (.c96 x) 3 _ rfl rfl, rfl⟩
theorem amoAdd (x : S32) : Statement (.amoAdd x) := fun _ h => by
  cases h
  exact ⟨parseWords_words .amoAdd (.s32 x) _ _ rfl rfl, rfl⟩
theorem amoAddImm (x : S64) : Statement (.amoAddImm x) := fun _ h => by
  cases h
  exact ⟨parseWords_words .amoAddImm (.s64 x) _ _ rfl rfl, rfl⟩
theorem amoMin (x : S32) : Statement (.amoMin x) := fun _ h => by
  cases h
  exact ⟨parseWords_words .amoMin (.s32 x) _ _ rfl rfl, rfl⟩
theorem amoMinImm (x : S64) : Statement (.amoMinImm x) := fun _ h => by
  cases h
  exact ⟨parseWords_words .amoMinImm (.s64 x) _ _ rfl rfl, rfl⟩
theorem amoMax (x : S32) : Statement (.amoMax x) := fun _ h => by
  cases h
  exact ⟨parseWords_words .amoMax (.s32 x) _ _ rfl rfl, rfl⟩
theorem amoMaxImm (x : S64) : Statement (.amoMaxImm x) := fun _ h => by
  cases h
  exact ⟨parseWords_words .amoMaxImm (.s64 x) _ _ rfl rfl, rfl⟩
theorem amoXchg (x : S32) : Statement (.amoXchg x) := fun _ h => by
  cases h
  exact ⟨parseWords_words .amoXchg (.s32 x) _ _ rfl rfl, rfl⟩
theorem amoXchgImm (x : S64) : Statement (.amoXchgImm x) := fun _ h => by
  cases h
  exact ⟨parseWords_words .amoXchgImm (.s64 x) _ _ rfl rfl, rfl⟩
theorem amoCas (x : S32) : Statement (.amoCas x) := fun _ h => by
  cases h
  exact ⟨parseWords_words .amoCas (.s32 x) _ _ rfl rfl, rfl⟩
theorem amoCasImm (x : S64) : Statement (.amoCasImm x) := fun _ h => by
  cases h
  exact ⟨parseWords_words .amoCasImm (.s64 x) _ _ rfl rfl, rfl⟩
theorem amoAnd (x : S32) : Statement (.amoAnd x) := fun _ h => by
  cases h
  exact ⟨parseWords_words .amoAnd (.s32 x) _ _ rfl rfl, rfl⟩
theorem amoAndImm (x : S64) : Statement (.amoAndImm x) := fun _ h => by
  cases h
  exact ⟨parseWords_words .amoAndImm (.s64 x) _ _ rfl rfl, rfl⟩
theorem amoOr (x : S32) : Statement (.amoOr x) := fun _ h => by
  cases h
  exact ⟨parseWords_words .amoOr (.s32 x) _ _ rfl rfl, rfl⟩
theorem amoOrImm (x : S64) : Statement (.amoOrImm x) := fun _ h => by
  cases h
  exact ⟨parseWords_words .amoOrImm (.s64 x) _ _ rfl rfl, rfl⟩
theorem vamo (x : V64) : Statement (.vamo x) := fun _ h => by
  cases h
  exact ⟨parseWords_words .vamo (.v64 x) _ _ rfl rfl, rfl⟩
theorem fence (x : S32) : Statement (.fence x) := fun _ h => by
  cases h
  exact ⟨parseWords_words .fence (.s32 x) _ _ rfl rfl, rfl⟩
theorem barExp (x : S64) : Statement (.barExp x) := fun _ h => by
  cases h
  exact ⟨parseWords_words .barExp (.s64 x) _ _ rfl rfl, rfl⟩
theorem barWait (x : S64) : Statement (.barWait x) := fun _ h => by
  cases h
  exact ⟨parseWords_words .barWait (.s64 x) _ _ rfl rfl, rfl⟩
theorem barArr (x : S64) : Statement (.barArr x) := fun _ h => by
  cases h
  exact ⟨parseWords_words .barArr (.s64 x) _ _ rfl rfl, rfl⟩
theorem collReg (x : S64) : Statement (.collReg x) := fun _ h => by
  cases h
  exact ⟨parseWords_words .collReg (.s64 x) _ _ rfl rfl, rfl⟩
theorem collAr (x : S64) : Statement (.collAr x) := fun _ h => by
  cases h
  exact ⟨parseWords_words .collAr (.s64 x) _ _ rfl rfl, rfl⟩
theorem collAg (x : S64) : Statement (.collAg x) := fun _ h => by
  cases h
  exact ⟨parseWords_words .collAg (.s64 x) _ _ rfl rfl, rfl⟩
theorem collRs (x : S64) : Statement (.collRs x) := fun _ h => by
  cases h
  exact ⟨parseWords_words .collRs (.s64 x) _ _ rfl rfl, rfl⟩
theorem collFree (x : S64) : Statement (.collFree x) := fun _ h => by
  cases h
  exact ⟨parseWords_words .collFree (.s64 x) _ _ rfl rfl, rfl⟩
theorem leaseReq (x : S64) : Statement (.leaseReq x) := fun _ h => by
  cases h
  exact ⟨parseWords_words .leaseReq (.s64 x) _ _ rfl rfl, rfl⟩
theorem leaseRet (x : S64) : Statement (.leaseRet x) := fun _ h => by
  cases h
  exact ⟨parseWords_words .leaseRet (.s64 x) _ _ rfl rfl, rfl⟩
theorem leaseQ (x : S64) : Statement (.leaseQ x) := fun _ h => by
  cases h
  exact ⟨parseWords_words .leaseQ (.s64 x) _ _ rfl rfl, rfl⟩
theorem bankRun (x : S64) : Statement (.bankRun x) := fun _ h => by
  cases h
  exact ⟨parseWords_words .bankRun (.s64 x) _ _ rfl rfl, rfl⟩
theorem bankStat (x : S64) : Statement (.bankStat x) := fun _ h => by
  cases h
  exact ⟨parseWords_words .bankStat (.s64 x) _ _ rfl rfl, rfl⟩
theorem codeReg (x : S32) : Statement (.codeReg x) := fun _ h => by
  cases h
  exact ⟨parseWords_words .codeReg (.s32 x) _ _ rfl rfl, rfl⟩
theorem codeReg64 (x : S64) : Statement (.codeReg64 x) := fun _ h => by
  cases h
  exact ⟨parseWords_words .codeReg64 (.s64 x) _ _ rfl rfl, rfl⟩
theorem keyAlloc (x : S32) : Statement (.keyAlloc x) := fun _ h => by
  cases h
  exact ⟨parseWords_words .keyAlloc (.s32 x) _ _ rfl rfl, rfl⟩
theorem keyAlloc64 (x : S64) : Statement (.keyAlloc64 x) := fun _ h => by
  cases h
  exact ⟨parseWords_words .keyAlloc64 (.s64 x) _ _ rfl rfl, rfl⟩
theorem keyRevoke (x : S32) : Statement (.keyRevoke x) := fun _ h => by
  cases h
  exact ⟨parseWords_words .keyRevoke (.s32 x) _ _ rfl rfl, rfl⟩
theorem keyRevoke64 (x : S64) : Statement (.keyRevoke64 x) := fun _ h => by
  cases h
  exact ⟨parseWords_words .keyRevoke64 (.s64 x) _ _ rfl rfl, rfl⟩
theorem ctxSave (x : S32) : Statement (.ctxSave x) := fun _ h => by
  cases h
  exact ⟨parseWords_words .ctxSave (.s32 x) _ _ rfl rfl, rfl⟩
theorem ctxSave64 (x : S64) : Statement (.ctxSave64 x) := fun _ h => by
  cases h
  exact ⟨parseWords_words .ctxSave64 (.s64 x) _ _ rfl rfl, rfl⟩
theorem ctxLoad (x : S32) : Statement (.ctxLoad x) := fun _ h => by
  cases h
  exact ⟨parseWords_words .ctxLoad (.s32 x) _ _ rfl rfl, rfl⟩
theorem ctxLoad64 (x : S64) : Statement (.ctxLoad64 x) := fun _ h => by
  cases h
  exact ⟨parseWords_words .ctxLoad64 (.s64 x) _ _ rfl rfl, rfl⟩
theorem partStop (x : S32) : Statement (.partStop x) := fun _ h => by
  cases h
  exact ⟨parseWords_words .partStop (.s32 x) _ _ rfl rfl, rfl⟩
theorem partStop64 (x : S64) : Statement (.partStop64 x) := fun _ h => by
  cases h
  exact ⟨parseWords_words .partStop64 (.s64 x) _ _ rfl rfl, rfl⟩
theorem scrub (x : S32) : Statement (.scrub x) := fun _ h => by
  cases h
  exact ⟨parseWords_words .scrub (.s32 x) _ _ rfl rfl, rfl⟩
theorem scrub64 (x : S64) : Statement (.scrub64 x) := fun _ h => by
  cases h
  exact ⟨parseWords_words .scrub64 (.s64 x) _ _ rfl rfl, rfl⟩
theorem calSet (x : S32) : Statement (.calSet x) := fun _ h => by
  cases h
  exact ⟨parseWords_words .calSet (.s32 x) _ _ rfl rfl, rfl⟩
theorem calSet64 (x : S64) : Statement (.calSet64 x) := fun _ h => by
  cases h
  exact ⟨parseWords_words .calSet64 (.s64 x) _ _ rfl rfl, rfl⟩
theorem tlbInv (x : S32) : Statement (.tlbInv x) := fun _ h => by
  cases h
  exact ⟨parseWords_words .tlbInv (.s32 x) _ _ rfl rfl, rfl⟩
theorem tlbInv64 (x : S64) : Statement (.tlbInv64 x) := fun _ h => by
  cases h
  exact ⟨parseWords_words .tlbInv64 (.s64 x) _ _ rfl rfl, rfl⟩
theorem halt (x : S32) : Statement (.halt x) := fun _ h => by
  cases h
  exact ⟨parseWords_words .halt (.s32 x) _ _ rfl rfl, rfl⟩
theorem halt64 (x : S64) : Statement (.halt64 x) := fun _ h => by
  cases h
  exact ⟨parseWords_words .halt64 (.s64 x) _ _ rfl rfl, rfl⟩
theorem nbOpen (x : NOpt) : Statement (.nbOpen x) := fun _ h => by
  cases h
  obtain ⟨c, lit⟩ := x
  cases lit with
  | none => exact ⟨parseWords_words .nbOpen (.n32 c) 6 _ rfl rfl, rfl⟩
  | some w => exact ⟨parseWords_words .nbOpen (.n64 ⟨c, w⟩) 6 _ rfl rfl, rfl⟩
theorem nbLdacc (x : NOpt) : Statement (.nbLdacc x) := fun _ h => by
  cases h
  obtain ⟨c, lit⟩ := x
  cases lit with
  | none => exact ⟨parseWords_words .nbLdacc (.n32 c) 6 _ rfl rfl, rfl⟩
  | some w => exact ⟨parseWords_words .nbLdacc (.n64 ⟨c, w⟩) 6 _ rfl rfl, rfl⟩
theorem nbScadd (x : N32) : Statement (.nbScadd x) := fun _ h => by
  cases h
  exact ⟨parseWords_words .nbScadd (.n32 x) 6 _ rfl rfl, rfl⟩
theorem nbScadd64 (x : N64) : Statement (.nbScadd64 x) := fun _ h => by
  cases h
  exact ⟨parseWords_words .nbScadd64 (.n64 x) 6 _ rfl rfl, rfl⟩
theorem nbMac (x : N32) : Statement (.nbMac x) := fun _ h => by
  cases h
  exact ⟨parseWords_words .nbMac (.n32 x) 6 _ rfl rfl, rfl⟩
theorem nbMac64 (x : N64) : Statement (.nbMac64 x) := fun _ h => by
  cases h
  exact ⟨parseWords_words .nbMac64 (.n64 x) 6 _ rfl rfl, rfl⟩
theorem nbWr (x : NOpt) : Statement (.nbWr x) := fun _ h => by
  cases h
  obtain ⟨c, lit⟩ := x
  cases lit with
  | none => exact ⟨parseWords_words .nbWr (.n32 c) 6 _ rfl rfl, rfl⟩
  | some w => exact ⟨parseWords_words .nbWr (.n64 ⟨c, w⟩) 6 _ rfl rfl, rfl⟩
theorem nbLoop (x : NOpt) : Statement (.nbLoop x) := fun _ h => by
  cases h
  obtain ⟨c, lit⟩ := x
  cases lit with
  | none => exact ⟨parseWords_words .nbLoop (.n32 c) 6 _ rfl rfl, rfl⟩
  | some w => exact ⟨parseWords_words .nbLoop (.n64 ⟨c, w⟩) 6 _ rfl rfl, rfl⟩
theorem nbScale (x : N32) : Statement (.nbScale x) := fun _ h => by
  cases h
  exact ⟨parseWords_words .nbScale (.n32 x) 6 _ rfl rfl, rfl⟩
theorem nbScale64 (x : N64) : Statement (.nbScale64 x) := fun _ h => by
  cases h
  exact ⟨parseWords_words .nbScale64 (.n64 x) 6 _ rfl rfl, rfl⟩
theorem nbClr (x : NOpt) : Statement (.nbClr x) := fun _ h => by
  cases h
  obtain ⟨c, lit⟩ := x
  cases lit with
  | none => exact ⟨parseWords_words .nbClr (.n32 c) 6 _ rfl rfl, rfl⟩
  | some w => exact ⟨parseWords_words .nbClr (.n64 ⟨c, w⟩) 6 _ rfl rfl, rfl⟩
theorem nbEnd (x : NOpt) : Statement (.nbEnd x) := fun _ h => by
  cases h
  obtain ⟨c, lit⟩ := x
  cases lit with
  | none => exact ⟨parseWords_words .nbEnd (.n32 c) 6 _ rfl rfl, rfl⟩
  | some w => exact ⟨parseWords_words .nbEnd (.n64 ⟨c, w⟩) 6 _ rfl rfl, rfl⟩
theorem decodeTrap : Statement .decodeTrap := fun _ h => by cases h
theorem nbIllegalWord : Statement .nbIllegalWord := fun _ h => by cases h
theorem postedStorePerform : Statement .postedStorePerform := fun _ h => by cases h
theorem msixVectorUnmask : Statement .msixVectorUnmask := fun _ h => by cases h

end Sys2Proof.Laws.RoundTrip
end

