-- ==== Sys2Proof/Tests/Slice0.lean ====
section
/-! SUPPORT. Small tests: words of the spec that decode, terms that the checks refuse, states that meet the hypotheses of the
statements, and single steps whose results the spec gives. -/
set_option Elab.async false
namespace Sys2Proof.Tests
open Sys2Proof Sys2Proof.Machine

/-- The instruction that a stream reads in the words. -/
noncomputable def decodeWords (st : Stream) (priv nest : Bool) (ws : List W32) : Option Instr :=
  match decodeIn st priv nest ws with
  | .ok i => some i
  | .error _ => none

/-! ### Words of the spec, bit by bit -/

/-- `ADD s3, s1, s2` (R190). -/
theorem test_decode_add : decodeWords .strand false false [0b00000010000010001100000000000000] =
    some (.add { md := 0, rs2 := 2, rs1 := 1, rd := 3, pg := 0 }) := by decide +kernel

/-- `LD.i32 s7, h3[s2]` (file 06). -/
theorem test_decode_ld : decodeWords .strand false false [0b01000011000100011100001011100000] =
    some (.ld { md := 2, rs2 := 3, rs1 := 2, rd := 7, pg := 0 }) := by decide +kernel

/-- `ST.i64.rel.dev h40[s6+0x80], s9` (file 06). -/
theorem test_decode_st_imm : decodeWords .strand false false [0b01110011001100100100001100000001, 0b00000010100000000000000010000000] =
    some (.stImm { r := { md := 3, rs2 := 19, rs1 := 6, rd := 9, pg := 0 }, imm := 0x02800080 }) := by decide +kernel

/-- `CALL leaf` (file 06). -/
theorem test_decode_call : decodeWords .strand false false [0b00000000000000000000001101100001, 0b00000000000000000000000010000000] =
    some (.call { r := { md := 0, rs2 := 0, rs1 := 0, rd := 0, pg := 0 }, imm := 0x80 }) := by decide +kernel

/-- `FORK 0b001, body_v, continue, continue` (file 06). -/
theorem test_decode_fork : decodeWords .strand false false [0b00100000000000000000010000100010, 0b00000000000000000000000000000101, 0b00000000000000000000000000000000] =
    some (.fork { r := { md := 1, rs2 := 0, rs1 := 0, rd := 0, pg := 0 }, imm := 5, lit := 0 }) := by decide +kernel

/-- `TRAP 3` (file 17). -/
theorem test_decode_trap : decodeWords .strand false false [0b00000000000110000000011010000000] =
    some (.trap { md := 0, rs2 := 0, rs1 := 3, rd := 0, pg := 0 }) := by decide +kernel

/-- `VADD v5, v1, b2` (R190). -/
theorem test_decode_vadd : decodeWords .vector false false [0b00010100000001100001000000000100] =
    some (.vadd { vd := 5, wbs := 0, vs1 := 1, vs2 := 66 }) := by decide +kernel

/-- `VFMA.f32.rz.sq.m3.fst0 v7, v1, v2, v3` (R190). -/
theorem test_decode_vfma : decodeWords .vector false true [0b00011100000001000001000001100101, 0b10000000001110011100001100000000] =
    some (.vfma { r := { vd := 7, wbs := 0, vs1 := 1, vs2 := 2 }, f := 1, l := 0, lv := 0, vs3 := 3, men := 1, msk := 3, ty := 8, rnd := 1, sq := 1, hs := 0, swz := 0, fn := 0 }) := by decide +kernel

/-- `VRCP.f32.acc v10, v4` (file 07). -/
theorem test_decode_vrcp : decodeWords .vector false false [0b00101000000100000000001011000101, 0b00000000000000000100000000000001] =
    some (.vrcp { r := { vd := 10, wbs := 0, vs1 := 4, vs2 := 0 }, f := 0, l := 0, lv := 0, vs3 := 0, men := 0, msk := 0, ty := 8, rnd := 0, sq := 0, hs := 0, swz := 0, fn := 1 }) := by decide +kernel

/-- `VLD.ag0 v1, 0x0000_0000` (file 07). -/
theorem test_decode_vld : decodeWords .vector false true [0b00000100000000000000011000000110, 0b00000000000000000000000000000100, 0b00000000000000000000000000000000] =
    some (.vld { v := { r := { vd := 1, wbs := 0, vs1 := 0, vs2 := 0 }, f := 0, l := 0, lv := 0, vs3 := 0, men := 0, msk := 0, ty := 0, rnd := 0, sq := 0, hs := 0, swz := 0, fn := 4 }, lit := 0 }) := by decide +kernel

/-- `VBR.any m4, top` (file 07). -/
theorem test_decode_vbr : decodeWords .vector false false [0b00000000000000000000011011100110, 0b00000000000000100000000000000001, 0b11111111111111111111111111100000] =
    some (.vbr { v := { r := { vd := 0, wbs := 0, vs1 := 0, vs2 := 0 }, f := 0, l := 0, lv := 0, vs3 := 0, men := 0, msk := 4, ty := 0, rnd := 0, sq := 0, hs := 0, swz := 0, fn := 1 }, lit := 0xFFFFFFE0 }) := by decide +kernel

/-- `MMA acc1, tl4, tl9, 128, 128` (R190). -/
theorem test_decode_mma : decodeWords .matrix false false [0b00010000100111000100000000001001, 0b00000000000000000000000000000000] =
    some (.mma { ta := 4, tb := 9, ab := 1, m := 2, nn := 8, f := 0, l := 0, lv := 0, tc := 0, sub := 0, nra := 0, aga := 0, nrb := 0, agb := 0, sreg := 0, rsv := 0 }) := by decide +kernel

/-- `MPREC tl5, 0x1688_1180` (file 08). -/
theorem test_decode_mprec : decodeWords .matrix false false [0b00000000000000000000000010001010, 0b00000000101000000000000000000000, 0b00010110100010000001000110000000] =
    some (.mprec { x := { ta := 0, tb := 0, ab := 0, m := 0, nn := 0, f := 0, l := 0, lv := 0, tc := 5, sub := 0, nra := 0, aga := 0, nrb := 0, agb := 0, sreg := 0, rsv := 0 }, lit := 0x16881180 }) := by decide +kernel

/-- `MSCALE tl4, s9` (file 08). -/
theorem test_decode_mscale : decodeWords .matrix false false [0b00000000000000000000000010101001, 0b00000000100000000000001001000000] =
    some (.mscale { ta := 0, tb := 0, ab := 0, m := 0, nn := 0, f := 0, l := 0, lv := 0, tc := 4, sub := 0, nra := 0, aga := 0, nrb := 0, agb := 0, sreg := 9, rsv := 0 }) := by decide +kernel

/-- `CP -, sem7, 0x400` (file 10). -/
theorem test_decode_cp : decodeWords .copy false false [0b00000000000000111100000000001101, 0b00000000000000000000000000010000] =
    some (.cp { wsem := 0, wv := 0, ssem := 7, sv := 1, md := 0, f := 0, l := 0, lv := 0, ag := 0, nr := 0, qw := 0, sa := 0, sb := 0, aux := 16 }) := by decide +kernel

/-- `QPUSH qw2, s6` (file 10). -/
theorem test_decode_qpush : decodeWords .strand false false [0b00000000000000000000000011001101, 0b00000000001000000001100000000000] =
    some (.qpush { wsem := 0, wv := 0, ssem := 0, sv := 0, md := 0, f := 0, l := 0, lv := 0, ag := 0, nr := 0, qw := 2, sa := 0, sb := 6, aux := 0 }) := by decide +kernel

/-- `TWAIT tl9` (file 10). -/
theorem test_decode_twait : decodeWords .vector false false [0b00000000000000000000001010001101, 0b00000000000000000000000000001001] =
    some (.twait { c := { wsem := 0, wv := 0, ssem := 0, sv := 0, md := 0, f := 0, l := 0, lv := 0, ag := 0, nr := 0, qw := 0, sa := 0, sb := 0, aux := 9 }, lit := none }) := by decide +kernel

/-- `AMO.ADD.i64.acqrel.dev s5, h40[s6+0x10]` (file 12). -/
theorem test_decode_amo_add : decodeWords .strand false false [0b01111011001100010100000000010001, 0b00000010100000000000000000010000] =
    some (.amoAddImm { r := { md := 3, rs2 := 27, rs1 := 6, rd := 5, pg := 0 }, imm := 0x02800010 }) := by decide +kernel

/-- `VAMO.add.n32 v10, v4, v5, v6` (file 12). -/
theorem test_decode_vamo : decodeWords .vector false false [0b00101000000100000010100011110001, 0b00000000011000000011000000000000] =
    some (.vamo { r := { vd := 10, wbs := 0, vs1 := 4, vs2 := 5 }, f := 0, l := 0, lv := 0, vs3 := 6, men := 0, msk := 0, ty := 6, rnd := 0, sq := 0, hs := 0, swz := 0, fn := 0 }) := by decide +kernel

/-- `BAR.WAIT.dev h12[s4+0x40], s6` (file 12). -/
theorem test_decode_bar_wait : decodeWords .strand false false [0b01100110001000000000000101010001, 0b00000000110000000000000001000000] =
    some (.barWait { r := { md := 3, rs2 := 6, rs1 := 4, rd := 0, pg := 0 }, imm := 0x00C00040 }) := by decide +kernel

/-- `TLB.INV.page s4, s5` (file 17). -/
theorem test_decode_tlb_inv : decodeWords .strand true false [0b00100101001000000000000100010100] =
    some (.tlbInv { md := 1, rs2 := 5, rs1 := 4, rd := 0, pg := 0 }) := by decide +kernel

/-- `NB.OPEN op1` and `NB.MAC ba0, sc0` (file 20). -/
theorem test_decode_near_bank : decodeUnit [0b00000000000000000000100000011000] =
      some (.nbOpen { n := { a := 0, b := 0, imm15 := 1 }, imm32 := none }) ∧
    decodeUnit [0b00000000000000000000000001111000] = some (.nbMac { a := 0, b := 0, imm15 := 0 }) := by decide +kernel

/-! ### Every opcode of R182 to R188 -/

/-- The words of class `c` with opcode `o` and length code `l`, all other bits 0 (R166, R167), name `i`. -/
noncomputable def opcodeIs (c l o : Nat) (i : Op) : Bool :=
  match parseWords (BitVec.ofNat 32 (l + 4 * c + 32 * o) :: List.replicate l 0) with
  | some (k, f) => k == i && (buildInstr k f).isSome
  | none => false

/-- Consecutive opcodes from `o` on. -/
noncomputable def opcodesAre (c l o : Nat) (is : List Op) : Bool := is.zipIdx.all fun p => opcodeIs c l (o + p.2) p.1

/-- The map of the strand class (R182). -/
theorem test_opcodes_strand :
    opcodesAre 0 0 0x00 [.add, .sub, .mul, .mulh, .div, .rem, .and, .or, .xor, .shl, .shr, .sra, .min, .max, .clz, .popc,
      .bfx, .bfi, .ext, .cmp, .sel] = true ∧
      opcodesAre 0 0 0x17 [.ld, .st] = true ∧
      opcodesAre 0 0 0x1D [.jmpx, .ret, .nop, .endTeam] = true ∧
      opcodesAre 0 0 0x22 [.join, .nestSet, .nestGo, .nestClamp] = true ∧
      opcodesAre 0 0 0x28 [.tresume] = true ∧
      opcodesAre 0 0 0x2A [.evqPop, .evqWait, .semSig, .semWait] = true ∧
      opcodesAre 0 0 0x30 [.ctlRd, .ctlWr, .tstamp, .stageSw, .trap, .eret] = true ∧
      opcodesAre 0 1 0x00 [.addImm, .subImm, .mulImm, .mulhImm, .divImm, .remImm, .andImm, .orImm, .xorImm, .shlImm, .shrImm,
      .sraImm, .minImm, .maxImm] = true ∧
      opcodesAre 0 1 0x10 [.bfxImm, .bfiImm, .extImm, .cmpImm] = true ∧
      opcodesAre 0 1 0x15 [.li64, .lea, .ldImm, .stImm, .br, .jmp, .call, .loop] = true ∧
      opcodesAre 0 1 0x1F [.nop64] = true ∧
      opcodesAre 0 1 0x26 [.launch, .tsub] = true ∧
      opcodesAre 0 1 0x29 [.graphArm] = true ∧
      opcodesAre 0 1 0x2C [.semSigImm, .semWaitImm, .semSet, .semRsig] = true ∧
      opcodesAre 0 2 0x15 [.li96] = true ∧
      opcodesAre 0 2 0x1F [.nop96] = true ∧
      opcodesAre 0 2 0x21 [.fork] = true := by decide +kernel

/-- The map of the vector class (R183). -/
theorem test_opcodes_vector :
    opcodesAre 1 0 0x00 [.vadd, .vsub, .vmul] = true ∧
      opcodesAre 1 0 0x04 [.vmin, .vmax] = true ∧
      opcodesAre 1 0 0x08 [.vand, .vor, .vxor] = true ∧
      opcodesAre 1 0 0x0F [.vmov] = true ∧
      opcodesAre 1 0 0x3C [.nestBeg, .nestEnd, .rdv, .engineEnd] = true ∧
      opcodesAre 1 1 0x00 [.vaddFull, .vsubFull, .vmulFull, .vfma, .vminFull, .vmaxFull, .vabs, .vneg, .vandFull, .vorFull,
      .vxorFull, .vshl, .vshr, .vcmp, .vsel, .vmovFull] = true ∧
      opcodesAre 1 1 0x11 [.vcvt, .vwid, .vnar, .vpack, .vunpk, .vrcp, .vrsq, .vexp, .vlog, .vtanh, .vsigm, .vgelu, .vsin,
      .vrcps, .vrsqs] = true ∧
      opcodesAre 1 1 0x20 [.vrsum, .vrmax, .vrmin, .vscan, .vargmax, .vtopk, .vperm, .vshuf, .vbcast, .viota, .vmand, .vmor,
      .vmnot, .vmpop, .vqnt, .vdqnt] = true ∧
      opcodesAre 1 1 0x34 [.vdefer, .vdrain, .vdret] = true ∧
      opcodesAre 1 1 0x39 [.vtake, .vgive] = true ∧
      opcodesAre 1 2 0x10 [.vli] = true ∧
      opcodesAre 1 2 0x30 [.vld, .vst, .vldx, .vstx] = true ∧
      opcodesAre 1 2 0x37 [.vbr, .vloop] = true := by decide +kernel

/-- The map of the matrix class (R184). -/
theorem test_opcodes_matrix :
    opcodesAre 2 1 0x00 [.mma, .mmaz, .mmag, .mconst] = true ∧
      opcodesAre 2 2 0x04 [.mprec] = true ∧
      opcodesAre 2 1 0x05 [.mscale, .mown, .mclr, .mcvt, .mscat, .mfree] = true ∧
      opcodesAre 2 0 0x3C [.nestBeg, .nestEnd, .rdv, .engineEnd] = true := by decide +kernel

/-- The map of the copy class (R185). -/
theorem test_opcodes_copy :
    opcodesAre 3 1 0x00 [.cp, .cpc, .cpg, .cps, .cpk, .qinit, .qpush, .qpop, .qpeek, .pref, .pin, .unpin, .kvcommit, .rst,
      .rld, .lsend, .lradd, .tslotSet, .tfull, .tempty, .twait, .foot] = true ∧
      opcodesAre 3 2 0x00 [.cp96, .cpc96, .cpg96, .cps96, .cpk96, .qinit96, .qpush96, .qpop96, .qpeek, .pref96, .pin96,
      .unpin96, .kvcommit96, .rst96, .rld96, .lsend96, .lradd96, .tslotSet96, .tfull, .tempty, .twait, .foot96] = true ∧
      opcodesAre 3 0 0x3C [.nestBeg, .nestEnd, .rdv, .engineEnd] = true := by decide +kernel

/-- The map of the sync class (R186). -/
theorem test_opcodes_sync :
    opcodesAre 4 0 0x00 [.amoAdd, .amoMin, .amoMax, .amoXchg, .amoCas, .amoAnd, .amoOr] = true ∧
      opcodesAre 4 0 0x08 [.fence] = true ∧
      opcodesAre 4 1 0x00 [.amoAddImm, .amoMinImm, .amoMaxImm, .amoXchgImm, .amoCasImm, .amoAndImm, .amoOrImm, .vamo] = true ∧
      opcodesAre 4 1 0x09 [.barExp, .barWait, .barArr, .collReg, .collAr, .collAg, .collRs, .collFree, .leaseReq, .leaseRet,
      .leaseQ, .bankRun, .bankStat] = true := by decide +kernel

/-- The map of the system class (R187). -/
theorem test_opcodes_system :
    opcodesAre 5 0 0x00 [.codeReg, .keyAlloc, .keyRevoke, .ctxSave, .ctxLoad, .partStop, .scrub, .calSet, .tlbInv, .halt] =
      true ∧
      opcodesAre 5 1 0x00 [.codeReg64, .keyAlloc64, .keyRevoke64, .ctxSave64, .ctxLoad64, .partStop64, .scrub64, .calSet64,
      .tlbInv64, .halt64] = true := by decide +kernel

/-- The map of the near-bank class (R188). -/
theorem test_opcodes_near_bank :
    opcodesAre 6 0 0x00 [.nbOpen, .nbLdacc, .nbScadd, .nbMac, .nbWr, .nbLoop, .nbScale, .nbClr, .nbEnd] = true ∧
      opcodesAre 6 1 0x00 [.nbOpen, .nbLdacc, .nbScadd64, .nbMac64, .nbWr, .nbLoop, .nbScale64, .nbClr, .nbEnd] = true := by decide +kernel
/-! ### Ill-formed terms -/

/-- Each term is refused with cause `k` by the checks of R189 when a stream decodes it. -/
def refused (k : Cause) (st : Stream) (nest : Bool) (is : List Instr) : Bool := is.all fun i => i.check st nest == some k

/-- A term of the strand class for each check (R165, R174, R175, R180, R189, and the instruction's own rule). -/
theorem test_illformed_strand :
    refused .illRes .strand false [
      .add { md := 2, rs2 := 0, rs1 := 0, rd := 0, pg := 0 },
      .sub { md := 2, rs2 := 0, rs1 := 0, rd := 0, pg := 0 },
      .mul { md := 2, rs2 := 0, rs1 := 0, rd := 0, pg := 0 },
      .addImm { r := { md := 0, rs2 := 1, rs1 := 0, rd := 0, pg := 0 }, imm := 0 },
      .subImm { r := { md := 0, rs2 := 1, rs1 := 0, rd := 0, pg := 0 }, imm := 0 },
      .mulImm { r := { md := 0, rs2 := 1, rs1 := 0, rd := 0, pg := 0 }, imm := 0 },
      .mulh { md := 4, rs2 := 0, rs1 := 0, rd := 0, pg := 0 },
      .div { md := 4, rs2 := 0, rs1 := 0, rd := 0, pg := 0 },
      .rem { md := 4, rs2 := 0, rs1 := 0, rd := 0, pg := 0 },
      .min { md := 4, rs2 := 0, rs1 := 0, rd := 0, pg := 0 },
      .max { md := 4, rs2 := 0, rs1 := 0, rd := 0, pg := 0 },
      .mulhImm { r := { md := 0, rs2 := 1, rs1 := 0, rd := 0, pg := 0 }, imm := 0 }] = true ∧
    refused .illRes .strand false [
      .divImm { r := { md := 0, rs2 := 1, rs1 := 0, rd := 0, pg := 0 }, imm := 0 },
      .remImm { r := { md := 0, rs2 := 1, rs1 := 0, rd := 0, pg := 0 }, imm := 0 },
      .minImm { r := { md := 0, rs2 := 1, rs1 := 0, rd := 0, pg := 0 }, imm := 0 },
      .maxImm { r := { md := 0, rs2 := 1, rs1 := 0, rd := 0, pg := 0 }, imm := 0 },
      .and { md := 2, rs2 := 0, rs1 := 0, rd := 0, pg := 0 },
      .or { md := 2, rs2 := 0, rs1 := 0, rd := 0, pg := 0 },
      .xor { md := 2, rs2 := 0, rs1 := 0, rd := 0, pg := 0 },
      .shl { md := 2, rs2 := 0, rs1 := 0, rd := 0, pg := 0 },
      .shr { md := 2, rs2 := 0, rs1 := 0, rd := 0, pg := 0 },
      .sra { md := 2, rs2 := 0, rs1 := 0, rd := 0, pg := 0 },
      .andImm { r := { md := 4, rs2 := 0, rs1 := 0, rd := 0, pg := 0 }, imm := 0 },
      .orImm { r := { md := 4, rs2 := 0, rs1 := 0, rd := 0, pg := 0 }, imm := 0 }] = true ∧
    refused .illRes .strand false [
      .xorImm { r := { md := 4, rs2 := 0, rs1 := 0, rd := 0, pg := 0 }, imm := 0 },
      .shlImm { r := { md := 4, rs2 := 0, rs1 := 0, rd := 0, pg := 0 }, imm := 0 },
      .shrImm { r := { md := 4, rs2 := 0, rs1 := 0, rd := 0, pg := 0 }, imm := 0 },
      .sraImm { r := { md := 4, rs2 := 0, rs1 := 0, rd := 0, pg := 0 }, imm := 0 },
      .clz { md := 0, rs2 := 1, rs1 := 0, rd := 0, pg := 0 },
      .popc { md := 0, rs2 := 1, rs1 := 0, rd := 0, pg := 0 },
      .bfx { md := 1, rs2 := 0, rs1 := 0, rd := 0, pg := 0 },
      .ext { md := 1, rs2 := 0, rs1 := 0, rd := 0, pg := 0 },
      .bfi { md := 1, rs2 := 0, rs1 := 0, rd := 0, pg := 0 },
      .bfxImm { r := { md := 0, rs2 := 0, rs1 := 0, rd := 0, pg := 0 }, imm := 4097 },
      .bfiImm { r := { md := 0, rs2 := 0, rs1 := 0, rd := 0, pg := 0 }, imm := 5 },
      .extImm { r := { md := 0, rs2 := 0, rs1 := 0, rd := 0, pg := 0 }, imm := 65 }] = true ∧
    refused .illRes .strand false [
      .cmp { md := 0, rs2 := 0, rs1 := 0, rd := 8, pg := 0 },
      .cmpImm { r := { md := 0, rs2 := 0, rs1 := 0, rd := 16, pg := 0 }, imm := 0 },
      .li64 { r := { md := 2, rs2 := 0, rs1 := 0, rd := 0, pg := 0 }, imm := 0 },
      .li96 { r := { md := 0, rs2 := 0, rs1 := 1, rd := 0, pg := 0 }, imm := 0, lit := 0 },
      .lea { r := { md := 0, rs2 := 1, rs1 := 0, rd := 0, pg := 0 }, imm := 0 },
      .ld { md := 7, rs2 := 0, rs1 := 0, rd := 0, pg := 0 },
      .ldImm { r := { md := 0, rs2 := 16, rs1 := 0, rd := 0, pg := 0 }, imm := 0 },
      .ldImm { r := { md := 0, rs2 := 14, rs1 := 0, rd := 0, pg := 0 }, imm := 0 },
      .ldImm { r := { md := 0, rs2 := 1, rs1 := 0, rd := 0, pg := 0 }, imm := 0 },
      .st { md := 4, rs2 := 0, rs1 := 0, rd := 0, pg := 0 },
      .stImm { r := { md := 0, rs2 := 8, rs1 := 0, rd := 0, pg := 0 }, imm := 0 },
      .br { r := { md := 0, rs2 := 0, rs1 := 0, rd := 2, pg := 0 }, imm := 0 }] = true ∧
    refused .illRes .strand false [
      .jmp { r := { md := 0, rs2 := 0, rs1 := 0, rd := 0, pg := 0 }, imm := 2 },
      .call { r := { md := 0, rs2 := 0, rs1 := 0, rd := 0, pg := 0 }, imm := 1 },
      .loop { r := { md := 0, rs2 := 0, rs1 := 0, rd := 0, pg := 0 }, imm := 0 },
      .jmpx { md := 2, rs2 := 0, rs1 := 0, rd := 0, pg := 0 },
      .ret { md := 0, rs2 := 0, rs1 := 1, rd := 0, pg := 0 },
      .nop { md := 0, rs2 := 0, rs1 := 0, rd := 1, pg := 0 },
      .nop64 { r := { md := 0, rs2 := 0, rs1 := 0, rd := 0, pg := 0 }, imm := 1 },
      .nop96 { r := { md := 0, rs2 := 0, rs1 := 0, rd := 0, pg := 0 }, imm := 0, lit := 1 },
      .endTeam { md := 0, rs2 := 0, rs1 := 0, rd := 0, pg := 1 },
      .stageSw { md := 0, rs2 := 0, rs1 := 0, rd := 0, pg := 1 },
      .eret { md := 0, rs2 := 0, rs1 := 0, rd := 1, pg := 0 },
      .fork { r := { md := 2, rs2 := 0, rs1 := 0, rd := 0, pg := 0 }, imm := 1, lit := 0 }] = true ∧
    refused .illRes .strand false [
      .fork { r := { md := 7, rs2 := 0, rs1 := 0, rd := 0, pg := 0 }, imm := 0, lit := 0x80000000 },
      .join { md := 0, rs2 := 0, rs1 := 0, rd := 1, pg := 0 },
      .nestSet { md := 2, rs2 := 0, rs1 := 0, rd := 0, pg := 0 },
      .nestGo { md := 0, rs2 := 0, rs1 := 1, rd := 0, pg := 0 },
      .nestClamp { md := 4, rs2 := 0, rs1 := 0, rd := 0, pg := 0 },
      .launch { r := { md := 1, rs2 := 0, rs1 := 0, rd := 0, pg := 0 }, imm := 0 },
      .tsub { r := { md := 2, rs2 := 0, rs1 := 0, rd := 0, pg := 0 }, imm := 0 },
      .graphArm { r := { md := 0, rs2 := 0, rs1 := 0, rd := 8, pg := 0 }, imm := 0 },
      .tresume { md := 0, rs2 := 0, rs1 := 0, rd := 1, pg := 0 },
      .evqPop { md := 0, rs2 := 0, rs1 := 0, rd := 9, pg := 0 },
      .evqWait { md := 0, rs2 := 0, rs1 := 0, rd := 0, pg := 0 },
      .semSig { md := 6, rs2 := 0, rs1 := 0, rd := 0, pg := 0 }] = true ∧
    refused .illRes .strand false [
      .semWait { md := 0, rs2 := 0, rs1 := 0, rd := 1, pg := 0 },
      .semSigImm { r := { md := 0, rs2 := 0, rs1 := 1, rd := 0, pg := 0 }, imm := 0 },
      .semWaitImm { r := { md := 7, rs2 := 0, rs1 := 0, rd := 0, pg := 0 }, imm := 0 },
      .semSet { r := { md := 0, rs2 := 0, rs1 := 0, rd := 1, pg := 0 }, imm := 0 },
      .semRsig { r := { md := 1, rs2 := 0, rs1 := 0, rd := 0, pg := 0 }, imm := 0 },
      .ctlRd { md := 0, rs2 := 0, rs1 := 1, rd := 0, pg := 0 },
      .ctlWr { md := 0, rs2 := 0, rs1 := 0, rd := 1, pg := 0 },
      .tstamp { md := 0, rs2 := 0, rs1 := 1, rd := 0, pg := 0 },
      .trap { md := 1, rs2 := 0, rs1 := 0, rd := 0, pg := 0 }] = true := by decide +kernel

/-- A term of the vector class for each check (R165, R174, R175, R180, R189, and the instruction's own rule). -/
theorem test_illformed_vector :
    refused .illSrc .vector false [
      .vadd { vd := 0, wbs := 0, vs1 := 68, vs2 := 0 },
      .vsub { vd := 0, wbs := 0, vs1 := 68, vs2 := 0 },
      .vmul { vd := 0, wbs := 0, vs1 := 68, vs2 := 0 },
      .vmin { vd := 0, wbs := 0, vs1 := 68, vs2 := 0 },
      .vmax { vd := 0, wbs := 0, vs1 := 68, vs2 := 0 },
      .vand { vd := 0, wbs := 0, vs1 := 68, vs2 := 0 },
      .vor { vd := 0, wbs := 0, vs1 := 68, vs2 := 0 },
      .vxor { vd := 0, wbs := 0, vs1 := 68, vs2 := 0 },
      .vrcp { r := { vd := 0, wbs := 0, vs1 := 68, vs2 := 0 }, f := 0, l := 0, lv := 0, vs3 := 0, men := 0, msk := 0, ty := 8, rnd := 0, sq := 0, hs := 0, swz := 0, fn := 0 },
      .vldx { v := { r := { vd := 0, wbs := 0, vs1 := 0, vs2 := 68 }, f := 0, l := 0, lv := 0, vs3 := 0, men := 0, msk := 0, ty := 0, rnd := 0, sq := 0, hs := 0, swz := 0, fn := 0 }, lit := 0 },
      .vstx { v := { r := { vd := 0, wbs := 0, vs1 := 68, vs2 := 0 }, f := 0, l := 0, lv := 0, vs3 := 0, men := 0, msk := 0, ty := 0, rnd := 0, sq := 0, hs := 0, swz := 0, fn := 0 }, lit := 0 }] = true ∧
    refused .illRes .vector false [
      .vadd { vd := 4, wbs := 1, vs1 := 0, vs2 := 0 },
      .vmov { vd := 0, wbs := 0, vs1 := 0, vs2 := 1 },
      .vaddFull { r := { vd := 0, wbs := 0, vs1 := 0, vs2 := 0 }, f := 0, l := 0, lv := 0, vs3 := 0, men := 0, msk := 0, ty := 8, rnd := 0, sq := 0, hs := 0, swz := 0, fn := 1 },
      .vsubFull { r := { vd := 0, wbs := 0, vs1 := 0, vs2 := 0 }, f := 0, l := 0, lv := 0, vs3 := 0, men := 0, msk := 0, ty := 8, rnd := 0, sq := 0, hs := 0, swz := 0, fn := 1 },
      .vmulFull { r := { vd := 0, wbs := 0, vs1 := 0, vs2 := 0 }, f := 0, l := 0, lv := 0, vs3 := 0, men := 0, msk := 0, ty := 8, rnd := 0, sq := 0, hs := 0, swz := 0, fn := 1 },
      .vfma { r := { vd := 0, wbs := 0, vs1 := 0, vs2 := 0 }, f := 0, l := 0, lv := 0, vs3 := 0, men := 0, msk := 0, ty := 3, rnd := 0, sq := 0, hs := 0, swz := 0, fn := 0 },
      .vminFull { r := { vd := 0, wbs := 0, vs1 := 0, vs2 := 0 }, f := 0, l := 0, lv := 0, vs3 := 0, men := 0, msk := 0, ty := 2, rnd := 1, sq := 0, hs := 0, swz := 0, fn := 0 },
      .vmaxFull { r := { vd := 0, wbs := 0, vs1 := 0, vs2 := 0 }, f := 0, l := 0, lv := 0, vs3 := 0, men := 0, msk := 0, ty := 13, rnd := 0, sq := 0, hs := 0, swz := 0, fn := 0 },
      .vabs { r := { vd := 0, wbs := 0, vs1 := 0, vs2 := 0 }, f := 0, l := 0, lv := 0, vs3 := 0, men := 0, msk := 0, ty := 6, rnd := 0, sq := 0, hs := 0, swz := 0, fn := 0 },
      .vneg { r := { vd := 0, wbs := 0, vs1 := 0, vs2 := 1 }, f := 0, l := 0, lv := 0, vs3 := 0, men := 0, msk := 0, ty := 8, rnd := 0, sq := 0, hs := 0, swz := 0, fn := 0 },
      .vandFull { r := { vd := 0, wbs := 0, vs1 := 0, vs2 := 0 }, f := 0, l := 0, lv := 0, vs3 := 0, men := 0, msk := 0, ty := 8, rnd := 0, sq := 0, hs := 0, swz := 0, fn := 0 },
      .vorFull { r := { vd := 0, wbs := 0, vs1 := 0, vs2 := 0 }, f := 0, l := 0, lv := 0, vs3 := 0, men := 0, msk := 0, ty := 8, rnd := 0, sq := 0, hs := 0, swz := 0, fn := 0 }] = true ∧
    refused .illRes .vector false [
      .vxorFull { r := { vd := 0, wbs := 0, vs1 := 0, vs2 := 0 }, f := 0, l := 0, lv := 0, vs3 := 0, men := 0, msk := 0, ty := 8, rnd := 0, sq := 0, hs := 0, swz := 0, fn := 0 },
      .vshl { r := { vd := 0, wbs := 0, vs1 := 0, vs2 := 0 }, f := 0, l := 0, lv := 0, vs3 := 0, men := 0, msk := 0, ty := 8, rnd := 0, sq := 0, hs := 0, swz := 0, fn := 0 },
      .vshr { r := { vd := 0, wbs := 0, vs1 := 0, vs2 := 0 }, f := 0, l := 0, lv := 0, vs3 := 0, men := 0, msk := 0, ty := 6, rnd := 0, sq := 0, hs := 0, swz := 0, fn := 2 },
      .vcmp { r := { vd := 0, wbs := 0, vs1 := 0, vs2 := 0 }, f := 0, l := 0, lv := 0, vs3 := 0, men := 0, msk := 0, ty := 1, rnd := 0, sq := 0, hs := 0, swz := 0, fn := 0 },
      .vcmp { r := { vd := 0, wbs := 0, vs1 := 0, vs2 := 0 }, f := 0, l := 0, lv := 0, vs3 := 0, men := 0, msk := 0, ty := 2, rnd := 0, sq := 0, hs := 0, swz := 0, fn := 6 },
      .vsel { r := { vd := 0, wbs := 0, vs1 := 0, vs2 := 0 }, f := 0, l := 0, lv := 0, vs3 := 0, men := 0, msk := 0, ty := 2, rnd := 0, sq := 0, hs := 0, swz := 0, fn := 0 },
      .vmovFull { r := { vd := 0, wbs := 0, vs1 := 0, vs2 := 0 }, f := 0, l := 0, lv := 0, vs3 := 0, men := 0, msk := 0, ty := 5, rnd := 0, sq := 0, hs := 0, swz := 0, fn := 0 },
      .vaddFull { r := { vd := 0, wbs := 0, vs1 := 0, vs2 := 0 }, f := 1, l := 0, lv := 0, vs3 := 0, men := 0, msk := 0, ty := 8, rnd := 0, sq := 0, hs := 0, swz := 0, fn := 0 },
      .vaddFull { r := { vd := 0, wbs := 0, vs1 := 0, vs2 := 0 }, f := 0, l := 0, lv := 0, vs3 := 0, men := 0, msk := 0, ty := 8, rnd := 0, sq := 0, hs := 1, swz := 0, fn := 0 },
      .vaddFull { r := { vd := 1, wbs := 0, vs1 := 0, vs2 := 0 }, f := 0, l := 0, lv := 0, vs3 := 0, men := 0, msk := 0, ty := 3, rnd := 0, sq := 0, hs := 0, swz := 0, fn := 0 },
      .vli { v := { r := { vd := 0, wbs := 0, vs1 := 0, vs2 := 0 }, f := 0, l := 0, lv := 0, vs3 := 0, men := 0, msk := 0, ty := 3, rnd := 0, sq := 0, hs := 0, swz := 0, fn := 0 }, lit := 0 },
      .vcvt { r := { vd := 0, wbs := 0, vs1 := 0, vs2 := 0 }, f := 0, l := 0, lv := 0, vs3 := 8, men := 0, msk := 0, ty := 8, rnd := 0, sq := 0, hs := 0, swz := 0, fn := 0 }] = true ∧
    refused .illRes .vector false [
      .vwid { r := { vd := 0, wbs := 0, vs1 := 0, vs2 := 0 }, f := 0, l := 0, lv := 0, vs3 := 2, men := 0, msk := 0, ty := 8, rnd := 0, sq := 0, hs := 0, swz := 0, fn := 0 },
      .vnar { r := { vd := 0, wbs := 0, vs1 := 0, vs2 := 0 }, f := 0, l := 0, lv := 0, vs3 := 8, men := 0, msk := 0, ty := 0, rnd := 0, sq := 0, hs := 0, swz := 0, fn := 0 },
      .vpack { r := { vd := 0, wbs := 0, vs1 := 0, vs2 := 0 }, f := 0, l := 0, lv := 0, vs3 := 0, men := 0, msk := 0, ty := 1, rnd := 0, sq := 0, hs := 0, swz := 0, fn := 0 },
      .vunpk { r := { vd := 1, wbs := 0, vs1 := 0, vs2 := 0 }, f := 0, l := 0, lv := 0, vs3 := 0, men := 0, msk := 0, ty := 6, rnd := 0, sq := 0, hs := 0, swz := 0, fn := 0 },
      .vrcp { r := { vd := 0, wbs := 0, vs1 := 0, vs2 := 0 }, f := 0, l := 0, lv := 0, vs3 := 0, men := 0, msk := 0, ty := 9, rnd := 0, sq := 0, hs := 0, swz := 0, fn := 0 },
      .vrsq { r := { vd := 0, wbs := 0, vs1 := 0, vs2 := 0 }, f := 0, l := 0, lv := 0, vs3 := 0, men := 0, msk := 0, ty := 9, rnd := 0, sq := 0, hs := 0, swz := 0, fn := 0 },
      .vexp { r := { vd := 0, wbs := 0, vs1 := 0, vs2 := 0 }, f := 0, l := 0, lv := 0, vs3 := 0, men := 0, msk := 0, ty := 9, rnd := 0, sq := 0, hs := 0, swz := 0, fn := 0 },
      .vlog { r := { vd := 0, wbs := 0, vs1 := 0, vs2 := 0 }, f := 0, l := 0, lv := 0, vs3 := 0, men := 0, msk := 0, ty := 9, rnd := 0, sq := 0, hs := 0, swz := 0, fn := 0 },
      .vtanh { r := { vd := 0, wbs := 0, vs1 := 0, vs2 := 0 }, f := 0, l := 0, lv := 0, vs3 := 0, men := 0, msk := 0, ty := 9, rnd := 0, sq := 0, hs := 0, swz := 0, fn := 0 },
      .vsigm { r := { vd := 0, wbs := 0, vs1 := 0, vs2 := 0 }, f := 0, l := 0, lv := 0, vs3 := 0, men := 0, msk := 0, ty := 9, rnd := 0, sq := 0, hs := 0, swz := 0, fn := 0 },
      .vgelu { r := { vd := 0, wbs := 0, vs1 := 0, vs2 := 0 }, f := 0, l := 0, lv := 0, vs3 := 0, men := 0, msk := 0, ty := 9, rnd := 0, sq := 0, hs := 0, swz := 0, fn := 0 },
      .vsin { r := { vd := 0, wbs := 0, vs1 := 0, vs2 := 0 }, f := 0, l := 0, lv := 0, vs3 := 0, men := 0, msk := 0, ty := 9, rnd := 0, sq := 0, hs := 0, swz := 0, fn := 0 }] = true ∧
    refused .illRes .vector false [
      .vrcps { r := { vd := 0, wbs := 0, vs1 := 0, vs2 := 0 }, f := 0, l := 0, lv := 0, vs3 := 0, men := 0, msk := 0, ty := 8, rnd := 0, sq := 0, hs := 0, swz := 0, fn := 1 },
      .vrsqs { r := { vd := 0, wbs := 0, vs1 := 0, vs2 := 0 }, f := 0, l := 0, lv := 0, vs3 := 0, men := 0, msk := 0, ty := 8, rnd := 0, sq := 0, hs := 0, swz := 0, fn := 1 },
      .vrsum { r := { vd := 0, wbs := 0, vs1 := 0, vs2 := 0 }, f := 0, l := 0, lv := 0, vs3 := 0, men := 0, msk := 0, ty := 9, rnd := 0, sq := 0, hs := 0, swz := 0, fn := 0 },
      .vrmax { r := { vd := 0, wbs := 0, vs1 := 0, vs2 := 0 }, f := 0, l := 0, lv := 0, vs3 := 0, men := 0, msk := 0, ty := 9, rnd := 0, sq := 0, hs := 0, swz := 0, fn := 0 },
      .vrmin { r := { vd := 0, wbs := 0, vs1 := 0, vs2 := 0 }, f := 0, l := 0, lv := 0, vs3 := 0, men := 0, msk := 0, ty := 9, rnd := 0, sq := 0, hs := 0, swz := 0, fn := 0 },
      .vargmax { r := { vd := 0, wbs := 0, vs1 := 0, vs2 := 0 }, f := 0, l := 0, lv := 0, vs3 := 0, men := 0, msk := 0, ty := 9, rnd := 0, sq := 0, hs := 0, swz := 0, fn := 0 },
      .vscan { r := { vd := 0, wbs := 0, vs1 := 0, vs2 := 0 }, f := 0, l := 0, lv := 0, vs3 := 0, men := 0, msk := 0, ty := 8, rnd := 0, sq := 0, hs := 0, swz := 0, fn := 3 },
      .vtopk { r := { vd := 1, wbs := 0, vs1 := 0, vs2 := 0 }, f := 0, l := 0, lv := 0, vs3 := 0, men := 0, msk := 0, ty := 8, rnd := 0, sq := 0, hs := 0, swz := 0, fn := 0 },
      .vperm { r := { vd := 0, wbs := 0, vs1 := 0, vs2 := 0 }, f := 0, l := 0, lv := 0, vs3 := 0, men := 0, msk := 0, ty := 8, rnd := 0, sq := 0, hs := 0, swz := 0, fn := 0 },
      .vbcast { r := { vd := 0, wbs := 0, vs1 := 0, vs2 := 0 }, f := 0, l := 0, lv := 0, vs3 := 0, men := 0, msk := 0, ty := 8, rnd := 0, sq := 0, hs := 0, swz := 0, fn := 0 },
      .vshuf { r := { vd := 0, wbs := 0, vs1 := 0, vs2 := 0 }, f := 0, l := 0, lv := 0, vs3 := 0, men := 0, msk := 0, ty := 8, rnd := 0, sq := 0, hs := 0, swz := 0, fn := 0 },
      .viota { r := { vd := 0, wbs := 0, vs1 := 0, vs2 := 0 }, f := 0, l := 0, lv := 0, vs3 := 0, men := 0, msk := 0, ty := 8, rnd := 0, sq := 0, hs := 0, swz := 0, fn := 0 }] = true ∧
    refused .illRes .vector false [
      .vmand { r := { vd := 0, wbs := 0, vs1 := 0, vs2 := 0 }, f := 0, l := 0, lv := 0, vs3 := 0, men := 0, msk := 0, ty := 0, rnd := 0, sq := 0, hs := 0, swz := 0, fn := 2 },
      .vmor { r := { vd := 0, wbs := 0, vs1 := 0, vs2 := 0 }, f := 0, l := 0, lv := 0, vs3 := 0, men := 0, msk := 0, ty := 0, rnd := 0, sq := 0, hs := 0, swz := 0, fn := 2 },
      .vmnot { r := { vd := 0, wbs := 0, vs1 := 0, vs2 := 1 }, f := 0, l := 0, lv := 0, vs3 := 0, men := 0, msk := 0, ty := 0, rnd := 0, sq := 0, hs := 0, swz := 0, fn := 0 },
      .vmpop { r := { vd := 0, wbs := 0, vs1 := 16, vs2 := 0 }, f := 0, l := 0, lv := 0, vs3 := 0, men := 0, msk := 0, ty := 0, rnd := 0, sq := 0, hs := 0, swz := 0, fn := 0 },
      .vqnt { r := { vd := 0, wbs := 0, vs1 := 0, vs2 := 0 }, f := 0, l := 0, lv := 0, vs3 := 0, men := 1, msk := 0, ty := 11, rnd := 0, sq := 0, hs := 0, swz := 0, fn := 0 },
      .vdqnt { r := { vd := 0, wbs := 0, vs1 := 0, vs2 := 0 }, f := 0, l := 0, lv := 0, vs3 := 0, men := 0, msk := 0, ty := 8, rnd := 0, sq := 0, hs := 0, swz := 0, fn := 0 },
      .vld { v := { r := { vd := 0, wbs := 0, vs1 := 0, vs2 := 0 }, f := 0, l := 0, lv := 0, vs3 := 0, men := 0, msk := 0, ty := 0, rnd := 0, sq := 0, hs := 0, swz := 0, fn := 4 }, lit := 0 },
      .vst { v := { r := { vd := 1, wbs := 0, vs1 := 0, vs2 := 0 }, f := 0, l := 0, lv := 0, vs3 := 0, men := 0, msk := 0, ty := 0, rnd := 0, sq := 0, hs := 0, swz := 0, fn := 0 }, lit := 0 },
      .vdefer { r := { vd := 0, wbs := 0, vs1 := 0, vs2 := 0 }, f := 0, l := 0, lv := 0, vs3 := 0, men := 0, msk := 0, ty := 0, rnd := 0, sq := 0, hs := 0, swz := 5, fn := 0 },
      .vdrain { r := { vd := 0, wbs := 0, vs1 := 0, vs2 := 0 }, f := 0, l := 0, lv := 0, vs3 := 0, men := 0, msk := 0, ty := 0, rnd := 0, sq := 0, hs := 0, swz := 0, fn := 2 },
      .vdret { r := { vd := 0, wbs := 0, vs1 := 0, vs2 := 0 }, f := 0, l := 0, lv := 0, vs3 := 0, men := 0, msk := 0, ty := 0, rnd := 0, sq := 0, hs := 0, swz := 0, fn := 1 },
      .vbr { v := { r := { vd := 0, wbs := 0, vs1 := 0, vs2 := 0 }, f := 0, l := 0, lv := 0, vs3 := 0, men := 0, msk := 0, ty := 0, rnd := 0, sq := 0, hs := 0, swz := 0, fn := 0 }, lit := 2 }] = true ∧
    refused .illRes .vector false [
      .vbr { v := { r := { vd := 0, wbs := 0, vs1 := 0, vs2 := 0 }, f := 0, l := 0, lv := 0, vs3 := 0, men := 0, msk := 0, ty := 0, rnd := 0, sq := 0, hs := 0, swz := 0, fn := 5 }, lit := 0 },
      .vloop { v := { r := { vd := 0, wbs := 0, vs1 := 0, vs2 := 0 }, f := 0, l := 0, lv := 0, vs3 := 0, men := 0, msk := 1, ty := 0, rnd := 0, sq := 0, hs := 0, swz := 0, fn := 0 }, lit := 0 },
      .vtake { r := { vd := 0, wbs := 0, vs1 := 0, vs2 := 0 }, f := 0, l := 0, lv := 0, vs3 := 0, men := 0, msk := 0, ty := 0, rnd := 0, sq := 0, hs := 0, swz := 0, fn := 4 },
      .vgive { r := { vd := 1, wbs := 0, vs1 := 0, vs2 := 0 }, f := 0, l := 0, lv := 0, vs3 := 0, men := 0, msk := 0, ty := 0, rnd := 0, sq := 0, hs := 0, swz := 0, fn := 0 },
      .nestBeg { eng := .vector, rsv := 1, slot := 0 },
      .nestEnd { eng := .vector, rsv := 2, slot := 0 },
      .rdv { eng := .vector, rsv := 0, slot := 1 },
      .engineEnd { eng := .vector, rsv := 0, slot := 1 }] = true ∧
    refused .illRes .vector true [
      .vaddFull { r := { vd := 0, wbs := 0, vs1 := 0, vs2 := 0 }, f := 0, l := 1, lv := 7, vs3 := 0, men := 0, msk := 0, ty := 8, rnd := 0, sq := 0, hs := 0, swz := 0, fn := 0 }] = true := by decide +kernel

/-- A term of the matrix class for each check (R165, R174, R175, R180, R189, and the instruction's own rule). -/
theorem test_illformed_matrix :
    refused .illShape .matrix false [
      .mma { ta := 0, tb := 0, ab := 0, m := 3, nn := 8, f := 0, l := 0, lv := 0, tc := 0, sub := 0, nra := 0, aga := 0, nrb := 0, agb := 0, sreg := 0, rsv := 0 },
      .mmaz { ta := 0, tb := 0, ab := 0, m := 3, nn := 8, f := 0, l := 0, lv := 0, tc := 0, sub := 0, nra := 0, aga := 0, nrb := 0, agb := 0, sreg := 0, rsv := 0 },
      .mmag { ta := 0, tb := 0, ab := 0, m := 3, nn := 8, f := 0, l := 0, lv := 0, tc := 0, sub := 0, nra := 0, aga := 0, nrb := 0, agb := 0, sreg := 0, rsv := 0 },
      .mma { ta := 0, tb := 0, ab := 0, m := 0, nn := 0, f := 0, l := 0, lv := 0, tc := 0, sub := 0, nra := 0, aga := 0, nrb := 0, agb := 0, sreg := 0, rsv := 0 },
      .mma { ta := 0, tb := 0, ab := 0, m := 2, nn := 9, f := 0, l := 0, lv := 0, tc := 0, sub := 0, nra := 0, aga := 0, nrb := 0, agb := 0, sreg := 0, rsv := 0 }] = true ∧
    refused .illRes .matrix false [
      .mma { ta := 0, tb := 0, ab := 0, m := 0, nn := 1, f := 0, l := 0, lv := 0, tc := 1, sub := 0, nra := 0, aga := 0, nrb := 0, agb := 0, sreg := 0, rsv := 0 },
      .mmaz { ta := 0, tb := 0, ab := 0, m := 0, nn := 1, f := 0, l := 0, lv := 0, tc := 0, sub := 0, nra := 1, aga := 0, nrb := 0, agb := 0, sreg := 0, rsv := 0 },
      .mma { ta := 0, tb := 0, ab := 0, m := 0, nn := 1, f := 0, l := 0, lv := 0, tc := 0, sub := 0, nra := 0, aga := 0, nrb := 0, agb := 0, sreg := 0, rsv := 1 },
      .mconst { ta := 0, tb := 0, ab := 0, m := 0, nn := 1, f := 0, l := 0, lv := 0, tc := 0, sub := 4, nra := 0, aga := 0, nrb := 0, agb := 0, sreg := 0, rsv := 0 },
      .mprec { x := { ta := 0, tb := 0, ab := 0, m := 0, nn := 0, f := 0, l := 0, lv := 0, tc := 0, sub := 0, nra := 0, aga := 0, nrb := 0, agb := 0, sreg := 0, rsv := 0 }, lit := 1 },
      .mscale { ta := 1, tb := 0, ab := 0, m := 0, nn := 0, f := 0, l := 0, lv := 0, tc := 0, sub := 0, nra := 0, aga := 0, nrb := 0, agb := 0, sreg := 0, rsv := 0 },
      .mown { ta := 0, tb := 0, ab := 0, m := 0, nn := 1, f := 0, l := 0, lv := 0, tc := 0, sub := 0, nra := 0, aga := 0, nrb := 0, agb := 0, sreg := 0, rsv := 0 },
      .mclr { ta := 0, tb := 1, ab := 0, m := 0, nn := 0, f := 0, l := 0, lv := 0, tc := 0, sub := 0, nra := 0, aga := 0, nrb := 0, agb := 0, sreg := 0, rsv := 0 },
      .mcvt { ta := 0, tb := 0, ab := 0, m := 0, nn := 1, f := 0, l := 0, lv := 0, tc := 0, sub := 2, nra := 0, aga := 0, nrb := 0, agb := 0, sreg := 0, rsv := 0 },
      .mscat { ta := 0, tb := 0, ab := 0, m := 0, nn := 1, f := 0, l := 0, lv := 0, tc := 0, sub := 2, nra := 0, aga := 0, nrb := 0, agb := 0, sreg := 0, rsv := 0 },
      .mfree { ta := 0, tb := 0, ab := 0, m := 0, nn := 0, f := 0, l := 0, lv := 0, tc := 0, sub := 8, nra := 0, aga := 0, nrb := 0, agb := 0, sreg := 0, rsv := 0 },
      .mfree { ta := 0, tb := 0, ab := 0, m := 0, nn := 0, f := 0, l := 0, lv := 0, tc := 0, sub := 0, nra := 0, aga := 0, nrb := 0, agb := 0, sreg := 0, rsv := 0 }] = true := by decide +kernel

/-- A term of the copy class for each check (R165, R174, R175, R180, R189, and the instruction's own rule). -/
theorem test_illformed_copy :
    refused .illRes .copy false [
      .cp { wsem := 0, wv := 0, ssem := 0, sv := 0, md := 0, f := 0, l := 0, lv := 0, ag := 0, nr := 0, qw := 0, sa := 1, sb := 0, aux := 0 },
      .cpc { wsem := 0, wv := 0, ssem := 0, sv := 0, md := 0, f := 0, l := 0, lv := 0, ag := 0, nr := 0, qw := 0, sa := 1, sb := 0, aux := 0 },
      .cpg { wsem := 0, wv := 0, ssem := 0, sv := 0, md := 0, f := 0, l := 0, lv := 0, ag := 0, nr := 0, qw := 0, sa := 1, sb := 0, aux := 0 },
      .cps { wsem := 0, wv := 0, ssem := 0, sv := 0, md := 0, f := 0, l := 0, lv := 0, ag := 0, nr := 0, qw := 0, sa := 1, sb := 0, aux := 0 },
      .cpk { wsem := 0, wv := 0, ssem := 0, sv := 0, md := 0, f := 0, l := 0, lv := 0, ag := 0, nr := 0, qw := 0, sa := 1, sb := 0, aux := 0 },
      .pref { wsem := 0, wv := 0, ssem := 0, sv := 0, md := 0, f := 0, l := 0, lv := 0, ag := 0, nr := 0, qw := 0, sa := 1, sb := 0, aux := 0 },
      .pin { wsem := 0, wv := 0, ssem := 0, sv := 0, md := 0, f := 0, l := 0, lv := 0, ag := 0, nr := 0, qw := 0, sa := 1, sb := 0, aux := 0 },
      .unpin { wsem := 0, wv := 0, ssem := 0, sv := 0, md := 0, f := 0, l := 0, lv := 0, ag := 0, nr := 0, qw := 0, sa := 1, sb := 0, aux := 0 },
      .kvcommit { wsem := 0, wv := 0, ssem := 0, sv := 0, md := 0, f := 0, l := 0, lv := 0, ag := 0, nr := 0, qw := 0, sa := 1, sb := 0, aux := 0 },
      .rst { wsem := 0, wv := 0, ssem := 0, sv := 0, md := 0, f := 0, l := 0, lv := 0, ag := 0, nr := 0, qw := 0, sa := 1, sb := 0, aux := 0 },
      .rld { wsem := 0, wv := 0, ssem := 0, sv := 0, md := 0, f := 0, l := 0, lv := 0, ag := 0, nr := 0, qw := 0, sa := 1, sb := 0, aux := 0 },
      .lsend { wsem := 0, wv := 0, ssem := 0, sv := 0, md := 0, f := 0, l := 0, lv := 0, ag := 0, nr := 0, qw := 0, sa := 1, sb := 0, aux := 0 }] = true ∧
    refused .illRes .copy false [
      .lradd { wsem := 0, wv := 0, ssem := 0, sv := 0, md := 0, f := 0, l := 0, lv := 0, ag := 0, nr := 0, qw := 0, sa := 1, sb := 0, aux := 0 },
      .qpush96 { c := { wsem := 0, wv := 0, ssem := 0, sv := 0, md := 0, f := 0, l := 0, lv := 0, ag := 0, nr := 0, qw := 0, sa := 0, sb := 0, aux := 1 }, lit := 0 },
      .qpop96 { c := { wsem := 0, wv := 0, ssem := 0, sv := 0, md := 0, f := 0, l := 0, lv := 0, ag := 0, nr := 0, qw := 0, sa := 0, sb := 0, aux := 1 }, lit := 0 },
      .qpeek { c := { wsem := 0, wv := 0, ssem := 0, sv := 0, md := 0, f := 0, l := 0, lv := 0, ag := 0, nr := 0, qw := 0, sa := 0, sb := 0, aux := 0 }, lit := none },
      .twait { c := { wsem := 0, wv := 0, ssem := 0, sv := 0, md := 2, f := 0, l := 0, lv := 0, ag := 0, nr := 0, qw := 0, sa := 0, sb := 0, aux := 0 }, lit := none },
      .foot96 { c := { wsem := 0, wv := 0, ssem := 0, sv := 0, md := 0, f := 0, l := 0, lv := 0, ag := 0, nr := 0, qw := 1, sa := 0, sb := 0, aux := 0 }, lit := 0 }] = true ∧
    refused .illRes .strand false [
      .cp96 { c := { wsem := 0, wv := 0, ssem := 0, sv := 0, md := 0, f := 0, l := 0, lv := 0, ag := 0, nr := 0, qw := 0, sa := 0, sb := 0, aux := 1 }, lit := 0 },
      .cpc96 { c := { wsem := 0, wv := 0, ssem := 0, sv := 0, md := 0, f := 0, l := 0, lv := 0, ag := 0, nr := 0, qw := 0, sa := 0, sb := 0, aux := 1 }, lit := 0 },
      .cpg96 { c := { wsem := 0, wv := 0, ssem := 0, sv := 0, md := 0, f := 0, l := 0, lv := 0, ag := 0, nr := 0, qw := 0, sa := 0, sb := 0, aux := 1 }, lit := 0 },
      .cps96 { c := { wsem := 0, wv := 0, ssem := 0, sv := 0, md := 0, f := 0, l := 0, lv := 0, ag := 0, nr := 0, qw := 0, sa := 0, sb := 0, aux := 1 }, lit := 0 },
      .cpk96 { c := { wsem := 0, wv := 0, ssem := 0, sv := 0, md := 0, f := 0, l := 0, lv := 0, ag := 0, nr := 0, qw := 0, sa := 0, sb := 0, aux := 1 }, lit := 0 },
      .pref96 { c := { wsem := 0, wv := 0, ssem := 0, sv := 0, md := 0, f := 0, l := 0, lv := 0, ag := 0, nr := 0, qw := 0, sa := 0, sb := 0, aux := 1 }, lit := 0 },
      .pin96 { c := { wsem := 0, wv := 0, ssem := 0, sv := 0, md := 0, f := 0, l := 0, lv := 0, ag := 0, nr := 0, qw := 0, sa := 0, sb := 0, aux := 1 }, lit := 0 },
      .unpin96 { c := { wsem := 0, wv := 0, ssem := 0, sv := 0, md := 0, f := 0, l := 0, lv := 0, ag := 0, nr := 0, qw := 0, sa := 0, sb := 0, aux := 1 }, lit := 0 },
      .kvcommit96 { c := { wsem := 0, wv := 0, ssem := 0, sv := 0, md := 0, f := 0, l := 0, lv := 0, ag := 0, nr := 0, qw := 0, sa := 0, sb := 0, aux := 1 }, lit := 0 },
      .rst96 { c := { wsem := 0, wv := 0, ssem := 0, sv := 0, md := 0, f := 0, l := 0, lv := 0, ag := 0, nr := 0, qw := 0, sa := 0, sb := 0, aux := 1 }, lit := 0 },
      .rld96 { c := { wsem := 0, wv := 0, ssem := 0, sv := 0, md := 0, f := 0, l := 0, lv := 0, ag := 0, nr := 0, qw := 0, sa := 0, sb := 0, aux := 1 }, lit := 0 },
      .lsend96 { c := { wsem := 0, wv := 0, ssem := 0, sv := 0, md := 0, f := 0, l := 0, lv := 0, ag := 0, nr := 0, qw := 0, sa := 0, sb := 0, aux := 1 }, lit := 0 }] = true ∧
    refused .illRes .strand false [
      .lradd96 { c := { wsem := 0, wv := 0, ssem := 0, sv := 0, md := 0, f := 0, l := 0, lv := 0, ag := 0, nr := 0, qw := 0, sa := 0, sb := 0, aux := 1 }, lit := 0 },
      .qinit { wsem := 0, wv := 0, ssem := 0, sv := 0, md := 0, f := 0, l := 0, lv := 0, ag := 0, nr := 0, qw := 0, sa := 0, sb := 0, aux := 1 },
      .qinit96 { c := { wsem := 0, wv := 0, ssem := 0, sv := 0, md := 0, f := 0, l := 0, lv := 0, ag := 0, nr := 0, qw := 0, sa := 0, sb := 0, aux := 0 }, lit := 1 },
      .qpush { wsem := 0, wv := 0, ssem := 0, sv := 0, md := 0, f := 0, l := 0, lv := 0, ag := 0, nr := 0, qw := 0, sa := 1, sb := 0, aux := 0 },
      .qpop { wsem := 0, wv := 0, ssem := 0, sv := 0, md := 0, f := 0, l := 0, lv := 0, ag := 0, nr := 0, qw := 0, sa := 1, sb := 0, aux := 0 },
      .tslotSet { wsem := 0, wv := 0, ssem := 0, sv := 0, md := 0, f := 0, l := 0, lv := 0, ag := 0, nr := 1, qw := 0, sa := 0, sb := 0, aux := 0 },
      .tslotSet96 { c := { wsem := 0, wv := 0, ssem := 0, sv := 0, md := 0, f := 0, l := 0, lv := 0, ag := 0, nr := 0, qw := 0, sa := 0, sb := 0, aux := 0 }, lit := 1 },
      .foot { wsem := 0, wv := 0, ssem := 0, sv := 0, md := 1, f := 0, l := 0, lv := 0, ag := 0, nr := 0, qw := 0, sa := 0, sb := 0, aux := 0 }] = true ∧
    refused .illRes .vector false [
      .tfull { c := { wsem := 0, wv := 0, ssem := 0, sv := 0, md := 1, f := 0, l := 0, lv := 0, ag := 0, nr := 0, qw := 0, sa := 0, sb := 0, aux := 0 }, lit := none }] = true ∧
    refused .illRes .matrix false [
      .tempty { c := { wsem := 0, wv := 0, ssem := 0, sv := 0, md := 0, f := 0, l := 0, lv := 0, ag := 0, nr := 0, qw := 0, sa := 0, sb := 0, aux := 64 }, lit := none }] = true := by decide +kernel

/-- A term of the sync class for each check (R165, R174, R175, R180, R189, and the instruction's own rule). -/
theorem test_illformed_sync :
    refused .illRes .strand false [
      .amoAdd { md := 1, rs2 := 0, rs1 := 0, rd := 0, pg := 0 },
      .amoAddImm { r := { md := 2, rs2 := 30, rs1 := 0, rd := 0, pg := 0 }, imm := 0 },
      .amoMin { md := 1, rs2 := 0, rs1 := 0, rd := 0, pg := 0 },
      .amoMinImm { r := { md := 2, rs2 := 30, rs1 := 0, rd := 0, pg := 0 }, imm := 0 },
      .amoMax { md := 1, rs2 := 0, rs1 := 0, rd := 0, pg := 0 },
      .amoMaxImm { r := { md := 2, rs2 := 30, rs1 := 0, rd := 0, pg := 0 }, imm := 0 },
      .amoXchg { md := 1, rs2 := 0, rs1 := 0, rd := 0, pg := 0 },
      .amoXchgImm { r := { md := 2, rs2 := 30, rs1 := 0, rd := 0, pg := 0 }, imm := 0 },
      .amoAnd { md := 1, rs2 := 0, rs1 := 0, rd := 0, pg := 0 },
      .amoAndImm { r := { md := 2, rs2 := 30, rs1 := 0, rd := 0, pg := 0 }, imm := 0 },
      .amoOr { md := 1, rs2 := 0, rs1 := 0, rd := 0, pg := 0 },
      .amoOrImm { r := { md := 2, rs2 := 30, rs1 := 0, rd := 0, pg := 0 }, imm := 0 }] = true ∧
    refused .illRes .strand false [
      .amoCas { md := 2, rs2 := 0, rs1 := 0, rd := 5, pg := 0 },
      .amoCasImm { r := { md := 2, rs2 := 0, rs1 := 0, rd := 0, pg := 0 }, imm := 0 },
      .fence { md := 0, rs2 := 0, rs1 := 16, rd := 0, pg := 0 },
      .barExp { r := { md := 1, rs2 := 0, rs1 := 0, rd := 0, pg := 0 }, imm := 0 },
      .barWait { r := { md := 0, rs2 := 0, rs1 := 0, rd := 1, pg := 0 }, imm := 0 },
      .collReg { r := { md := 0, rs2 := 0, rs1 := 0, rd := 1, pg := 0 }, imm := 0 },
      .collFree { r := { md := 0, rs2 := 0, rs1 := 0, rd := 1, pg := 0 }, imm := 0 },
      .collAr { r := { md := 0, rs2 := 0, rs1 := 0, rd := 8, pg := 0 }, imm := 0 },
      .collAg { r := { md := 0, rs2 := 0, rs1 := 0, rd := 8, pg := 0 }, imm := 0 },
      .collRs { r := { md := 0, rs2 := 0, rs1 := 0, rd := 8, pg := 0 }, imm := 0 },
      .bankRun { r := { md := 0, rs2 := 0, rs1 := 0, rd := 8, pg := 0 }, imm := 0 },
      .leaseReq { r := { md := 0, rs2 := 0, rs1 := 0, rd := 0, pg := 0 }, imm := 9 }] = true ∧
    refused .illRes .strand false [
      .leaseRet { r := { md := 0, rs2 := 0, rs1 := 0, rd := 0, pg := 0 }, imm := 1 },
      .leaseQ { r := { md := 1, rs2 := 0, rs1 := 0, rd := 0, pg := 0 }, imm := 0 },
      .bankStat { r := { md := 0, rs2 := 0, rs1 := 0, rd := 0, pg := 0 }, imm := 1 }] = true ∧
    refused .illRes .vector false [
      .vamo { r := { vd := 0, wbs := 0, vs1 := 0, vs2 := 0 }, f := 0, l := 0, lv := 0, vs3 := 0, men := 0, msk := 0, ty := 8, rnd := 0, sq := 0, hs := 0, swz := 0, fn := 4 },
      .fence { md := 0, rs2 := 0, rs1 := 0, rd := 0, pg := 1 }] = true ∧
    refused .illSrc .vector false [
      .vamo { r := { vd := 0, wbs := 0, vs1 := 0, vs2 := 0 }, f := 0, l := 0, lv := 0, vs3 := 64, men := 0, msk := 0, ty := 6, rnd := 0, sq := 0, hs := 0, swz := 0, fn := 0 }] = true ∧
    refused .illRes .copy false [
      .barArr { r := { md := 0, rs2 := 0, rs1 := 1, rd := 0, pg := 0 }, imm := 0 }] = true := by decide +kernel

/-- A term of the system class for each check (R165, R174, R175, R180, R189, and the instruction's own rule). -/
theorem test_illformed_system :
    refused .illRes .strand false [
      .codeReg { md := 0, rs2 := 0, rs1 := 0, rd := 3, pg := 0 },
      .codeReg64 { r := { md := 0, rs2 := 0, rs1 := 0, rd := 0, pg := 0 }, imm := 0 },
      .keyAlloc { md := 0, rs2 := 1, rs1 := 0, rd := 0, pg := 0 },
      .keyAlloc64 { r := { md := 0, rs2 := 0, rs1 := 1, rd := 0, pg := 0 }, imm := 0 },
      .keyRevoke { md := 0, rs2 := 0, rs1 := 0, rd := 1, pg := 0 },
      .keyRevoke64 { r := { md := 1, rs2 := 0, rs1 := 0, rd := 0, pg := 0 }, imm := 0 },
      .partStop { md := 0, rs2 := 0, rs1 := 0, rd := 1, pg := 0 },
      .partStop64 { r := { md := 1, rs2 := 0, rs1 := 0, rd := 0, pg := 0 }, imm := 0 },
      .ctxSave { md := 2, rs2 := 0, rs1 := 0, rd := 0, pg := 0 },
      .ctxSave64 { r := { md := 0, rs2 := 1, rs1 := 0, rd := 0, pg := 0 }, imm := 0 },
      .ctxLoad { md := 0, rs2 := 0, rs1 := 23, rd := 0, pg := 0 },
      .ctxLoad64 { r := { md := 0, rs2 := 0, rs1 := 1, rd := 0, pg := 0 }, imm := 0 }] = true ∧
    refused .illRes .strand false [
      .scrub { md := 0, rs2 := 0, rs1 := 1, rd := 0, pg := 0 },
      .scrub64 { r := { md := 0, rs2 := 0, rs1 := 0, rd := 1, pg := 0 }, imm := 0 },
      .calSet { md := 2, rs2 := 0, rs1 := 0, rd := 0, pg := 0 },
      .calSet64 { r := { md := 0, rs2 := 0, rs1 := 1, rd := 0, pg := 0 }, imm := 0 },
      .tlbInv { md := 4, rs2 := 0, rs1 := 0, rd := 0, pg := 0 },
      .tlbInv64 { r := { md := 0, rs2 := 0, rs1 := 1, rd := 0, pg := 0 }, imm := 0 },
      .halt { md := 0, rs2 := 0, rs1 := 1, rd := 0, pg := 0 },
      .halt64 { r := { md := 0, rs2 := 0, rs1 := 0, rd := 1, pg := 0 }, imm := 0 }] = true := by decide +kernel

/-- A term of the near-bank class for each check (R165, R174, R175, R180, R189, and the instruction's own rule). -/
theorem test_illformed_near_bank :
    refused .illRes .strand false [
      .nbOpen { n := { a := 0, b := 0, imm15 := 4 }, imm32 := none },
      .nbLdacc { n := { a := 0, b := 1, imm15 := 0 }, imm32 := none },
      .nbWr { n := { a := 0, b := 1, imm15 := 0 }, imm32 := none },
      .nbClr { n := { a := 0, b := 1, imm15 := 0 }, imm32 := none },
      .nbScadd { a := 0, b := 0, imm15 := 2 },
      .nbScadd64 { n := { a := 0, b := 0, imm15 := 1 }, imm32 := 0 },
      .nbMac { a := 0, b := 1, imm15 := 0 },
      .nbMac64 { n := { a := 0, b := 1, imm15 := 0 }, imm32 := 0 },
      .nbScale { a := 0, b := 1, imm15 := 0 },
      .nbScale64 { n := { a := 0, b := 1, imm15 := 0 }, imm32 := 0 },
      .nbLoop { n := { a := 0, b := 0, imm15 := 64 }, imm32 := none },
      .nbEnd { n := { a := 0, b := 0, imm15 := 0 }, imm32 := (some 1) }] = true := by decide +kernel
/-! ### Small states, and states that meet the hypotheses of the statements -/

/-- The registers of context 1 in the small states: a handle table of 16 entries, a trap handler at 0x400, a fault queue. -/
def demoRegs : CtxRegs := { htsize := 16, tvec := 0x8000000000000400, fqv := true, collallot := 4 }

/-- A cached handle entry of context 1 (R26): path, write protection, base and bound. -/
def demoHandle (h path : Nat) (wp : Bool) (base bound : Nat) : HcE :=
  { asid := 1, h := h, w0 := BitVec.ofNat 64 base,
    w1 := BitVec.ofNat 64 (path * 2 ^ 60 + 2 ^ 55 + (if wp then 2 ^ 54 else 0) + bound) }

/-- A leaf of 1 GiB of local memory at frame 0x4000, valid, dirty (R311). -/
def demoLeaf : Word := BitVec.ofNat 64 (2 ^ 63 + 2 ^ 62 + 2 * 2 ^ 60 + 1023 * 2 ^ 50 + 2 ^ 36 + 0x4000)

/-- A memory-side leaf of 64 KiB at frame 0x5000. -/
def demoMsLeaf : Word := BitVec.ofNat 64 (2 ^ 63 + 2 ^ 62 + 1023 * 2 ^ 50 + 2 ^ 45 + 2 ^ 36 + 0x5000)

/-- Team `t` of context 1 in stage A of cell 0, whose strand issues. Handle 0 is local memory, handle 1 the vault, handle 2 local
memory that is write-protected, handle 3 host memory, handle 4 memory-side memory. The TLBs of cell 9 and of the hub hold the local page too. -/
def demo (t : Team) : State :=
  { boot := { start := .up, ready := true }, ctxs := [(1, { regs := demoRegs, pend := demoRegs })], cells := [(0, { a := some t })],
    mem := { hcache := [demoHandle 0 0 false 0 0x10000, demoHandle 1 3 false 0x80000000 0x10000, demoHandle 2 0 true 0 0x10000,
                        demoHandle 3 6 false 0 0x10000, demoHandle 4 2 false 0 0x10000],
             tlb := [{ asid := 1, base := 0, logsz := 30, leaf := demoLeaf },
                     { asid := 1, base := 2 * 2 ^ 52, logsz := 16, leaf := demoMsLeaf },
                     { place := 9, asid := 1, base := 0, logsz := 30, leaf := demoLeaf },
                     { place := 256, asid := 1, base := 0, logsz := 30, leaf := demoLeaf }] } }

/-- The team of the small states, with register s1 = `a` and s2 = `b`. -/
def demoTeam (a b : Word) : Team := { asid := 1, regs := [(1, a), (2, b)] }

/-- The same with engine `e` in RUN and issuing. -/
def demoEng (e : Engine) (t : Team) : State := { demo (t.setEng e { st := .run }) with cur := .stream 0 e.stream }

/-- The team that a step leaves in the active stage of cell 0. -/
def actOf (r : Host.Outcome State Fault Refusal) : Option Team :=
  match r with
  | .next s => (s.cell 0).act
  | _ => none

/-- The word of all zero fields, with guard `pg`. -/
def zS32 (pg : BitVec 3) : S32 := { md := 0, rs2 := 0, rs1 := 0, rd := 0, pg := pg }

theorem test_hyp_guarded : Guarded (demo (demoTeam 5 0)) 0 (demoTeam 5 0) 0 ∧
    Guarded (demo { demoTeam 5 0 with preds := 0x80 }) 0 { demoTeam 5 0 with preds := 0x80 } 7 := by
  refine ⟨⟨⟨rfl, rfl⟩, ?_⟩, ⟨⟨rfl, rfl⟩, ?_⟩⟩ <;> decide +kernel

theorem test_hyp_guard_false : Issues (demo (demoTeam 5 0)) 0 .strand (demoTeam 5 0) ∧
    (demoTeam 5 0).pred (zS32 7).pg.toNat = false := ⟨⟨rfl, rfl⟩, by decide +kernel⟩

theorem test_hyp_engine : ∀ e : Engine, EngineIssues (demoEng e (demoTeam 5 0)) 0 e ((demoTeam 5 0).setEng e { st := .run }) := by
  intro e; cases e <;> exact ⟨⟨rfl, rfl⟩, fun _ => rfl⟩

/-- A run that succeeds with a value and a state of which `p` holds. -/
def okAnd {α : Type} (r : EStateM.Result Exc State α) (p : α → State → Bool) : Bool :=
  match r with
  | .ok a s => p a s
  | .error _ _ => false

/-- Words in local memory from 0x40000000 on, which handle 0 shows at offset 0. -/
def withLocal (s : State) (bs : List Byte) : State :=
  { s with mem := { s.mem with phys := s.mem.phys.wrBytes 0x40000000 bs } }

/-- The entry of handle `h` of the small states. -/
def demoEntry (h : Nat) : HEntry :=
  match h with
  | 1 => { base := 0x80000000, path := 3, bound := 0x10000 }
  | 2 => { wp := true, bound := 0x10000 }
  | 3 => { path := 6, bound := 0x10000 }
  | _ => { bound := 0x10000 }

/-- The last eight bytes of the allotment, read and written through handle 1. -/
theorem test_hyp_own_vault : OwnVault (demo (demoTeam 0xFFF8 0)) 0 (demoTeam 0xFFF8 0) 1 0xFFF8 8 true 0xFFF8 ∧
    OwnVault (demo (demoTeam 0xFFF8 0)) 0 (demoTeam 0xFFF8 0) 1 0xFFF8 8 false 0xFFF8 ∧
    (demoTeam 0xFFF8 0).vaultRd 0xFFF8 8 = some [0, 0, 0, 0, 0, 0, 0, 0] ∧ (demoTeam 0xFFF8 0).loads.length < 8 ∧
    StoreRoom (demo (demoTeam 0xFFF8 0)) 0 := by
  refine ⟨⟨⟨demoEntry 1, ?_, rfl, rfl⟩, ?_, ?_, ?_⟩, ⟨⟨demoEntry 1, ?_, rfl, rfl⟩, ?_, ?_, ?_⟩, ?_, ?_, ?_⟩ <;>
    first | (unfold HandleOk; decide +kernel) | (unfold StoreRoom; decide +kernel) | decide +kernel

/-- The last eight bytes of the window of handle 0, in local memory. -/
theorem test_hyp_local_page : LocalPage (demo (demoTeam 0xFFF8 0)) 0 1 0 0xFFF8 8 true 0x4000FFF8 ∧
    LocalPage (demo (demoTeam 0xFFF8 0)) 0 1 0 0xFFF8 8 false 0x4000FFF8 ∧ CleanLines (demo (demoTeam 0xFFF8 0)) 0x4000FFF8 8 := by
  refine ⟨⟨demoEntry 0, { asid := 1, base := 0, logsz := 30, leaf := demoLeaf }, ?_⟩,
    ⟨demoEntry 0, { asid := 1, base := 0, logsz := 30, leaf := demoLeaf }, ?_⟩, ?_⟩ <;>
    (try unfold HandleOk) <;> (try unfold CleanLines) <;> decide +kernel

/-- Where LD and ST trap: no handle 15, one byte past the bound, a write-protected handle. -/
theorem test_hyp_access_traps : let s := demo (demoTeam 0xFFF9 0)
    s.handle? 1 15 = none ∧ (s.handle? 1 0 = some (demoEntry 0) ∧ (demoEntry 0).fits 0xFFF9 8 = false) ∧
    (s.handle? 1 2 = some (demoEntry 2) ∧ (demoEntry 2).fits 0xFFF8 8 = true ∧ (demoEntry 2).wp = true) ∧
    HandleOk s 1 3 0 4 true (demoEntry 3) ∧ (demoEntry 3).path = 6 ∧ HandleOk s 1 0 0 4 false (demoEntry 0) := by
  unfold HandleOk; decide +kernel

/-- A release and an acquire with nothing to wait for, in a state with the team moved past an instruction of 8 bytes. -/
theorem test_hyp_release : let t := demoTeam 0 0
    let s := demo t
    ∃ s0, (release (s.whoIs 0 t) 5).run (s.withTeam 0 (t.past .strand 8)) = .ok () s0 ∧ (s0.cell 0).act = some (t.past .strand 8) ∧
      (s0.cell 0).active = (s.cell 0).active ∧ s0.cur = s.cur ∧ StoreRoom s0 0 ∧
      okAnd ((acquire (s.whoIs 0 t) 5).run (s.withTeam 0 (t.past .strand 8))) (fun _ s1 => s1 == s.withTeam 0 (t.past .strand 8)) = true := by
  refine ⟨_, rfl, ?_⟩; unfold StoreRoom; decide +kernel

/-- A team with a full return-address store, and one whose newest entry lies in the spill area. -/
def demoRas : Team :=
  { demoTeam 0 0 with ras := 1 :: List.replicate 15 2, rasbase := 0, rasp := 0xFFF0, raslim := 0xFFF8, spillh := 1 }
def demoRet : Team := { demoTeam 0 0 with rasp := 0xFFF8, rasbase := 0xFFF0, raslim := 0xFFF8, spillh := 1 }

theorem test_hyp_spill : Guarded (demo demoRas) 0 demoRas 0 ∧
    (demoRas.ras = 1 :: List.replicate 15 2 ∧ (List.replicate 15 (2 : Word)).length = 15 ∧ demoRas.rasbase ≤ demoRas.rasp ∧
      demoRas.rasp.toNat + 8 ≤ demoRas.raslim.toNat ∧ OwnVault (demo demoRas) 0 demoRas 1 0xFFF0 8 true 0xFFF0) ∧
    (demoRet.ras = [] ∧ demoRet.rasp ≠ demoRet.rasbase ∧ demoRet.rasbase.toNat + 8 ≤ demoRet.rasp.toNat ∧
      demoRet.rasp ≤ demoRet.raslim ∧ OwnVault (demo demoRet) 0 demoRet 1 0xFFF0 8 false 0xFFF0 ∧
      (demoRet.vaultRd 0xFFF0 8).isSome) ∧
    ((demoTeam 0 0).ras = [] ∧ (demoTeam 0 0).rasp = (demoTeam 0 0).rasbase) := by
  refine ⟨⟨⟨rfl, rfl⟩, ?_⟩, ⟨?_, ?_, ?_, ?_, ⟨⟨demoEntry 1, ?_, rfl, rfl⟩, ?_, ?_, ?_⟩⟩,
    ⟨?_, ?_, ?_, ?_, ⟨⟨demoEntry 1, ?_, rfl, rfl⟩, ?_, ?_, ?_⟩, ?_⟩, ?_⟩ <;>
    first | (unfold HandleOk; decide +kernel) | decide +kernel

/-- FORK of an idle vector stream, of a running one, and a "continue" of an idle one (R153). -/
theorem test_hyp_fork : let t := demoTeam 0 0
    let u := t.setEng .vector { st := .run }
    ((∀ e, (1 : BitVec 3).getLsbD e.index = true → (t.eng e).st ≠ .run) ∧
      (∃ e, (1 : BitVec 3).getLsbD e.index = true ∧ (u.eng e).st = .run) ∧
      (∃ e, (1 : BitVec 3).getLsbD e.index = true ∧ (t.eng e).st = .idle)) ∧ Guarded (demo u) 0 u 0 := by
  refine ⟨⟨?_, ⟨.vector, ?_⟩, ⟨.vector, ?_⟩⟩, ⟨⟨rfl, rfl⟩, ?_⟩⟩
  · intro e; cases e <;> decide
  all_goals decide +kernel

/-- The only team of a grid of one, all streams idle, no cards: END retires it. -/
theorem test_hyp_end : let t : Team := { demoTeam 0 0 with grid := 7 }
    let s : State := { demo t with hub := { grids := [(7, { asid := 1, total := 1 })] } }
    (∀ e, (t.eng e).st ≠ .run ∧ (e = .vector → (s.cell 0).sh.landings = []) ∧ (e = .matrix → (s.cell 0).sh.array = [])) ∧
    (∀ k ∈ t.cards, k.st = .recording) ∧ t.epilogue = none ∧ t.evHub = [] ∧ s.grid t.grid = some { asid := 1, total := 1 } := by
  refine ⟨?_, ?_⟩
  · intro e; cases e <;> decide +kernel
  · decide +kernel

/-- NEST.BEG nt0, VADD, NEST.END nt0 as vector words (R173, R183). -/
def demoBody : List W32 := [0x784, 0x14061004, 0x7A4]

/-- A nest table of one level and one iteration whose body begins at offset 0 (R157, R158). -/
def demoTable (trip : Nat) : List Word := [0x0320000000000000, 0, 0, 0, BitVec.ofNat 64 (trip * 2 ^ 32)] ++ List.replicate 27 0

def demoNest : Team := { demoTeam 0 0 with nt0 := { shadow := demoTable 1 } }

/-- NEST.SET reads its 256 bytes, and NEST.GO finds the body and passes every check. -/
theorem test_hyp_nest : let s := withLocal (demo demoNest) (demoBody.flatMap bytesOfWord)
    let t' := demoNest.past .strand 4
    let w := s.whoIs 0 demoNest
    let s1 := s.withTeam 0 (t'.setSlot false { demoNest.nt0 with st := .idle, saved := [] })
    Guarded s 0 demoNest 0 ∧
    okAnd ((load w demoNest.codeh 0 256).run (s.withTeam 0 t')) (fun _ s' => s'.cur == s.cur) = true ∧
    (tableOf demoNest.nt0.shadow = some (.vector, 0, [{ trip := 1, strides := [0, 0, 0, 0] }]) ∧
      okAnd ((nestWord w t' 0 0).run s1) (fun w0 s2 =>
        (w0 == some 0x784) && okAnd ((bodyFrom w t' 0 .vector false 257 256 4).run s2) fun b s3 =>
          (b == some ([(4, [0x14061004])], 8)) && !bodyBad 1 [0x14061004] &&
            okAnd (([(4, [(0x14061004 : W32)])].forM fun p => bodyCheck t' .vector [(4, [0x14061004])] p.1 p.2).run s3)
              fun _ s4 => s4.cur == s.cur) = true) ∧
    (parseWords [0x784]).map (·.1) = some .nestBeg ∧ tableOf (List.replicate 32 0) = none := by
  refine ⟨⟨⟨rfl, rfl⟩, ?_⟩, ?_⟩ <;> decide +kernel

/-- A clamp of a slot that runs, inside its body and between two iterations of a level of three (R163). -/
theorem test_hyp_clamp : let n : NestSlot := { st := .run, body := [(4, [0x14061004])], levels := [{ trip := 3 }], idx := [0] }
    Guarded (demo { demoTeam 0 0 with nt0 := n }) 0 { demoTeam 0 0 with nt0 := n } 0 ∧ n.stop0 = none ∧ n.pos < n.body.length ∧
    (let m : NestSlot := { n with pos := 1 }
     m.body.length ≤ m.pos ∧ nextIdx m.levels m.idx 0 = some ([1], 0)) := by
  refine ⟨⟨⟨rfl, rfl⟩, ?_⟩, ?_⟩ <;> decide +kernel

/-- NEST.BEG of an armed slot, with a level that runs and with one of no iterations. -/
theorem test_hyp_markers : let n : Nat → NestSlot := fun k => { st := .armed, eng := .vector, levels := [{ trip := k }] }
    let t : Nat → Team := fun k => { (demoTeam 0 0).setEng .vector { st := .run } with nt0 := n k }
    EngineIssues { demo (t 1) with cur := .stream 0 .vector } 0 .vector (t 1) ∧ ((t 1).eng .vector).nest = none ∧
      (∀ l ∈ (n 1).levels, l.trip ≠ 0) ∧ (∃ l ∈ (n 0).levels, l.trip = 0) ∧
      (demo (t 1)).cell 0 = { a := some (t 1) } := by
  refine ⟨⟨⟨rfl, rfl⟩, fun _ => rfl⟩, ?_⟩; decide +kernel

/-- An account entry of context 1 at local address 0 (R98), and a launch record of one team (R17). -/
def demoAcct : List Byte := leBytes 8 (2 ^ 63 + 2 ^ 45)
def demoRecord : List Word :=
  [BitVec.ofNat 64 (2 ^ 56 + 2 ^ 52), 0, 0, BitVec.ofNat 64 (2 ^ 40 + 2 ^ 32), 65536] ++ List.replicate 11 0

def demoLaunch (r : List Word) : State :=
  let s := withLocal (demo (demoTeam 0 0)) (wordsBytes r)
  { s with mem := { s.mem with phys := s.mem.phys.wrBytes 0 demoAcct } }

/-- The operand of LAUNCH and TSUB at offset 0 of handle 0. -/
def zS64 : S64 := { r := zS32 0, imm := 0 }

/-- A record that passes R19 with a place for the child, and one whose FMT is wrong. -/
theorem test_hyp_launch : let s := demoLaunch demoRecord
    let t := demoTeam 0 0
    Guarded s 0 t 0 ∧
    okAnd ((readRecord zS64 128 128).run (s.withTeam 0 (t.past .strand 8))) (fun v s2 =>
      v.2 && (bytesWords 16 v.1 == demoRecord) && (s2.cur == s.cur) && ((s2.cell 0).act == some (t.past .strand 8)) &&
      (s2.checkLaunch 1 0 demoRecord true false == none) && (s2.childPlace 1 0 false == some false) &&
      (s2.checkLaunch 1 0 (List.replicate 16 0) true false == some 1)) = true := by
  refine ⟨⟨⟨rfl, rfl⟩, ?_⟩, ?_⟩ <;> decide +kernel

/-- An image with one task class of shape 5: k = n = 128, 64-byte rows (R33; the layout is the model's, log 33). -/
def demoImage : List Byte :=
  wordsBytes ([BitVec.ofNat 64 (128 * 2 ^ 32 + 128), BitVec.ofNat 64 (5 * 2 ^ 56 + 8 * 2 ^ 8), BitVec.ofNat 64 (64 * 2 ^ 32 + 64)]
    ++ List.replicate 5 0 ++ [BitVec.ofNat 64 (0x4E345443 * 2 ^ 32 + 1)])
def demoTask : List Word :=
  [0xABC, 0x77, BitVec.ofNat 64 (5 * 2 ^ 56 + 1 * 2 ^ 48), 0, 0, 0, 0, 0]
def demoTsub : State :=
  let s := demoLaunch demoTask
  { s with hub := { s.hub with registry := [(0xABC, { bytes := demoImage, refs := [1] })],
                               weights := [(0x77, { asid := 1, k := 128, n := 128 })] } }

/-- A descriptor that passes R37 with a place for the child, and one without a hash. -/
theorem test_hyp_tsub : let s := demoTsub
    let t := demoTeam 0 0
    Guarded s 0 t 0 ∧
    okAnd ((readRecord zS64 64 64).run (s.withTeam 0 (t.past .strand 8))) (fun v s2 =>
      v.2 && (bytesWords 8 v.1 == demoTask) && ((s2.cell 0).act == some (t.past .strand 8)) &&
      (s2.checkTask 1 0 demoTask true false false == none) && (s2.childPlace 1 0 false == some false) &&
      decide ((s2.aimFor demoTask []).1 = some s2.fab.devno) &&
      (let s3 : State := { s2 with hub := { s2.hub with weights := [], barker := [{ wid := 0x77, peer := 7 }] } }
       (s3.checkTask 1 0 demoTask true false true == none) && ((s3.aimFor demoTask []).1 == some 7)) &&
      (s2.checkTask 1 0 (List.replicate 8 0) true false false == some 2)) = true := by
  refine ⟨⟨⟨rfl, rfl⟩, ?_⟩, ?_⟩ <;> decide +kernel

/-- A graph of one node, a LAUNCH node without predecessors (R41, R42). -/
def demoGraph : List Word :=
  [BitVec.ofNat 64 (2 * 2 ^ 56 + 2 ^ 45), 0, 0, 0, 0, 0, 0, 0,
   BitVec.ofNat 64 ((2 ^ 40 - 1) * 2 ^ 20), 0, 0, 0, 0, 0, 0, 0]

theorem test_hyp_graph : let s := demoLaunch demoGraph
    let t := demoTeam 0 0
    okAnd ((readRecord zS64 64 64).run (s.withTeam 0 (t.past .strand 8))) (fun v s2 =>
      ghOk (bytesWords 8 v.1) && (ghNodes (nth (bytesWords 8 v.1) 0) == 1) &&
      okAnd ((readRecord zS64 128 64).run s2) fun u s3 => (s3.cur == s.cur) && ((s3.cell 0).act).isSome &&
        graphOk (bytesWords 8 v.1) [bytesWords 8 (u.1.drop 64)] false && (s3.freePlace true == some 224) &&
        !graphOk (bytesWords 8 v.1) [List.replicate 8 0] false) = true ∧
    (let full : State := { s with hub := { s.hub with graphs := (List.range 256).map fun k => (k, {}) } }
     full.freePlace true = none) ∧
    okAnd ((release (s.whoIs 0 t) 3).run (s.withTeam 0 (t.past .strand 4))) (fun _ _ => true) = true := by
  decide +kernel

/-- An event queue with one record, and one that nothing is in. -/
theorem test_hyp_events : let t : Team := { demoTeam 0 0 with evq := [List.replicate 8 9] }
    Guarded (demo t) 0 t 0 ∧ t.evq = [List.replicate 8 9] ∧ t.evCe = [] ∧ t.evHub = [] ∧
      (t.waiters.any fun w => w.1 == 256 && w.2.1 == .strand) = false ∧ (demoTeam 0 0).evq = [] := by
  refine ⟨⟨⟨rfl, rfl⟩, ?_⟩, ?_⟩ <;> decide +kernel

/-- Semaphores: a full one, one with the count, one without, and a semaphore of another team of the grid. -/
theorem test_hyp_semaphores : let t : Team := { demoTeam 3 2 with sems := [(3, 0xFFFFFFFF)], grid := 7 }
    let s : State := { demo t with hub := { grids := [(7, { asid := 1, total := 2 })] } }
    Guarded s 0 t 0 ∧
    okAnd ((release (s.whoIs 0 t) 0).run (s.withTeam 0 (t.past .strand 4))) (fun _ s2 => (s2.cur == s.cur) &&
      ((s2.cell 0).act == some (t.past .strand 4)) && ((s2.grid 7).map (·.placed) == some [])) = true ∧
    (∀ w ∈ t.waiters, w.1 ≠ 3) ∧ 2 ≤ (t.sem 3).toNat ∧ (t.sem 4).toNat < 2 ∧ s.grid t.grid = some { asid := 1, total := 2 } ∧
    2 ^ 32 ≤ (t.sem 3).toNat + 2 := by
  refine ⟨⟨⟨rfl, rfl⟩, ?_⟩, ?_⟩ <;> decide +kernel

/-- The strand issues in privileged mode, with a control-register number of R458 and its boundary values as data. -/
theorem test_hyp_control : let t : Team := { demoTeam 0x8000000000000400 0 with priv := true }
    let x : S32 := { md := 4, rs2 := 11, rs1 := 1, rd := 0, pg := 0 }
    Guarded (demo t) 0 t x.pg ∧ t.epilogue = none ∧ t.priv = true ∧ x.md.toNat * 32 + x.rs2.toNat = 0x8B ∧
      (t.sreg x.rs1.toNat).getLsbD 63 = true ∧ (demoTeam 0 0).priv = false := by
  refine ⟨⟨⟨rfl, rfl⟩, ?_⟩, ?_⟩ <;> decide +kernel

/-- Two teams of a cell, the inactive one of higher class, and a switch as old as `ns` says. -/
def demoTwo (t u : Team) (sw : Option Switch) (ns : Nat) : State :=
  { demo t with cells := [(0, { a := some t, b := some u, sw := sw })], now := ns, cur := .stream 0 .strand,
                hub := { grids := [(7, { asid := 1, cls := 5 })] } }

/-- A switch that starts, one whose 336 cycles are over, one cycle less, and a drained one (R107, R108). -/
theorem test_hyp_switch : let t := demoTeam 0 0
    let v := t.setEng .vector { st := .run }
    let u : Team := { demoTeam 0 0 with grid := 7 }
    (Guarded (demoTwo t u none 0) 0 t 0 ∧ (((demoTwo t u none 0).cell 0).team true).isSome ∧ t.batch = false ∧ t.vrstidx = 0 ∧ t.vpos = 0) ∧
    (((demoTwo t u none 0).cell 0).sw = none ∧ (demoTwo t u none 0).cellUp 0 = true ∧ u.pre = none ∧ u.ended = false ∧
      u.halted = false ∧ u.wakes = true ∧ (demoTwo t u none 0).teamClass t < (demoTwo t u none 0).teamClass u) ∧
    ((demoTwo v u (some {}) 480).drainedCell 0 = false ∧ 336 ≤ cyclesOf 480 - cyclesOf 0 ∧ cyclesOf 479 - cyclesOf 0 < 336) ∧
    (demoTwo t u (some {}) 0).drainedCell 0 = true := by
  refine ⟨⟨⟨⟨rfl, rfl⟩, ?_⟩, ?_⟩, ?_⟩ <;> decide +kernel

/-- A team that traps to a handler, one in privileged mode, one without a handler. -/
theorem test_hyp_exception : let t := demoTeam 0 0
    let s := demo t
    ((s.cell 0).act = some t ∧ t.priv = false ∧ t.epilogue = none ∧ (s.ctx 1).regs.tvec.getLsbD 63 = true) ∧
    (∀ e, (t.eng e).held = false) ∧ (t.midVamo = false ∧ s.answersDue t none = false ∧ s.answersDue t (some .strand) = false) ∧
    (s.boot.on = false ∧ (s.keyMapOf 0).clr = false) ∧ ({ t with priv := true } : Team).priv = true ∧
    (s.ctx 2).regs.tvec.getLsbD 63 = false ∧
    ((s.ctx 1).regs.fqv = true ∧ (s.ctx 1).fqtail - (s.ctx 1).fqhead ≠ BitVec.ofNat 32 (2 ^ ((s.ctx 1).regs.fqlogd.toNat + 4)) ∧
      (s.ctx 1).regs.fqlogd.toNat ≤ 12) ∧
    (let full : Ctx := { regs := demoRegs, fqtail := 16 }
     (full.fqtail - full.fqhead).toNat = 2 ^ (full.regs.fqlogd.toNat + 4)) ∧
    (∃ q ∈ ([{ st := .running }] : List Card), q.st = .running ∨ q.st = .performed) := by
  refine ⟨?_, ?_, ?_, ?_, ?_⟩
  · decide +kernel
  · intro e; cases e <;> decide +kernel
  · decide +kernel
  · decide +kernel
  · exact ⟨by decide +kernel, by decide +kernel, by decide +kernel, by decide +kernel, ⟨_, List.mem_singleton.mpr rfl, Or.inl rfl⟩⟩

/-- ERET in privileged mode with a held vector stream, and an asynchronous cause that waits. -/
theorem test_hyp_return : let t : Team := { demoTeam 0 0 with priv := true, vec := { st := .run, held := true } }
    let u : Team := { demoTeam 0 0 with apend := [{ cause := .semOverflow }] }
    Guarded (demo t) 0 t 0 ∧ t.priv = true ∧ (t.eng .vector).held = true ∧
    (u.apend = [{ cause := .semOverflow }] ∧ u.apend.length < 8 ∧ (demo u).strandRuns 0 u = true ∧ u.priv = false ∧
      u.midVamo = false ∧ (demo u).answersDue u none = false ∧ ({ cause := .semOverflow } : FRec).strm < 4) := by
  refine ⟨⟨⟨rfl, rfl⟩, ?_⟩, ?_⟩ <;> decide +kernel

/-- An AMO of 8 bytes at the last aligned place of the vault, one of local memory, and one that is not aligned. -/
theorem test_hyp_atomics : let t := demoTeam 0xFFF8 0
    let x : S32 := { md := 3, rs2 := 1, rs1 := 1, rd := 2, pg := 0 }
    Guarded (demo t) 0 t x.pg ∧ 2 ≤ x.md.toNat % 4 ∧ (t.sreg x.rs1.toNat).toNat % 8 = 0 ∧ (0xFFF9 % 8 ≠ 0) ∧
    ((0b00111 : BitVec 5).extractLsb' 3 2).toNat = 0 ∧ ((0b11101 : BitVec 5).extractLsb' 3 2).toNat = 3 := by
  refine ⟨⟨⟨rfl, rfl⟩, ?_⟩, ?_⟩ <;> decide +kernel

/-- FENCE with nothing to wait for, one that waits for a vector result, and one of a team with a waiting card. -/
theorem test_hyp_fence : let t := demoTeam 0 0
    let s := demo t
    (∀ st : Stream, Issues { s with cur := .stream 0 st } 0 st t) ∧ (s.cell 0).sh.duePoison = none ∧ (s.cell 0).sh.landings = [] ∧
    (s.cell 0).sh.array = [] ∧ Tab.find t.fences 0 = none ∧
    (∀ st ∈ [Stream.strand, .vector, .matrix, .copy],
      okAnd ((markFence st).run ({ s with cur := .stream 0 st }.withTeam 0 (t.past st 4))) (fun f s1 => (f.cards == []) &&
        (s1.cell 0).sh.landings.isEmpty && okAnd ((release (s.whoIs 0 t st) 5).run (s1.drainPosted fun p => p.src == 0)) fun _ s2 =>
          ((s2.cell 0).act).isSome && s2.packets.isEmpty && okAnd ((endFence st).run s2) fun _ _ => true) = true) ∧
    (let u : Team := { t with cards := [{ seq := 3 }] }
     let l : State := { demo u with cells := [(0, { a := some u, sh := { landings := [{ rem := 5 }] } })] }
     Issues l 0 .strand u ∧ (l.cell 0).sh.landings ≠ [] ∧ (l.cell 0).sh.duePoison = none) := by
  refine ⟨fun st => ⟨rfl, rfl⟩, ?_, ?_, ?_, ?_, ?_, ⟨rfl, rfl⟩, ?_⟩ <;> decide +kernel

/-- A barrier through handle 4: unposted in phase 0, then posted, and one whose phase is over. -/
theorem test_hyp_barrier : let t := demoTeam 0 0
    let s := demo t
    let w := s.whoIs 0 t
    Guarded s 0 t 0 ∧
    okAnd ((barDest w 4 0).run (s.withTeam 0 (t.past .strand 8))) (fun p s1 =>
      okAnd ((barRead w p.1 p.2).run s1) fun b s2 => !b.posted && (b.phase == 0) && (s2.cur == s.cur) &&
        ((s2.cell 0).act == some (t.past .strand 8)) &&
        okAnd ((barWrite w p.2 { b with exp := 1, posted := true }).run s2) (fun _ s3 => s3.cur == s.cur) &&
        okAnd ((release w 3).run s1) (fun _ sr => okAnd ((barRead w p.1 p.2).run sr) fun _ _ => true)) = true ∧
    (1 ≤ (0x8000 - 1 : BitVec 16).toNat ∧ (0x8000 - 1 : BitVec 16).toNat ≤ 32767) ∧ ¬ (0x8001 - 1 : BitVec 16).toNat ≤ 32767 ∧
    (∀ k ∈ t.waiters, k.1 ≠ 257) ∧ t.barWait = none ∧
    okAnd ((barDest w 4 0).run (s.withTeam 0 (t.past .strand 8))) (fun p _ => match p.2 with | .loc _ _ => true | _ => false) = true ∧
    (let z : BarWait := { pa := 0x50000000, phase := 0 }
     let u : Team := { t with barWait := some z }
     Guarded (demo u) 0 u 0 ∧ ((demo u).cell 0).team false = some u ∧ ({ phase := 1 } : Bar).passed z.phase = true ∧ z.told = false ∧
       ((demo u).cell 0).sh.landings = []) := by
  refine ⟨⟨⟨rfl, rfl⟩, ?_⟩, ?_, ?_, ?_, ?_, ?_, ?_, ⟨⟨rfl, rfl⟩, ?_⟩, ?_⟩ <;> decide +kernel

/-- BAR.ARR in the copy stream: a block at offset 0 that names handle 4, one past the allotment, one not aligned. -/
theorem test_hyp_arrive : let t : Team := { (demoTeam 0 0).setEng .copy { st := .run } with
      vault := Memory.wrBytes [] 0 (leBytes 8 (4 * 2 ^ 52) ++ leBytes 8 1) }
    let s : State := { demo t with cur := .stream 0 .copy }
    Issues s 0 .copy t ∧ (t.eng .copy).nest = none ∧ 0 % 16 = 0 ∧ 0 + 16 ≤ t.valloc * 65536 ∧ t.valloc * 65536 < 0xFFF8 + 16 ∧
    t.vaultRd 0 16 = some (leBytes 8 (4 * 2 ^ 52) ++ leBytes 8 1) ∧
    okAnd ((doArrive (s.whoIs 0 t) 4 0 0 0 1).run (s.withTeam 0 (t.past .copy 8))) (fun _ _ => true) = true := by
  refine ⟨⟨rfl, rfl⟩, ?_⟩; decide +kernel

/-- COLL.REG of name 9 with a buffer of 128 bytes behind handle 4 (R410). -/
def demoCollBlock : List Word := [9 * 2 ^ 32, 4 * 2 ^ 52, 128, 0, 0, 0, 0, 0]
/-- COLL.AR of 2 devices with 16 elements of 4 bytes; the group list lies at 0x100 of handle 0, the barrier at 0x100 of handle 4. -/
def demoArBlock : List Word := [9 * 2 ^ 32, 0x100, 4 * 2 ^ 52 + 0x100, 0, 16 * 2 ^ 32 + 2, 0, 0, 0]
def demoColl (b : List Word) (colls : Tab CollReg) : State :=
  let s := withLocal (withLocal (demo (demoTeam 0 0)) (wordsBytes b))  []
  { s with mem := { s.mem with phys := s.mem.phys.wrBytes 0x40000100 (leBytes 4 (5 * 2 ^ 22) ++ leBytes 4 (6 * 2 ^ 22)) },
           fab := { devno := 5 }, ctxs := [(1, { regs := demoRegs, pend := demoRegs, colls := colls })] }

/-- A block that COLL.REG accepts and one that is not well formed; COLL.FREE of a registered name (R410, R415). -/
theorem test_hyp_coll_reg : let s := demoColl demoCollBlock [(4, {})]
    let t := demoTeam 0 0
    let w := s.whoIs 0 t
    Guarded s 0 t 0 ∧
    okAnd ((collBlock zS64 64).run (s.withTeam 0 (t.past .strand 8))) (fun b s2 =>
      (b == demoCollBlock) && (s2.cur == s.cur) && ((s2.cell 0).act == some (t.past .strand 8)) && ((s2.cell 0).active == false) &&
      (s2.collReg 1 9 == none) && (s2.collReg 1 4).isSome && (s2.collRun 1 4).isNone &&
      okAnd ((handleAt 1 4 0 128 true).run s2) (fun p s3 => (p.1 == 2 ^ 53) && (s3 == s2)) &&
      okAnd (((parts (2 ^ 53) 128).forM fun p => collMember w p.1).run s2) fun _ _ => true) = true ∧
    s.hasSkidway = true ∧ ({ s with caps := 0 } : State).hasSkidway = false := by
  refine ⟨⟨⟨rfl, rfl⟩, ?_⟩, ?_⟩ <;> decide +kernel

/-- A block that passes R412, with a reduction context free and with none (COLLALLOT 0). -/
theorem test_hyp_coll_start : let s := demoColl demoArBlock [(9, { buf := 2 * 2 ^ 52, size := 128 })]
    let t := demoTeam 0 0
    okAnd ((collBlock zS64 64).run (s.withTeam 0 (t.past .strand 8))) (fun b s2 => (b == demoArBlock) &&
      okAnd ((collChecks (s.whoIs 0 t) b).run s2) fun p s3 => (p.2.1 == [5 * 2 ^ 22, 6 * 2 ^ 22]) && (s3.cur == s.cur) &&
        ((s3.cell 0).act == some (t.past .strand 8)) && decide (¬ ((s3.regsOf 1).collallot.toNat ≤ 0 ∨ 16 ≤ s3.fab.colls.length)) &&
        okAnd ((loadFlat (s.whoIs 0 t) (2 * 2 ^ 52) 128).run s3) fun bs s4 => (bs.length == 128) && (s4.cur == s.cur) &&
          ((s4.cell 0).act == some (t.past .strand 8))) = true ∧
    ((s.regsOf 2).collallot.toNat ≤ 0) := by decide +kernel

/-- Leases: a request to a neighbour, one turned away for a count of 257, a live lease of the context (R417, R436). -/
theorem test_hyp_leases : let t := demoTeam 6 256
    let s : State := { demo t with fab := { fv := true, nbrs := [(0, { v := true, peer := 6 })],
                                            leases := [(3, { asid := 1, peer := 7, st := .active, granted := 511 })] } }
    Guarded s 0 t 0 ∧ s.hasFabric = true ∧ ({ s with caps := 0 } : State).hasFabric = false ∧
    ¬ (s.entryOf 6 = none ∨ (256 : Nat) = 0 ∨ 256 < (t.sreg 2).toNat ∨ 256 ≤ (s.fab.leases.filter fun p => p.2.live).length ∨
      ∃ p ∈ s.fab.leases, p.2.asid = 1 ∧ p.2.peer = 6 ∧ p.2.st ≠ .ended) ∧ 256 < 257 ∧
    ((s.lease 3).map fun l => (l.asid, decide (l.granted < 512))) = some (1, true) ∧ s.lease 4 = none := by
  refine ⟨⟨⟨rfl, rfl⟩, ?_⟩, ?_⟩ <;> decide +kernel

/-- What becomes of a lease: granted whole, refused, over when its time is (R435 to R437). -/
theorem test_hyp_lease_events : let x : Lease := { asid := 1, peer := 6, st := .pending, want := 2, all := true }
    let s : State := { demo (demoTeam 0 0) with fab := { fv := true, leases := [(3, x)] }, arg := { a := 3, b := 2 } }
    s.lease s.arg.a = some x ∧ 0 < s.arg.b ∧ s.arg.w = [] ∧ s.arg.b ≤ s.pool ∧ s.arg.b ≤ x.want ∧ s.arg.b = x.want ∧
    ({ x with st := .ended } : Lease).st ≠ .pending ∧ (x.want < 3) ∧
    (let nb : Nat → Nat × Nbr := fun i => (i, { v := true, peer := 7, base := 255 })
     let u : State := { s with fab := { s.fab with nbrs := [nb 0, nb 1, nb 2, nb 3, nb 4] }, arg := { a := 3, b := 2, w := [2] } }
     u.lease 3 = some x ∧ u.grantList x u.arg.w = some [(0, 2)] ∧ u.revokeList x u.arg.w = some [] ∧ min 2 u.pool + 2 = 2) ∧
    (let y : Lease := { asid := 2, peer := 7, st := .active, granted := 1024, taken := 1024 }
     let u : State := { s with now := 100000, fab := { s.fab with leases := [(3, x), (5, y)] },
                               arg := { a := 3, b := 2, w := [0x8000000500000002] } }
     u.lease 3 = some x ∧ u.grantList x u.arg.w = some [] ∧ u.revokeList x u.arg.w = some [(5, 2)] ∧ u.baseSpent x [] = true ∧
       min 2 u.pool + 0 + 2 = 2) ∧
    (∀ st ∈ [LeaseSt.retuning, .active, .notice, .ended], let y : Lease := { x with st := st, duration := 1, since := 0 }
      let u : State := { s with now := 100000, fab := { s.fab with leases := [(3, y)] } }
      u.lease u.arg.a = some y ∧ y.duration ≠ 0 ∧ y.since + 5000 ≤ u.now ∧ y.since + 10000 ≤ u.now ∧
        y.since + y.duration * 10000 ≤ u.now ∧ y.since + 100000 ≤ u.now) := by decide +kernel

/-- The microprogram of R500's example: NB.OPEN op0, NB.WR ba0, NB.END, and a run of one row in the stack of frame 0x5000. -/
def demoProg : List Nat := [0x18, 0x98, 0x118]
def demoRun : State :=
  let b : List Word := [0x100, 3 * 2 ^ 56 + 1 * 2 ^ 45 + 1, 4 * 2 ^ 52 + 0x10000, 0, 0, 0, 0, 0]
  let s := withLocal (demo (demoTeam 0 0)) (wordsBytes b)
  { s with mem := { s.mem with
      phys := s.mem.phys.wrBytes 0x40000100 (demoProg.flatMap fun w => leBytes 4 w),
      hcache := demoHandle 4 2 false 0 0x20000 :: s.mem.hcache,
      tlb := { asid := 1, base := 2 * 2 ^ 52 + 0x10000, logsz := 16, leaf := demoMsLeaf } :: s.mem.tlb } }

/-- A run block that passes R421, its microprogram, and its operand. -/
theorem test_hyp_bank_run : let s := demoRun
    let t := demoTeam 0 0
    let w := s.whoIs 0 t
    let s1 := s.withTeam 0 (t.past .strand 8)
    let fa := 0
    Guarded s 0 t 0 ∧ s.hasNearBank = true ∧
    okAnd ((handleAt 1 0 0 64 false).run s1) (fun p s2 => (p.1 == fa) && (s2 == s1)) = true ∧
    okAnd ((loadFlat w fa 64).run s1) (fun bs s2 =>
      let b := bytesWords 8 bs
      !rbBad b && (s2.cur == s.cur) && rbBad (List.replicate 8 0) &&
      okAnd ((load w 0 0x100 12).run s2) fun code s3 =>
        let prog := (byGroups 4 code).map fun q => BitVec.ofNat 32 (leNat q)
        nbAccepted prog (fun k => rbOp b k != 0) &&
        okAnd (((List.range 4).mapM fun k => bankOperand w b ((nbWritten prog).contains k) k).run s3) fun ops s4 =>
          (ops == [[some (0x5000, 0)], [], [], []]) && bankMembersOk ops && (s4.cur == s.cur) && ((s4.cell 0).act).isSome) = true := by
  refine ⟨⟨⟨rfl, rfl⟩, ?_⟩, ?_⟩ <;> decide +kernel

/-- A unit that runs, with an operand of one row, one that is suspended, one whose row is poisoned. -/
theorem test_hyp_near_bank : let u : NbUnit := { st := .run, ops := [[(0x5000, 0)]], run := some 4 }
    let s : State := { demo (demoTeam 0 0) with nb := [(0, u)], cur := .unit 0, runs := [(4, { left := [0] })] }
    s.cur = .unit 0 ∧ (s.unit 0).st = .run ∧ u.waiting = false ∧ (u.ops.getD 0 [])[u.ri]? = some (0x5000, 0) ∧
    (s.locRd (0x5000 * 65536) 4 0).isSome ∧
    ({ s with mem := { s.mem with bad := [(0x5000 * 1024, true)] } } : State).locRd (0x5000 * 65536) 4 0 = none ∧
    s.swapBlocks 0x5000 = false ∧
    (({ s with mem := { s.mem with swaps := [{ group := groupOf 0x5000, member := memberOf 0x5000 }] } } : State).swapBlocks 0x5000 = true) ∧
    s.boot.on = false ∧ Tab.find s.runs 4 = some { left := [0] } := by decide +kernel

/-- CODE.REG of 4 bytes and of 2^24 bytes, a request that the hub has done, a key that may be revoked, and one that may not. -/
theorem test_hyp_hub_requests : let t : Team := { demoTeam 4 63 with priv := true }
    let s := demo t
    let r : HubReq := { op := 1, a := 4, done := true, r0 := 7 }
    Guarded s 0 t 0 ∧ t.hubReq = none ∧ ((4 : Word).toNat % 4 = 0 ∧ HandleOk s 1 0 0 4 false (demoEntry 0)) ∧
    (t.sreg 2).toNat ≤ 63 ∧ 63 < (64 : Word).toNat ∧ (r.done = true ∧ r.bad = none ∧ r.a = t.sreg 1) ∧
    (s.boot.minimal = true → s.caps.getLsbD 4 = true) ∧ s.boot.start = .up ∧
    (∀ p ∈ classTable ([] : List Byte), p.2.bad = false) ∧ s.slotsOf 1 = [] ∧ Tab.find s.mem.keys 0 = none ∧
    (∀ p ∈ s.nb, p.2.busy = false) := by
  refine ⟨⟨⟨rfl, rfl⟩, ?_⟩, ?_⟩
  · decide +kernel
  · unfold HandleOk; decide +kernel

/-- A slot that is being revoked, with no line under it, and with one that a job of a team still presents. -/
theorem test_hyp_revoke : let t : Team := demoTeam 4 63
    let s : State := { demo t with mem := { (demo t).mem with keys := [(5, .revoking)] } }
    let u : State := s.modTeam (.here 0 false) fun t => { t with cards := [{ lines := [{ slot := 5 }] }] }
    Tab.find s.mem.keys 5 = some .revoking ∧ (∀ p ∈ s.teams, ∀ k ∈ p.2.cards, ∀ x ∈ k.lines, x.slot ≠ 5) ∧
    (∃ p ∈ u.teams, ∃ k ∈ p.2.cards, ∃ x ∈ k.lines, x.slot = 5) := by decide +kernel

/-- SCRUB of 64 bytes at a multiple of 64; TLB.INV with no posted store. -/
theorem test_hyp_scrub : let t : Team := { demoTeam 64 0 with priv := true, regs := [(1, 64), (3, 64)] }
    let s := demo t
    Guarded s 0 t 0 ∧ (t.sreg 3 ≠ 0 ∧ (t.sreg 3).toNat % 64 = 0 ∧ (t.sreg 1).toNat % 64 = 0) ∧ (63 % 64 ≠ 0) ∧ t.sreg 4 = 0 ∧
    okAnd ((store (s.whoIs 0 t) 0 64 true (List.replicate 64 0)).run (s.withTeam 0 (t.past .strand 4))) (fun _ s2 =>
      (s2.cur == s.cur) && ((s2.cell 0).act == some (t.past .strand 4))) = true ∧ s.mem.posted = [] ∧
    (∀ q ∈ s.teams, ∀ k ∈ q.2.cards, k.lines = []) ∧ (∀ q ∈ s.packets, q.2.done = true) ∧
    ((({ s with fab := { s.fab with peers := [(7, { unacked := [{ asid := 1, op := .write 0 [1] }] })] } } : State).packets.any fun q =>
      q.2.asid == 1 && !q.2.done && q.2.op == .write 0 [1]) = true) := by
  refine ⟨⟨⟨rfl, rfl⟩, ?_⟩, ?_⟩ <;> decide +kernel

/-- CTX.SAVE with no product in the array: the stores and the release are done; an offset that is no multiple of 64. -/
theorem test_hyp_ctx_save : let t : Team := { demoTeam 0 0 with priv := true }
    let s := demo t
    let sh := (s.cell 0).sh
    Guarded s 0 t 0 ∧ sh.array = [] ∧ (0 : Nat) % 64 = 0 ∧ 0xFFC1 % 64 ≠ 0 ∧ (t.past .strand 4).popsStand = true ∧
    ({ t with cards := [{ st := .running, op := jCPG, md := 2, cur := some 0 }] } : Team).popsStand = false ∧
    (let t' := t.past .strand 4
     ((s.withTeam 0 t').images t'.returned.1 (if t'.returned.2 then { sh with landings := [] } else sh) false).2.parts.length = 1) := by
  refine ⟨⟨⟨rfl, rfl⟩, ?_⟩, ?_⟩ <;> decide +kernel

/-- CTX.LOAD reads 49,152 bytes; those of memory that nothing has written are no image. -/
theorem test_hyp_ctx_load : let t : Team := { demoTeam 0 0 with priv := true }
    let s := withLocal (demo t) (leBytes 8 (4 * 2 ^ 56 + 2 ^ 52))
    t.anyStarted = false ∧ ({ t with cards := [{ st := .running }] } : Team).anyStarted = true ∧
    okAnd ((load (s.whoIs 0 t) 0 0 49152).run (s.withTeam 0 (t.past .strand 4))) (fun bs s1 => (s1.cur == s.cur) &&
      imageOk bs s1.silicon 0 && !imageOk bs s1.silicon 1 && !imageFlight bs && !imageBank bs false && !imageBank bs true) = true := by
  decide +kernel

/-- The vector stream issues with a mask, with a pair of registers, with a trap due; inside the allotment and just outside. -/
theorem test_hyp_vector_memory : let t := (demoTeam 0 0).setEng .vector { st := .run }
    let s : State := { demo t with cur := .stream 0 .vector }
    EngineIssues s 0 .vector t ∧ t.valloc * 65536 = 0xFE00 + 512 ∧ 0xFE00 % 64 = 0 ∧ t.valloc * 65536 < 0xFE40 + 512 ∧
    0xFD20 % 64 ≠ 0 ∧ (∀ j, 0xFE00 / 8 ≤ j → j * 8 < 0xFE00 + 512 → t.vpoison.mem j = false) ∧
    (t.past .vector 12).pcOf .vector = t.pcOf .vector + 12 := by
  refine ⟨⟨⟨rfl, rfl⟩, fun _ => rfl⟩, ?_, ?_, ?_, ?_, ?_, ?_⟩
  · decide +kernel
  · decide +kernel
  · decide +kernel
  · decide +kernel
  · intro j _ _; rfl
  · decide +kernel

/-- Pending results that land now and later; types of 8, 16, 32 and 64 bits. -/
theorem test_hyp_landings : (∀ l ∈ ([{ rem := 1 }, { rem := 20 }] : List Landing), l.poison = none ∧ 1 ≤ l.rem) ∧
    tyInt 0 = true ∧ tyInt 7 = true ∧ tyWidth 0 = 8 ∧ tyWidth 7 = 64 ∧ ty64 7 = true ∧ tyWidth 1 = 16 ∧ tyWidth 2 = 32 := by
  decide +kernel

/-- VDEFER into a queue of 32-byte entries that has room for exactly the active lanes, and for one fewer; VDRAIN of 128. -/
theorem test_hyp_defer : let q : Nat → QWord := fun n => { v := true, esz := 3, logd := 8, tail := BitVec.ofNat 32 n }
    let t : Nat → Team := fun n => { (demoTeam 0 0).setEng .vector { st := .run } with qws := [(2, q n)] }
    ((t 128).vaultRd (((t 128).qw 2).place 0) 32).isSome ∧
    ({ t 128 with vpoison := [(0, true)] } : Team).vaultRd (((t 128).qw 2).place 0) 32 = none ∧
    ((t 128).qw 2).v = true ∧ ((t 128).qw 2).esz = 3 ∧ (t 0).batch = false ∧ 128 ≤ (q 128).depth - (q 128).count ∧
    (q 129).depth - (q 129).count < 128 ∧ 128 ≤ (q 128).count ∧ (q 127).count < 128 ∧ (t 0).vec.nest = none := by
  decide +kernel

/-- VAMO of the last lane through a descriptor that names handle 0; one that has come to lane 5. -/
theorem test_hyp_vamo : let t : Team := { (demoTeam 0 0).setEng .vector { st := .run } with vrstidx := 127 }
    let s : State := { demo t with cur := .stream 0 .vector }
    EngineIssues s 0 .vector t ∧ (s.cell 0).sh.landings = [] ∧ t.vrstidx.toNat < 128 ∧
    (if ({ t with vpos := 5 } : Team).vpos = 0 then 0 else 5) < 128 ∧
    okAnd ((readModifyWrite (s.whoIs 0 t .vector) 0 0 4 127 0 false 1 0).run (s.withTeam 0 (t.past .vector 8))) (fun _ s2 =>
      (s2.cur == s.cur) && ((s2.cell 0).act == some (t.past .vector 8)) && ((s2.cell 0).sh == (s.cell 0).sh)) = true := by
  refine ⟨⟨⟨rfl, rfl⟩, fun _ => rfl⟩, ?_⟩; decide +kernel

/-- A tile slot of 128 rows of 128 bytes at offset `k` (R278), and an MMA of the least and the greatest shape over two of them. -/
def demoTile (k : Nat) : Tile :=
  { full := true, valid := true, base := BitVec.ofNat 23 k, pitch := 128, rows := 128, prec := 0x00100000 }
def demoMat : Team := { (demoTeam 0 0).setEng .matrix { st := .run } with tiles := [(1, demoTile 0), (2, demoTile 0x8000)] }
def demoMma (m : BitVec 2) (nn : BitVec 6) : M64 :=
  { ta := 1, tb := 2, ab := 0, m := m, nn := nn, f := 0, l := 0, lv := 0, tc := 0, sub := 0, nra := 0, aga := 0, nrb := 0, agb := 0,
    sreg := 0, rsv := 0 }

theorem test_hyp_products : let s : State := { demo demoMat with cur := .stream 0 .matrix }
    EngineIssues s 0 .matrix demoMat ∧
    (∀ x ∈ [demoMma 0 1, demoMma 2 8], okAnd ((productChecks x { kind := 0, pa := 0x00100000, pb := 0x00100000 }).run
      (s.withTeam 0 (demoMat.past .matrix 8))) (fun _ s2 => s2 == s.withTeam 0 (demoMat.past .matrix 8)) = true) ∧
    (demoMat.tile 1).full = true ∧ (s.cell 0).sh.full false = false ∧ (s.cell 0).sh.array.length < 3 ∧
    0 < 32 ∧ 128 * ((128 + 127) / 128) ≤ 128 ∧ 32 * ((512 + 127) / 128) ≤ 128 := by
  refine ⟨⟨⟨rfl, rfl⟩, fun h => by cases h⟩, ?_⟩; decide +kernel

/-- MCVT into an empty slot, MOWN, and MSCAT of a table whose rows are all skipped. -/
theorem test_hyp_convert : let t : Team := { (demoTeam 0 0).setEng .matrix { st := .run } with
      tiles := [(0, { demoTile 0 with full := false, pitch := 512 })] }
    let s : State := { demo t with cur := .stream 0 .matrix }
    EngineIssues s 0 .matrix t ∧ t.epilogue = none ∧ (s.cell 0).sh.full false = false ∧ (∀ p ∈ (s.cell 0).sh.array, p.bank ≠ false) ∧
    okAnd ((mcvtChecks (demoMma 0 8) 0).run (s.withTeam 0 (t.past .matrix 8))) (fun _ s2 => s2 == s.withTeam 0 (t.past .matrix 8)) = true ∧
    4 * (16 * 8) ≤ (t.tile 0).pitch.toNat ∧ (t.tile 0).full = false ∧ (t.tile 0).base.toNat + 1024 ≤ t.valloc * 65536 ∧
    okAnd ((mscatChecks (demoMma 0 8)).run (s.withTeam 0 (t.past .matrix 8))) (fun _ _ => true) = true ∧
    (t.vaultRd (t.tile 0).base.toNat (8 * 32)).isSome := by
  refine ⟨⟨⟨rfl, rfl⟩, fun h => by cases h⟩, ?_⟩; decide +kernel

/-- A CP block: one row of 64 bytes from 0x1000 of handle 0 to 0x2000 of it (R347, R355). -/
def demoCp : List Word := [0x1000, 0x2000, BitVec.ofNat 64 (2 ^ 32 + 64), 0, 0, 0, 0, 0]

/-- The team of the small states with a block at offset 0 of its allotment, and one whose cards are all taken. -/
def demoJob (b : List Word) : Team := (demoTeam 0 0).vaultWr 0 (wordsBytes b)

theorem test_hyp_job_instructions : let t := demoJob demoCp
    Issues (demo t) 0 .strand t ∧ Issues { demo t with cur := .stream 0 .copy } 0 .copy t ∧ t.cards.length < 64 ∧
    t.vaultRd 0 64 = some (wordsBytes demoCp) ∧ (0 : Nat) + 64 ≤ t.valloc * 65536 ∧ Machine.jobBad 0 0 0 demoCp t = false ∧
    Machine.jobBad 0x0D 0 0 demoCp t = false ∧
    Machine.jobBad 0 0 0 (List.replicate 8 0) t = true ∧ t.valloc * 65536 < 65536 + 64 ∧ t.epilogue = none ∧ 32 % 64 ≠ 0 ∧
    64 ≤ ({ t with cards := List.replicate 64 {} } : Team).cards.length ∧ (demo t).hasFabric = true ∧
    ({ demo t with caps := 0 } : State).hasFabric = false := by
  refine ⟨⟨rfl, rfl⟩, ⟨rfl, rfl⟩, ?_⟩; decide +kernel

/-- One CP card, waiting, running or performed, whose footprint the block implies. -/
def demoCard (st : CardSt) : Card :=
  { seq := 3, block := demoCp, st := st, checked := true,
    foot := { reads := [{ lo := 0x1000, len := 64 }], writes := [{ lo := 0x2000, len := 64 }] } }
def demoCards (ks : List Card) : State := { demo { demoTeam 0 0 with cards := ks } with arg := { a := 0, b := 0, c := 3 } }

theorem test_hyp_jobs_run : let k := demoCard .running
    let s := demoCards [k]
    let t := { demoTeam 0 0 with cards := [k] }
    let w : Who := { asid := 1 }
    (s.arg.b = false.toNat ∧ (s.cell s.arg.a).team false = some t ∧ t.card s.arg.c = some k ∧ s.cellUp s.arg.a = true) ∧
    (t.ended = false ∧ t.halted = false ∧ t.pre = none) ∧
    (s.cardAt (.here 0 false) 3 = some k) ∧
    okAnd ((unitOf (s.cardWho (.here 0 false) k) (.here 0 false) k).run s) (fun k' s2 => (k'.st == .performed) && (s2.cells == s.cells)) ∧
    okAnd ((spanAt 1 0 0x1000 0 64 1 false).run s) (fun p s2 => (p.1 == 0x1000) && (s2 == s)) ∧
    okAnd ((spanAt 1 0 0x2000 0 64 1 true).run s) (fun p s2 => (p.1 == 0x2000) && (s2 == s)) ∧
    ({ lo := 0x1000, len := 64 } : Region).overlaps { lo := 0x2000, len := 64 } = false ∧
    ({ lo := 0, len := 8, n := 4, stride := 16 } : Region).overlaps { lo := 23, len := 2 } = true ∧
    okAnd ((destOf w 0x1000 64 false none).run s) (fun sd s1 => okAnd ((destOf w 0x2000 64 true none).run s1) fun dd s2 =>
      okAnd ((readDest w 0x1000 sd 64).run s2) fun bs s3 => okAnd ((writeDest w dd 0 false bs).run s3) fun _ _ => true) ∧
    (demoCard .performed).status = .ok ∧ jEv demoCp = false ∧ (demoCard .performed).ssem = none ∧
    (let x : Card := { k with sentAll := true }
     let p : Packet := { asid := 1, key := (s.cardWho (.here 0 false) x).key, op := .write 0 [1] }
     let d : State := { demoCards [x] with fab := { peers := [(7, { unacked := [p] })] } }
     (demoCards [x]).cardDue ((demoCards [x]).cardWho (.here 0 false) x) = false ∧ d.cardAt (.here 0 false) 3 = some x ∧
       d.cardDue (d.cardWho (.here 0 false) x) = true ∧ (d.ctx 1).quiesced = false) ∧
    ((match (unitOf (s.cardWho (.here 0 false) k) (.here 0 false) { k with block := [15 * 2 ^ 52 + 0x1000, 0x2000, BitVec.ofNat 64 (2 ^ 32 + 64)] }).run s with
      | .error (.trap _ _) _ => true
      | _ => false) = true) ∧
    okAnd ((release (s.cardWho (.here 0 false) k) 3).run (demoCards [demoCard .performed])) (fun _ s2 => ((s2.cell 0).team false).isSome) ∧
    (∀ y ∈ (demoCards [demoCard .waiting]).cellCards 0, ¬ y.2.order < (demoCard .waiting).order) ∧
    ({ demoCard .waiting with wsem := some 4 } : Card).took = false := by decide +kernel

/-- A valid queue word of four elements of eight bytes at the start of the vault: empty, in use, full (R365, R366). -/
def demoQ (head tail : BitVec 32) : QWord := { v := true, esz := 1, logd := 2, base := 0, head := head, tail := tail }

theorem test_hyp_vault_queues : let t : Nat → Team := fun k => { demoTeam 0 0 with qws := [(0, demoQ 0 (BitVec.ofNat 32 k))] }
    Issues (demo (t 1)) 0 .strand (t 1) ∧ Issues { demo (t 1) with cur := .stream 0 .copy } 0 .copy (t 1) ∧
    ((t 1).qw 0).v = true ∧ ((t 1).qw 1).v = false ∧ (∀ k ∈ (t 1).cards, jQ k.op k.md = true → k.qw = 0 → k.st = .recording) ∧
    (((t 1).qw 0).tail - ((t 1).qw 0).head).toNat < 2 ^ ((t 1).qw 0).logd.toNat ∧
    2 ^ ((t 4).qw 0).logd.toNat ≤ (((t 4).qw 0).tail - ((t 4).qw 0).head).toNat ∧
    (((t 0).qw 0).tail - ((t 0).qw 0).head).toNat = 0 ∧
    ((t 1).vaultRd 0 8).isSome ∧ ((t 1).vaultRd 0 16).isSome ∧ (0 : Nat) + 16 ≤ (t 1).valloc * 65536 ∧
    qwordOf 0x9000000200000000 0 1 = some (demoQ 0 0) ∧ qwordOf 0x9000000200000000 5 1 = none := by
  refine ⟨⟨rfl, rfl⟩, ⟨rfl, rfl⟩, ?_⟩; decide +kernel

theorem test_hyp_tiles : let t := (demoTeam 0 0).vaultWr 0 (wordsBytes [0x1000, 64, 0, 0, 0, 0, 0, 0])
    (∀ st : Stream, Issues { demo t with cur := .stream 0 st } 0 st t) ∧
    (let s := demo t
     (s.cell 0).sh.landings = [] ∧ (s.cell 0).sh.array = [] ∧ (s.cell 0).sh.duePoison = none ∧
     (∀ k ∈ t.cards, k.stream = .copy → k.st = .recording) ∧
     (0x4000000000000040 : Word).extractLsb' 55 7 = 0 ∧ (0x4000000000000040 : Word).extractLsb' 0 6 = 0 ∧
     (1 : Word).extractLsb' 0 6 ≠ 0 ∧ t.vaultRd 0 64 = some (wordsBytes [0x1000, 64, 0, 0, 0, 0, 0, 0]) ∧
     ((0x1000 : Word).extractLsb' 48 4 = 0 ∧ (64 : Word).extractLsb' 48 16 = 0 ∧ (64 : Word).extractLsb' 0 6 = 0 ∧ (65 : Word).extractLsb' 0 6 ≠ 0)) ∧
    HandleOk (demo t) 1 0 0x1000 64 false (demoEntry 0) := by
  refine ⟨fun st => ⟨rfl, rfl⟩, ?_, ?_⟩
  · decide +kernel
  · unfold HandleOk; decide +kernel

/-- A state with queue 0 of function 0 for context 1: 64 entries at host address 64, of which `n` are in use; the head entry is
a launch whose record stands at offset 0 of handle 0 (R81, R83). -/
def demoQueue (n : Nat) (en : Bool) : State :=
  let s := demoLaunch demoRecord
  { s with
    now := 5000000
    ctxs := [(1, { regs := demoRegs, pend := demoRegs, weight := 1 })]
    hub := { s.hub with queues := [(0, { qbase := 1, en := en, asid := 1, tail := BitVec.ofNat 32 n, since := some 0 })],
                        slices := [(0, 0x80000000), (3, 0x80800010)],
                        allot := [(5, (1, 1))] }
    mem := { s.mem with host := Memory.wrBytes [] 64 (wordsBytes (List.replicate 8 0)) } }

/-- A doorbell within the ring and one that overruns it; a queue that may be enabled; one whose head item has aged. -/
theorem test_hyp_submission : let s := { demoQueue 1 true with arg := { a := 0, b := 0, c := 5 } }
    let q := s.queue 0
    (0 : Nat) ≤ 64 ∧ (0 : Nat) < 32 ∧ s.boot.start = .up ∧ (q.en = true ∧ q.places < (BitVec.ofNat 32 65 - q.head).toNat) ∧
    ¬ q.places < (BitVec.ofNat 32 64 - q.head).toNat ∧
    (((demoQueue 1 false).queue 0).en = false ∧ q.size.toNat ≤ 10 ∧ q.asid ≠ 0) ∧ q.en = true ∧
    (q.since = some 0 ∧ s.entryReady 0 = true ∧ q.cls.toNat + q.rise < 7 ∧
      0 + (q.rise + 1) * (if q.age = 0 then 1000000 else q.age.toNat * 10000) ≤ s.now) ∧
    (Sparse.get 0 ({ s with hub := { s.hub with acctPend := [(1, 12)] } } : State).hub.acctPend 1 ≠ 0) ∧
    (let z := s.acctAddr 1 + 16
     s.boot.on = false ∧ z % 2 ^ 52 + 8 ≤ frames * 65536 ∧
       ∀ l ∈ linesOf (z % 2 ^ 52) 8, s.mem.bad.mem l = false ∧ (s.keyMapOf (l / 1024)).clr = false) ∧
    (let z : Child := { asid := 1, spilled := true }
     let u : State := { s with hub := { s.hub with pool := [z] }, arg := { a := 1 } }
     (u.hub.pool.find? fun y => y.asid == u.arg.a && y.spilled) = some z ∧ u.poolUsed z.die < 3840) := by decide +kernel

/-- The head entry is accepted, its record is read whole and passes R19; an entry of kind 3 is none; slices follow each other. -/
theorem test_hyp_arbitration : let s := demoQueue 1 true
    (s.boot.start = .up ∧ s.boot.ready = true) ∧
    (s.pickFor 0).2.isSome = true ∧ (s.pickFor 1).2 = none ∧ (s.pick 1).isSome = true ∧
    (s.entryBad 1 (s.headEntry 0) = false ∧ qeKind (s.headEntry 0) = 0 ∧ s.entryBad 1 (3 * 2 ^ 60 :: List.replicate 7 0) = true) ∧
    okAnd ((hubRead 1 0 0 128 128).run s) (fun p s1 => (bytesWords 16 p.1 == demoRecord) && p.2 && (s1.cells == s.cells) &&
      (s1.checkLaunch 1 0 demoRecord p.2 true == none)) ∧
    (s.slicesFrom ((s.hub.sliceIdx + 1) % 64) = [3, 0]) ∧ slValid (s.sliceEntry 0) = true ∧ slPreempt (s.sliceEntry 0) = false ∧
    (s.hub.sliceStart + 1000 * slLen (s.sliceEntry 0) ≤ s.now) ∧ (({ s with now := 5 } : State).now < 0 + 1000 * slLen (s.sliceEntry 0)) := by
  decide +kernel

/-- Rings: one that is disabled, one with an entry waiting, one that is full, one whose interrupt is due and one whose is not. -/
theorem test_hyp_rings : let p : PendRec := { cr := List.replicate 8 1 }
    let r : Ring := { rbase := 2, en := true, wait := [p], ie := true, ipend := 1 }
    let s : Ring → State := fun r => { demo (demoTeam 0 0) with hub := { rings := [(256 * 3 + 7, r)] }, arg := { a := 3, b := 7 } }
    ((s r).arg.a ≤ 64 ∧ (s r).arg.b < 256 ∧ (s r).boot.start = .up ∧ (s r).ring (256 * 3 + 7) = r) ∧
    (({} : Ring).en = false ∧ ({} : Ring).logd.toNat ≤ 10) ∧ (r.wait = p :: [] ∧ p.after = .nothing ∧ p.cr.length = 8) ∧
    (r.en = true ∧ (r.tail - r.head).toNat ≠ 2 ^ (r.logd.toNat + 6)) ∧
    (let f : Ring := { r with tail := 64 }; (f.tail - f.head).toNat = 2 ^ (f.logd.toNat + 6)) ∧
    (r.ie = true ∧ 0 < r.ipend ∧ (max r.cnt.toNat 1 ≤ r.ipend ∨ (r.tmo ≠ 0 ∧ r.t0 + 1000 * r.tmo.toNat ≤ (s r).now))) ∧
    ¬ (({} : Ring).ie = true) ∧
    (let x : EvArg := { a := 0, b := 0x1000, c := 64, d := 0, w := [0x12340] }
     x.a ≤ 64 ∧ x.c ≤ 64 ∧ x.d ≠ 1 ∧ x.b = 0x1000 + 32 * 0) := by decide +kernel

/-- A running graph with a conditional node, a copy node and a done node; what the conditional node reads and how it compares. -/
def demoGraphState (st : NodeSt) : State :=
  let g : Graph := { asid := 1, nodes := [[3 * 2 ^ 60, 0, 0, 0, 0, 0, 0, 0]], sts := [st], hdr := BitVec.ofNat 64 (2 * 2 ^ 56) }
  let s := withLocal (demo (demoTeam 0 0)) (wordsBytes [7])
  { s with hub := { s.hub with graphs := [(2, g)], copies := [{ place := 2, node := 0, asid := 1, src := 0, dst := 0x100, len := 64 }] },
           arg := { a := 2, b := 0 } }

theorem test_hyp_graph_nodes : let s := demoGraphState .running
    let g := (s.graph 2).getD {}
    s.graph 2 = some g ∧ s.mayRun g.asid = true ∧ nodeStat g 0 = .running ∧ ndKind (g.nodes.getD 0 []) = 3 ∧
    okAnd ((hubRead 1 (ndH (nth (g.nodes.getD 0 []) 1)) (ndOff (nth (g.nodes.getD 0 []) 1)) 8 1).run s) (fun p _ =>
      ndHit 1 (wd (leNat p.1)) 0 && !ndHit 0 (wd (leNat p.1)) 0) ∧
    ((match (hubRead 1 15 0 8 1).run s with | .error (.trap _ _) _ => true | _ => false) = true) ∧
    (Tab.find g.rearms 0).getD 0 < 1 ∧ g.failed = none ∧ ndLimit (g.nodes.getD 0 []) ≤ (Tab.find g.rearms 0).getD 0 ∧
    (let h := ((demoGraphState .rearm).graph 2).getD {}
     nodeStat h 0 = .rearm ∧ ∀ i ∈ reachable ([[], []] : List (List Word)) 1 0, nodeStat { h with sts := [.rearm, .done] } i = .done) ∧
    (s.hub.copies.find? fun x => x.place == 2 && x.node == 0).isSome = true ∧
    okAnd ((do
      let _ <- handleAt 1 (ndH (0 : Word)) (ndOff (0 : Word)) 64 false
      let _ <- handleAt 1 (ndH (0x100 : Word)) (ndOff (0x100 : Word)) 64 true
      copyPieces (hubWho 1) 0 0 0 0x100 1 0 64 : M Unit).run s) (fun _ s1 => ((s1.locRd 0x40000100 1 0) == some [7]) &&
        okAnd ((release (hubWho 1) 4).run s1) fun _ _ => true) ∧
    ((match (handleAt 1 15 0 64 false).run s with | .error (.trap _ _) _ => true | _ => false) = true) ∧
    (let p : Packet := { asid := 1, key := backKey 1, op := .write 0 [1] }
     (match (release (hubWho 1) 4).run { s with fab := { peers := [(7, { unacked := [p] })] } } with
      | .error (.wait _) _ => true
      | _ => false) = true) ∧
    ({ g with failed := some (.ok, 0) } : Graph).failed.isSome ∧ ({ place := 2, moved := true } : CopyNode).moved = true := by
  decide +kernel

/-- Pre-emption: nothing to do, a tenant that stops, a team that is stopping in a drained cell and in one that is not. -/
theorem test_hyp_preemption : let t : Team := { demoTeam 0 0 with pre := some (.stop, 0) }
    let s : State := { demo (demoTeam 0 0) with now := 1200 }
    let u : State := { s with hub := { tenants := [(1, { st := .stopping })] } }
    ((false : Bool).toNat = 0 ∧ (s.cell 0).team false = some (demoTeam 0 0) ∧ s.preReason (.here 0 false) = none) ∧
    ((({ u with cells := [(0, { b := some (demoTeam 0 0) })] } : State).cell 0).active ≠ true) ∧
    (({ u with cells := [(0, { b := some (demoTeam 0 0) })] } : State).preReason (.here 0 true) = some .stop) ∧
    (u.preReason (.here 0 false) = some .stop ∧ (u.cell 0).sw = none ∧ (demoTeam 0 0).ended = false ∧ (demoTeam 0 0).pre = none) ∧
    ((s.cell 0).active = false ∧ t.halted = false ∧ t.pre.isSome ∧
      ({ s with cells := [(0, { a := some { t with vec := { st := .idle } } })] } : State).drainedCell 0 = true) ∧
    (let v : State := { s with cells := [(0, { a := some t, sh := { array := [{}] } })] }
     v.drainedCell 0 = false ∧ 840 ≤ cyclesOf v.now - cyclesOf 0) := by decide +kernel

/-- A gang of one team of a grid, with a cell held by its context; one where no cell is. -/
def demoPlace (al : Nat) : State :=
  let s := demo (demoTeam 0 0)
  { s with
    cells := []
    ctxs := [(1, { regs := demoRegs, pend := demoRegs, places := [{ grid := 7 }] })]
    hub := { grids := [(7, { asid := 1, lrec := demoRecord, total := 1, handed := true })], allot := [(5, (1, BitVec.ofNat 10 al))] }
    arg := { a := 1, b := 0 } }

theorem test_hyp_placement : let s := demoPlace 1
    ((s.ctx 1).places = [{ grid := 7 }] ∧ s.boot.start = .up ∧ s.boot.ready = true ∧ s.mayRun 1 = true) ∧
    s.gangCells 1 { grid := 7 } (fun _ => true) = some [5] ∧ (demoPlace 2).gangCells 1 { grid := 7 } (fun _ => true) = none ∧
    ((s.grid 7).map fun g => (g.kept, lrEntry g.lrec)) = some ([], lrEntry demoRecord) ∧
    (let w : Word := 0x40080000
     w.extractLsb' 30 2 = 1 ∧ w.extractLsb' 30 2 ≠ 3 ∧ w.extractLsb' 19 10 ≠ 0 ∧ (s.boot.minimal = true → 255 < 64) ∧
     (s.cell 255).lost = false ∧ (s.cell 255).a = none ∧ (s.cell 255).b = none ∧ s.pass 255 = none) ∧
    ((demo (demoTeam 0 0)).cell 0).a.isSome := by decide +kernel

/-- A resident gang whose slice is over; one that has left; one whose halted team leaves or arrives; a grid that has retired. -/
theorem test_hyp_swaps : let t : Bool → Team := fun h =>
      { demoTeam 0 0 with grid := 7, halted := true, pre := if h then some (.swap, 0) else none }
    let r : Resident := { gang := { grid := 7 }, asid := 1, leaving := true }
    let g : Grid := { asid := 1, total := 1, retired := 1, lrec := demoRecord }
    let s : Resident → Bool → State := fun r h => { demo (t h) with
      now := 1000000000
      ctxs := [(1, { regs := demoRegs, pend := demoRegs, places := [{ grid := 7 }] })]
      hub := { residents := [r], grids := [(7, g)] }, arg := { a := 7, b := 0 } }
    ((s r true).hub.residents.find? (fun x => x.gang.grid == 7 && x.gang.first == 0) = some r) ∧
    ({ s r true with cells := [] } : State).gangOn r.gang = [] ∧
    (let z : Resident := { gang := { grid := 7 }, asid := 1 }
     z.leaving = false ∧ z.arriving = false ∧ ((s z true).ctx 1).places ≠ [] ∧ z.since + (s z true).sliceOf z.gang ≤ (s z true).now ∧
     0 < 0 + (s z true).sliceOf z.gang) ∧
    ((s r true).residentOf (t true) = some r ∧ (t true).halted = true ∧ (t true).pre.isSome ∧ (t true).ended = false ∧
      (t true).startedCards = false) ∧
    (let z : Resident := { gang := { grid := 7 }, asid := 1, arriving := true }
     (s z false).residentOf (t false) = some z ∧ z.arriving = true ∧ (t false).pre = none) ∧
    ((s r true).needed { gang := { grid := 7 }, asid := 1 } = false ∧
      (let v := s { gang := { grid := 7 }, asid := 1 } false
       let w : State := { v with hub := { v.hub with allot := [(0, (1, 1))] } }
       w.needed { gang := { grid := 7 }, asid := 1 } = true)) ∧
    (((s r true).gridRelease 1).gridDue 7 1 = false ∧
      (let p : Packet := { asid := 1, key := backKey 1, op := .write 0 [1] }
       (({ s r true with fab := { peers := [(9, { unacked := [p] })] } } : State).gridRelease 1).gridDue 7 1 = true)) ∧
    ((s r true).grid 7 = some g ∧ g.closing = false ∧ g.total ≤ g.retired ∧ (s r true).gridRsts 7 false = false ∧
      g.entry = none ∧ g.node = none ∧ ({ g with retired := 0 } : Grid).retired < g.total) := by decide +kernel

/-- A device with a pass cell (cell 9), one queued task of one row whose deadline has passed, and an image of one column. -/
def demoPassState : State :=
  let im := wordsBytes ([BitVec.ofNat 64 (128 * 2 ^ 32 + 1), BitVec.ofNat 64 (5 * 2 ^ 56 + 8 * 2 ^ 8), BitVec.ofNat 64 (64 * 2 ^ 32 + 64)]
    ++ List.replicate 5 0 ++ [BitVec.ofNat 64 (0x4E345443 * 2 ^ 32 + 1)])
  let s := demoTsub
  { s with
    hub := { s.hub with registry := [(0xABC, { bytes := im, refs := [1] })], weights := [(0x77, { asid := 1, k := 128, n := 1 })],
                        allot := [(9, (2, 0))] }
    rm := { tasks := [{ uid := 4, asid := 1, desc := demoTask, st := .queued, due := true }] }
    arg := { a := 9 } }
def demoPassOf (st : PassSt) : Pass :=
  { hash := 0xABC, wid := 0x77, shape := 5, st := st, ended := true,
    rows := [{ uid := 4, owner := 1, act := List.replicate 128 3 }], out := [(0, 0, [1, 2, 3, 4])] }
def demoPass (st : PassSt) : State :=
  let s := demoPassState
  { s with rm := { s.rm with passes := [(9, demoPassOf st)],
                             parked := [{ cell := 9, owner := 1, resuming := true, scatter := true, tasks := [4], kept := [(4, 0, 0, 0, [1])] }] },
           arg := { a := 9, b := 1 } }

theorem test_hyp_pass_form : let s := demoPassState
    let t : Task := { uid := 4, asid := 1, desc := demoTask }
    (t.st = .pending ∧ s.boot.start = .up ∧ s.boot.ready = true ∧ s.mayRun t.asid = true ∧ s.tileRoom t.die (tkBulk t.desc) = true ∧
      (∀ k ∈ s.hub.pool, k.task = some 4 → k.started = true)) ∧
    (let z : Task := { t with target := some 7 }
     z.target = some 7 ∧ okAnd ((gatherStage z (s.groupClass [z]).abytes).run s) (fun rs _ => rs.length == 1) = true) ∧
    ((4 : Nat) ≤ 5 ∧ ({ t with st := .queued, deadline := 5 } : Task).deadline = 5 ∧ s.now < 5) ∧
    s.passCellFree 9 = true ∧ (match s.chooseGroup (9 / 64) 9 with
      | (s1, some g) => (s1.filled g).length == 1
      | _ => false) = true := by decide +kernel

theorem test_hyp_passes :
    (let s := demoPass .gather
     (s.pass 9 = some (demoPassOf .gather)) ∧ okAnd ((gatherRows 9 64 (demoPassOf .gather).rows).run s) fun rs _ => rs.length == 1) ∧
    (let s := demoPass .run
     (s.taskClass 0xABC 5).isSome ∧ okAnd ((groupProducts 9 (demoPassOf .run) 0).run s) (fun _ _ => true) ∧
       (demoPassOf .run).groups ≤ 0 + 1 ∧ ({ demoPassOf .run with groups := 2 } : Pass).groups > 0 + 1 ∧
       s.admitted 9 (demoPassOf .run) s.arg.b = []) ∧
    (let s := demoPass .epilogue
     okAnd ((scatterPass 9 (demoPassOf .epilogue)).run s) (fun bad s1 => (bad.length == 0) && (s1.locRd 0x40000000 4 0 == some [1, 2, 3, 4]) &&
       !((s1.usedReplies (passKey 9)).modPass 9 fun y => { y with stored := some bad }).outstandingOf (passKey 9) fun _ => true) ∧
     (demoPassOf .epilogue).stored = none ∧ ({ demoPassOf .epilogue with stored := some [] } : Pass).stored = some [] ∧
     (let p : Packet := { key := passKey 9, op := .write 0 [1] }
      ({ s with fab := { peers := [(7, { unacked := [p] })] } } : State).outstandingOf (passKey 9) (fun _ => true) = true)) ∧
    (let s := demoPass .done
     (s.rm.parked.find? fun y => y.cell == 9 && y.owner == 1 && y.resuming).isSome ∧
      (s.rm.parked.all fun e => !e.stored) = true ∧ s.outstandingOf (passKey 9) (fun _ => true) = false ∧
      okAnd ((translate (passKey 9) 9 [(4, 0, 0, 0, [1])]).run s) fun r s1 => match r with
        | .ok ys => okAnd ((ys.forM fun y => y.2).run s1) fun _ s2 =>
            !((s2.drainPosted fun x => x.src == 9).usedReplies (passKey 9)).outstandingOf (passKey 9) fun _ => true
        | .error _ => false) := by decide +kernel

/-- The Barker: a refused descriptor and one that is queued, an advertisement, a task that is away and steers again. -/
theorem test_hyp_barker : let s := { demoTsub with fab := { fv := true, devno := 2 } }
    let t : Task := { uid := 4, asid := 1, desc := demoTask, st := .away, target := some 7, id := 5 }
    let u : State := { s with rm := { tasks := [t] }, arg := { a := 7, b := 3, c := 5, w := [4], bytes := [1, 2, 3, 4] } }
    (s.hasFabric = true ∧ s.fab.fv = true ∧ s.boot.start = .up ∧ s.hub.barker.length < 32768) ∧
    s.checkTask 0 0 (List.replicate 8 0) true false false = some 2 ∧ (2 : Nat) < 6 ∧
    (∃ n, 6 ≤ n ∧ s.checkTask 0 0 demoTask true false false = some n) ∧
    (u.awayTask u.arg.a u.arg.c = some t ∧ t.refused.length < 3 ∧ 3 ≤ ({ t with refused := [1, 2, 3] } : Task).refused.length) ∧
    (u.task t.uid = some t ∧ (u.aimFor t.desc t.refused).1 = some 2) ∧
    okAnd ((translate (taskKey t.uid) 256 (pieceList t.uid u.arg.w u.arg.bytes)).run u) (fun r s1 => match r with
      | .ok ys => okAnd ((ys.forM fun y => y.2).run s1) fun _ _ => true
      | .error _ => false) ∧ u.arg.b < 32 ∧ (allCauses.find? fun y => y.code == 32 * 260 / 32 % 1024).isSome ∧
    (({ t with ending := some (.ok, 0) } : Task).ending = some (.ok, 0) ∧ u.outstandingOf (taskKey t.uid) (fun _ => true) = false ∧
      (let p : Packet := { key := taskKey t.uid, op := .write 0 [1] }
       ({ u with fab := { peers := [(7, { unacked := [p] })] } } : State).outstandingOf (taskKey t.uid) (fun _ => true) = true)) ∧
    (({ s with hub := { s.hub with barker := [{ wid := 4, peer := 9, queue := 1 }] } } : State).steerTo 4 [3]).isSome := by
  refine ⟨?_, ?_, ?_, ⟨7, ?_⟩, ?_⟩ <;> decide +kernel

/-- The memory system: a load that is outstanding, a posted store, a walk, a tier swap, a line of a CPC job, a suspended unit. -/
theorem test_hyp_memory_events : let t : Team := { demoTeam 0 0 with loads := [{ reg := some 3, value := 9 }] }
    let s : State := { demo t with arg := { a := 0, b := 0, c := 0 } }
    let p : Posted := { src := 1, asid := 1, cell := 0, off := 0xFFFC, bytes := [1, 2, 3, 4] }
    ((s.cell 0).act = some t ∧ s.cellUp 0 = true ∧ t.loads[0]? = some { reg := some 3, value := 9 }) ∧
    (let u : State := { s with mem := { s.mem with posted := [p] } }
     (u.mem.posted.find? fun y => y.cell == 0) = some p ∧ t.asid = p.asid ∧ p.off + p.bytes.length ≤ t.valloc * 65536 ∧
     t.valloc * 65536 < ({ p with off := 0xFFFD } : Posted).off + p.bytes.length) ∧
    (let x : Walk := { asid := 1, cells := [0] }
     let u : State := { s with mem := { s.mem with walks := [x] } }
     (u.walking 0).find? (fun y => y.asid == 1 && y.page == 0 / 65536 * 65536) = some x ∧ (s.walking 0).find? (fun _ => true) = none ∧
       u.walkRest x 0 = none) ∧
    ({ (demoTeam 0 0).setEng .vector { st := .run, nest := some false } with nt0 := { st := .run, idx := [0], start := [0] } } :
      Team).firstFetch = true ∧
    (let x : TierSwap := { group := 5, member := 1 }
     ({ s with mem := { s.mem with swaps := [x] } } : State).swapOf 5 = some x) ∧ Sparse.wf 0 s.mem.counts = true ∧
    (let u : NbUnit := { st := .suspended }
     let v : State := { s with nb := [(0, u)] }
     (v.unit 0).st = .suspended ∧ (v.unit 0).waiting = false ∧ decodeUnitOp ({} : NbUnit).words = none) := by decide +kernel

/-- A root table of context 1 at frame 0x5001 and below it, at frame 0x5002, a leaf of 1 GiB: the walk finds it (R310, R311). -/
theorem test_hyp_page_walk : let s := demo (demoTeam 0 0)
    let r : CtxRegs := { demoRegs with ptroot := 0x50010000 }
    let phys := Memory.wrBytes (Memory.wrBytes [] 0x50010000 (leBytes 8 (2 ^ 63 + 0x50020000))) 0x50020000 (leBytes 8 demoLeaf.toNat)
    let u : State := { s with ctxs := [(1, { regs := r })], mem := { s.mem with phys := phys } }
    let v : State := { u with mem := { u.mem with phys := Memory.wrBytes phys 0x50020000 (leBytes 8 (demoLeaf.toNat + 1)) } }
    let w : Walk := { asid := 1, cells := [0], tab := u.rootOf 1 }
    (u.walk 1 0).isSome = true ∧ ((u.walkRest w 0).map fun x => u.leafOk 0 x.1) = some true ∧
    ((v.walkRest w 0).map fun x => v.leafOk 0 x.1) = some false := by decide +kernel

/-- A line of a CPC job whose member is in the fast frame, for the owner of the slot that begins now. -/
theorem test_hyp_carousel : let x : CpcLine := { pa := 0x40001000, off := 0x2000, time := 2 }
    let k : Card := { seq := 3, op := 1, st := .running, lines := [x] }
    let s := demoCards [k]
    let u : State := { s with arg := { a := 0, b := 0 } }
    let g := groupOf (x.pa / 65536)
    let m := memberOf (x.pa / 65536)
    let slow : State := { u with mem := { u.mem with remap := [(g, m + 1)] } }
    let held : State := { slow with mem := { slow.mem with locks := [(g, { member := m + 1, pin := true })] } }
    u.boot.start = .up ∧ (u.slotOwner (pseudoOf x.pa).1 (x.time % 128 / 2)).isSome = true ∧
    (x.from_ ≤ x.time * 7 / 10 ∧ u.swapOf g = none ∧ u.fastOf g = m ∧ ((u.countAccess (x.pa / 65536)).locRd x.pa 64 x.slot).isSome) ∧
    (x.cap = false ∧ slow.fastOf g ≠ m ∧ slow.lockOf g = none ∧ slow.swapOf g = none) ∧
    (held.fastOf g ≠ m ∧ (held.lockOf g).isSome ∧ held.swapOf g = none) ∧
    ({ u with mem := { u.mem with swaps := [{ group := g, member := m }] } } : State).swapOf g ≠ none ∧
    ({ x with got := some [] } : CpcLine).got.isSome = true := by decide +kernel

/-- The fabric: a port that no one reads, packets in order, ahead and behind, a chunk that is sent, a lost peer. -/
theorem test_hyp_fabric : let s : State := { demo (demoTeam 0 0) with
      fab := { fv := true, peers := [(7, { recvSeq := 4, waitFrom := some 0, unacked := [{ asid := 1, rst := true }] })] },
      arg := { a := 7, b := 1, c := 4 } }
    ((s.port 7 1).length + s.arg.bytes.length ≤ 65536 ∧ s.pktBlocked (.write 0x1000 [1]) = false ∧ s.boot.on = false ∧
      s.frameExists 0 = true ∧ s.frameExists (2 ^ 40) = false) ∧
    (let k : Coll := { asid := 7, name := 1, op := 0x0D, dtype := 4, count := 1, part := [1, 2, 3, 4], group := [0, 1] }
     let u : State := { s with fab := { s.fab with colls := [k] }, ctxs := [(7, { colls := [(1, { port := 7 * 2 ^ 14 + 2 ^ 8 })] })] }
     (u.collPort 7 1).isSome ∧ u.collRun 7 1 = some k ∧ k.count ≠ 0 ∧ 4 * k.count ≤ k.part.length ∧ k.received < k.steps ∧
       ({ k with part := [1] } : Coll).part.length < 4 * k.count) ∧
    (let p : Packet := { no := 9, op := .write 0 [1], left := true }
     let q : Packet := { no := 10, op := .read 0 8, done := true }
     let u : State := { s with fab := { s.fab with peers := [(7, { unacked := [p, q] })], nbrs := [(0, { v := true, peer := 7 })] } }
     u.packetNo 7 9 = some p ∧ p.done = false ∧ u.mayPerform 7 p = true ∧ u.mayPerform 7 { p with left := false } = false ∧ u.peerIll 7 0 8 = false ∧ u.packetNo 7 10 = some q ∧
       u.entryOf 7 = some 0) ∧
    (s.collPort 7 1 = none ∧ (∀ k ∈ s.cellCards 7, ¬ (k.2.op = jLRADD ∧ jPort k.2.block = 1 ∧ k.2.st = .running))) ∧
    s.hasFabric = true ∧ (s.peerOf 7).recvSeq = 4 ∧ Tab.find (s.peerOf 7).reorder 5 = none ∧ Tab.find (s.peerOf 7).reorder 4 = none ∧
    ((s.peerOf 7).recvSeq < 259 ∧ 259 < (s.peerOf 7).recvSeq + 256) ∧ (s.peerOf 7).recvSeq + 256 ≤ 260 ∧ (3 < (s.peerOf 7).recvSeq) ∧
    (s.locRd 0x1000 8 (s.keyMapOf (0x1000 / 65536)).slot.toNat).isSome ∧
    (let u : State := { s with hub := { grids := [(1, { asid := 1 })] } }
     (u.grid 1).isSome) ∧
    (let k : Coll := { asid := 7, name := 1, sent := true }
     ({ s with fab := { s.fab with colls := [k] } } : State).collRun 7 1 = some k) ∧
    (s.peerOf 7).waitFrom = some 0 ∧ s.now < max 0 (s.peerOf 7).lastAck + 20000 ∧
    max 0 (({ s with now := 20000 } : State).peerOf 7).lastAck + 20000 ≤ ({ s with now := 20000 } : State).now ∧ (s.peerOf 8).waitFrom = none ∧ s.fab.qui = false ∧
    (({ s with ctxs := [(1, { quiesced := true, cut := true })] } : State).ctx 1).cut = true ∧
    (({ s with caps := 0 } : State).hasFabric = false) := by decide +kernel

/-- Starts, tenants: every state of a start and of a tenant is reached by some state; a spare is left, and none is. -/
theorem test_hyp_device : let s : State := { demo (demoTeam 0 0) with now := 30000000000 }
    let b : StartSt → State := fun x => { s with boot := { start := x } }
    (b .scrubbing).boot.start = .scrubbing ∧ (b .starting).boot.start = .starting ∧ s.boot.start = .up ∧
    ((b .starting).boot.startAt + 30000000000 ≤ s.now ∧ (b .scrubbing).boot.startAt + 2500000000 ≤ s.now) ∧
    ({ s with hub := { attestDue := some 64 } } : State).hub.attestDue = some 64 ∧
    ((s.cell 200).lost = false ∧ (s.cell 200).a = none ∧ (s.cell 200).b = none ∧ s.pass 200 = none ∧ s.boot.spares.length = 4 ∧
      (∀ e ∈ s.rm.parked, e.cell ≠ 200) ∧ s.boot.spares.getD (200 / 64) 0 < 2) ∧
    2 ≤ ({ s.boot with spares := [0, 0, 0, 2] } : Boot).spares.getD (200 / 64) 0 ∧
    (∀ x : TenantSt, (({ s with hub := { tenants := [(1, { st := x, size := 1 })] } } : State).tenant 1).st = x) ∧
    ({ s with hub := { tenants := [(1, { st := .stopping, size := 1 })] }, cells := [] } : State).stopDone 1 = true ∧
    (let u : State := { s with hub := { tenants := [(1, { st := .stopping, size := 1 })] }, cells := [] }
     (∀ x ∈ u.mem.lines, x.asid = 1 → x.dirty = false) ∧
       okAnd ((writeBackLines { asid := 1 } fun x => x.asid == 1).run u) (fun _ v => v.stopDone 1) = true) ∧
    ((s.tenant 1).flr = false ∧ (s.tenant 1).freeAfter = false) ∧ (∀ p ∈ s.hub.tenants, p.2.st ≠ .free → (s.ctx p.1).fn ≠ 3) := by
  refine ⟨?_, ?_, ?_, ?_, ?_, ?_, ?_, fun x => ?_, ?_, ?_, ?_, ?_⟩
  case refine_8 => cases x <;> decide +kernel
  all_goals decide +kernel

/-- `ADD s3, s1, s2` stands at the strand's counter, which may issue. -/
def demoCode (ws : List W32) : State := withLocal (demo (demoTeam 5 7)) (ws.flatMap bytesOfWord)

theorem test_hyp_step : let s := demoCode [0x0208C000]
    let t := demoTeam 5 7
    let i : Instr := .add { md := 0, rs2 := 2, rs1 := 1, rd := 3, pg := 0 }
    (s.inputs = [] ∧ s.cur = .stream 0 .strand ∧ (s.cell 0).act = some t ∧ s.strandRuns 0 t = true ∧ t.apend = []) ∧
    okAnd ((fetchInstr (s.fetchWho 0 t .strand) t t.pc.toNat).run (s.modAct 0 fun t => { t with started := true })) (fun ws _ =>
      ws == [0x0208C000]) ∧ (match decodeIn .strand t.priv false [0x0208C000] with | .ok j => decide (j = i) | .error _ => false) = true := by
  decide +kernel

/-- The vector stream issues VADD outside a nest; inside one, the word at its position issues when its flags say so. -/
theorem test_hyp_step_engine : let t := (demoTeam 0 0).setEng .vector { st := .run }
    let s := withLocal (demo t) (bytesOfWord 0x14061004)
    let u := (demoTeam 0 0).setEng .vector { st := .run, nest := some false }
    let v : Team := { u with nt0 := { st := .run, body := [(4, [0x14061004])], levels := [{ trip := 1 }] } }
    (s.engineRuns 0 t .vector = true ∧ (t.eng .vector).nest = none) ∧
    okAnd ((fetchInstr (s.fetchWho 0 t .vector) t (t.eng .vector).pc.toNat).run s) (fun ws _ => ws == [0x14061004]) ∧
    ((demo v).engineRuns 0 v .vector = true ∧ (v.slot false).body[(v.slot false).pos]? = some (4, [0x14061004]) ∧
      (parseWords [0x14061004]).isSome ∧ (v.slot false).issues 0 = true) ∧
    (let n : NbUnit := { st := .run, prog := [0x18] }
     n.st = .run ∧ (decodeUnit n.words).isSome) := by decide +kernel

/-- Words that no stream decodes: the trap of each check of R189, and the step that takes it. -/
theorem test_hyp_decode_traps : let s : State := { demoCode [0x1C] with arg := { a := 0, b := 0 } }
    let t := demoTeam 5 7
    (((0xFFFFFFFF : W32).len = 3) ∧ ((0x1C : W32).len ≠ 3 ∧ (0x1C : W32).cls = 7) ∧ ((0x18 : W32).cls = 6)) ∧
    (classInStream .vector (0 : W32).cls = false) ∧ (opAt 0 0 0xFF = none) ∧
    ((0x14 : W32).len ≠ 3 ∧ (0x14 : W32).cls = 5 ∧ (parseWords [0x0049C034]).isSome ∧ (0x0049C034 : W32).cls = 5) ∧
    (s.arg.b = 0 ∧ (s.cell 0).act = some t ∧ s.strandRuns 0 t = true ∧ t.apend = []) ∧
    okAnd ((fetchInstr (s.fetchWho 0 t .strand) t t.pc.toNat).run
        { (s.modAct 0 fun t => { t with started := true }) with cur := .stream 0 .strand }) (fun ws _ =>
      match decodeOp .strand t.priv false ws with | .error _ => true | .ok _ => false) := by decide +kernel

/-- An encodable instruction of each kind whose fields pass the checks, and one whose fields do not. -/
theorem test_hyp_round_trip : let i : Instr := .add { md := 0, rs2 := 2, rs1 := 1, rd := 3, pg := 0 }
    let n : Instr := .nbOpen { n := { a := 0, b := 0, imm15 := 1 }, imm32 := none }
    (encode i = [0x0208C000] ∧ classInStream .strand (0x0208C000 : W32).cls = true ∧ i.check .strand false = none ∧
      (match i.op with | some o => opInStream .strand (0x0208C000 : W32).cls o | none => false) = true) ∧
    (match n.op with | some o => decide (o.code.1 = 6) | none => false) = true ∧ n.check .strand false = none ∧
    (Instr.evqPop { md := 0, rs2 := 0, rs1 := 0, rd := 0, pg := 0 }).check .strand false ≠ none := by decide +kernel

/-- Memories in canonical form, and moves of each kind. -/
theorem test_hyp_canonical : let s := demoCode [0x0208C000]
    s.mem.wf = true ∧ Memory.wf [] = true ∧ (demoTeam 0 0).vaultWf = true ∧ State.reset.mem.wf = true ∧ s.hub.saved = [] ∧
    (Instr.fullReset).op.isNone = true := by decide +kernel

theorem test_hyp_memory_wf : (demoCode [0x0208C000]).memoryWf ∧ State.reset.memoryWf := by
  have h : ∀ c, (demoCode [0x0208C000]).cell c = if c = 0 then { a := some (demoTeam 5 7) } else {} := fun c => rfl
  refine ⟨⟨by decide +kernel, ?_, ?_, by decide +kernel⟩, ⟨by decide +kernel, ?_, ?_, by decide +kernel⟩⟩
  · intro c b t ht
    rw [h c] at ht
    split at ht
    · cases b
      · cases ht; decide +kernel
      · cases ht
    · cases b <;> cases ht
  · intro c
    rw [h c]
    split <;> decide +kernel
  · intro c b t ht
    cases b <;> cases ht
  · intro c; rfl

/-! ### Results that the spec works out by hand -/

/-- File 02, "Alignment loss at BF16 width 12": P = 106,880, Ep = -11, and MCVT delivers 0x4250C000. -/
theorem test_alignment_loss : let p : BitVec 32 := 0x48C80000
    let a := enterChunk p [0x42C0, 0x3F80, 0x3C00, 0x3DC0, 0xBD80, 0x3D00]
    let b := enterChunk p [0x3F00, 0x4080, 0x4100, 0x4000, 0x3F80, 0x3F80]
    a.ms = [1536, 16, 0, 2, -1, 0] ∧ b.ms = [64, 512, 1024, 256, 128, 128] ∧ partialOf a b none none = (false, 106880, -11) ∧
    (({} : AccE).addPartial false 106880 (-11)).toFp32 0x3F800000 0x3F800000 = (0x4250C000, 0) := by decide +kernel

/-- File 02, "A width change in mid-accumulation". -/
theorem test_width_change : let e0 := ({} : AccE).addPartial false 40 (-4)
    let e1 := e0.addPartial false 700 (-4)
    e1 = { s := 740, e := -4 } ∧ e1.addPartial false 27 (-1) = { s := 119, e := -1 } := by decide +kernel

/-- File 02, "An FP8 by PT2 product with block scales": P = 15,360 and Ep = -17, 0x3DF00000. -/
theorem test_block_scales : let a := enterChunk 0x16880000 [0x44, 0xB4, 0x52]
    let b := enterChunk 0x56280000 [0x0A, 0x17, 0xBD]
    a.ms = [24, -6, 80] ∧ b.ms = [48, 32, -10] ∧ partialOf a b (some 0x38) (some 0x2C) = (false, 15360, -17) ∧
    (({} : AccE).addPartial false 15360 (-17)).toFp32 0x3F800000 0x3F800000 = (0x3DF00000, 0) := by decide +kernel

/-- File 07, the block of R265's example: 900.0, -450.0, 10.0 and zeros. The scale 0x40 wins, and the result is inexact. -/
theorem test_vqnt_block : let xs := ([0x44610000, 0xC3E10000, 0x41200000].map fp32.value) ++ List.replicate 3 (fp32.value 0)
    qntBlock 11 xs = (0x40, [0x7E, 0xF6, 0x4A, 0, 0, 0], fNX) ∧ (qntBlock 11 (List.replicate 4 (fp32.value 0))).1 = 0x38 := by
  decide +kernel

/-- File 01, "Worked example: a Quince decode grid": 192 teams, gangs of one quad, domains and scopes of the level words. -/
theorem test_quince_levels : let r : List Word :=
      [BitVec.ofNat 64 (2 ^ 56 + 3 * 2 ^ 52), 0, 0, 0, 0x0008240000040000, 0x00068C00] ++ List.replicate 10 0
    lrNlev r = 3 ∧ lrTotal r = 192 ∧ lrTeams r 1 = 4 ∧ (lrDom r 0, lrDom r 1, lrDom r 2) = (0, 1, 4) ∧
    (lrScope r 0, lrScope r 1, lrScope r 2) = (0, 1, 3) := by decide +kernel

/-- R203: wrapping, the high half of a product, quotients that have no value, shifts by the width and more, a saturated sum, and
the immediate of `MIN.u s5, s6, -1`. MOD is .w 1, .u 2, .sat 4. -/
theorem test_alu_corners : alu .add 0 0xFFFFFFFFFFFFFFFF 1 = 0 ∧ alu .add 1 0x7FFFFFFF 1 = 0xFFFFFFFF80000000 ∧
    alu .add 5 0x7FFFFFFF 1 = 0x7FFFFFFF ∧ alu .sub 6 3 5 = 0 ∧ alu .mulh 0 0xFFFFFFFFFFFFFFFF 2 = 0xFFFFFFFFFFFFFFFF ∧
    alu .mulh 2 0xFFFFFFFFFFFFFFFF 2 = 1 ∧ alu .div 0 7 0 = 0xFFFFFFFFFFFFFFFF ∧ alu .div 0 0xFFFFFFFFFFFFFFF9 2 = 0xFFFFFFFFFFFFFFFD ∧
    alu .rem 0 0xFFFFFFFFFFFFFFF9 2 = 0xFFFFFFFFFFFFFFFF ∧ alu .rem 0 7 0 = 7 ∧
    alu .div 1 0x80000000 0xFFFFFFFF = 0xFFFFFFFF80000000 ∧ alu .rem 1 0x80000000 0xFFFFFFFF = 0 ∧
    alu .shl 0 1 64 = 0 ∧ alu .sra 1 0x80000000 40 = 0xFFFFFFFFFFFFFFFF ∧ alu .min 2 7 0xFFFFFFFFFFFFFFFF = 7 := by decide +kernel

/-- R204, R205: leading zeros, ones, a signed field and an inserted one. -/
theorem test_bit_fields : clzNat 32 0 = 32 ∧ clzNat 64 1 = 63 ∧ bfx false 0xF0 (4, 4) = 0xFFFFFFFFFFFFFFFF ∧
    bfx true 0xF0 (4, 4) = 15 ∧ bfi 0xFFFF 0 (4, 8) = 0xF00F ∧ fieldDesc (60 + 64 * 10) = (60, 4) := by decide +kernel

/-! ### Single steps -/

/-- The word that a step runs leaves `p` of the team of cell 0. -/
def stepTeam (s : State) (p : Team → Bool) : Bool :=
  match step s with
  | .next u => ((u.cell 0).act.map p).getD false
  | _ => false

/-- `ADD s3, s1, s2` of 5 and 7, and the counter moves by 4 (R149, R203). -/
theorem test_add_step : stepTeam (demoCode [0x0208C000]) (fun t => (t.sreg 3 == 12) && (t.pc == 4)) = true := by decide +kernel

/-- The same guarded by p1, which is false: only the counter moves (R181). -/
theorem test_guard_step : stepTeam (demoCode [0x0208C800]) (fun t => (t.sreg 3 == 0) && (t.pc == 4)) = true := by
  decide +kernel

/-- A word of length code 0b11 traps ILL_LEN: the counter is at the handler's first vector, in privileged mode, with EPC at the
word (R189, R460). -/
theorem test_ill_len_step : stepTeam (demoCode [3]) (fun t => t.priv && (t.epc == 0) && (t.pc != 4)) = true := by decide +kernel

/-- A store through the vault's handle, little-endian: `ST.i64 h1[s1], s2` (R209, R210). -/
theorem test_store_step : (match exec (.st { md := 3, rs2 := 1, rs1 := 1, rd := 2, pg := 0 }) (demo (demoTeam 8 0x0102030405060708)) with
    | .next s => ((s.cell 0).act.bind fun t => t.vaultRd 8 8) == some [8, 7, 6, 5, 4, 3, 2, 1]
    | _ => false) = true := by decide +kernel

/-- A load of 32 bits is sign-extended: `LD.i32 s3, h1[s1]` (R210). -/
theorem test_load_step : (match exec (.ld { md := 2, rs2 := 1, rs1 := 1, rd := 3, pg := 0 })
      (demo ((demoTeam 8 0).vaultWr 8 [0xFE, 0xFF, 0xFF, 0xFF])) with
    | .next s => ((s.cell 0).act.map fun t => t.sreg 3) == some 0xFFFFFFFFFFFFFFFE
    | _ => false) = true := by decide +kernel

/-- Right after reset, an instruction that is placed is the first to run (log 6). -/
theorem test_fetch_word : (match step (State.reset.withFetchWord 32 0x0208C000) with
    | .next s => ((s.cell 0).act.map fun t => t.pc) == ((State.reset.withFetchWord 32 0x0208C000).cell 0).act.map fun t => t.pc + 4
    | _ => false) = true := by decide +kernel

/-! ### The digest of R30 -/

/-- The digest of the bytes of "abc", as FIPS 180-4 gives it (log 14). -/
theorem test_sha384_abc : sha384 [0x61, 0x62, 0x63] =
    0xCB00753F45A35E8BB5A03D699AC65007272C32AB0EDED1631A8B605A43FF5BED8086072BA1E7CC2358BAECA134C825A7 := by
  decide +kernel
end Sys2Proof.Tests
end

section
/-! Proofs about the graph nodes that the hub completes itself (R45, R46, R89, R100). -/
namespace Sys2Proof.Machine

/-! ### A piece of the hub's work, by how its meaning ends -/

section
variable {α : Type} {m : M α} {s s' : State}

theorem whole_run_ok {x : α} (h : m.run s = .ok x s') : (whole m).run s = .ok x s' := by
  simp only [EStateM.run] at h ⊢
  simp only [whole, h]

theorem whole_run_trap {k : Cause} {i : Info} (h : m.run s = .error (.trap k i) s') :
    (whole m).run s = .error (.trap k i) s' := by
  simp only [EStateM.run] at h ⊢
  simp only [whole, h]

theorem whole_run_wait {q : Option Nat} (h : m.run s = .error (.wait q) s') :
    (whole m).run s = .error (.wait q) (s.onlyBegun s') := by
  simp only [EStateM.run] at h ⊢
  simp only [whole, h]

variable (key : AgentKey)

theorem State.hubTry_ok {x : α} (h : m.run s = .ok x s') : s.hubTry key m = (s'.usedReplies key, .done x) := by
  simp only [State.hubTry, whole_run_ok h]

theorem State.hubTry_trap {k : Cause} {i : Info} (h : m.run s = .error (.trap k i) s') :
    s.hubTry key m = (s'.usedReplies key, .fails k i) := by
  simp only [State.hubTry, whole_run_trap h]

theorem State.hubTry_wait {q : Option Nat} (h : m.run s = .error (.wait q) s') :
    s.hubTry key m = (s.onlyBegun s', .waits) := by
  simp only [State.hubTry, whole_run_wait h]

end

/-- What an access only began leaves the hub as it was (R329). -/
theorem State.onlyBegun_hub (s s' : State) : (s.onlyBegun s').hub = s.hub := rfl

/-! ### The comparison of a conditional node (R46) -/

theorem ndHit_iff (x y : Word) :
    (ndHit 0 x y = true ↔ x = y) ∧ (ndHit 1 x y = true ↔ x ≠ y) ∧ (ndHit 2 x y = true ↔ x.toNat < y.toNat) ∧
    (ndHit 3 x y = true ↔ y.toNat ≤ x.toNat) ∧ (ndHit 4 x y = true ↔ x.toInt < y.toInt) ∧
    (ndHit 5 x y = true ↔ y.toInt ≤ x.toInt) :=
  ⟨beq_iff_eq, bne_iff_ne, decide_eq_true_iff, decide_eq_true_iff, decide_eq_true_iff, decide_eq_true_iff⟩

/-! ### GRAPH_CONDITIONAL_READ (R46, R89) -/

/-- The word that a conditional node waits for. -/
def Graph.condWord (g : Graph) (j : Nat) : M (List Byte × Bool) :=
  let n := g.nodes.getD j []
  hubRead g.asid (ndH (nth n 1)) (ndOff (nth n 1)) 8 1

/-- The bytes read satisfy the node's comparison. -/
def Graph.condHit (g : Graph) (j : Nat) (bs : List Byte) : Bool :=
  let n := g.nodes.getD j []
  ndHit (ndCmp n) (wd (leNat bs)) (nth n 2)

/-- The node may be re-armed once more. -/
def Graph.condMore (g : Graph) (j : Nat) : Bool :=
  decide ((Tab.find g.rearms j).getD 0 < ndLimit (g.nodes.getD j []))

theorem Graph.condMore_iff {g : Graph} {j : Nat} :
    g.condMore j = true ↔ (Tab.find g.rearms j).getD 0 < ndLimit (g.nodes.getD j []) := decide_eq_true_iff

section
variable {s s1 : State} {g : Graph} (hg : s.graph s.arg.a = some g) (hrun : s.mayRun g.asid = true)
include hg hrun

section
variable (hst : nodeStat g s.arg.b = .running) (hk : ndKind (g.nodes.getD s.arg.b []) = 3)
include hst hk

/-- A conditional node whose comparison holds below its limit re-arms, in a graph that has not failed. -/
theorem execGraphConditionalRead_rearms {bs : List Byte} {al : Bool}
    (hrd : (g.condWord s.arg.b).run s = .ok (bs, al) s1) (hhit : g.condHit s.arg.b bs = true)
    (hmore : g.condMore s.arg.b = true) (hok : g.failed = none) :
    execGraphConditionalRead s = .next (((s1.usedReplies (hubKey g.asid)).modGraph s.arg.a fun y =>
      { y with sts := y.sts.set s.arg.b .rearm }).advanceGraph s.arg.a) := by
  have htry := State.hubTry_ok (hubKey g.asid) hrd
  simp only [Graph.condWord, Graph.condHit, Graph.condMore] at htry hhit hmore
  simp only [execGraphConditionalRead, hg, hst, hk, hrun, htry, hhit, hmore, hok, bne_self_eq_false, Option.isNone_none,
    Bool.not_true, Bool.or_false, Bool.and_self, Bool.false_eq_true, if_false, if_true]

/-- A conditional node that does not re-arm completes, and notes whether its limit is why. -/
theorem execGraphConditionalRead_completes {bs : List Byte} {al lim : Bool}
    (hrd : (g.condWord s.arg.b).run s = .ok (bs, al) s1)
    (hno : (g.condHit s.arg.b bs && g.condMore s.arg.b && g.failed.isNone) = false)
    (hlim : (g.condHit s.arg.b bs && !g.condMore s.arg.b) = lim) :
    execGraphConditionalRead s = .next (((s1.usedReplies (hubKey g.asid)).modGraph s.arg.a fun y =>
      { y with limitHit := y.limitHit || lim }).nodeDone s.arg.a s.arg.b) := by
  have htry := State.hubTry_ok (hubKey g.asid) hrd
  simp only [Graph.condWord, Graph.condHit, Graph.condMore] at htry hno hlim
  simp only [execGraphConditionalRead, hg, hst, hk, hrun, htry, hno, hlim, bne_self_eq_false,
    Bool.not_true, Bool.or_false, Bool.false_eq_true, if_false]

/-- A conditional node whose read fails is failed with the cause. -/
theorem execGraphConditionalRead_fails {c : Cause} {i : Info}
    (hrd : (g.condWord s.arg.b).run s = .error (.trap c i) s1) :
    execGraphConditionalRead s = .next ((s1.usedReplies (hubKey g.asid)).nodeFail s.arg.a s.arg.b (.cause c)) := by
  have htry := State.hubTry_trap (hubKey g.asid) hrd
  simp only [Graph.condWord] at htry
  simp only [execGraphConditionalRead, hg, hst, hk, hrun, htry, bne_self_eq_false, Bool.not_true, Bool.or_false,
    Bool.false_eq_true, if_false]

end

/-! ### GRAPH_REARM (R46, R520) -/

/-- A conditional node that re-arms puts itself and what TARGET reaches back to waiting, once all of that is done. -/
theorem execGraphRearm_rearms (hst : nodeStat g s.arg.b = .rearm) (hok : g.failed = none)
    (hdone : ∀ i ∈ reachable g.nodes (ndTarget (g.nodes.getD s.arg.b [])) s.arg.b, nodeStat g i = .done) :
    execGraphRearm s = .next ((s.modGraph s.arg.a fun y =>
      { y with rearms := Tab.put y.rearms s.arg.b ((Tab.find y.rearms s.arg.b).getD 0 + 1),
               sts := y.sts.zipIdx.map fun (x, i) =>
                 if i == s.arg.b || (reachable g.nodes (ndTarget (g.nodes.getD s.arg.b [])) s.arg.b).contains i then .waiting
                 else x }).advanceGraph s.arg.a) := by
  have hall : (reachable g.nodes (ndTarget (g.nodes.getD s.arg.b [])) s.arg.b).all (fun i => nodeStat g i == .done) = true := by
    simpa [List.all_eq_true] using hdone
  simp only [execGraphRearm, hg, hst, hok, hrun, hall, Option.isNone_none, beq_self_eq_true, Bool.and_self, if_true]

end

/-! ### GRAPH_COPY_NODE_DONE (R45, R100) -/

/-- A copy node's job is that of node `j` of the graph in place `p`. -/
def CopyNode.isAt (p j : Nat) (x : CopyNode) : Bool := x.place == p && x.node == j

/-- The copying of a node's bytes: both handles are checked for the whole span first. -/
def CopyNode.work (c : CopyNode) : M Unit := do
  let _ <- handleAt c.asid (ndH c.src) (ndOff c.src) c.len false
  let _ <- handleAt c.asid (ndH c.dst) (ndOff c.dst) c.len true
  copyPieces (hubWho c.asid) (ndH c.src) (ndOff c.src) (ndH c.dst) (ndOff c.dst) (c.len / 4096 + 1) 0 c.len

/-- The job's bytes have been copied. -/
def State.copyMoved (s : State) (p j : Nat) : State :=
  { s with hub := { s.hub with copies := s.hub.copies.map fun x => if x.isAt p j then { x with moved := true } else x } }

/-- The job has left the hub. -/
def State.copyGone (s : State) (p j : Nat) : State :=
  { s with hub := { s.hub with copies := s.hub.copies.filter fun x => !x.isAt p j } }

/-- Account of the graph in a place. -/
def State.graphAcct (s : State) (p : Nat) : Nat := ((s.graph p).map fun g => ghAcct g.hdr).getD 0

/-- The event's end, by what the release came to: the node completes, or the job stays. -/
def State.copyEnd (s : State) (c : CopyNode) : State × HubRes Unit → Res
  | (s2, .done ()) => .next (((s2.copyGone s.arg.a s.arg.b).charge c.asid (s.graphAcct s.arg.a)
      (unitsFor c.len s.hub.copyRate) (unitsFor c.len s.hub.copyRate)).nodeDone s.arg.a s.arg.b)
  | (s2, _) => .next s2

/-- The job's bytes stand copied: since an earlier event, or by this one. -/
def State.copied (s : State) (c : CopyNode) (s1 : State) : Prop :=
  if c.moved = true then s1 = s else ∃ s0, c.work.run s = .ok () s0 ∧ s1 = s0.usedReplies (hubKey c.asid)

/-- Work units of bytes, as R100 rounds them up. -/
theorem unitsFor_eq (bytes rate : Nat) : unitsFor bytes rate = (bytes + rate - 1) / rate := by
  by_cases h : rate = 0 <;> simp [unitsFor, ceilDiv, h]

section
variable {s s1 s2 : State} {c : CopyNode} (hc : s.hub.copies.find? (CopyNode.isAt s.arg.a s.arg.b) = some c)
include hc

/-- Once the bytes stand copied, the event is the release of the copy's writes and what follows it. -/
theorem execGraphCopyNodeDone_copied (h1 : s.copied c s1) : execGraphCopyNodeDone s =
    s.copyEnd c ((s1.copyMoved s.arg.a s.arg.b).hubTry (hubKey c.asid) (release (hubWho c.asid) 4)) := by
  have hc' : (s.hub.copies.find? fun x => x.place == s.arg.a && x.node == s.arg.b) = some c := hc
  unfold State.copied at h1
  split at h1
  · next hm =>
    subst h1
    simp only [execGraphCopyNodeDone, hc', hm, if_true]
    rfl
  · next hm =>
    obtain ⟨s0, hwork, rfl⟩ := h1
    have htry := State.hubTry_ok (hubWho c.asid).key hwork
    simp only [CopyNode.work] at htry
    simp only [execGraphCopyNodeDone, hc', hm, htry]
    rfl

/-- A copy whose writes are globally performed is charged and completes its node. -/
theorem execGraphCopyNodeDone_performed (h1 : s.copied c s1)
    (h2 : (release (hubWho c.asid) 4).run (s1.copyMoved s.arg.a s.arg.b) = .ok () s2) :
    execGraphCopyNodeDone s = .next ((((s2.usedReplies (hubKey c.asid)).copyGone s.arg.a s.arg.b).charge c.asid
      (s.graphAcct s.arg.a) (unitsFor c.len s.hub.copyRate) (unitsFor c.len s.hub.copyRate)).nodeDone s.arg.a s.arg.b) := by
  rw [execGraphCopyNodeDone_copied hc h1, State.hubTry_ok _ h2]
  rfl

/-- A copy whose writes are not yet performed stays, marked as moved. -/
theorem execGraphCopyNodeDone_waits {q : Option Nat} (h1 : s.copied c s1)
    (h2 : (release (hubWho c.asid) 4).run (s1.copyMoved s.arg.a s.arg.b) = .error (.wait q) s2) :
    execGraphCopyNodeDone s = .next ((s1.copyMoved s.arg.a s.arg.b).onlyBegun s2) := by
  rw [execGraphCopyNodeDone_copied hc h1, State.hubTry_wait _ h2]
  rfl

/-- A copy that traps is charged to its context and fails its node. -/
theorem execGraphCopyNodeDone_fails {k : Cause} {i : Info} (hm : c.moved = false)
    (hwork : c.work.run s = .error (.trap k i) s1) :
    execGraphCopyNodeDone s = .next ((((s1.usedReplies (hubKey c.asid)).copyGone s.arg.a s.arg.b).modCtx c.asid fun x =>
      { x with deficit := x.deficit + unitsFor c.len s.hub.copyRate }).nodeFail s.arg.a s.arg.b (.cause k)) := by
  have hc' : (s.hub.copies.find? fun x => x.place == s.arg.a && x.node == s.arg.b) = some c := hc
  have htry := State.hubTry_trap (hubWho c.asid).key hwork
  simp only [CopyNode.work] at htry
  simp only [execGraphCopyNodeDone, hc', hm, htry]
  rfl

end

/-- Settles O42: an event's `exec` is its meaning by definition, and that is its lemma above, taken by how the read or the copy ends. -/
theorem graphNodes : Obligations.GraphNodes := by
  refine ⟨fun s g => ?_, ndHit_iff, fun s c => ?_⟩
  · intro p j n hg hrun
    refine ⟨fun hst hk => ⟨fun bs al s1 hrd => ?_, fun c i s1 hrd => ?_⟩, fun hst hok hdone => ?_⟩
    · refine ⟨fun hhit hlt hok => ?_, fun (hhit : g.condHit s.arg.b bs = false) => ?_,
        fun (hhit : g.condHit s.arg.b bs = true) hle => ?_, fun (hhit : g.condHit s.arg.b bs = true) hlt hfail => ?_⟩
      · exact execGraphConditionalRead_rearms hg hrun hst hk hrd hhit (Graph.condMore_iff.2 hlt) hok
      · exact execGraphConditionalRead_completes hg hrun hst hk hrd (by simp [hhit]) (by simp [hhit])
      · have hmore : g.condMore s.arg.b = false := by simpa using mt Graph.condMore_iff.1 (Nat.not_lt.2 hle)
        exact execGraphConditionalRead_completes hg hrun hst hk hrd (by simp [hmore]) (by simp [hhit, hmore])
      · have hmore : g.condMore s.arg.b = true := Graph.condMore_iff.2 hlt
        exact execGraphConditionalRead_completes hg hrun hst hk hrd (by simpa using fun _ _ => hfail) (by simp [hmore])
    · exact execGraphConditionalRead_fails hg hrun hst hk hrd
    · exact execGraphRearm_rearms hg hrun hst hok hdone
  · intro p j hc units acct work at_ key marked gone
    have hunits : unitsFor c.len s.hub.copyRate = units := unitsFor_eq _ _
    refine ⟨fun s1 h1 => ⟨fun s2 h2 => ?_, fun q s2 h2 => ?_⟩, fun k i s1 hm hwork => ?_⟩
    · rw [← hunits]
      exact execGraphCopyNodeDone_performed hc h1 h2
    · exact ⟨_, execGraphCopyNodeDone_waits hc h1 h2, congrArg (·.copies) (State.onlyBegun_hub _ s2)⟩
    · rw [← hunits]
      exact execGraphCopyNodeDone_fails hc hm hwork

end Sys2Proof.Machine
end

section
/-! Proofs about placement: the cell allotment (R112 to R114), where a gang goes (R115 to R117) and how a team starts (R22 to R25, R118). -/
namespace Sys2Proof.Machine

/-! ### Folds of steps that all keep something -/

/-- A fold keeps what every step of it keeps. -/
theorem foldl_keeps {α : Type} {R : State → State → Prop} (hrefl : ∀ s, R s s) (htrans : ∀ {s t u}, R s t → R t u → R s u)
    {f : State → α → State} (hf : ∀ s x, R s (f s x)) : ∀ (xs : List α) (s : State), R s (xs.foldl f s)
  | [], s => hrefl s
  | x :: xs, s => htrans (hf s x) (foldl_keeps hrefl htrans hf xs (f s x))

/-! ### Requests for pre-emption change only cells -/

/-- The states differ in their cells alone. -/
def State.CellsOnly (s s' : State) : Prop := ∃ cs, s' = { s with cells := cs }

theorem State.CellsOnly.refl (s : State) : s.CellsOnly s := ⟨s.cells, rfl⟩

theorem State.CellsOnly.trans {s t u : State} (h : s.CellsOnly t) (k : t.CellsOnly u) : s.CellsOnly u := by
  obtain ⟨cs, rfl⟩ := h
  obtain ⟨ds, rfl⟩ := k
  exact ⟨ds, rfl⟩

section
variable (s : State) (c : Nat)

theorem State.setCell_cellsOnly (x : Cell) : s.CellsOnly (s.setCell c x) := ⟨_, rfl⟩

theorem State.modTeam_here_cellsOnly (b : Bool) (f : Team → Team) : s.CellsOnly (s.modTeam (.here c b) f) := by
  unfold State.modTeam
  split
  · exact ⟨_, rfl⟩
  · exact .refl s

theorem State.modAct_cellsOnly (f : Team → Team) : s.CellsOnly (s.modAct c f) := s.modTeam_here_cellsOnly c _ f

theorem State.cancelSwitch_cellsOnly : s.CellsOnly (s.cancelSwitch c) := by
  unfold State.cancelSwitch
  dsimp only
  split
  · exact .refl s
  · exact (s.setCell_cellsOnly c _).trans (State.modAct_cellsOnly _ c _)

theorem State.abandonSwitch_cellsOnly : s.CellsOnly (s.abandonSwitch c) := by
  unfold State.abandonSwitch
  split
  · exact (s.cancelSwitch_cellsOnly c).trans (State.modAct_cellsOnly _ c _)
  · exact .refl s

theorem State.requestPre_cellsOnly (l : Loc) (why : PreWhy) : s.CellsOnly (s.requestPre l why) := by
  unfold State.requestPre
  split
  · split
    · exact .refl s
    · split
      · split
        · exact s.modTeam_here_cellsOnly _ _ _
        · exact .refl s
      · split
        · exact (s.cancelSwitch_cellsOnly _).trans (State.modTeam_here_cellsOnly _ _ _ _)
        · exact (s.abandonSwitch_cellsOnly _).trans (State.modTeam_here_cellsOnly _ _ _ _)
  · exact .refl s

end

/-! ### The allotment table (R112 to R114) -/

/-- Memory, the allotment and the changes that wait in it are the same. -/
structure State.SameAllot (s s' : State) : Prop where
  mem : s'.mem = s.mem
  allot : s'.hub.allot = s.hub.allot
  pend : s'.hub.allotPend = s.hub.allotPend

theorem State.SameAllot.refl (s : State) : s.SameAllot s := ⟨rfl, rfl, rfl⟩

theorem State.SameAllot.trans {s t u : State} (h : s.SameAllot t) (k : t.SameAllot u) : s.SameAllot u :=
  ⟨k.mem.trans h.mem, k.allot.trans h.allot, k.pend.trans h.pend⟩

/-- Sending a gang out changes residents and cells alone. -/
theorem State.sendOut_sameAllot (s : State) (x : Gang) (why : PreWhy) : s.SameAllot (s.sendOut x why) := by
  unfold State.sendOut
  obtain ⟨cs, hcs⟩ := foldl_keeps (R := State.CellsOnly) State.CellsOnly.refl State.CellsOnly.trans
    (fun s l => s.requestPre_cellsOnly l why) (State.gangLocs _ x) _
  rw [hcs]
  exact ⟨rfl, rfl, rfl⟩

/-- The value asked for waits in the table, unless the cell has it (log 97). -/
def State.askAllot (s : State) (c : Nat) (v : BitVec 2 × BitVec 10) : State :=
  { s with hub := { s.hub with
      allotPend := if v == s.allotOf c then Tab.del s.hub.allotPend c else Tab.put s.hub.allotPend c v } }

/-- Gangs on a cell whose allotment is to change are sent out (R114). -/
def State.clearFor (s : State) (c : Nat) : State :=
  (s.hub.residents.filter fun r => (Tab.find s.hub.allotPend c).isSome && (s.gangOn r.gang).contains c).foldl
    (fun s r => s.sendOut r.gang .swap) s

/-- A context has started to run. -/
def State.withTenants (s : State) (ts : Sparse Tenant) : State := { s with hub := { s.hub with tenants := ts } }

theorem State.tenantRuns_eq (s : State) (a : Nat) : ∃ ts, s.tenantRuns a = s.withTenants ts := by
  unfold State.tenantRuns
  dsimp only
  split
  · exact ⟨_, rfl⟩
  · exact ⟨s.hub.tenants, rfl⟩

section
variable (s : State) (c : Nat) (v : BitVec 2 × BitVec 10)

theorem State.find_askAllot :
    Tab.find (s.askAllot c v).hub.allotPend c = if s.allotOf c = v then none else some v := by
  by_cases h : v = s.allotOf c
  · simp [State.askAllot, h, Tab.find_del]
  · simp [State.askAllot, h, Ne.symm h, Tab.find_put]

theorem State.clearFor_sameAllot : s.SameAllot (s.clearFor c) :=
  foldl_keeps (α := Resident) State.SameAllot.refl State.SameAllot.trans (fun s r => s.sendOut_sameAllot r.gang .swap) _ s

/-- Where no change waits, no gang is sent out. -/
theorem State.clearFor_none (h : Tab.find s.hub.allotPend c = none) : s.clearFor c = s := by
  simp [State.clearFor, h]

/-- A change of an occupied cell keeps waiting. -/
theorem State.applyAllot_occupied (h : (s.cell c).a.isSome ∨ (s.cell c).b.isSome ∨ (s.pass c).isSome) :
    s.applyAllot c = s := by
  unfold State.applyAllot
  split
  · rfl
  · refine if_neg fun hempty => ?_
    simp only [Bool.and_eq_true, Option.isNone_iff_eq_none] at hempty
    obtain ⟨⟨ha, hb⟩, hp⟩ := hempty
    simp [State.pass, ha, hb, hp] at h

/-- A change of an empty cell takes effect: its entry is the value that waited, or stays. -/
theorem State.applyAllot_empty (ha : (s.cell c).a = none) (hb : (s.cell c).b = none) (hp : s.pass c = none) :
    (∀ d, (s.applyAllot c).allotOf d = if d = c then (Tab.find s.hub.allotPend c).getD (s.allotOf c) else s.allotOf d) ∧
    Tab.find (s.applyAllot c).hub.allotPend c = none ∧ (s.applyAllot c).cells = s.cells ∧ (s.applyAllot c).mem = s.mem := by
  unfold State.applyAllot
  split
  · next hnone => exact ⟨fun d => by by_cases hd : d = c <;> simp [hd, hnone], hnone, rfl, rfl⟩
  · next v hv =>
    have hp' : Tab.find s.rm.passes c = none := hp
    simp only [ha, hb, hp', hv, Option.isNone_none, Bool.and_self, if_true, Option.getD_some]
    exact ⟨fun d => Sparse.get_set _ _ _ _ _, by simp [Tab.find_del], trivial, trivial⟩

end

/-- A field as a number is the field's bits. -/
theorem fld_eq_toNat (w : Word) (lo n : Nat) : fld w lo n = (w.extractLsb' lo n).toNat := by
  simp [fld, BitVec.extractLsb'_toNat]

/-- Kind and context of the value that CELL_ALLOT_WRITE writes (R112). -/
def allotKind (w : Word) : BitVec 2 := w.extractLsb' 30 2
def allotAsid (w : Word) : BitVec 10 := if allotKind w = 1 then w.extractLsb' 19 10 else 0

theorem allotKind_toNat (w : Word) : (allotKind w).toNat = fld w 30 2 := (fld_eq_toNat w 30 2).symm

theorem allotKind_eq_iff (w : Word) (k : BitVec 2) : fld w 30 2 = k.toNat ↔ allotKind w = k := by
  rw [← allotKind_toNat, BitVec.toNat_eq]

theorem allotAsid_toNat (w : Word) : (allotAsid w).toNat = if fld w 30 2 = 1 then fld w 19 10 else 0 := by
  have hk : fld w 30 2 = 1 ↔ allotKind w = 1 := allotKind_eq_iff w 1
  by_cases h : allotKind w = 1
  · rw [allotAsid, if_pos h, if_pos (hk.2 h), fld_eq_toNat]
  · rw [allotAsid, if_neg h, if_neg (mt hk.1 h)]
    rfl

/-- A write that the hub accepts: a legal value for a cell that the device has. -/
def State.allotAccepts (s : State) (c : Nat) (w : Word) : Prop :=
  c < 256 ∧ allotKind w ≠ 3 ∧ (allotKind w = 1 → allotAsid w ≠ 0) ∧ (s.boot.minimal = true → c < 64) ∧
    (s.cell c).lost = false ∧ s.boot.start = .up

/-- An accepted write asks for its value, applies it to an empty cell, and sends out the gangs of another. -/
theorem execCellAllotWrite_accepted {s : State} (h : s.allotAccepts s.arg.a (nth s.arg.w 0)) :
    ∃ ts, execCellAllotWrite s = .next ((((s.withTenants ts).askAllot s.arg.a
      (allotKind (nth s.arg.w 0), allotAsid (nth s.arg.w 0))).applyAllot s.arg.a).clearFor s.arg.a) := by
  obtain ⟨hc, h3, h1, hmin, hlost, hup⟩ := h
  unfold execCellAllotWrite
  generalize nth s.arg.w 0 = w at h3 h1 ⊢
  have hk3 : fld w 30 2 ≠ 3 := mt (allotKind_eq_iff w 3).1 h3
  have hk1 : fld w 30 2 = 1 → (allotAsid w).toNat ≠ 0 := fun h h0 =>
    h1 ((allotKind_eq_iff w 1).1 h) (BitVec.eq_of_toNat_eq h0)
  simp only [← allotAsid_toNat]
  rw [if_neg (by simpa [hlost, hup, hk3, Nat.not_le.2 hc] using ⟨hk1, hmin⟩)]
  simp only [← allotKind_toNat, BitVec.ofNat_toNat, BitVec.setWidth_eq]
  split
  · obtain ⟨ts, hts⟩ := s.tenantRuns_eq (allotAsid w).toNat
    exact ⟨ts, by rw [hts]; rfl⟩
  · exact ⟨s.hub.tenants, rfl⟩

/-- An accepted write to an empty cell takes effect at once (R114). -/
theorem execCellAllotWrite_empty {s : State} (h : s.allotAccepts s.arg.a (nth s.arg.w 0))
    (ha : (s.cell s.arg.a).a = none) (hb : (s.cell s.arg.a).b = none) (hp : s.pass s.arg.a = none) :
    ∃ s', execCellAllotWrite s = .next s' ∧
      s'.allotOf s.arg.a = (allotKind (nth s.arg.w 0), allotAsid (nth s.arg.w 0)) ∧
      Tab.find s'.hub.allotPend s.arg.a = none ∧ (∀ d, d ≠ s.arg.a → s'.allotOf d = s.allotOf d) ∧
      s'.cells = s.cells ∧ s'.mem = s.mem := by
  obtain ⟨ts, hexec⟩ := execCellAllotWrite_accepted h
  generalize (allotKind (nth s.arg.w 0), allotAsid (nth s.arg.w 0)) = v at hexec ⊢
  obtain ⟨hallot, hpend, hcells, hmem⟩ :=
    ((s.withTenants ts).askAllot s.arg.a v).applyAllot_empty s.arg.a ha hb hp
  rw [State.clearFor_none _ _ hpend] at hexec
  refine ⟨_, hexec, ?_, hpend, fun d hd => (hallot d).trans (if_neg hd), hcells, hmem⟩
  have hask := (s.withTenants ts).find_askAllot s.arg.a v
  have hsame : ((s.withTenants ts).askAllot s.arg.a v).allotOf s.arg.a = (s.withTenants ts).allotOf s.arg.a := rfl
  rw [hallot, if_pos rfl, hask, hsame]
  split
  · next heq => exact heq
  · rfl

/-- An accepted write to an occupied cell waits where it changes the entry, and withdraws what waited where it does not. -/
theorem execCellAllotWrite_occupied {s : State} (h : s.allotAccepts s.arg.a (nth s.arg.w 0))
    (hocc : (s.cell s.arg.a).a.isSome ∨ (s.cell s.arg.a).b.isSome ∨ (s.pass s.arg.a).isSome) :
    ∃ s', execCellAllotWrite s = .next s' ∧
      Tab.find s'.hub.allotPend s.arg.a =
        (if s.allotOf s.arg.a = (allotKind (nth s.arg.w 0), allotAsid (nth s.arg.w 0)) then none
         else some (allotKind (nth s.arg.w 0), allotAsid (nth s.arg.w 0))) ∧
      s'.hub.allot = s.hub.allot ∧ s'.mem = s.mem := by
  obtain ⟨ts, hexec⟩ := execCellAllotWrite_accepted h
  generalize (allotKind (nth s.arg.w 0), allotAsid (nth s.arg.w 0)) = v at hexec ⊢
  rw [State.applyAllot_occupied ((s.withTenants ts).askAllot s.arg.a v) _ hocc] at hexec
  obtain ⟨hmem, hallot, hpend⟩ := ((s.withTenants ts).askAllot s.arg.a v).clearFor_sameAllot s.arg.a
  refine ⟨_, hexec, ?_, hallot, hmem⟩
  rw [hpend]
  exact State.find_askAllot _ _ _

/-! ### The cells of a gang (R116, R117) -/

/-- What a fit gives are cells that it was given. -/
theorem fitUnits_subset : ∀ (levels : List (Nat × Nat)) (ns cs : List Nat) {got : List Nat},
    fitUnits levels ns cs = some got → got ⊆ cs
  | [], ns, cs, got, h => by
    obtain ⟨-, rfl⟩ : ns.length ≤ cs.length ∧ cs.take ns.length = got := by simpa [fitUnits] using h
    exact List.take_subset _ _
  | (dom, size) :: inner, ns, cs, got, h => by
    rw [fitUnits] at h
    refine List.foldlRecOn (motive := fun acc => ∀ got, acc = some got → got ⊆ cs) _ _ ?_ (fun acc hacc u _ => ?_) got h
    · rintro _ ⟨⟩
      exact List.nil_subset cs
    · intro got hgot
      obtain ⟨before, rfl, hfit⟩ := Option.bind_eq_some_iff.1 hgot
      obtain ⟨i, -, hi⟩ := List.exists_of_findSome?_eq_some hfit
      obtain ⟨unit, hunit, rfl⟩ := Option.map_eq_some_iff.1 hi
      refine List.append_subset.2 ⟨hacc before rfl, fun c hc => ?_⟩
      exact List.mem_of_mem_filter (List.mem_of_mem_filter (fitUnits_subset inner _ _ hunit hc))

/-- The cells on which a gang goes are free for its grid's stage and allotment. -/
theorem State.gangCells_free {s : State} {a : Nat} {x : Gang} {ok : Nat → Bool} {cs : List Nat}
    (h : s.gangCells a x ok = some cs) :
    ∃ g, s.grid x.grid = some g ∧ ∀ c ∈ cs, s.cellFree a (lrStage g.lrec) (lrVallot g.lrec) c = true := by
  unfold State.gangCells at h
  split at h
  · cases h
  · next g hg =>
    refine ⟨g, hg, fun c hc => ?_⟩
    dsimp only at h
    suffices hfree : c ∈ (s.cellsHeld a).filter fun c =>
        s.cellFree a (lrStage g.lrec) (lrVallot g.lrec) c && ok c && !(x.swapped && s.leavingOn c) by
      obtain ⟨-, hok⟩ := List.mem_filter.1 hfree
      simp only [Bool.and_eq_true] at hok
      obtain ⟨⟨hcell, -⟩, -⟩ := hok
      exact hcell
    split at h
    · split at h
      · obtain ⟨c0, hc0, rfl⟩ := Option.map_eq_some_iff.1 h
        rw [List.mem_singleton.1 hc]
        exact List.mem_of_mem_filter (List.mem_of_mem_head? hc0)
      · cases h
    · exact fitUnits_subset _ _ _ h hc

section
variable {s : State} {x : Gang} {rest : List Gang} (hplaces : (s.ctx s.arg.a).places = x :: rest) (hhead : s.arg.b = 0)
  (hup : s.hubUp = true) (hrun : s.mayRun s.arg.a = true)
include hplaces hhead hup hrun

/-- The head gang stays in its queue while it does not fit. -/
theorem execGangPlace_none (hno : s.gangCells s.arg.a x (fun _ => true) = none) : execGangPlace s = .next s := by
  simp [execGangPlace, hplaces, hhead, hup, hrun, hno]

/-- The head gang leaves its queue for the cells that it fits. -/
theorem execGangPlace_some {cs : List Nat} (hcs : s.gangCells s.arg.a x (fun _ => true) = some cs) :
    execGangPlace s = .next ((s.modCtx s.arg.a fun y => { y with places := rest }).placeGang x cs) := by
  simp [execGangPlace, State.modCtx, hplaces, hhead, hup, hrun, hcs]

end

/-! ### A team at its first placement (R22, R118) -/

@[simp] theorem Cell.team_setSave (x : Cell) (b k : Bool) (v : Option Shared) : (x.setSave b v).team k = x.team k := by
  cases b <;> rfl

/-- Seating a team puts it into its stage and leaves the other stage's team. -/
theorem State.team_seat (s : State) (c : Nat) (b : Bool) (t : Team) :
    ((s.seat c b t).cell c).team b = some t ∧ ((s.seat c b t).cell c).team (!b) = (s.cell c).team (!b) := by
  simp only [State.seat, State.cell_modCell_self]
  split
  · exact ⟨(Cell.team_setSave _ b b none).trans (Cell.team_setTeam_self ..),
      (Cell.team_setSave _ b (!b) none).trans (Cell.team_setTeam_other ..)⟩
  · simp

/-- A team for which no signal is kept is seated as a new team of its grid. -/
theorem State.team_placeTeam {s : State} {gid n : Nat} {g : Grid} (c : Nat) (hg : s.grid gid = some g)
    (hkept : ∀ k ∈ g.kept, k.1 ≠ n) :
    ((s.placeTeam gid c n).cell c).team (lrStage g.lrec) = some (newTeam gid g n s.now) ∧
    ((s.placeTeam gid c n).cell c).team (!lrStage g.lrec) = (s.cell c).team (!lrStage g.lrec) ∧
    (s.placeTeam gid c n).mem = s.mem := by
  have hmine : (g.kept.filter fun k => k.1 == n) = [] := by simpa [List.filter_eq_nil_iff] using hkept
  obtain ⟨hself, hother⟩ := s.team_seat c (lrStage g.lrec) (newTeam gid g n s.now)
  simp only [State.placeTeam, hg, hmine, List.foldl_nil]
  exact ⟨hself, hother, rfl⟩

/-- A register read after a register write, in a team that is not privileged and has no load outstanding. -/
theorem Team.sreg_putReg {t : Team} (hpriv : t.priv = false) (hloads : t.loads = []) {r : Nat} (hr : r ≠ 0) (v : Word) (k : Nat) :
    (t.putReg r v).sreg k = if k = r then v else t.sreg k := by
  by_cases hk : k = 0
  · simp [Team.sreg, hk, Ne.symm hr]
  · simp [Team.sreg, Team.putReg, Team.regOf, hpriv, hloads, hr, hk, Sparse.get_set]

theorem Team.putReg_priv (t : Team) (r : Nat) (v : Word) : (t.putReg r v).priv = t.priv := by
  unfold Team.putReg
  split
  · rfl
  · split <;> rfl

theorem Team.putReg_loads (t : Team) (r : Nat) (v : Word) : (t.putReg r v).loads = t.loads := by
  unfold Team.putReg
  split
  · rfl
  · split <;> rfl

/-- The level ids of a team's words (R24, R25). -/
theorem getD_lvlIds (r : List Word) (n : Nat) {i : Nat} (hi : i < 8) : (lvlIds r n).getD i 0 =
    if i < lrNlev r then BitVec.ofNat 32 (65536 * lrExtent r i + n / lrTeams r i % lrExtent r i) else 0x10000 := by
  simp [lvlIds, hi, at_, Nat.shiftLeft_eq, Nat.mul_comm]

/-- What the registers of a new team hold (R22). -/
theorem newTeam_sreg (gid : Nat) (g : Grid) (n now r : Nat) : (newTeam gid g n now).sreg r =
    if r = 4 then wd (lrSpilloff g.lrec + 64 * lrSpillstride g.lrec * n) else if r = 3 then wd (lrSpillh g.lrec)
    else if r = 2 then wd (lrArgh g.lrec) else if r = 1 then wd (lrArgoff g.lrec) else 0 := by
  unfold newTeam
  dsimp only
  iterate 4 rw [Team.sreg_putReg (by simp [Team.putReg_priv]) (by simp [Team.putReg_loads]) (by decide)]
  simp [Team.sreg, Team.regOf]

/-- Settles O44, by the lemmas above: an accepted write of the allotment in an empty and in an occupied cell, the head gang that
fits and that does not, the seat of a team placed for the first time, and what a new team holds. -/
theorem placement : Obligations.Placement := by
  refine ⟨fun s => ?_, fun s x rest => ?_, fun s gid c n g hg hkept => ?_, fun gid n now g => ?_⟩
  · intro c w kind asid hc h3 h1 hmin hlost hup
    have hacc : s.allotAccepts s.arg.a (nth s.arg.w 0) := ⟨hc, h3, h1, hmin, hlost, hup⟩
    exact ⟨execCellAllotWrite_empty hacc, execCellAllotWrite_occupied hacc⟩
  · intro a hplaces hhead hstart hready hrun
    have hup : s.hubUp = true := by simp [State.hubUp, hstart, hready]
    exact ⟨execGangPlace_none hplaces hhead hup hrun, fun cs hcs =>
      ⟨execGangPlace_some hplaces hhead hup hrun hcs, State.gangCells_free hcs⟩⟩
  · exact ⟨_, rfl, State.team_placeTeam c hg hkept⟩
  · intro t spill
    exact ⟨rfl, rfl, rfl, rfl, rfl, newTeam_sreg .., newTeam_sreg .., newTeam_sreg .., newTeam_sreg ..,
      fun r h5 _ => by rw [newTeam_sreg]; simp [show r ≠ 1 ∧ r ≠ 2 ∧ r ≠ 3 ∧ r ≠ 4 by omega], rfl, rfl,
      fun i hi => getD_lvlIds g.lrec n hi⟩

end Sys2Proof.Machine
end

section
/-! Proofs about matrix products: their issue (R281 to R286), their landing (R285, R287) and the accumulator (R73, R74). -/
namespace Sys2Proof.Machine

/-! ### A stream put back on its instruction -/

@[simp] theorem engineOf_stream (e : Engine) : engineOf e.stream = some e := by cases e <;> rfl

section
variable {s : State} {c : Nat} {t : Team} {e : Engine} {len : Nat}

/-- A stream that is put back on the instruction it was moved past leaves its team as it was. -/
theorem State.rewound_past (s : State) (c : Nat) (t : Team) (e : Engine) (len : Nat) :
    (s.withTeam c (t.past e.stream len)).rewound c e.stream (t.pcOf e.stream) t.nt0.pos t.nt1.pos = s.withTeam c t := by
  rw [State.rewound, State.modAct_withTeam]
  congr 1
  simp only [Team.past, engineOf_stream, Team.setPc, Team.pcOf]
  cases hn : (t.eng e).nest with
  | none => cases e <;> rfl
  | some k =>
    simp only [Option.isSome_some, if_true, Team.nestStep, hn]
    cases e <;> cases k <;> rfl

/-- An instruction of an engine stream that waits: the stream stands at it, and only in the vector stream a cycle passes. -/
theorem engineOp_wait {body : M Unit} (h : EngineIssues s c e t)
    (hb : body.run (s.withTeam c (t.past e.stream len)) = .error (.wait none) (s.withTeam c (t.past e.stream len))) :
    engineOp e len body s = .next (if e = .vector then (s.withTeam c t).streamCycle c else s.withTeam c t) := by
  obtain ⟨⟨hc, ha⟩, hp⟩ := h
  have hback := State.rewound_past s c t e len
  cases e <;> simp_all [engineOp, runAt, State.passed_of_act ha, Engine.stream]

/-- A step of a nest leaves what its address generators add. -/
theorem Team.agOffset_past (t : Team) (e : Engine) (len g : Nat) :
    (((t.past e.stream len).running e).elim 0 fun n => n.agOffset g) = (t.running e).elim 0 fun n => n.agOffset g := by
  simp only [Team.past, engineOf_stream, Team.running, Team.setPc]
  cases hn : (t.eng e).nest with
  | none => cases e <;> simp_all [Team.modEng, Team.setEng, Team.eng]
  | some k =>
    simp only [Option.isSome_some, if_true, Team.nestStep, hn]
    cases e <;> cases k <;> simp_all [Team.modEng, Team.setEng, Team.eng, Team.setSlot, Team.slot, NestSlot.agOffset]

theorem runw_agOffset (hc : s.cur = .stream c e.stream) (nr : Bool) (g : Nat) :
    (agOffset nr g).run (s.withTeam c t) = .ok (if nr then (t.running e).elim 0 fun n => n.agOffset g else 0) (s.withTeam c t) := by
  cases nr <;> simp [agOffset, runw_theStream hc, runw_team hc]

end

/-! ### What moving past the instruction leaves -/

section
variable (t : Team) (st : Stream) (len : Nat)

theorem Team.past_vaultTiles : (t.past st len).tiles = t.tiles ∧ (t.past st len).vault = t.vault ∧
    (t.past st len).vpoison = t.vpoison := by
  unfold Team.past
  split
  · exact ⟨rfl, rfl, rfl⟩
  · next e he =>
    simp only [Team.nestStep, Team.setPc, he]
    cases (t.eng e).nest with
    | none => cases e <;> exact ⟨rfl, rfl, rfl⟩
    | some k => cases e <;> cases k <;> exact ⟨rfl, rfl, rfl⟩

@[simp] theorem Team.tile_past (n : Nat) : (t.past st len).tile n = t.tile n := by
  simp only [Team.tile, Team.past_vaultTiles]

@[simp] theorem Team.vaultRd_past (off n : Nat) : (t.past st len).vaultRd off n = t.vaultRd off n := by
  simp only [Team.vaultRd, Team.past_vaultTiles]

end

/-! ### Bytes read from a vault (R323) -/

@[simp] theorem Memory.length_rdBytes (m : Memory) : ∀ (a n : Nat), (m.rdBytes a n).length = n
  | _, 0 => rfl
  | a, n + 1 => by simp [Memory.rdBytes, Memory.length_rdBytes m (a + 1) n]

theorem Memory.rdBytes_add (m : Memory) (k : Nat) : ∀ (a n : Nat), m.rdBytes a (n + k) = m.rdBytes a n ++ m.rdBytes (a + n) k
  | a, 0 => by simp [Memory.rdBytes]
  | a, n + 1 => by
    rw [Nat.succ_add]
    simp [Memory.rdBytes, Memory.rdBytes_add m k (a + 1) n, Nat.add_assoc, Nat.add_comm 1 n]

/-- Bytes inside a run that has been read are those at their own address. -/
theorem Memory.take_drop_rdBytes (m : Memory) {a n i k : Nat} (h : i + k ≤ n) :
    ((m.rdBytes a n).drop i).take k = m.rdBytes (a + i) k := by
  obtain ⟨r, rfl⟩ := Nat.exists_eq_add_of_le h
  rw [Nat.add_assoc, Memory.rdBytes_add, List.drop_left' (by simp), Memory.rdBytes_add, List.take_left' (by simp)]

theorem Team.vaultRd_eq_of_isSome {t : Team} {off n : Nat} (h : (t.vaultRd off n).isSome = true) :
    t.vaultRd off n = some (t.vault.rdBytes off n) := by
  unfold Team.vaultRd at h ⊢
  split at h
  · simp at h
  · next hclean => rw [if_neg hclean]

/-! ### A product at issue (R282 to R286) -/

section
variable (t : Team) (kind : Nat) (x : M64)

/-- The offset that NR and AG add to an operand of the matrix stream (R162). -/
def Team.matrixOffset (nr : BitVec 1) (g : BitVec 2) : Int :=
  if nr = 1 then (t.running .matrix).elim 0 fun n => n.agOffset g.toNat else 0

@[simp] theorem Team.matrixOffset_past (len : Nat) (nr : BitVec 1) (g : BitVec 2) :
    (t.past .matrix len).matrixOffset nr g = t.matrixOffset nr g := by
  have h := Team.agOffset_past t .matrix len g.toNat
  simp only [Engine.stream] at h
  simp only [Team.matrixOffset, h]

/-- What a product asks of the checks of R301. -/
def Team.productReq : PReq :=
  { kind := kind, pa := (t.tile x.ta.toNat).prec, pb := (t.tile x.tb.toNat).prec,
    aOff := t.matrixOffset x.nra x.aga, bOff := t.matrixOffset x.nrb x.agb }

/-- What the array waits for: operands FULL, the bank EMPTY, a place in the queue (R282, R284). -/
abbrev Team.productReady (sh : Shared) : Prop :=
  (kind ≠ 3 → (t.tile x.ta.toNat).full = true) ∧ (t.tile x.tb.toNat).full = true ∧
    (readsIdx kind x = true → (t.tile x.tc.toNat).full = true) ∧ sh.full (x.ab == 1) = false ∧ sh.array.length < 3

/-- The product that joins the array queue (R285), with its index entries. -/
def Team.productOf (idx : List Nat) : Product :=
  let a := t.tile x.ta.toNat
  let b := t.tile x.tb.toNat
  { kind := kind, sub := x.sub.toNat, bank := x.ab == 1, m := x.rows, n := x.cols, a := a, b := b,
    sa := t.tile (pfSslot a.prec), sb := t.tile (pfSslot b.prec), ta := x.ta.toNat, tb := x.tb.toNat,
    aOff := t.matrixOffset x.nra x.aga, bOff := t.matrixOffset x.nrb x.agb, idx := idx }

/-- The shared state of the cell with the product queued and its bank bound and DIRTY (R283, R473). -/
def Shared.queued (sh : Shared) (x : M64) (p : Product) : Shared :=
  { ((sh.setTensors (x.ab == 1) (if p.kind = 3 then 0x3F800000 else tensorOf p.a.prec p.a.tscale)
      (tensorOf p.b.prec p.b.tscale)).setDirty (x.ab == 1) true) with array := sh.array ++ [p] }

/-- The index entries that the vault holds. -/
def idxEntries (m : Nat) (bs : List Byte) : List Nat := (List.range m).map fun r => leNat ((bs.drop (2 * r)).take 2)

end

/-- The entries of an index slot lie two bytes apart (R286). -/
theorem idxEntries_rdBytes (m : Memory) (a k : Nat) :
    idxEntries k (m.rdBytes a (2 * k)) = (List.range k).map fun i => leNat (m.rdBytes (a + 2 * i) 2) :=
  List.map_congr_left fun i hi => by rw [m.take_drop_rdBytes (by have := List.mem_range.1 hi; omega)]

theorem readsIdx_iff (kind : Nat) (x : M64) : readsIdx kind x = true ↔ kind = 2 ∨ kind = 3 ∧ (x.sub = 1 ∨ x.sub = 3) := by
  simp [readsIdx]

theorem tensorOf_eq (y : Tile) : (if y.prec.extractLsb' 12 2 = 2 then y.tscale else 0x3F800000) = tensorOf y.prec y.tscale := by
  have h : y.prec.extractLsb' 12 2 = 2 ↔ pfSmode y.prec = 2 := by
    rw [pfSmode, ← BitVec.toNat_inj]; rfl
  simp only [tensorOf, h]

/-- The wait for an operand slot that the product uses. -/
def waitOperand (used : Prop) [Decidable used] (n : Nat) : M Unit := if used then waitSlot n true else pure ()

/-- What a product that passes its checks waits for. -/
def productWaits (kind : Nat) (x : M64) : M Unit := do
  waitOperand (kind ≠ 3) x.ta.toNat
  waitSlot x.tb.toNat true
  waitOperand (readsIdx kind x = true) x.tc.toNat
  waitBank (x.ab == 1)
  waitFor (decide ((<- shared).array.length < 3))

/-- The index entries that a product reads at issue (R288, R289). -/
def productIndex (kind : Nat) (x : M64) (t : Team) : M (List Nat) :=
  if readsIdx kind x then do pure (idxEntries x.rows (<- vaultLoad (t.tile x.tc.toNat).base.toNat (2 * x.rows))) else pure []

/-- Issue of a product, by its parts: checks, waits, index entries, the queue. -/
theorem issueProduct_eq (kind : Nat) (x : M64) : issueProduct kind x = (do
    let t <- team
    let ag <- agOffset (x.nra == 1) x.aga.toNat
    let bg <- agOffset (x.nrb == 1) x.agb.toNat
    productChecks x { kind := kind, pa := (t.tile x.ta.toNat).prec, pb := (t.tile x.tb.toNat).prec, aOff := ag, bOff := bg }
    productWaits kind x
    let idx <- productIndex kind x t
    modShared fun sh => sh.queued x { t.productOf kind x idx with aOff := ag, bOff := bg }) := by
  unfold issueProduct productWaits productIndex waitOperand
  rcases eq_or_ne kind 3 with rfl | hk
  · cases readsIdx 3 x <;> simp [Shared.queued, Team.productOf, idxEntries]
  · cases readsIdx kind x <;> simp [hk, Shared.queued, Team.productOf, idxEntries]

section
variable {s : State}

/-- Two waits, one after the other. -/
theorem run_gates {m k : M Unit} {e : Exc} {a b : Prop} [Decidable a] [Decidable b]
    (hm : m.run s = if a then .ok () s else .error e s) (hk : k.run s = if b then .ok () s else .error e s) :
    (do m; k).run s = if a ∧ b then .ok () s else .error e s := by
  by_cases ha : a <;> simp [hm, hk, ha]

variable {c : Nat} (hc : s.cur = .stream c .matrix) (t : Team) (x : M64) (kind : Nat)
include hc

theorem runw_matrixOffset (nr : BitVec 1) (g : BitVec 2) :
    (agOffset (nr == 1) g.toNat).run (s.withTeam c t) = .ok (t.matrixOffset nr g) (s.withTeam c t) := by
  simpa [Team.matrixOffset] using runw_agOffset (e := .matrix) (t := t) hc (nr == 1) g.toNat

theorem runw_waitSlot (n : Nat) : (waitSlot n true).run (s.withTeam c t) =
    if (t.tile n).full = true then .ok () (s.withTeam c t) else .error (.wait none) (s.withTeam c t) := by
  simp [waitSlot, runw_team hc, run_waitFor]

theorem runw_waitOperand (used : Prop) [Decidable used] (n : Nat) : (waitOperand used n).run (s.withTeam c t) =
    if used → (t.tile n).full = true then .ok () (s.withTeam c t) else .error (.wait none) (s.withTeam c t) := by
  by_cases h : used <;> simp [waitOperand, h, runw_waitSlot hc]

theorem runw_waitBank (bank : Bool) : (waitBank bank).run (s.withTeam c t) =
    if (s.cell c).sh.full bank = false then .ok () (s.withTeam c t) else .error (.wait none) (s.withTeam c t) := by
  simp [waitBank, runw_shared hc, run_waitFor]

theorem runw_waitRoom : (do waitFor (decide ((<- shared).array.length < 3)) : M Unit).run (s.withTeam c t) =
    if (s.cell c).sh.array.length < 3 then .ok () (s.withTeam c t) else .error (.wait none) (s.withTeam c t) := by
  simp [runw_shared hc, run_waitFor]

theorem runw_productWaits : (productWaits kind x).run (s.withTeam c t) =
    if t.productReady kind x (s.cell c).sh then .ok () (s.withTeam c t) else .error (.wait none) (s.withTeam c t) :=
  run_gates (runw_waitOperand hc t (kind ≠ 3) x.ta.toNat) <| run_gates (runw_waitSlot hc t x.tb.toNat) <|
    run_gates (runw_waitOperand hc t (readsIdx kind x = true) x.tc.toNat) <|
    run_gates (runw_waitBank hc t (x.ab == 1)) (runw_waitRoom hc t)

omit hc in
theorem runw_productIndex_none (h : readsIdx kind x = false) :
    (productIndex kind x t).run (s.withTeam c t) = .ok [] (s.withTeam c t) := by
  simp [productIndex, h]

theorem runw_productIndex_some {bs : List Byte} (h : readsIdx kind x = true)
    (hbs : t.vaultRd (t.tile x.tc.toNat).base.toNat (2 * x.rows) = some bs) :
    (productIndex kind x t).run (s.withTeam c t) = .ok (idxEntries x.rows bs) (s.withTeam c t) := by
  simp [productIndex, h, vaultLoad, runw_team hc, hbs]

theorem runw_modShared (f : Shared → Shared) :
    (modShared f).run (s.withTeam c t) = .ok () ((s.withTeam c t).withShared c (f (s.cell c).sh)) := by
  rw [run_modShared (by simpa using hc), State.withShared, State.modCell, State.modCell, State.cell_withTeam, Cell.sh_setTeam]

section
variable (hchk : (productChecks x (t.productReq kind x)).run (s.withTeam c t) = .ok () (s.withTeam c t))
include hchk

/-- A product that passes its checks and is not ready waits, before it has changed anything. -/
theorem issueProduct_waits (hr : ¬ t.productReady kind x (s.cell c).sh) :
    (issueProduct kind x).run (s.withTeam c t) = .error (.wait none) (s.withTeam c t) := by
  simp only [Team.productReq] at hchk
  have hwait := runw_productWaits hc t x kind
  rw [if_neg hr] at hwait
  simp only [issueProduct_eq, EStateM.run_bind, runw_team hc, runw_matrixOffset hc, hchk, hwait]

/-- A product that passes its checks and is ready joins the array queue with the index entries read. -/
theorem issueProduct_queues (hr : t.productReady kind x (s.cell c).sh) {idx : List Nat}
    (hidx : (productIndex kind x t).run (s.withTeam c t) = .ok idx (s.withTeam c t)) :
    (issueProduct kind x).run (s.withTeam c t) =
      .ok () ((s.withTeam c t).withShared c ((s.cell c).sh.queued x (t.productOf kind x idx))) := by
  simp only [Team.productReq] at hchk
  have hwait := runw_productWaits hc t x kind
  rw [if_pos hr] at hwait
  simp only [issueProduct_eq, EStateM.run_bind, runw_team hc, runw_matrixOffset hc, hchk, hwait, hidx, runw_modShared hc]
  rfl

end
end

/-! ### The instructions (R287 to R289) -/

section
variable {s : State} {c : Nat} {t : Team} (h : EngineIssues s c .matrix t) (x : M64) (kind : Nat)
  (hchk : (productChecks x (t.productReq kind x)).run (s.withTeam c (t.past .matrix 8)) =
    .ok () (s.withTeam c (t.past .matrix 8)))
include h hchk

theorem matOp_issueProduct_waits (hr : ¬ t.productReady kind x (s.cell c).sh) :
    matOp 8 (issueProduct kind x) s = .next (s.withTeam c t) :=
  engineOp_wait h (issueProduct_waits h.1.1 (t.past .matrix 8) x kind (by simpa [Team.productReq] using hchk)
    (by simpa [Team.productReady] using hr))

theorem matOp_issueProduct_queues (hr : t.productReady kind x (s.cell c).sh) {idx : List Nat}
    (hidx : (productIndex kind x (t.past .matrix 8)).run (s.withTeam c (t.past .matrix 8)) =
      .ok idx (s.withTeam c (t.past .matrix 8))) :
    matOp 8 (issueProduct kind x) s = .next (((s.withTeam c (t.past .matrix 8)).withShared c
      ((s.cell c).sh.queued x (t.productOf kind x idx))).cycled .matrix c t) := by
  have hq := issueProduct_queues h.1.1 (t.past .matrix 8) x kind (by simpa [Team.productReq] using hchk)
    (by simpa [Team.productReady] using hr) hidx
  simp only [Team.productOf, Team.tile_past, Team.matrixOffset_past] at hq ⊢
  exact engineOp_ok h hq

/-- A ready product joins the queue with the index entries that the vault holds. -/
theorem matOp_issueProduct_joins (hr : t.productReady kind x (s.cell c).sh)
    (hrd : readsIdx kind x = true → (t.vaultRd (t.tile x.tc.toNat).base.toNat (2 * x.rows)).isSome = true) :
    ∃ idx, (readsIdx kind x = false → idx = []) ∧
      (readsIdx kind x = true → idx = (List.range x.rows).map fun i =>
        leNat (t.vault.rdBytes ((t.tile x.tc.toNat).base.toNat + 2 * i) 2)) ∧
      matOp 8 (issueProduct kind x) s = .next (((s.withTeam c (t.past .matrix 8)).withShared c
        ((s.cell c).sh.queued x (t.productOf kind x idx))).cycled .matrix c t) := by
  cases hx : readsIdx kind x with
  | false => exact ⟨[], by simp, by simp, matOp_issueProduct_queues h x kind hchk hr (runw_productIndex_none _ x kind hx)⟩
  | true =>
    have hbs := Team.vaultRd_eq_of_isSome (hrd hx)
    refine ⟨_, by simp, fun _ => (idxEntries_rdBytes t.vault _ x.rows), matOp_issueProduct_queues h x kind hchk hr
      (runw_productIndex_some h.1.1 _ x kind hx (by simpa using hbs))⟩

end

/-! ### A fold of writes, each to a place of its own -/

section
variable {σ ι κ β : Type} [DecidableEq κ] {get : σ → κ → β} {step : σ → ι → σ} {key : ι → κ} {val : ι → β → β}
  (hstep : ∀ x i k, get (step x i) k = if k = key i then val i (get x k) else get x k)
include hstep

/-- A place that no step writes keeps its value. -/
theorem get_foldl_of_ne {k : κ} : ∀ {xs : List ι} (x : σ), (∀ i ∈ xs, k ≠ key i) → get (xs.foldl step x) k = get x k
  | [], _, _ => rfl
  | i :: xs, x, h => by
    rw [List.foldl_cons, get_foldl_of_ne _ fun j hj => h j (List.mem_cons_of_mem i hj), hstep, if_neg (h i List.mem_cons_self)]

/-- A place that exactly one step writes takes what that step makes of its value. -/
theorem get_foldl_of_mem {xs : List ι} {i : ι} (x : σ) (hi : i ∈ xs) (hnd : xs.Nodup)
    (huniq : ∀ j ∈ xs, key i = key j → i = j) : get (xs.foldl step x) (key i) = val i (get x (key i)) := by
  obtain ⟨as, bs, rfl⟩ := List.append_of_mem hi
  obtain ⟨hnot, -⟩ := List.nodup_cons.1 (List.nodup_middle.1 hnd)
  have hne : ∀ j ∈ as ++ i :: bs, j ≠ i → key i ≠ key j := fun j hj hji heq => hji (huniq j hj heq).symm
  rw [List.foldl_append, List.foldl_cons, get_foldl_of_ne hstep _ fun j hj => hne j (by simp [hj]) fun e => hnot (by simp [← e, hj]),
    hstep, if_pos rfl, get_foldl_of_ne hstep _ fun j hj => hne j (by simp [hj]) fun e => hnot (by simp [← e, hj])]

end

/-! ### A product lands (R285, R287) -/

/-- A row of the A side and a column of the B side, with their numbers. -/
abbrev ProductCell := ((List Chunk × Bool) × Nat) × (List Chunk × Nat)

/-- The physical place of an entry (R283). -/
def Product.keyOf (p : Product) (i : ProductCell) : Nat := accKey p.bank (physRow p.m i.1.2 i.2.2) (i.2.2 % 128)

/-- One entry of the product lands. -/
def Product.landEntry (p : Product) (t : Team) (x : Shared) (i : ProductCell) : Shared :=
  x.setAcc p.bank (physRow p.m i.1.2 i.2.2) (i.2.2 % 128)
    (p.entry t i.1.2 i.2.2 i.1.1 i.2.1 (x.accOf p.bank (physRow p.m i.1.2 i.2.2) (i.2.2 % 128)))

/-- The entries of the product's shape. -/
def Product.cells (p : Product) (t : Team) : List ProductCell := (p.rowsA t).zipIdx ×ˢ (p.colsB t).zipIdx

/-- A product lands entry by entry. -/
theorem Product.run_eq_foldl (p : Product) (t : Team) (x : Shared) : p.run t x = (p.cells t).foldl (p.landEntry t) x := by
  unfold Product.run Product.cells
  simp only [SProd.sprod, List.product, List.foldl_flatMap, List.foldl_map]
  rfl

/-- A landing product writes accumulator entries only. -/
theorem Product.run_eq_acc (p : Product) (t : Team) (x : Shared) : p.run t x = { x with acc := (p.run t x).acc } := by
  rw [Product.run_eq_foldl]
  exact List.foldlRecOn (motive := fun y : Shared => y = { x with acc := y.acc }) _ _ rfl fun y hy i _ => by
    rw [hy]
    rfl

@[simp] theorem Product.length_rowsA (p : Product) (t : Team) : (p.rowsA t).length = p.m := by simp [Product.rowsA]
@[simp] theorem Product.length_colsB (p : Product) (t : Team) : (p.colsB t).length = p.n := by simp [Product.colsB]

theorem Product.mem_cells {p : Product} {t : Team} {i : ProductCell} :
    i ∈ p.cells t ↔ (p.rowsA t)[i.1.2]? = some i.1.1 ∧ (p.colsB t)[i.2.2]? = some i.2.1 := by
  obtain ⟨⟨ra, r⟩, cb, c⟩ := i
  simp [Product.cells, List.mem_zipIdx_iff_getElem?]

theorem accKey_inj {k k' : Bool} {row row' col col' : Nat} (hr : row < 128) (hr' : row' < 128) (hc : col < 128)
    (hc' : col' < 128) : accKey k row col = accKey k' row' col' ↔ k = k' ∧ row = row' ∧ col = col' := by
  cases k <;> cases k' <;> simp [accKey] <;> omega

/-- A physical place is the place of the logical entry that R283 names, and of no other. -/
theorem physRow_eq_iff {m row col r c : Nat} (hcol : col < 128) (hr : r < m) :
    (row = physRow m r c ∧ col = c % 128) ↔ (r = row % m ∧ c = row / m * 128 + col) := by
  have hm : 0 < m := by omega
  constructor
  · rintro ⟨rfl, rfl⟩
    simp only [physRow, Nat.add_mul_mod_self_left, Nat.mod_eq_of_lt hr, Nat.add_mul_div_left _ _ hm, Nat.div_eq_of_lt hr,
      true_and]
    omega
  · rintro ⟨rfl, rfl⟩
    have hdiv : (row / m * 128 + col) / 128 = row / m := by omega
    simp only [physRow, hdiv, Nat.mod_add_div, true_and]
    omega

/-- An entry of a shape that fits lies in a physical row of the bank (R283). -/
theorem physRow_lt {m n r c : Nat} (hfit : m * ((n + 127) / 128) ≤ 128) (hr : r < m) (hc : c < n) : physRow m r c < 128 := by
  have hq : m * (c / 128 + 1) ≤ m * ((n + 127) / 128) := Nat.mul_le_mul_left _ (by omega)
  rw [Nat.mul_add, Nat.mul_one] at hq
  simp only [physRow]
  omega

theorem Product.nodup_cells (p : Product) (t : Team) : (p.cells t).Nodup :=
  (List.Nodup.of_map _ (List.nodup_zipIdx_map_snd _)).product (List.Nodup.of_map _ (List.nodup_zipIdx_map_snd _))

/-- What one landing entry writes. -/
theorem Product.get_landEntry (p : Product) (t : Team) (y : Shared) (i : ProductCell) (j : Nat) :
    Sparse.get {} (p.landEntry t y i).acc j =
      if j = p.keyOf i then p.entry t i.1.2 i.2.2 i.1.1 i.2.1 (Sparse.get {} y.acc j) else Sparse.get {} y.acc j := by
  simp only [Product.landEntry, Shared.setAcc, Sparse.get_set]
  by_cases h : j = p.keyOf i
  · subst h
    rfl
  · exact (if_neg h).trans (if_neg h).symm

section
variable {p : Product} {t : Team} (hfit : p.m * ((p.n + 127) / 128) ≤ 128)
include hfit

/-- A place in a bank is that of an entry of the shape exactly where R283 puts the entry. -/
theorem Product.eq_keyOf_iff {i : ProductCell} (hi : i ∈ p.cells t) {k : Bool} {row col : Nat} (hrow : row < 128)
    (hcol : col < 128) :
    accKey k row col = p.keyOf i ↔ k = p.bank ∧ i.1.2 = row % p.m ∧ i.2.2 = row / p.m * 128 + col := by
  obtain ⟨hra, hcb⟩ := Product.mem_cells.1 hi
  obtain ⟨hr, -⟩ := List.getElem?_eq_some_iff.1 hra
  obtain ⟨hc, -⟩ := List.getElem?_eq_some_iff.1 hcb
  rw [Product.length_rowsA] at hr
  rw [Product.length_colsB] at hc
  rw [Product.keyOf, accKey_inj hrow (physRow_lt hfit hr hc) hcol (Nat.mod_lt _ (by decide)), physRow_eq_iff hcol hr]

/-- The accumulator entries after a product has landed: those of its shape take their products, the others stay. -/
theorem Product.accOf_run (hm : 0 < p.m) (x : Shared) (k : Bool) {row col : Nat} (hrow : row < 128) (hcol : col < 128) :
    (p.run t x).accOf k row col =
      let c := row / p.m * 128 + col
      if k = p.bank ∧ c < p.n then
        p.entry t (row % p.m) c (((p.rowsA t)[row % p.m]?).getD ([], false)) (((p.colsB t)[c]?).getD []) (x.accOf k row col)
      else x.accOf k row col := by
  rw [Product.run_eq_foldl]
  dsimp only
  split
  · next h =>
    obtain ⟨hk, hc⟩ := h
    have hr : row % p.m < p.m := Nat.mod_lt _ hm
    obtain ⟨ra, hra⟩ : ∃ ra, (p.rowsA t)[row % p.m]? = some ra := ⟨_, List.getElem?_eq_getElem (by simpa using hr)⟩
    obtain ⟨cb, hcb⟩ : ∃ cb, (p.colsB t)[row / p.m * 128 + col]? = some cb :=
      ⟨_, List.getElem?_eq_getElem (by simpa using hc)⟩
    have hi : ((ra, row % p.m), (cb, row / p.m * 128 + col)) ∈ p.cells t := Product.mem_cells.2 ⟨hra, hcb⟩
    have hkey := (Product.eq_keyOf_iff hfit hi hrow hcol).2 ⟨hk, rfl, rfl⟩
    have hland := get_foldl_of_mem (get := fun y : Shared => Sparse.get {} y.acc) (p.get_landEntry t) x hi (p.nodup_cells t)
      fun j hj heq => by
        obtain ⟨-, hrj, hcj⟩ := (Product.eq_keyOf_iff hfit hj hrow hcol).1 (hkey.trans heq)
        obtain ⟨hraj, hcbj⟩ := Product.mem_cells.1 hj
        rw [hrj, hra, Option.some_inj] at hraj
        rw [hcj, hcb, Option.some_inj] at hcbj
        ext1 <;> ext1 <;> simp only [hraj, hrj, hcbj, hcj]
    rw [← hkey] at hland
    simp only [hra, hcb, Option.getD_some]
    exact hland
  · next h =>
    refine get_foldl_of_ne (get := fun y : Shared => Sparse.get {} y.acc) (p.get_landEntry t) x fun i hi heq => h ?_
    obtain ⟨hk, -, hc⟩ := (Product.eq_keyOf_iff hfit hi hrow hcol).1 heq
    obtain ⟨hlt, -⟩ := List.getElem?_eq_some_iff.1 (Product.mem_cells.1 hi).2
    exact ⟨hk, by simpa [hc] using hlt⟩

end

/-- The oldest product of a cell lands (R285). -/
theorem execProductLand_lands {s : State} {t : Team} {p : Product} {rest : List Product} (ht : (s.cell s.arg.a).act = some t)
    (hrun : t.halted = false) (harr : (s.cell s.arg.a).sh.array = p :: rest) (hclean : p.poisoned t = false) :
    execProductLand s = .next (s.withShared s.arg.a (p.run t { (s.cell s.arg.a).sh with array := rest })) := by
  simp only [execProductLand, ht, harr, hrun, hclean, Bool.false_eq_true, if_false]
  rfl

/-! ### Partials (R73, R74) -/

theorem roundAt_zero (s : Int) : roundAt s 0 = s := by
  have h : (roundQuot .rne false s.natAbs 1 0).1 = s.natAbs := by simp [roundQuot, Rnd.up, Nat.mod_one]
  simp only [roundAt, h]
  split <;> omega

section
variable {a : AccE}

theorem AccE.addPartial_aligned (hi : a.inv = false) (ho : a.ovf = false) (q : Int) : a.addPartial false q a.e =
    if (2 : Int) ^ 63 ≤ a.s + q then { a with s := (2 : Int) ^ 63 - 1, ovf := true }
    else if a.s + q < -(2 : Int) ^ 63 then { a with s := -(2 : Int) ^ 63, ovf := true } else { a with s := a.s + q } := by
  simp only [AccE.addPartial, hi, ho, Bool.false_eq_true, Bool.or_self, if_false, max_self, sub_self, roundAt_zero,
    show ((2 ^ 63 : Nat) : Int) = 2 ^ 63 from rfl, Int.sub_one_lt_iff]

theorem AccE.addPartial_of_stuck (h : a.inv = true ∨ a.ovf = true) (q e : Int) : a.addPartial false q e = a := by
  simp [AccE.addPartial, h]

theorem AccE.inv_addPartial_bad (q e : Int) : (a.addPartial true q e).inv = true := by
  simp [AccE.addPartial]

end

/-- Settles O34: how a product that passes its checks waits or joins the queue, what a landing product leaves in each entry, and how
a partial is added. -/
theorem matrixProducts : Obligations.MatrixProducts := by
  refine ⟨fun s c t x h => ?_, fun s t p rest ht hrun harr hclean hm hfit => ?_, fun a q =>
    ⟨fun hi ho hlo hhi => ?_, fun hi ho hhi => ?_, fun e h => ?_, fun e => ?_⟩⟩
  · intro sh t' gen a b bank rows cols one scale p hp q indexed ready hchk
    have hexec : exec (p.1 x) s = matOp 8 (issueProduct p.2 x) s := by
      simp only [List.mem_cons, List.not_mem_nil, or_false] at hp
      obtain rfl | rfl | rfl | rfl := hp <;> rfl
    have hix : indexed ↔ readsIdx p.2 x = true := (readsIdx_iff p.2 x).symm
    have hready : ready ↔ t.productReady p.2 x sh := by simp only [ready, hix]; rfl
    rw [hexec]
    refine ⟨fun hr => matOp_issueProduct_waits h x p.2 hchk (mt hready.2 hr), fun hr hrd => ?_⟩
    obtain ⟨idx, hnone, hsome, hnext⟩ := matOp_issueProduct_joins h x p.2 hchk (hready.1 hr) fun hx => hrd (hix.2 hx)
    refine ⟨t.productOf p.2 x idx, rfl, fun hi => hnone (by simpa [hix] using hi), fun hi => hsome (hix.1 hi), ?_⟩
    rw [hnext]
    simp only [scale, one, tensorOf_eq]
    rfl
  · exact ⟨_, execProductLand_lands ht hrun harr hclean, Product.run_eq_acc .., fun k row col hrow hcol =>
      Product.accOf_run hfit hm _ k hrow hcol⟩
  · rw [AccE.addPartial_aligned hi ho, if_neg (by omega), if_neg (by omega)]
  · rw [AccE.addPartial_aligned hi ho, if_pos hhi]
  · exact AccE.addPartial_of_stuck h q e
  · exact AccE.inv_addPartial_bad q e

end Sys2Proof.Machine
end

section
/-! Proofs about the vector stream's pending results (R238, R59), integer lane arithmetic (R54, R245 to R248) and swizzles (R179). -/
namespace Sys2Proof.Machine

/-! ### A stream cycle (R237, R238) -/

/-- The team with flags raised (R59). -/
def Team.raise (t : Team) (f : Flags) : Team := { t with vflags := t.vflags ||| f }

theorem Team.raise_zero (t : Team) : t.raise 0 = t := by simp [Team.raise]

theorem Team.raise_raise (t : Team) (f g : Flags) : (t.raise f).raise g = t.raise (f ||| g) := by
  simp [Team.raise, BitVec.or_assoc]

theorem Cell.setTeam_act {x : Cell} {t : Team} (h : x.act = some t) : x.setTeam x.active (some t) = x := by
  rw [← h]
  unfold Cell.act
  cases x.active <;> rfl

@[simp] theorem State.cell_withShared (s : State) (c : Nat) (x : Shared) : (s.withShared c x).cell c = { s.cell c with sh := x } :=
  State.cell_modCell_self s c _

theorem State.cell_withShared_ne (s : State) (x : Shared) {c d : Nat} (h : d ≠ c) : (s.withShared c x).cell d = s.cell d := by
  rw [State.withShared, State.cell_modCell, if_neg h]

theorem State.act_withShared {s : State} {c : Nat} {t : Team} (h : (s.cell c).act = some t) (x : Shared) :
    ((s.withShared c x).cell c).act = some t := by
  rw [State.cell_withShared]
  exact h

/-- Outside an epilogue the flags of a result are raised in the team (R59). -/
theorem State.raiseFlags_of_act {s : State} {c : Nat} {t : Team} (ht : (s.cell c).act = some t) (he : t.epilogue = none)
    (row : Option Nat) (f : Flags) : s.raiseFlags c row f = s.withTeam c (t.raise f) := by
  have hteam : s.teamAt (.here c (s.cell c).active) = some t := ht
  simp [State.raiseFlags, hteam, he, State.modTeam, State.withTeam, Team.raise]

/-- The flags of results raised one after the other. -/
def State.raiseAll (s : State) (c : Nat) (ls : List Landing) : State :=
  ls.foldl (fun s l => if l.flags = 0 then s else s.raiseFlags c l.row l.flags) s

/-- All that raising the flags of results does outside an epilogue: the team's flags take those of each. -/
theorem State.raiseAll_team {c : Nat} (ls : List Landing) :
    ∀ {s : State} {t : Team}, (s.cell c).act = some t → t.epilogue = none →
    (s.raiseAll c ls).mem = s.mem ∧ (∀ d, d ≠ c → (s.raiseAll c ls).cell d = s.cell d) ∧
    ∃ f, (s.raiseAll c ls).cell c = (s.cell c).setTeam (s.cell c).active (some (t.raise f)) ∧
      ∀ j, f.getLsbD j = true ↔ ∃ l ∈ ls, l.flags.getLsbD j = true := by
  induction ls with
  | nil =>
    intro s t ht _
    exact ⟨rfl, fun _ _ => rfl, 0, by rw [Team.raise_zero, Cell.setTeam_act ht]; rfl, by simp⟩
  | cons l ls ih =>
    intro s t ht he
    by_cases h0 : l.flags = 0
    · have hs : s.raiseAll c (l :: ls) = s.raiseAll c ls := by simp [State.raiseAll, h0]
      rw [hs]
      obtain ⟨hmem, hcells, f, hf, hbits⟩ := ih ht he
      exact ⟨hmem, hcells, f, hf, fun j => by simp [hbits, h0]⟩
    · have hs : s.raiseAll c (l :: ls) = (s.withTeam c (t.raise l.flags)).raiseAll c ls := by
        rw [State.raiseAll, List.foldl_cons, if_neg h0, State.raiseFlags_of_act ht he, State.raiseAll]
      rw [hs]
      obtain ⟨hmem, hcells, f, hf, hbits⟩ := ih (State.act_withTeam s c (t.raise l.flags)) he
      refine ⟨hmem, fun d hd => (hcells d hd).trans (State.cell_withTeam_ne _ _ _ _ hd), l.flags ||| f, ?_, fun j => ?_⟩
      · simpa [Team.raise_raise] using hf
      · simp [hbits]

/-- One cycle nearer. -/
def Landing.nearer (l : Landing) : Landing := { l with rem := l.rem - 1 }

theorem Shared.foldl_land_nearer (x : Shared) (ls : List Landing) :
    (ls.map Landing.nearer).foldl Shared.land x = ls.foldl Shared.land x := by
  rw [List.foldl_map]
  rfl

/-- What a cycle leaves of the results whose count, one less, satisfies `q`. -/
theorem filter_map_nearer {ls : List Landing} (h : ∀ l ∈ ls, 1 ≤ l.rem) {q q' : Nat → Bool}
    (hq : ∀ r, 1 ≤ r → q (r - 1) = q' r) :
    (ls.map Landing.nearer).filter (fun l => q l.rem) = (ls.filter fun l => q' l.rem).map Landing.nearer := by
  rw [List.filter_map]
  exact congrArg _ (List.filter_congr fun l hl => hq l.rem (h l hl))

/-- A stream cycle: the results whose count is 1 land in issue order, the others come one cycle nearer. -/
theorem State.streamCycle_eq {s : State} {c : Nat} {ls : List Landing} (hls : (s.cell c).sh.landings = ls)
    (h : ∀ l ∈ ls, l.poison = none ∧ 1 ≤ l.rem) : s.streamCycle c =
      (s.withShared c ((ls.filter fun l => l.rem == 1).foldl Shared.land { (s.cell c).sh with
        landings := (ls.filter fun l => l.rem != 1).map Landing.nearer })).raiseAll c
        ((ls.filter fun l => l.rem == 1).map Landing.nearer) := by
  have hmap : (ls.map fun l => { l with rem := if l.poison.isSome then max 1 (l.rem - 1) else l.rem - 1 }) =
      ls.map Landing.nearer := List.map_congr_left fun l hl => by simp [Landing.nearer, (h l hl).1]
  have hone : ∀ r, 1 ≤ r → (r - 1 == 0) = (r == 1) := fun r hr => by rw [Bool.eq_iff_iff]; simp; omega
  have hrem : ∀ l ∈ ls, 1 ≤ l.rem := fun l hl => (h l hl).2
  have hdue := filter_map_nearer hrem (q := (· == 0)) (q' := (· == 1)) hone
  have hkept := filter_map_nearer hrem (q := (· != 0)) (q' := (· != 1)) fun r hr => congrArg not (hone r hr)
  simp only [State.streamCycle, hls, hmap, hdue, hkept, Shared.foldl_land_nearer]
  rfl

/-! ### Swizzles (R179) -/

section
variable (w : BitVec 32) (n : Nat)

/-- A unit of a lane goes below the bits already picked. -/
theorem ofNat_append_unit (m x i : Nat) :
    BitVec.ofNat m x ++ w.extractLsb' (n * i) n = BitVec.ofNat (m + n) (x * 2 ^ n + w.toNat / 2 ^ (n * i) % 2 ^ n) := by
  have hlt : w.toNat / 2 ^ (n * i) % 2 ^ n < 2 ^ n := Nat.mod_lt _ (by positivity)
  apply BitVec.eq_of_toNat_eq
  rw [BitVec.toNat_append, BitVec.extractLsb'_toNat, Nat.shiftRight_eq_div_pow, ← Nat.shiftLeft_add_eq_or_of_lt hlt,
    BitVec.toNat_ofNat, BitVec.toNat_ofNat, Nat.shiftLeft_eq, Nat.add_comm m, Nat.pow_add, Nat.mod_mul,
    Nat.mul_add_mod_of_lt hlt, Nat.add_comm (x * _), Nat.add_mul_div_right _ _ (by positivity), Nat.div_eq_of_lt hlt, Nat.zero_add]
  ring

theorem unit_eq_ofNat (i : Nat) : w.extractLsb' (n * i) n = BitVec.ofNat n (0 * 2 ^ n + w.toNat / 2 ^ (n * i) % 2 ^ n) := by
  apply BitVec.eq_of_toNat_eq
  simp [Nat.shiftRight_eq_div_pow]

/-- The lane that a list of units makes, high end first, as `swizzle` picks it. -/
def pickUnits (is : List Nat) : Nat := is.foldl (fun a i => a * 2 ^ n + w.toNat / 2 ^ (n * i) % 2 ^ n) 0

/-- A swizzle of four units moves them as its list says. -/
theorem pickUnits_four (i j k l : Nat) : BitVec.ofNat (n + n + n + n) (pickUnits w n [i, j, k, l]) =
    w.extractLsb' (n * i) n ++ w.extractLsb' (n * j) n ++ w.extractLsb' (n * k) n ++ w.extractLsb' (n * l) n := by
  rw [unit_eq_ofNat w n i, ofNat_append_unit, ofNat_append_unit, ofNat_append_unit]
  rfl

/-- A swizzle of eight units moves them as its list says. -/
theorem pickUnits_eight (i j k l i' j' k' l' : Nat) :
    BitVec.ofNat (n + n + n + n + n + n + n + n) (pickUnits w n [i, j, k, l, i', j', k', l']) =
    w.extractLsb' (n * i) n ++ w.extractLsb' (n * j) n ++ w.extractLsb' (n * k) n ++ w.extractLsb' (n * l) n ++
      w.extractLsb' (n * i') n ++ w.extractLsb' (n * j') n ++ w.extractLsb' (n * k') n ++ w.extractLsb' (n * l') n := by
  rw [unit_eq_ofNat w n i, ofNat_append_unit, ofNat_append_unit, ofNat_append_unit, ofNat_append_unit, ofNat_append_unit,
    ofNat_append_unit, ofNat_append_unit]
  rfl

end

/-! ### Integers of a type (R54, R177, R248) -/

theorem tyWidth_pos (ty : BitVec 4) : 0 < tyWidth ty := by
  unfold tyWidth
  split <;> decide

theorem sextNat_eq_toInt {n : Nat} (hn : 0 < n) (a : Nat) : sextNat n a = (BitVec.ofNat n a).toInt := by
  have h2 : 2 ^ n = 2 * 2 ^ (n - 1) := by rw [← Nat.pow_succ', Nat.succ_eq_add_one, Nat.sub_add_cancel hn]
  simp only [sextNat, BitVec.toInt_eq_toNat_cond, BitVec.toNat_ofNat, if_neg hn.ne']
  by_cases h : a % 2 ^ n < 2 ^ (n - 1)
  · rw [if_pos h, if_pos (by omega)]
  · rw [if_neg h, if_neg (by omega)]

theorem natCast_lowBits (n : Nat) (t : Int) : (lowBits n t : Int) = t % (2 : Int) ^ n := by
  rw [lowBits, Int.toNat_of_nonneg (Int.emod_nonneg t (by positivity))]
  push_cast
  rfl

theorem lowBits_lt (n : Nat) (t : Int) : lowBits n t < 2 ^ n := by
  have h := Int.emod_lt_of_pos t (show (0 : Int) < 2 ^ n by positivity)
  rw [← natCast_lowBits] at h
  exact_mod_cast h

theorem ofNat_lowBits (n : Nat) (t : Int) : BitVec.ofNat n (lowBits n t) = BitVec.ofInt n t := by
  apply BitVec.eq_of_toNat_eq
  rw [BitVec.toNat_ofNat, BitVec.toNat_ofInt, Nat.mod_eq_of_lt (lowBits_lt n t), lowBits]

theorem lowBits_sub_emod (n : Nat) (t : Int) : ((lowBits n t : Int) - t) % (2 : Int) ^ n = 0 := by
  rw [natCast_lowBits, Int.emod_sub_emod, sub_self, Int.zero_emod]

theorem ofInt_valueOf {n : Nat} (u : Bool) (x : BitVec n) : BitVec.ofInt n (valueOf u x) = x := by
  cases u <;> simp [valueOf]

theorem valueOf_le_iff {n : Nat} (u : Bool) (x y : BitVec n) :
    valueOf u x ≤ valueOf u y ↔ (if u then x.ule y else x.sle y) = true := by
  cases u <;> simp [valueOf, BitVec.ule_iff_toNat_le, BitVec.sle_iff_toInt_le]

section
variable (ty : BitVec 4)

/-- The exact integer of an element is the value of its bits (R177). -/
theorem tyIntVal_eq_valueOf (a : Nat) : tyIntVal ty a = valueOf (!tySigned ty) (BitVec.ofNat (tyWidth ty) a) := by
  unfold tyIntVal valueOf
  cases tySigned ty
  · simp
  · simp [sextNat_eq_toInt (tyWidth_pos ty)]

/-- The least and the greatest integer of a type. -/
def tyMin : Int := intMin (tyWidth ty) (tySigned ty)
def tyMax : Int := intMax (tyWidth ty) (tySigned ty)

theorem tyMin_eq : tyMin ty = if tySigned ty then -(2 : Int) ^ (tyWidth ty - 1) else 0 := by
  simp [tyMin, intMin]

theorem tyMax_eq : tyMax ty = if tySigned ty then (2 : Int) ^ (tyWidth ty - 1) - 1 else (2 : Int) ^ tyWidth ty - 1 := by
  simp [tyMax, intMax]

theorem tyMin_le_tyMax : tyMin ty ≤ tyMax ty := by
  have h1 : (0 : Int) < 2 ^ (tyWidth ty - 1) := by positivity
  have h2 : (0 : Int) < 2 ^ tyWidth ty := by positivity
  rw [tyMin_eq, tyMax_eq]
  split <;> omega

/-- An integer in a type's range is the value of its low bits. -/
theorem valueOf_ofInt {t : Int} (hlo : tyMin ty ≤ t) (hhi : t ≤ tyMax ty) :
    valueOf (!tySigned ty) (BitVec.ofInt (tyWidth ty) t) = t := by
  rw [tyMin_eq] at hlo
  rw [tyMax_eq] at hhi
  cases hs : tySigned ty <;> simp only [hs, Bool.false_eq_true, if_false, if_true] at hlo hhi
  · simp only [valueOf, Bool.not_false, if_true, BitVec.toNat_ofInt]
    push_cast
    rw [Int.emod_eq_of_lt hlo (by omega), Int.toNat_of_nonneg hlo]
  · exact BitVec.toInt_ofInt_eq_self (tyWidth_pos ty) hlo (by omega)

/-- An exact integer delivered with .sat is clamped to the type's range (R54, R248). -/
theorem tyIntVal_lowBits_clamp (t : Int) :
    tyIntVal ty (lowBits (tyWidth ty) (clampTy ty true t)) = max (tyMin ty) (min (tyMax ty) t) := by
  rw [tyIntVal_eq_valueOf, ofNat_lowBits]
  exact valueOf_ofInt ty (le_max_left _ _) (max_le (tyMin_le_tyMax ty) (min_le_left _ _))

end

section
variable (ty : BitVec 4) (fn : BitVec 3) (a b d : Nat)

/-- The exact results of R247: each operation reduces or clamps its own. -/
theorem vArithInt_exact : ∀ p ∈ [(VArith.add, tyIntVal ty a + tyIntVal ty b), (.sub, tyIntVal ty a - tyIntVal ty b),
      (.mul, tyIntVal ty a * tyIntVal ty b), (.fma, tyIntVal ty a * tyIntVal ty b + tyIntVal ty d),
      (.abs, ((tyIntVal ty a).natAbs : Int)), (.neg, -tyIntVal ty a)],
    vArithInt p.1 ty fn a b d = (lowBits (tyWidth ty) (clampTy ty (fn.getLsbD 0) p.2), 0) := by
  intro p hp
  simp only [List.mem_cons, List.not_mem_nil, or_false] at hp
  obtain rfl | rfl | rfl | rfl | rfl | rfl := hp <;> rfl

end

/-! ### Shifts (R248) -/

section
variable {n : Nat}

theorem ofNat_mul_two_pow (a s : Nat) : BitVec.ofNat n (a * 2 ^ s) = BitVec.ofNat n a <<< s := by
  apply BitVec.eq_of_toNat_eq
  simp [Nat.shiftLeft_eq, Nat.mod_mul_mod]

theorem ofNat_div_two_pow {a : Nat} (ha : a < 2 ^ n) (s : Nat) : BitVec.ofNat n (a / 2 ^ s) = BitVec.ofNat n a >>> s := by
  apply BitVec.eq_of_toNat_eq
  simp [Nat.shiftRight_eq_div_pow, Nat.mod_eq_of_lt ha, Nat.mod_eq_of_lt (Nat.lt_of_le_of_lt (Nat.div_le_self a _) ha)]

theorem sshiftRight_of_le {s : Nat} (x : BitVec n) (h : n ≤ s) :
    x.sshiftRight s = if x.msb then BitVec.allOnes n else 0 := by
  ext i hi
  cases hm : x.msb <;> simp [BitVec.getElem_sshiftRight, show ¬ s + i < n by omega, hm]

theorem msb_ofNat (hn : 0 < n) (a : Nat) : (BitVec.ofNat n a).msb = decide (a / 2 ^ (n - 1) % 2 = 1) := by
  rw [BitVec.msb_eq_getLsbD_last, BitVec.getLsbD_ofNat, Nat.testBit_eq_decide_div_mod_eq]
  simp [hn]

theorem ofInt_vShift_left (a s : Nat) : BitVec.ofInt n (vShift true false n a s) = BitVec.ofNat n a <<< s := by
  unfold vShift
  by_cases h : n ≤ s
  · simp [h, BitVec.shiftLeft_eq_zero h]
  · simp only [h, if_false, if_true, BitVec.ofInt_natCast, ofNat_mul_two_pow]

theorem ofInt_vShift_logical {a : Nat} (ha : a < 2 ^ n) (s : Nat) :
    BitVec.ofInt n (vShift false false n a s) = BitVec.ofNat n a >>> s := by
  unfold vShift
  by_cases h : n ≤ s
  · simp [h, BitVec.ushiftRight_eq_zero h]
  · simp only [h, if_false, Bool.false_eq_true, BitVec.ofInt_natCast, ofNat_div_two_pow ha]

theorem ofInt_vShift_arithmetic (hn : 0 < n) (a s : Nat) :
    BitVec.ofInt n (vShift false true n a s) = (BitVec.ofNat n a).sshiftRight s := by
  unfold vShift
  by_cases h : n ≤ s
  · rw [sshiftRight_of_le _ h, msb_ofNat hn]
    by_cases hneg : a / 2 ^ (n - 1) % 2 = 1
    · simp [h, hneg, BitVec.ofInt_neg, BitVec.neg_one_eq_allOnes]
    · simp [h, hneg]
  · simp only [h, if_false, if_true, Bool.false_eq_true, BitVec.sshiftRight_eq, sextNat_eq_toInt hn, Int.shiftRight_eq_div_pow]
    rfl

end

/-! ### Bitwise operations, minimum and maximum (R247) -/

section
variable (ty : BitVec 4) (fn : BitVec 3) (a b : Nat)

theorem ofInt_tyIntVal : BitVec.ofInt (tyWidth ty) (tyIntVal ty a) = BitVec.ofNat (tyWidth ty) a := by
  rw [tyIntVal_eq_valueOf, ofInt_valueOf]

theorem tyIntVal_le_iff : tyIntVal ty a ≤ tyIntVal ty b ↔
    (if tySigned ty then (BitVec.ofNat (tyWidth ty) a).sle (BitVec.ofNat (tyWidth ty) b)
      else (BitVec.ofNat (tyWidth ty) a).ule (BitVec.ofNat (tyWidth ty) b)) = true := by
  rw [tyIntVal_eq_valueOf, tyIntVal_eq_valueOf, valueOf_le_iff]
  cases tySigned ty <;> rfl

/-- The result of an operation on the bits of integer elements, as bits. -/
theorem ofNat_vArithInt_bits :
    let n := tyWidth ty
    let A := BitVec.ofNat n a
    let B := BitVec.ofNat n b
    BitVec.ofNat n (vArithInt .and ty fn a b 0).1 = A &&& B ∧ BitVec.ofNat n (vArithInt .or ty fn a b 0).1 = A ||| B ∧
    BitVec.ofNat n (vArithInt .xor ty fn a b 0).1 = A ^^^ B ∧ BitVec.ofNat n (vArithInt .shl ty fn a b 0).1 = A <<< b := by
  simp only [vArithInt, ofNat_lowBits, BitVec.ofInt_natCast, BitVec.ofNat_and, BitVec.ofNat_or, BitVec.ofNat_xor, ofInt_vShift_left,
    and_self]

theorem ofNat_vArithInt_shr (ha : a < 2 ^ tyWidth ty) : BitVec.ofNat (tyWidth ty) (vArithInt .shr ty fn a b 0).1 =
    if fn.getLsbD 0 then (BitVec.ofNat (tyWidth ty) a).sshiftRight b else BitVec.ofNat (tyWidth ty) a >>> b := by
  simp only [vArithInt, ofNat_lowBits]
  cases fn.getLsbD 0
  · exact ofInt_vShift_logical ha b
  · exact ofInt_vShift_arithmetic (tyWidth_pos ty) a b

theorem ofNat_vArithInt_min : BitVec.ofNat (tyWidth ty) (vArithInt .min ty fn a b 0).1 =
    if tyIntVal ty a ≤ tyIntVal ty b then BitVec.ofNat (tyWidth ty) a else BitVec.ofNat (tyWidth ty) b := by
  simp only [vArithInt, ofNat_lowBits, apply_ite (BitVec.ofInt (tyWidth ty)), ofInt_tyIntVal]

theorem ofNat_vArithInt_max : BitVec.ofNat (tyWidth ty) (vArithInt .max ty fn a b 0).1 =
    if tyIntVal ty a ≤ tyIntVal ty b then BitVec.ofNat (tyWidth ty) b else BitVec.ofNat (tyWidth ty) a := by
  simp only [vArithInt, ofNat_lowBits, apply_ite (BitVec.ofInt (tyWidth ty)), ofInt_tyIntVal]

end

/-- Settles O28: what a stream cycle lands and raises, what each integer operation leaves in an element, and the units that each
swizzle picks. -/
theorem vectorIntegersLand : Obligations.VectorIntegersLand := by
  refine ⟨fun s c t ls ht he hls h => ?_, ?_, ?_, fun w =>
    ⟨rfl, pickUnits_four w 8 .., pickUnits_four w 8 .., pickUnits_four w 8 .., pickUnits_eight w 4 ..,
      pickUnits_four w 8 .., pickUnits_four w 8 .., pickUnits_eight w 4 ..⟩⟩
  · intro due s'
    have hs' : s' = _ := State.streamCycle_eq hls h
    obtain ⟨hmem, hcells, f, hcell, hbits⟩ := State.raiseAll_team (due.map Landing.nearer) (State.act_withShared ht _) he
    rw [hs']
    refine ⟨?_, ⟨f, ?_, fun j => ?_⟩, fun d hd => ?_, hmem⟩
    · rw [hcell, Cell.sh_setTeam, State.cell_withShared]
      rfl
    · rw [hcell, Cell.act, Cell.active_setTeam, Cell.team_setTeam_self]
      rfl
    · rw [hbits]
      simp [Landing.nearer]
    · rw [hcells d hd, State.cell_withShared_ne _ _ hd]
  · intro ty fn a b d _ n ha hb hd val lo hi p hp r
    have hval : ∀ x, x < 2 ^ n → val x = tyIntVal ty x := fun x hx => by
      rw [tyIntVal_eq_valueOf]
      cases hs : tySigned ty <;> simp [val, valueOf, hs, n, Nat.mod_eq_of_lt hx]
    rw [hval a ha, hval b hb, hval d hd] at hp
    have hrun := vArithInt_exact ty fn a b d p hp
    have hr : r = lowBits n (clampTy ty (fn.getLsbD 0) p.2) := congrArg Prod.fst hrun
    have hlt : r < 2 ^ n := hr ▸ lowBits_lt n _
    refine ⟨hlt, fun hsat => ?_, fun hsat => ?_, congrArg Prod.snd hrun⟩
    · rw [hr, hsat]
      exact lowBits_sub_emod n p.2
    · rw [hval r hlt, hr, hsat, tyIntVal_lowBits_clamp, tyMin_eq, tyMax_eq]
  · intro ty fn a b _ n ha hb A B
    obtain ⟨hand, hor, hxor, hshl⟩ := ofNat_vArithInt_bits ty fn a b
    have hle := tyIntVal_le_iff ty a b
    refine ⟨hand, hor, hxor, hshl, ofNat_vArithInt_shr ty fn a b ha, ?_, ?_⟩
    · rw [ofNat_vArithInt_min]
      simp only [hle]
      rfl
    · rw [ofNat_vArithInt_max]
      simp only [hle]
      rfl

end Sys2Proof.Machine
end

section
/-! Proofs about the register-only strand instructions: what they may change (R200, R203 to R208). -/
namespace Sys2Proof.Machine

/-! ### A write of a strand register (R197, R200) -/

theorem Team.regOf_putReg_ne {t : Team} {r k : Nat} (h : k ≠ r) (v : Word) : (t.putReg r v).regOf k = t.regOf k := by
  simp only [Team.putReg, Team.regOf]
  split_ifs <;> simp_all [Sparse.get_set]

/-- A write of a register leaves what every other one reads. -/
theorem Team.sreg_putReg_ne {t : Team} {r k : Nat} (h : k ≠ r) (v : Word) : (t.putReg r v).sreg k = t.sreg k := by
  have hloads : (t.putReg r v).loads = t.loads := Team.putReg_loads t r v
  simp only [Team.sreg, hloads, Team.regOf_putReg_ne h]

/-- An outstanding load that will not return to register `r` (R197). -/
def Load.released (r : Nat) (l : Load) : Load := if l.reg == some r then { l with reg := none } else l

theorem Load.value_released (r : Nat) (l : Load) : (l.released r).value = l.value := by
  unfold Load.released
  split <;> rfl

theorem Load.released_returns_iff {r k : Nat} (h : k ≠ r) (l : Load) : ((l.released r).reg == some k) = (l.reg == some k) := by
  unfold Load.released
  split
  · next hr =>
    rw [eq_of_beq hr]
    simp [Ne.symm h]
  · rfl

/-- Releasing register `r` from the outstanding loads leaves what every other register reads. -/
theorem Team.sreg_released {t : Team} {r k : Nat} (h : k ≠ r) :
    ({ t with loads := t.loads.map (Load.released r) } : Team).sreg k = t.sreg k := by
  have hfind : (t.loads.map (Load.released r)).reverse.find? (fun l => l.reg == some k) =
      (t.loads.reverse.find? fun l => l.reg == some k).map (Load.released r) := by
    rw [← List.map_reverse, List.find?_map]
    exact congrArg (fun p => (t.loads.reverse.find? p).map (Load.released r)) (funext fun l => Load.released_returns_iff h l)
  simp only [Team.sreg, hfind]
  cases t.loads.reverse.find? fun l => l.reg == some k with
  | none => rfl
  | some l => simp only [Option.map_some, Load.value_released]

theorem Team.setSreg_zero (t : Team) (v : Word) : t.setSreg 0 v = t := rfl

theorem Team.setSreg_pos {t : Team} {r : Nat} (hr : r ≠ 0) (v : Word) :
    t.setSreg r v = ({ t with loads := t.loads.map (Load.released r) } : Team).putReg r v := by
  rw [Team.setSreg, if_neg hr]
  rfl

/-- A write of one register leaves what every other one reads, outstanding loads included. -/
theorem Team.sreg_setSreg_ne {t : Team} {r k : Nat} (h : k ≠ r) (v : Word) : (t.setSreg r v).sreg k = t.sreg k := by
  by_cases hr : r = 0
  · rw [hr, Team.setSreg_zero]
  · rw [Team.setSreg_pos hr, Team.sreg_putReg_ne h, Team.sreg_released h]

theorem Team.putReg_eq (t : Team) (r : Nat) (v : Word) :
    t.putReg r v = { t with regs := (t.putReg r v).regs, pregs := (t.putReg r v).pregs } := by
  unfold Team.putReg
  split_ifs <;> rfl

/-- A write of a register changes the team's registers and outstanding loads alone. -/
theorem Team.setSreg_eq (t : Team) (r : Nat) (v : Word) :
    t.setSreg r v = { t with loads := (t.setSreg r v).loads, regs := (t.setSreg r v).regs, pregs := (t.setSreg r v).pregs } := by
  by_cases hr : r = 0
  · rw [hr, Team.setSreg_zero]
  · rw [Team.setSreg_pos hr, Team.putReg_eq]

/-! ### Bodies that write one register -/

/-- What a register-only instruction may do to its team `t`: the counter, what goes with it, and register `r` change alone. -/
structure Team.OnlyReg (t : Team) (r : Nat) (u : Team) : Prop where
  others : ∀ k, k ≠ r → u.sreg k = t.sreg k
  rest : u = { t with pc := u.pc, waitPeer := u.waitPeer, stood := u.stood, loads := u.loads, regs := u.regs, pregs := u.pregs }

theorem Team.onlyReg_setSreg_past (t : Team) (len r : Nat) (v : Word) : t.OnlyReg r ((t.past .strand len).setSreg r v) where
  others k hk := Team.sreg_setSreg_ne hk v
  rest := by
    rw [Team.setSreg_eq]
    rfl

theorem Team.onlyReg_past (t : Team) (len r : Nat) : t.OnlyReg r (t.past .strand len) := ⟨fun _ _ => rfl, rfl⟩

/-- In the strand the body completes, and all it does to the state is to write register `r` of the issuing team. -/
def WritesReg (r : Nat) (body : M Unit) : Prop :=
  ∀ (s : State) (c : Nat) (t : Team), s.cur = .stream c .strand →
    ∃ v, body.run (s.withTeam c t) = .ok () (s.withTeam c (t.setSreg r v))

theorem writesReg_setSreg (r : BitVec 5) (v : Word) : WritesReg r.toNat (setSreg r v) :=
  fun _ _ t hc => ⟨v, runw_setSreg hc t r v⟩

theorem writesReg_nothing : WritesReg 0 (pure ()) := fun _ _ _ _ => ⟨0, rfl⟩

section
variable {α : Type} {r : Nat} {m : M α} {f : α → M Unit}

/-- Reading something first changes nothing. -/
theorem writesReg_bind (hm : ∀ (s : State) (c : Nat) (t : Team), s.cur = .stream c .strand →
    ∃ a, m.run (s.withTeam c t) = .ok a (s.withTeam c t)) (hf : ∀ a, WritesReg r (f a)) : WritesReg r (m >>= f) := fun s c t hc => by
  obtain ⟨a, ha⟩ := hm s c t hc
  obtain ⟨v, hv⟩ := hf a s c t hc
  exact ⟨v, by rw [EStateM.run_bind, ha]; exact hv⟩

theorem writesReg_sreg {f : Word → M Unit} (x : BitVec 5) (hf : ∀ a, WritesReg r (f a)) : WritesReg r (sreg x >>= f) :=
  writesReg_bind (fun _ _ t hc => ⟨_, runw_sreg hc t x⟩) hf

theorem writesReg_team {f : Team → M Unit} (hf : ∀ a, WritesReg r (f a)) : WritesReg r (team >>= f) :=
  writesReg_bind (fun _ _ t hc => ⟨_, runw_team hc t⟩) hf

theorem writesReg_get {f : State → M Unit} (hf : ∀ a, WritesReg r (f a)) : WritesReg r (get >>= f) :=
  writesReg_bind (fun s c t _ => ⟨_, run_get (s.withTeam c t)⟩) hf

end

/-! ### The instructions -/

/-- The frame of a register-only instruction that writes register `r`. -/
def OnlyWrites (s s' : State) (c : Nat) (t : Team) (r : Nat) : Prop :=
  ∃ u, (s' = s.withTeam c u ∨ s' = s.after c u) ∧ t.OnlyReg r u

theorem strandOp_onlyWrites {s s' : State} {c : Nat} {t : Team} {len r : Nat} {pg : BitVec 3} {body : M Unit}
    (h : Issues s c .strand t) (hb : WritesReg r body) (hs : strandOp len pg body s = .next s') : OnlyWrites s s' c t r := by
  cases hp : t.pred pg.toNat with
  | false =>
    rw [strandOp_off h hp] at hs
    cases hs
    exact ⟨_, .inl rfl, t.onlyReg_past len r⟩
  | true =>
    obtain ⟨v, hv⟩ := hb s c (t.past .strand len) h.1
    rw [strandOp_ok ⟨h, hp⟩ hv] at hs
    cases hs
    have hkey : ((t.past .strand len).setSreg r v).key .strand = t.key .strand := by
      rw [Team.setSreg_eq]
      rfl
    exact ⟨_, .inr (by rw [State.after, hkey]; rfl), t.onlyReg_setSreg_past len r v⟩

/-- An instruction of the strand whose body writes register `r` alone. -/
def IsRegOnly (i : Instr) (r : BitVec 5) : Prop :=
  ∃ len pg body, (∀ s, exec i s = strandOp len pg body s) ∧ WritesReg r.toNat body

section
variable {i : Instr} {len : Nat} {pg : BitVec 3} {rd r1 r2 r3 : BitVec 5}

theorem isRegOnly_literal {v : Word} (h : ∀ s, exec i s = strandOp len pg (setSreg rd v) s) : IsRegOnly i rd :=
  ⟨_, _, _, h, writesReg_setSreg rd v⟩

theorem isRegOnly_unary {f : Word → Word} (h : ∀ s, exec i s = strandOp len pg (do
    let a <- sreg r1
    setSreg rd (f a)) s) : IsRegOnly i rd :=
  ⟨_, _, _, h, writesReg_sreg r1 fun a => writesReg_setSreg rd (f a)⟩

theorem isRegOnly_binary {f : Word → Word → Word} (h : ∀ s, exec i s = strandOp len pg (do
    let a <- sreg r1
    let b <- sreg r2
    setSreg rd (f a b)) s) : IsRegOnly i rd :=
  ⟨_, _, _, h, writesReg_sreg r1 fun a => writesReg_sreg r2 fun b => writesReg_setSreg rd (f a b)⟩

theorem isRegOnly_ternary {f : Word → Word → Word → Word} (h : ∀ s, exec i s = strandOp len pg (do
    let a <- sreg r1
    let b <- sreg r2
    let d <- sreg r3
    setSreg rd (f a b d)) s) : IsRegOnly i rd :=
  ⟨_, _, _, h, writesReg_sreg r1 fun a => writesReg_sreg r2 fun b => writesReg_sreg r3 fun d => writesReg_setSreg rd (f a b d)⟩

theorem isRegOnly_nothing (h : ∀ s, exec i s = strandOp len pg (pure ()) s) : IsRegOnly i 0 := ⟨_, _, _, h, writesReg_nothing⟩

end

theorem isRegOnly_sel (x : S32) : IsRegOnly (.sel x) x.rd :=
  ⟨_, _, _, fun _ => rfl, writesReg_sreg x.rs1 fun _ => writesReg_sreg x.rs2 fun _ => writesReg_team fun _ => writesReg_setSreg _ _⟩

theorem isRegOnly_tstamp (x : S32) : IsRegOnly (.tstamp x) x.rd :=
  ⟨_, _, _, fun _ => rfl, writesReg_get fun _ => writesReg_setSreg _ _⟩

theorem isRegOnly_aluReg {i : Instr} (op : AluOp) (x : S32) (h : ∀ s, exec i s = aluReg op x s) : IsRegOnly i x.rd :=
  isRegOnly_binary h

theorem isRegOnly_aluImm {i : Instr} (op : AluOp) (y : S64) (h : ∀ s, exec i s = aluImm op y s) : IsRegOnly i y.r.rd :=
  isRegOnly_unary h

/-- Settles O5: every body reads registers, the predicates or the clock and then writes RD, and a write of RD changes what RD
reads alone. -/
theorem registerOnlyFrame : Obligations.RegisterOnlyFrame := by
  intro s s' c t x y z h p hp hs
  have hreg : IsRegOnly p.1 p.2 := by
    clear hs
    revert p
    simp only [List.forall_mem_cons, List.not_mem_nil, false_imp_iff, implies_true, and_true]
    refine ⟨isRegOnly_aluReg .add x fun _ => rfl, isRegOnly_aluReg .sub x fun _ => rfl, isRegOnly_aluReg .mul x fun _ => rfl,
      isRegOnly_aluReg .mulh x fun _ => rfl, isRegOnly_aluReg .div x fun _ => rfl, isRegOnly_aluReg .rem x fun _ => rfl,
      isRegOnly_aluReg .and x fun _ => rfl, isRegOnly_aluReg .or x fun _ => rfl, isRegOnly_aluReg .xor x fun _ => rfl,
      isRegOnly_aluReg .shl x fun _ => rfl, isRegOnly_aluReg .shr x fun _ => rfl, isRegOnly_aluReg .sra x fun _ => rfl,
      isRegOnly_aluReg .min x fun _ => rfl, isRegOnly_aluReg .max x fun _ => rfl, ?_⟩
    refine ⟨isRegOnly_unary fun _ => rfl, isRegOnly_unary fun _ => rfl, isRegOnly_binary fun _ => rfl,
      isRegOnly_ternary fun _ => rfl, isRegOnly_binary fun _ => rfl, isRegOnly_sel x, isRegOnly_tstamp x,
      isRegOnly_nothing fun _ => rfl, ?_⟩
    refine ⟨isRegOnly_aluImm .add y fun _ => rfl, isRegOnly_aluImm .sub y fun _ => rfl, isRegOnly_aluImm .mul y fun _ => rfl,
      isRegOnly_aluImm .mulh y fun _ => rfl, isRegOnly_aluImm .div y fun _ => rfl, isRegOnly_aluImm .rem y fun _ => rfl,
      isRegOnly_aluImm .and y fun _ => rfl, isRegOnly_aluImm .or y fun _ => rfl, isRegOnly_aluImm .xor y fun _ => rfl,
      isRegOnly_aluImm .shl y fun _ => rfl, isRegOnly_aluImm .shr y fun _ => rfl, isRegOnly_aluImm .sra y fun _ => rfl,
      isRegOnly_aluImm .min y fun _ => rfl, isRegOnly_aluImm .max y fun _ => rfl, ?_⟩
    exact ⟨isRegOnly_unary fun _ => rfl, isRegOnly_binary fun _ => rfl, isRegOnly_unary fun _ => rfl,
      isRegOnly_literal fun _ => rfl, isRegOnly_nothing fun _ => rfl, isRegOnly_literal fun _ => rfl,
      isRegOnly_nothing fun _ => rfl⟩
  obtain ⟨len, pg, body, hrun, hb⟩ := hreg
  obtain ⟨u, hu, hothers, hrest⟩ := strandOp_onlyWrites h hb ((hrun s).symm.trans hs)
  have hmem : s'.mem = s.mem := by
    obtain rfl | rfl := hu <;> simp [State.after]
  exact ⟨u, hu, fun k _ hk => hothers k hk, hrest, fun a => by rw [hrest], fun a => by rw [hmem]; exact ⟨rfl, rfl⟩, hmem⟩

end Sys2Proof.Machine
end

section
/-! Proofs about stage switches (R107, R108, R163, R232). -/
namespace Sys2Proof.Machine

/-! ### STAGE.SW while a nest stands between two iterations (R108, R163) -/

/-- A team whose vector stream runs a nest of two trips with one body instruction at offset 4: the body of iteration 0 is done, and
the stream stands at the NEST.END at offset 8, before iteration 1. -/
def betweenIterations : Team :=
  { vec := { st := .run, pc := 8, nest := some false },
    nt0 := { st := .run, eng := .vector, bodyOff := 0, endOff := 12, levels := [{ trip := 2 }], body := [(4, [0x14061004])],
             start := [0], idx := [0], pos := 1 } }

/-- Cell 0 holds that team in its active stage and another team in the other; the strand of the first issues. -/
def switchingCell : State := { cells := [(0, { a := some betweenIterations, b := some {} })], cur := .stream 0 .strand }

/-- STAGE.SW, unguarded. -/
def stageSwWord : S32 := { md := 0, rs2 := 0, rs1 := 0, rd := 0, pg := 0 }

/-- The counter of the vector stream in the active team of cell `c`. -/
def vectorPcAfter (c : Nat) : Res → Option Word
  | .next s => (s.cell c).act.map fun t => t.vec.pc
  | _ => none

/-- The clamp of the switch counts from iteration 1, on which the nest goes: the stream now stands at its first instruction. -/
theorem vectorPcAfter_stageSw : vectorPcAfter 0 (exec (.stageSw stageSwWord) switchingCell) = some 4 := by decide

/-- Refutes O14: STAGE.SW clamps every nest in RUN, and the clamp of a nest that stands between two iterations moves its stream from
the NEST.END (offset 8) to the first instruction of the next iteration (offset 4), where the statement has an engine stream inside
a nest keep everything, its counter included. -/
theorem not_stageSwitching : ¬ Obligations.StageSwitching := by
  rintro ⟨hstage, -⟩
  have hguard : Guarded switchingCell 0 betweenIterations stageSwWord.pg := ⟨⟨rfl, rfl⟩, rfl⟩
  obtain ⟨-, hswitch⟩ := hstage switchingCell 0 betweenIterations stageSwWord hguard
  obtain ⟨s', t', hs, ht, -, -, -, -, heng⟩ := hswitch rfl rfl rfl rfl
  have hkept : t'.vec = betweenIterations.vec := heng .vector
  have hmoved := vectorPcAfter_stageSw
  rw [hs, vectorPcAfter, ht, Option.map_some, hkept] at hmoved
  exact absurd hmoved (by decide)

end Sys2Proof.Machine
end

section
/-! Proofs about submission queues, the accounts of contexts and the children's spill queue (R81, R82, R86, R96, R99, R104). -/
namespace Sys2Proof.Machine

/-! ### A queue after a write (R81) -/

/-- The states differ in queues, rings and the counter of free values alone. -/
def State.QueuesOnly (s s' : State) : Prop :=
  ∃ qs rs n, s' = { s with hub := { s.hub with queues := qs, rings := rs }, free := n }

theorem State.QueuesOnly.trans {s t u : State} (h : s.QueuesOnly t) (k : t.QueuesOnly u) : s.QueuesOnly u := by
  obtain ⟨qs, rs, n, rfl⟩ := h
  obtain ⟨qs', rs', n', rfl⟩ := k
  exact ⟨qs', rs', n', rfl⟩

section
variable (s : State) (k : Nat)

@[simp] theorem State.queue_modQueue_self (f : Queue → Queue) : (s.modQueue k f).queue k = f (s.queue k) :=
  Sparse.get_set_self ({} : Queue) s.hub.queues k _

theorem State.modQueue_queuesOnly (f : Queue → Queue) : s.QueuesOnly (s.modQueue k f) := ⟨_, s.hub.rings, s.free, rfl⟩

theorem State.noteReady_queuesOnly : s.QueuesOnly (s.noteReady k) := s.modQueue_queuesOnly k _

theorem State.queueError_queuesOnly (st : Status) (a : After) : s.QueuesOnly (s.queueError k st a) := ⟨s.hub.queues, _, _, rfl⟩

@[simp] theorem State.queue_queueError (st : Status) (a : After) (j : Nat) : (s.queueError k st a).queue j = s.queue j := rfl

/-- The ring holds fewer entries than TAIL says (R86). -/
def Queue.overruns (q : Queue) : Prop := q.en = true ∧ q.places < (q.tail - q.head).toNat

/-- What an overrun leaves of the queue: it is disabled, and what its ring holds may still be taken (R86). -/
def Queue.overrun (q : Queue) : Queue := { q with en := false, lim := some (q.head + BitVec.ofNat 32 q.places) }

theorem State.checkOverrun_over {s : State} {k : Nat} (h : (s.queue k).overruns) :
    s.checkOverrun k = (s.modQueue k Queue.overrun).queueError k .queueOverrun .nothing := by
  obtain ⟨hen, hlt⟩ := h
  simp only [State.checkOverrun, hen, hlt, decide_true, Bool.and_self, if_true]
  rfl

theorem State.checkOverrun_within {s : State} {k : Nat} (h : ¬ (s.queue k).overruns) : s.checkOverrun k = s := by
  refine if_neg fun hover => ?_
  obtain ⟨hen, hlt⟩ := Bool.and_eq_true_iff.1 hover
  exact h ⟨hen, of_decide_eq_true hlt⟩

theorem State.checkOverrun_queuesOnly : s.QueuesOnly (s.checkOverrun k) := by
  by_cases h : (s.queue k).overruns
  · rw [State.checkOverrun_over h]
    exact (s.modQueue_queuesOnly k Queue.overrun).trans (State.queueError_queuesOnly ..)
  · rw [State.checkOverrun_within h]
    exact ⟨s.hub.queues, s.hub.rings, s.free, rfl⟩

/-- A queue whose registers have been written: its head item's wait is noted, and an overrun found. -/
def State.queueWritten : State := (s.noteReady k).checkOverrun k

theorem State.queueWritten_queuesOnly : s.QueuesOnly (s.queueWritten k) :=
  (s.noteReady_queuesOnly k).trans (State.checkOverrun_queuesOnly _ k)

/-- What the check for an overrun leaves of HEAD, TAIL, EN, the limit and the rings. -/
theorem State.queue_queueWritten : let q := s.queue k
    let q' := (s.queueWritten k).queue k
    q'.head = q.head ∧ q'.tail = q.tail ∧
    (if q.en = true ∧ q.places < (q.tail - q.head).toNat then q'.en = false ∧ q'.lim = some (q.head + BitVec.ofNat 32 q.places)
      else q'.en = q.en ∧ q'.lim = q.lim ∧ (s.queueWritten k).hub.rings = s.hub.rings) := by
  have hnote : ∃ x, (s.noteReady k).queue k = { s.queue k with since := x } := ⟨_, s.queue_modQueue_self k _⟩
  obtain ⟨x, hx⟩ := hnote
  intro q q'
  have hover : ((s.noteReady k).queue k).overruns ↔ q.en = true ∧ q.places < (q.tail - q.head).toNat := by rw [hx]; rfl
  by_cases h : ((s.noteReady k).queue k).overruns
  · have hq' : q' = { q with since := x }.overrun := by
      change ((s.noteReady k).checkOverrun k).queue k = _
      rw [State.checkOverrun_over h, State.queue_queueError, State.queue_modQueue_self, hx]
    rw [if_pos (hover.1 h), hq']
    exact ⟨rfl, rfl, rfl, rfl⟩
  · have hs : s.queueWritten k = s.noteReady k := State.checkOverrun_within h
    have hq' : q' = { q with since := x } := by rw [← hx, ← hs]
    rw [if_neg (h ∘ hover.2), hq', hs]
    exact ⟨rfl, rfl, rfl, rfl, rfl⟩

end

theorem State.QueuesOnly.mem {s s' : State} (h : s.QueuesOnly s') : s'.mem = s.mem := by
  obtain ⟨_, _, _, rfl⟩ := h
  rfl

theorem State.QueuesOnly.cells {s s' : State} (h : s.QueuesOnly s') : s'.cells = s.cells := by
  obtain ⟨_, _, _, rfl⟩ := h
  rfl

theorem State.QueuesOnly.tenant {s s' : State} (h : s.QueuesOnly s') (a : Nat) : s'.tenant a = s.tenant a := by
  obtain ⟨_, _, _, rfl⟩ := h
  rfl

/-! ### The events of a queue (R81, R82, R96) -/

/-- The queue with a TAIL written, and the queue enabled. -/
def Queue.rung (tail : BitVec 32) (q : Queue) : Queue := { q with tail := tail }
def Queue.enabled (q : Queue) : Queue := { q with en := true, lim := none, since := none, rise := 0 }

/-- A context that was free becomes RUNNING (R514). -/
theorem State.st_tenantRuns (s : State) {a : Nat} (ha : a ≠ 0) :
    ((s.tenantRuns a).tenant a).st = if (s.tenant a).st = .free then .running else (s.tenant a).st := by
  by_cases h : (s.tenant a).st = .free
  · have hruns : s.tenantRuns a = s.withTenants (Sparse.set {} s.hub.tenants a { s.tenant a with st := .running }) :=
      if_pos (by simpa [ha, State.tenant] using h)
    rw [hruns, if_pos h, State.tenant, State.withTenants, Sparse.get_set_self]
  · have hruns : s.tenantRuns a = s := if_neg (by simpa [ha, State.tenant] using h)
    rw [hruns, if_neg h]

/-- A doorbell sets TAIL, and an overrun disables the queue and keeps what its ring holds (R81, R86). -/
theorem State.rung_queueWritten (s : State) (k : Nat) (tail : BitVec 32) : let q := s.queue k
    let s' := (s.modQueue k (Queue.rung tail)).queueWritten k
    (s'.queue k).tail = tail ∧ (s'.queue k).head = q.head ∧
    (if q.en = true ∧ q.places < (tail - q.head).toNat then
        (s'.queue k).en = false ∧ (s'.queue k).lim = some (q.head + BitVec.ofNat 32 q.places)
      else (s'.queue k).en = q.en ∧ (s'.queue k).lim = q.lim ∧ s'.hub.rings = s.hub.rings) ∧
    s'.mem = s.mem ∧ s'.cells = s.cells := by
  intro q s'
  have honly : s.QueuesOnly s' := (s.modQueue_queuesOnly k _).trans (State.queueWritten_queuesOnly _ k)
  have hwritten := State.queue_queueWritten (s.modQueue k (Queue.rung tail)) k
  rw [State.queue_modQueue_self] at hwritten
  obtain ⟨hhead, htail, hover⟩ := hwritten
  exact ⟨htail, hhead, hover, honly.mem, honly.cells⟩

/-- An enabled queue stays so unless its TAIL overruns it; its context runs (R82, R86, R514). -/
theorem State.enabled_queueWritten (s : State) (k : Nat) {a : Nat} (ha : a ≠ 0) : let q := s.queue k
    let s' := ((s.modQueue k Queue.enabled).tenantRuns a).queueWritten k
    ((s'.queue k).en = true ↔ (q.tail - q.head).toNat ≤ q.places) ∧ (s'.queue k).head = q.head ∧ (s'.queue k).tail = q.tail ∧
      (s'.tenant a).st = (if (s.tenant a).st = .free then .running else (s.tenant a).st) ∧ s'.mem = s.mem := by
  intro q s'
  have hst := (s.modQueue k Queue.enabled).st_tenantRuns ha
  have hwritten := State.queue_queueWritten ((s.modQueue k Queue.enabled).tenantRuns a) k
  have honly := ((s.modQueue k Queue.enabled).tenantRuns a).queueWritten_queuesOnly k
  obtain ⟨ts, hts⟩ := (s.modQueue k Queue.enabled).tenantRuns_eq a
  have hqueue : ((s.modQueue k Queue.enabled).tenantRuns a).queue k = q.enabled := by
    rw [hts]
    exact s.queue_modQueue_self k _
  rw [hqueue] at hwritten
  obtain ⟨hhead, htail, hover⟩ := hwritten
  refine ⟨?_, hhead, htail, (congrArg Tenant.st (honly.tenant a)).trans hst, honly.mem.trans (by rw [hts]; rfl)⟩
  split at hover
  · next hlt => exact iff_of_false (by simp [s', hover.1]) (Nat.not_le.2 hlt.2)
  · next hlt => exact iff_of_true (by simp [s', hover.1, Queue.enabled]) (Nat.not_lt.1 fun h => hlt ⟨rfl, h⟩)

section
variable {s : State} (ha : s.arg.a ≤ 64) (hb : s.arg.b < 32) (hup : s.boot.start = .up)
include ha hb hup

theorem State.queueBlock_up : s.queueBlock s.arg.a s.arg.b = true := by
  simp [State.queueBlock, ha, hb, hup]

omit ha hup in
theorem qKey_eq : qKey s.arg.a s.arg.b = 32 * s.arg.a + s.arg.b := by
  rw [qKey, Nat.mod_eq_of_lt hb]

theorem execQueueDoorbell_eq : execQueueDoorbell s = .next
    ((s.modQueue (32 * s.arg.a + s.arg.b) (Queue.rung (BitVec.ofNat 32 s.arg.c))).queueWritten (32 * s.arg.a + s.arg.b)) := by
  simp only [execQueueDoorbell, State.queueBlock_up ha hb hup, qKey_eq hb]
  rfl

theorem execQueueDisable_eq : execQueueDisable s =
    .next (s.modQueue (32 * s.arg.a + s.arg.b) fun q => { q with en := false, lim := none }) := by
  simp only [execQueueDisable, State.queueBlock_up ha hb hup, qKey_eq hb]
  rfl

/-- A queue that may be enabled: it is not, its size is valid, and it has a context (R82). -/
def Queue.mayEnable (q : Queue) : Prop := q.en = false ∧ q.size.toNat ≤ 10 ∧ q.asid ≠ 0

theorem execQueueEnable_enables (h : (s.queue (32 * s.arg.a + s.arg.b)).mayEnable) : execQueueEnable s =
    .next (((s.modQueue (32 * s.arg.a + s.arg.b) Queue.enabled).tenantRuns
      (s.queue (32 * s.arg.a + s.arg.b)).asid).queueWritten (32 * s.arg.a + s.arg.b)) := by
  obtain ⟨hen, hsize, hasid⟩ := h
  simp only [execQueueEnable, State.queueBlock_up ha hb hup, qKey_eq hb, hen]
  simp [Nat.not_lt.2 hsize, hasid]
  rfl

theorem execQueueEnable_ignored (h : ¬ (s.queue (32 * s.arg.a + s.arg.b)).mayEnable) : execQueueEnable s = .next s := by
  simp only [execQueueEnable, State.queueBlock_up ha hb hup, qKey_eq hb]
  refine if_pos ?_
  simp only [Queue.mayEnable, not_and_or, Bool.not_eq_false, not_le, not_not] at h
  simpa [or_assoc] using h

theorem execQueueAging_rises {t : Nat} (hsince : (s.queue (32 * s.arg.a + s.arg.b)).since = some t)
    (hready : ((s.readyNode (s.queue (32 * s.arg.a + s.arg.b)).asid (32 * s.arg.a + s.arg.b)).isSome ||
      s.entryReady (32 * s.arg.a + s.arg.b)) = true)
    (hcls : (s.queue (32 * s.arg.a + s.arg.b)).cls.toNat + (s.queue (32 * s.arg.a + s.arg.b)).rise < 7)
    (hwait : t + ((s.queue (32 * s.arg.a + s.arg.b)).rise + 1) * (if (s.queue (32 * s.arg.a + s.arg.b)).age = 0 then 1000000
      else (s.queue (32 * s.arg.a + s.arg.b)).age.toNat * 10000) ≤ s.now) :
    execQueueAging s = .next (s.modQueue (32 * s.arg.a + s.arg.b) fun q => { q with rise := q.rise + 1 }) := by
  simp only [execQueueAging, qKey_eq hb, hsince, State.queueBlock_up ha hb hup, hready, hcls, hwait, decide_true, Bool.and_self,
    if_true]

end

/-! ### Bytes of a number -/

theorem length_leBytes : ∀ n v : Nat, (leBytes n v).length = n
  | 0, _ => rfl
  | n + 1, v => congrArg (· + 1) (length_leBytes n (v / 256))

theorem leNat_leBytes : ∀ n v : Nat, leNat (leBytes n v) = v % 256 ^ n
  | 0, v => by simp [leBytes, leNat, Nat.mod_one]
  | n + 1, v => by
    rw [leBytes, leNat, leNat_leBytes n, Nat.pow_succ', Nat.mod_mul, BitVec.toNat_ofNat]

/-! ### System addresses (R522) outside confidential mode -/

/-- A system access at `z` reaches bytes that exist and can be read: host memory, or local lines that are not poisoned. -/
def State.sysReach (s : State) (z n : Nat) : Prop :=
  z / 2 ^ 52 % 16 = 6 ∨ (z % 2 ^ 52 + n ≤ frames * 65536 ∧
    ∀ l ∈ linesOf (z % 2 ^ 52) n, s.mem.bad.mem l = false ∧ (s.keyMapOf (l / 1024)).clr = false)

theorem mem_linesOf {a n x : Nat} (h : x ∈ span a n) : x / 64 ∈ linesOf a n := by
  obtain ⟨i, hi, rfl⟩ := List.mem_map.1 h
  have hin : i < n := List.mem_range.1 hi
  rw [linesOf, if_neg (by omega)]
  exact List.mem_map.2 ⟨(a + i) / 64 - a / 64, List.mem_range.2 (by omega), by omega⟩

theorem Memory.rdBytes_eq_map (m : Memory) : ∀ n a : Nat, m.rdBytes a n = (span a n).map m.rd
  | 0, _ => rfl
  | n + 1, a => by
    have hspan : span a (n + 1) = a :: span (a + 1) n := by
      simp [span, List.range_succ_eq_map, Function.comp_def, Nat.add_comm, Nat.add_left_comm]
    rw [hspan, List.map_cons, ← Memory.rdBytes_eq_map m n (a + 1), Memory.rdBytes]

/-- Clearing poison leaves clean lines clean. -/
theorem NatSet.mem_foldl_rem {l : Nat} : ∀ (ls : List Nat) {b : NatSet}, b.mem l = false →
    (ls.foldl (fun b l => b.rem l) b).mem l = false
  | [], _, h => h
  | k :: ls, b, h => by
    refine NatSet.mem_foldl_rem ls (b := b.rem k) ?_
    rw [NatSet.mem, NatSet.rem, Sparse.get_set]
    split
    · rfl
    · exact h

theorem State.countAccess_eq (s : State) (f : Nat) :
    ∃ cs sw, s.countAccess f = { s with mem := { s.mem with counts := cs, swaps := sw } } := by
  unfold State.countAccess State.startSwap
  dsimp only
  split_ifs <;> exact ⟨_, _, rfl⟩

section
variable {s : State} {x n : Nat} (hon : s.boot.on = false)
include hon

theorem State.sysLocal_eq (hx : x + n ≤ frames * 65536)
    (hl : ∀ l ∈ linesOf x n, s.mem.bad.mem l = false ∧ (s.keyMapOf (l / 1024)).clr = false) :
    s.sysLocal x n = s.mem.phys.rdBytes x n := by
  rw [Memory.rdBytes_eq_map, State.sysLocal]
  refine List.map_congr_left fun a ha => ?_
  obtain ⟨hbad, hclr⟩ := hl _ (mem_linesOf ha)
  have hexists : ¬ frames * 65536 ≤ a := by
    obtain ⟨i, hi, rfl⟩ := List.mem_map.1 ha
    have := List.mem_range.1 hi
    omega
  have hframe : (Sparse.get {} s.mem.keyMap (a / 65536)).clr = false := by
    rw [State.keyMapOf, Nat.div_div_eq_div_mul] at hclr
    exact hclr
  simp only [hexists, State.lineOk, hbad, hon, hframe, decide_false, Bool.not_false, Bool.true_or, Bool.and_self, Bool.or_true,
    Bool.not_true, Bool.or_false, Bool.false_eq_true, if_false]

theorem State.wrLines_eq (pa : Nat) (bs : List Byte) (k : Nat) (slot : Option Nat) : s.wrLines pa bs k slot =
    { s with mem := { s.mem with phys := s.mem.phys.wrBytes pa bs,
                                 bad := (wholeUnits 64 pa bs.length).foldl (fun b l => b.rem l) s.mem.bad } } := by
  simp [State.wrLines, State.keyFill, hon]

/-- What has been written through a system address is read there. -/
theorem State.sysRd_sysWr {z : Nat} (bs : List Byte) (h : s.sysReach z bs.length) : (s.sysWr z bs).sysRd z bs.length = bs := by
  by_cases hz : z / 2 ^ 52 % 16 = 6
  · have hwr : s.sysWr z bs = { s with mem := { s.mem with host := s.mem.host.wrBytes (z % 2 ^ 52) bs } } := by
      rw [State.sysWr, if_pos hz, hon]
      rfl
    rw [hwr, State.sysRd, if_pos hz, hon]
    exact Memory.rdBytes_wrBytes bs s.mem.host (z % 2 ^ 52)
  · obtain ⟨hx, hl⟩ := h.resolve_left hz
    have hwr : s.sysWr z bs = (s.wrLines (z % 2 ^ 52) bs deviceKey none).countAccess (z % 2 ^ 52 / 65536) := by
      rw [State.sysWr, if_neg hz, if_neg (Nat.not_lt.2 hx)]
    obtain ⟨cs, sw, hcount⟩ := (s.wrLines (z % 2 ^ 52) bs deviceKey none).countAccess_eq (z % 2 ^ 52 / 65536)
    rw [hwr, hcount, State.wrLines_eq hon, State.sysRd, if_neg hz]
    rw [State.sysLocal_eq ?_ hx fun l hmem => ?_]
    · exact Memory.rdBytes_wrBytes bs s.mem.phys (z % 2 ^ 52)
    · exact hon
    · exact ⟨NatSet.mem_foldl_rem _ (hl l hmem).1, (hl l hmem).2⟩

end

/-! ### USED (R99) -/

@[simp] theorem State.sysWr_cells (s : State) (z : Nat) (bs : List Byte) : (s.sysWr z bs).cells = s.cells := by
  unfold State.sysWr
  dsimp only
  split
  · rfl
  · split
    · rfl
    · rw [State.countAccess_cells, State.wrLines_cells]

/-- The new value of USED: the pending charges are added, saturating. -/
def State.usedAfter (s : State) (a : Nat) : Nat :=
  min (leNat (s.sysRd (s.acctAddr a + 16) 8) + Sparse.get 0 s.hub.acctPend a) (2 ^ 64 - 1)

/-- An account has no charge pending any longer. -/
def State.noPend (s : State) (a : Nat) : State := { s with hub := { s.hub with acctPend := Sparse.set 0 s.hub.acctPend a 0 } }

theorem State.writeBack_pending {s : State} {a : Nat} (hp : Sparse.get 0 s.hub.acctPend a ≠ 0) :
    s.writeBack a = (s.sysWr (s.acctAddr a + 16) (leBytes 8 (s.usedAfter a))).noPend a := if_neg hp

theorem State.writeBack_used {s : State} {a : Nat} (hp : Sparse.get 0 s.hub.acctPend a ≠ 0) (hon : s.boot.on = false)
    (h : s.sysReach (s.acctAddr a + 16) 8) : leNat ((s.writeBack a).sysRd (s.acctAddr a + 16) 8) = s.usedAfter a ∧
      Sparse.get 0 (s.writeBack a).hub.acctPend a = 0 ∧ (s.writeBack a).cells = s.cells := by
  have hlen := length_leBytes 8 (s.usedAfter a)
  have hread := State.sysRd_sysWr hon (leBytes 8 (s.usedAfter a)) (hlen.symm ▸ h)
  have hfits : s.usedAfter a < 256 ^ 8 := by
    have : s.usedAfter a ≤ 2 ^ 64 - 1 := Nat.min_le_right ..
    omega
  rw [State.writeBack_pending hp]
  refine ⟨?_, Sparse.get_set_self (0 : Nat) _ a 0, s.sysWr_cells ..⟩
  rw [hlen] at hread
  exact (congrArg leNat hread).trans ((leNat_leBytes 8 _).trans (Nat.mod_eq_of_lt hfits))

/-! ### The statement -/

/-- The oldest spilled child of the context enters its die's pool while that has room (R104, log 86). -/
theorem execChildSpillRefill_refills {s : State} {k : Child}
    (hk : (s.hub.pool.find? fun y => y.asid == s.arg.a && y.spilled) = some k) (hroom : s.poolUsed k.die < 3840) :
    execChildSpillRefill s = .next ((s.modPool fun d => if d.order == k.order then { d with spilled := false } else d).modCtx k.asid
      fun x => { x with spHead := x.spHead + 1 }) := by
  simp only [execChildSpillRefill, hk, hroom, if_true]

/-- Settles O39: a write of a queue's registers is the write, then the check for an overrun, and both change queues and rings alone;
what is written to USED is what a system access reads there. -/
theorem submissionQueues : Obligations.SubmissionQueues := by
  refine ⟨?_, fun s => rfl, ?_, ?_⟩
  · intro s x k q ha hb hup
    refine ⟨⟨_, execQueueDoorbell_eq ha hb hup, s.rung_queueWritten k _⟩, fun hen hsize hasid =>
      ⟨_, execQueueEnable_enables ha hb hup ⟨hen, hsize, hasid⟩, s.enabled_queueWritten k hasid⟩,
      fun h => execQueueEnable_ignored ha hb hup fun ⟨hen, hsize, hasid⟩ => ?_, execQueueDisable_eq ha hb hup,
      fun t hsince hready hcls hwait => execQueueAging_rises ha hb hup hsince (Bool.or_eq_true_iff.2 hready) hcls hwait⟩
    obtain h | h | h := h
    · exact absurd (hen.symm.trans h) (by decide)
    · exact absurd hsize (Nat.not_le.2 h)
    · exact hasid h
  · intro s a p z x hp hon h
    exact State.writeBack_used hp hon h
  · intro s k hk hroom
    refine ⟨_, execChildSpillRefill_refills hk hroom, ?_, ?_, rfl⟩
    · simp [State.modPool]
    · rw [State.ctx_modCtx_self]
      rfl

end Sys2Proof.Machine
end

section
/-! Proofs about arbitration and the slice table (R83 to R85, R92 to R95). -/
namespace Sys2Proof.Machine

/-! ### The choice of an item (R95) -/

section
variable {α : Type} {key : α → Nat}

theorem minBy_eq_none {xs : List α} (h : minBy key xs = none) : xs = [] := by
  cases xs with
  | nil => rfl
  | cons b ys =>
    rw [minBy] at h
    split at h
    · cases h
    · split at h <;> cases h

/-- What `minBy` finds is in the list and has the least key. -/
theorem minBy_spec : ∀ {xs : List α} {x : α}, minBy key xs = some x → x ∈ xs ∧ ∀ y ∈ xs, key x ≤ key y
  | [], _, h => by cases h
  | a :: xs, x, h => by
    rw [minBy] at h
    cases hm : minBy key xs with
    | none =>
      rw [hm] at h
      cases h
      simp [minBy_eq_none hm]
    | some b =>
      obtain ⟨hmem, hle⟩ := minBy_spec hm
      simp only [hm] at h
      split at h
      · next hab =>
        cases h
        exact ⟨List.mem_cons_self, List.forall_mem_cons.2 ⟨le_refl _, fun y hy => hab.trans (hle y hy)⟩⟩
      · next hab =>
        cases h
        exact ⟨List.mem_cons_of_mem _ hmem, List.forall_mem_cons.2 ⟨(Nat.lt_of_not_le hab).le, hle⟩⟩

end

/-- No item is of a class above 7 (R88, R96, R103). -/
theorem State.readyItems_class {s : State} {a : Nat} {z : Nat × Nat × Item} (h : z ∈ s.readyItems a) : z.2.1 ≤ 7 := by
  rw [State.readyItems, List.mem_append] at h
  obtain h | h := h
  · obtain ⟨k, -, hk⟩ := List.mem_filterMap.1 h
    obtain ⟨i, -, rfl⟩ := Option.map_eq_some_iff.1 hk
    exact Nat.min_le_left _ _
  · obtain ⟨p, hp, rfl⟩ := List.mem_map.1 h
    obtain ⟨k, hk, hc⟩ := List.mem_filterMap.1 hp
    obtain ⟨i, -, rfl⟩ := Option.map_eq_some_iff.1 hc
    exact Nat.le_of_lt_succ (List.mem_range.1 (List.mem_reverse.1 hk))

/-- The item that a context takes is ready and accepted, and of the highest class among those. -/
theorem State.pick_spec {s : State} {a : Nat} {p : Nat × Nat × Item} (h : s.pick a = some p) :
    p ∈ s.readyItems a ∧ s.accepts a p.2.2 = true ∧ ∀ z ∈ s.readyItems a, s.accepts a z.2.2 = true → z.2.1 ≤ p.2.1 := by
  obtain ⟨hmem, hle⟩ := minBy_spec h
  obtain ⟨hready, hacc⟩ := List.mem_filter.1 hmem
  refine ⟨hready, hacc, fun z hz hzacc => ?_⟩
  have hkey := hle z (List.mem_filter.2 ⟨hz, hzacc⟩)
  have hz7 := State.readyItems_class hz
  have hturn := Nat.mod_lt (p.1 + 33 - (s.ctx a).lastq) (by decide : 0 < 33)
  have hturn' := Nat.mod_lt (z.1 + 33 - (s.ctx a).lastq) (by decide : 0 < 33)
  omega

/-! ### Taking a queue entry (R84, R85) -/

section
variable {s : State} {k cls : Nat}

/-- The origin of what the head entry of a queue brings. -/
def State.entryOrigin (s : State) (k cls : Nat) : Origin :=
  { asid := (s.queue k).asid, fn := k / 32, queue := k, cls := cls, entry := some k }

theorem State.takeEntry_bad (h : s.entryBad (s.queue k).asid (s.headEntry k) = true) :
    s.takeEntry k cls = some ((s.passEntry k 1).queueError k .qentryInvalid (.entry k)) := if_pos h

theorem State.takeEntry_launch {s1 : State} {bs : List Byte} {al : Bool}
    (h : s.entryBad (s.queue k).asid (s.headEntry k) = false) (hkind : qeKind (s.headEntry k) = 0)
    (hread : (hubRead (s.queue k).asid (qeH (s.headEntry k)) (qeOff (s.headEntry k)) 128 128).run s = .ok (bs, al) s1) :
    s.takeEntry k cls = some (((s1.usedReplies (hubKey (s.queue k).asid)).passEntry k 1).takeLaunch (s.entryOrigin k cls)
      (bytesWords 16 bs) al) := by
  have htry := State.hubTry_ok (hubKey (s.queue k).asid) hread
  simp only [State.takeEntry, h, hkind, htry, Bool.false_eq_true, if_false, if_true]
  rfl

theorem State.head_passEntry (n : Nat) : ((s.passEntry k n).queue k).head = (s.queue k).head + 1 :=
  congrArg Queue.head (Sparse.get_set_self ({} : Queue) s.hub.queues k _)

end

/-! ### Taking a launch (R94, R97, R117) -/

/-- The grid of a launch record that passes its checks. -/
def Origin.grid (o : Origin) (r : List Word) : Grid :=
  { asid := o.asid, fn := o.fn, queue := o.queue, cls := min (lrPrio r) o.cls, lrec := r, node := o.node, entry := o.entry,
    parent := o.team, prov := gridProv r }

/-- The grid that has just been made is the one of its id. -/
theorem State.grid_mkGrid (s : State) (g : Grid) : (s.mkGrid g).1.grid (s.mkGrid g).2 = some { g with total := lrTotal g.lrec } :=
  Tab.find_put_self _ _

/-- Handing a grid on appends its gangs to the placement queue of its context (R117), and changes nothing else of contexts and memory. -/
theorem State.handGrid_eq {s : State} {id : Nat} {g : Grid} (h : s.grid id = some g) : s.handGrid id =
    (s.modGrid id fun g => { g with handed := true }).modCtx g.asid fun c => { c with places := c.places ++ gangsOf id g.lrec } := by
  simp only [State.handGrid, h]

theorem State.takeLaunch_accepted {s : State} {o : Origin} {r : List Word} {al : Bool}
    (h : s.checkLaunch o.asid o.fn r al o.node.isNone = none) : s.takeLaunch o r al =
      ((s.mkGrid (o.grid r)).1.debit o.asid (gridProv r)).handGrid (s.mkGrid (o.grid r)).2 := by
  simp only [State.takeLaunch, h]
  rfl

theorem State.ctx_modGrid (s : State) (g : Nat) (f : Grid → Grid) (a : Nat) : (s.modGrid g f).ctx a = s.ctx a := rfl

/-- A launch taken debits its context and joins the placement queue. -/
theorem State.takeLaunch_ctx {s : State} {o : Origin} {r : List Word} {al : Bool}
    (h : s.checkLaunch o.asid o.fn r al o.node.isNone = none) : ((s.takeLaunch o r al).ctx o.asid) =
      { s.ctx o.asid with deficit := (s.ctx o.asid).deficit - gridProv r,
                          places := (s.ctx o.asid).places ++ gangsOf (s.mkGrid (o.grid r)).2 r } ∧
    (s.takeLaunch o r al).mem = s.mem := by
  have hgrid : ((s.mkGrid (o.grid r)).1.debit o.asid (gridProv r)).grid (s.mkGrid (o.grid r)).2 =
      some { o.grid r with total := lrTotal r } := s.grid_mkGrid (o.grid r)
  rw [State.takeLaunch_accepted h, State.handGrid_eq hgrid]
  refine ⟨(State.ctx_modCtx_self _ o.asid _).trans ?_, rfl⟩
  have hdebit : (((s.mkGrid (o.grid r)).1.debit o.asid (gridProv r)).ctx o.asid) =
      { s.ctx o.asid with deficit := (s.ctx o.asid).deficit - gridProv r } := State.ctx_modCtx_self _ o.asid _
  rw [State.ctx_modGrid, hdebit]
  rfl

/-! ### The end of a slice (R92, R93) -/

/-- The slice of entry `j` begins. -/
def State.beginSlice (s : State) (j : Nat) : State := { s with hub := { s.hub with sliceIdx := j, sliceStart := s.now } }

/-- The states differ in residents and cells alone. -/
def State.ResidentsOnly (s s' : State) : Prop := ∃ rs cs, s' = { s with hub := { s.hub with residents := rs }, cells := cs }

theorem State.sendOut_residentsOnly (s : State) (x : Gang) (why : PreWhy) : s.ResidentsOnly (s.sendOut x why) := by
  unfold State.sendOut
  obtain ⟨cs, hcs⟩ := foldl_keeps (R := State.CellsOnly) State.CellsOnly.refl State.CellsOnly.trans
    (fun s l => s.requestPre_cellsOnly l why) (State.gangLocs _ x) _
  rw [hcs]
  exact ⟨_, _, rfl⟩

theorem State.makeRoom_residentsOnly : ∀ (rs : List Resident) (s : State) (n : Nat), s.ResidentsOnly (s.makeRoom n rs)
  | [], s, n => by
    cases n <;> exact ⟨s.hub.residents, s.cells, rfl⟩
  | r :: rs, s, 0 => ⟨s.hub.residents, s.cells, rfl⟩
  | r :: rs, s, n + 1 => by
    obtain ⟨xs, cs, hout⟩ := s.sendOut_residentsOnly r.gang .slice
    obtain ⟨ys, ds, hrest⟩ := State.makeRoom_residentsOnly rs (s.sendOut r.gang .slice) (n + 1 - (s.gangLocs r.gang).length)
    refine ⟨ys, ds, hrest.trans ?_⟩
    rw [hout]

section
variable {s : State}

theorem execSliceEnd_early (hv : slValid (s.sliceEntry s.hub.sliceIdx) = true)
    (h : s.now < s.hub.sliceStart + 1000 * slLen (s.sliceEntry s.hub.sliceIdx)) : execSliceEnd s = .next s := by
  simp [execSliceEnd, hv, h]

variable {j : Nat} {rest : List Nat} (hnext : s.slicesFrom ((s.hub.sliceIdx + 1) % 64) = j :: rest)
  (hover : slValid (s.sliceEntry s.hub.sliceIdx) = false ∨
    s.hub.sliceStart + 1000 * slLen (s.sliceEntry s.hub.sliceIdx) ≤ s.now)
include hnext hover

/-- Once its slice is over, the next valid entry's begins, and teams may be sent out for it. -/
theorem execSliceEnd_over : ∃ s', execSliceEnd s = .next s' ∧ (s.beginSlice j).ResidentsOnly s' ∧
    (slPreempt (s.sliceEntry s.hub.sliceIdx) = false → s' = s.beginSlice j) := by
  have hended : ¬ ((decide (s.now < s.hub.sliceStart + 1000 * slLen (s.sliceEntry s.hub.sliceIdx)) &&
      slValid (s.sliceEntry s.hub.sliceIdx)) = true) := by
    rw [Bool.and_eq_true, decide_eq_true_eq]
    rintro ⟨hnow, hvalid⟩
    obtain h | h := hover
    · exact absurd (hvalid.symm.trans h) (by decide)
    · exact absurd hnow (Nat.not_lt.2 h)
  have hsame : (s.beginSlice j).ResidentsOnly (s.beginSlice j) := ⟨_, _, rfl⟩
  simp only [execSliceEnd, if_neg hended, hnext]
  split
  · exact ⟨_, rfl, hsame, fun _ => rfl⟩
  · next hsend =>
    have hpre : slPreempt (s.sliceEntry s.hub.sliceIdx) ≠ false := fun h => hsend (by simp [h])
    split
    · exact ⟨_, rfl, hsame, fun h => absurd h hpre⟩
    · exact ⟨_, rfl, State.makeRoom_residentsOnly _ (s.beginSlice j) _, fun h => absurd h hpre⟩

end

/-- Settles O40: the choice is the least key of R95 among the accepted items, what is taken follows the entry's kind, and of the hub
a slice's end changes the current entry and residents alone. -/
theorem arbitration : Obligations.Arbitration := by
  refine ⟨fun s hup hready => ?_, fun s s1 f a pos cls fs i => ⟨fun h => ?_, fun h => ?_⟩, fun s a p => State.pick_spec, ?_, ?_, ?_⟩
  · exact congrArg _ (if_pos (by simp [State.hubUp, hup, hready]))
  · simp only [State.dispatchTo, h]
  · simp only [State.dispatchTo, h]
  · intro s k cls q w o
    exact ⟨State.takeEntry_bad, fun s1 bs al => State.takeEntry_launch, State.head_passEntry 1⟩
  · intro s o r al h
    obtain ⟨hctx, hmem⟩ := State.takeLaunch_ctx h
    refine ⟨_, by rw [hctx], ?_, hmem⟩
    rw [hctx]
    simp [gridProv]
  · intro s j rest i e hnext
    refine ⟨execSliceEnd_early, fun hover => ?_⟩
    obtain ⟨s', hs', ⟨rs, cs, hres⟩, hkeep⟩ := execSliceEnd_over hnext hover
    refine ⟨⟨s', hs', ?_⟩, fun hpre => hs'.trans (congrArg _ (hkeep hpre))⟩
    rw [hres]
    exact ⟨rfl, rfl, rfl⟩

end Sys2Proof.Machine
end

section
/-! Proofs about pre-emption: its request, its drained end and its hard stop (R110, R469 to R471). -/
namespace Sys2Proof.Machine

/-! ### A team changed where it stands -/

theorem Cell.setTeam_team (x : Cell) (b : Bool) : x.setTeam b (x.team b) = x := by
  cases b <;> rfl

/-- The cell after a change of the team of one of its stages; an empty stage stays empty. -/
theorem State.cell_modTeam_here (s : State) (c : Nat) (b : Bool) (f : Team → Team) :
    (s.modTeam (.here c b) f).cell c = (s.cell c).setTeam b (((s.cell c).team b).map f) := by
  cases h : (s.cell c).team b with
  | none =>
    simp only [State.modTeam, State.teamAt, h, Option.map_none]
    rw [← h, Cell.setTeam_team]
  | some t => simp only [State.modTeam, State.teamAt, h, State.putTeam, State.cell_modCell_self, Option.map_some]

@[simp] theorem State.sw_modAct (s : State) (c : Nat) (f : Team → Team) : ((s.modAct c f).cell c).sw = (s.cell c).sw := by
  rw [State.modAct, State.cell_modTeam_here, Cell.sw_setTeam]

/-! ### Cancelled switches (R110) -/

section
variable {s : State} {c : Nat}

theorem State.cancelSwitch_none (h : (s.cell c).sw = none) : s.cancelSwitch c = s := by
  simp only [State.cancelSwitch, h]

theorem State.sw_cancelSwitch : ((s.cancelSwitch c).cell c).sw = none := by
  cases h : (s.cell c).sw with
  | none => rw [State.cancelSwitch_none h, h]
  | some w => simp only [State.cancelSwitch, h, State.sw_modAct, State.cell_setCell_self]

theorem State.abandonSwitch_none (h : (s.cell c).sw = none) : s.abandonSwitch c = s := by
  simp [State.abandonSwitch, h]

theorem State.sw_abandonSwitch : ((s.abandonSwitch c).cell c).sw = none := by
  unfold State.abandonSwitch
  split
  · rw [State.sw_modAct, State.sw_cancelSwitch]
  · next h => simpa using h

end

/-! ### Clamped nests (R163, R470) -/

@[simp] theorem Team.eng_setEng (t : Team) (e k : Engine) (x : EStream) :
    (t.setEng e x).eng k = if k = e then x else t.eng k := by
  cases e <;> cases k <;> rfl

@[simp] theorem Team.eng_setSlot (t : Team) (k : Bool) (n : NestSlot) (e : Engine) : (t.setSlot k n).eng e = t.eng e := by
  cases k <;> rfl

/-- A clamp moves at most the counter of an engine stream. -/
theorem Team.eng_clamp (t : Team) (k pre : Bool) (e : Engine) : ∃ pc, (t.clamp k pre).eng e = { t.eng e with pc := pc } := by
  unfold Team.clamp
  dsimp only
  split
  · rw [Team.modEng, Team.eng_setEng]
    split
    · next h => exact ⟨_, by rw [h, Team.eng_setSlot]⟩
    · exact ⟨_, by rw [Team.eng_setSlot]⟩
  · exact ⟨_, by rw [Team.eng_setSlot]⟩

@[simp] theorem Team.eng_parkVamo (t : Team) (e : Engine) : t.parkVamo.eng e = t.eng e := by
  unfold Team.parkVamo
  split <;> cases e <;> rfl

/-- An engine stream that has been told to stop: outside a nest it stops at once. -/
def EStream.clamped (x : EStream) : EStream := if x.st == .run && x.nest.isNone then { x with stopped := true } else x

theorem EStream.stopped_clamped (x : EStream) : x.clamped.stopped = (x.stopped || (x.st == .run && x.nest.isNone)) := by
  unfold EStream.clamped
  split
  · next h => simp [h]
  · next h => simp [h]

/-- The engine streams of a team told to stop. -/
def Team.stopOutside (t : Team) : Team := { t with vec := t.vec.clamped, mat := t.mat.clamped, cpy := t.cpy.clamped }

@[simp] theorem Team.eng_stopOutside (t : Team) (e : Engine) : t.stopOutside.eng e = (t.eng e).clamped := by
  cases e <;> rfl

theorem Team.clampAll_eq (t : Team) : t.clampAll =
    if ((t.clamp false true).clamp true true).stopOutside.vec.stopped then ((t.clamp false true).clamp true true).stopOutside.parkVamo
    else ((t.clamp false true).clamp true true).stopOutside := rfl

/-- Clamping a team stops each engine stream that is outside a nest, and moves at most the counters of the others. -/
theorem Team.eng_clampAll (t : Team) (e : Engine) : ∃ pc, t.clampAll.eng e = ({ t.eng e with pc := pc } : EStream).clamped := by
  obtain ⟨p, hp⟩ := t.eng_clamp false true e
  obtain ⟨q, hq⟩ := (t.clamp false true).eng_clamp true true e
  rw [hp] at hq
  refine ⟨q, ?_⟩
  rw [Team.clampAll_eq, apply_ite (Team.eng · e), Team.eng_parkVamo, ite_self, Team.eng_stopOutside, hq]

/-! ### The events -/

theorem argLoc_here {x : EvArg} {b : Bool} (h : x.b = b.toNat) : argLoc x = .here x.a b := by
  cases b <;> simp [argLoc, h]

section
variable {s : State} {b : Bool} {t : Team}

theorem State.preReason_epilogue {c : Nat} {w : PreWhy} (ht : (s.cell c).team b = some t)
    (h : s.preReason (.here c b) = some w) : t.epilogue = none := by
  simp only [State.preReason, State.teamAt, ht] at h
  split at h
  · cases h
  · next he => simpa using he

/-- A team whose context may not run is to be stopped (R469). -/
theorem State.preReason_stop {c : Nat} (ht : (s.cell c).team b = some t) (hrun : s.mayRun t.asid = false) (he : t.epilogue = none) :
    s.preReason (.here c b) = some .stop := by
  simp [State.preReason, State.teamAt, ht, he, hrun]

variable (hb : s.arg.b = b.toNat)
include hb

theorem execPreemptRequest_none (h : s.preReason (.here s.arg.a b) = none) : execPreemptRequest s = .next s := by
  simp only [execPreemptRequest, argLoc_here hb, h]

theorem execPreemptRequest_some {w : PreWhy} (h : s.preReason (.here s.arg.a b) = some w) :
    execPreemptRequest s = .next (s.requestPre (.here s.arg.a b) w) := by
  simp only [execPreemptRequest, argLoc_here hb, h]

variable (ht : (s.cell s.arg.a).team b = some t)
include ht

theorem execPreemptDrained_eq : execPreemptDrained s =
    if t.pre.isSome = true ∧ t.halted = false ∧ (s.cell s.arg.a).active = b ∧ s.drainedCell s.arg.a = true then
      .next (s.modTeam (.here s.arg.a b) fun u => { u with halted := true }) else .next s := by
  simp [execPreemptDrained, argLoc_here hb, State.teamAt, ht, and_assoc]

theorem execPreemptHardStop_eq {w : PreWhy} {t0 : Nat} (hpre : t.pre = some (w, t0)) : execPreemptHardStop s =
    if t.halted = false ∧ (s.cell s.arg.a).active = b ∧ s.drainedCell s.arg.a = false ∧ 840 ≤ cyclesOf s.now - cyclesOf t0 then
      .next (s.modTeam (.here s.arg.a b) fun u => { u.stopAll with halted := true }) else .next s := by
  simp [execPreemptHardStop, argLoc_here hb, State.teamAt, ht, hpre, and_assoc]

end

section
variable {s : State} {c : Nat} {b : Bool} {t : Team} (ht : (s.cell c).team b = some t) (hend : t.ended = false)
  (hep : t.epilogue = none) (hpre : t.pre = none) (w : PreWhy)
include ht hend hep hpre

/-- The request to the team of the active stage: its switch is cancelled, it is clamped and its strand interrupted. -/
theorem State.requestPre_active (ha : (s.cell c).active = b) : s.requestPre (.here c b) w =
    (s.cancelSwitch c).modTeam (.here c b) fun u => { u.clampAll.interrupted with pre := some (w, s.now) } := by
  simp [State.requestPre, State.teamAt, ht, hend, hep, hpre, ha]

/-- The request to the team of the inactive stage, which has stopped already. -/
theorem State.requestPre_inactive (ha : (s.cell c).active ≠ b) : s.requestPre (.here c b) w =
    (s.abandonSwitch c).modTeam (.here c b) fun u => { u with pre := some (w, s.now), halted := true } := by
  simp [State.requestPre, State.teamAt, ht, hend, hep, hpre, ha]

end

/-- Settles O43: each event is its guard and one change of the team; a clamp stops exactly the engine streams outside a nest. -/
theorem preemption : Obligations.Preemption := by
  intro s b t c l hb ht
  refine ⟨execPreemptRequest_none hb, fun w hw hend hpre => ?_, ⟨State.sw_cancelSwitch, State.sw_abandonSwitch, fun h =>
    ⟨State.cancelSwitch_none h, State.abandonSwitch_none h⟩⟩, fun e => ?_, State.preReason_stop ht, fun ha hh =>
    ⟨fun hpre hd => ?_, fun hd => ?_, ?_⟩⟩
  · have hep := State.preReason_epilogue ht hw
    have hreq := execPreemptRequest_some hb hw
    exact ⟨fun ha => hreq.trans (congrArg _ (State.requestPre_active ht hend hep hpre w ha)),
      fun ha => hreq.trans (congrArg _ (State.requestPre_inactive ht hend hep hpre w ha))⟩
  · obtain ⟨pc, hpc⟩ := t.eng_clampAll e
    rw [hpc, EStream.stopped_clamped]
  · exact (execPreemptDrained_eq hb ht).trans (if_pos ⟨hpre, hh, ha, hd⟩)
  · refine (execPreemptDrained_eq hb ht).trans (if_neg fun ⟨_, _, _, hdrained⟩ => ?_)
    exact absurd (hdrained.symm.trans hd) (by decide)
  · intro w t0 hpre hd
    have heq := execPreemptHardStop_eq hb ht hpre
    refine ⟨fun hc => heq.trans (if_pos ⟨hh, ha, hd, hc⟩), fun hc => heq.trans (if_neg fun ⟨_, _, _, hlate⟩ => ?_)⟩
    exact absurd hlate (Nat.not_le.2 hc)

end Sys2Proof.Machine
end

section
/-! Proofs about the state after reset (R82, R91, R101, R112, R330, R429, R507, R514, R519). -/
namespace Sys2Proof.Machine

/-- Of the slice table only entry 0 is written at reset (R91). -/
theorem State.reset_sliceEntry (i : Nat) : State.reset.sliceEntry i = if i = 0 then 0x80000000 else 0 := rfl

/-- At reset every queue, ring, context, cell, allotment and neighbour entry is the one that an empty table reads as. -/
theorem State.reset_tables (k : Nat) : State.reset.queue k = {} ∧ State.reset.ring k = {} ∧ State.reset.tenant k = {} ∧
    State.reset.cell k = {} ∧ State.reset.allotOf k = (0, 0) ∧ State.reset.nbr k = {} := ⟨rfl, rfl, rfl, rfl, rfl, rfl⟩

theorem State.reset_memoryWf : State.reset.memoryWf := by
  obtain ⟨hmem, -, hsaved⟩ := State.reset_memory
  refine ⟨hmem, fun c b t ht => ?_, fun c => rfl, fun v hv => ?_⟩
  · cases b <;> cases ht
  · rw [hsaved] at hv
    cases hv

/-- A start that is under way completes: the device is up and ready (R519). -/
theorem execStartComplete_starting {s : State} (h : s.boot.start = .starting) :
    ∃ t, execStartComplete s = .next t ∧ t.hubUp = true := by
  simp only [execStartComplete, h]
  exact ⟨_, rfl, rfl⟩

/-- Settles O57: the tables are empty but for entry 0 of the slice table, each register has its default, and the start under way
completes. -/
theorem resetState : Obligations.ResetState := by
  have hqueues : ∀ k, (State.reset.queue k).en = false ∧ (State.reset.ring k).en = false := fun k => by
    obtain ⟨hq, hr, -⟩ := State.reset_tables k
    rw [hq, hr]
    exact ⟨rfl, rfl⟩
  have hcells : ∀ c, State.reset.allotOf c = (0, 0) ∧ (State.reset.cell c).a = none ∧ (State.reset.cell c).b = none := fun c => by
    obtain ⟨-, -, -, hc, ha, -⟩ := State.reset_tables c
    rw [hc]
    exact ⟨ha, rfl, rfl⟩
  have hfree : ∀ a, (State.reset.tenant a).st = .free := fun a => by
    obtain ⟨-, -, ht, -⟩ := State.reset_tables a
    rw [ht]
  refine ⟨hqueues, State.reset_sliceEntry 0, fun i hi => (State.reset_sliceEntry i).trans (if_neg hi), rfl, rfl, rfl, rfl, rfl, rfl,
    rfl, rfl, rfl, fun i => ?_, hcells, hfree, fun _ => ⟨rfl, rfl⟩, State.reset_memory.1, rfl, rfl, State.reset_memoryWf, rfl,
    fun d w => execStartComplete_starting (s := { State.reset with arg := { a := d, w := w } }) rfl⟩
  obtain ⟨-, -, -, -, -, hn⟩ := State.reset_tables i
  exact hn

end Sys2Proof.Machine
end

section
/-! Proofs about the shared operations of the hub: which parts of the state each of them leaves alone. -/
namespace Sys2Proof.Machine

/-! ### A record changed in a table -/

theorem Tab.find_upd {α : Type} (f : α → α) (k j : Nat) : ∀ t : Tab α,
    Tab.find (Tab.upd t k f) j = if j = k then (Tab.find t k).map f else Tab.find t j
  | [] => by simp [Tab.upd, Tab.find]
  | (a, v) :: t => by
    have ih := Tab.find_upd f k j t
    simp only [Tab.upd] at ih
    simp only [Tab.upd, List.map_cons, apply_ite Prod.fst, ite_self, Tab.find, ih]
    by_cases hj : j = k
    · subst hj
      by_cases ha : a = j
      · simp [ha]
      · simp [Ne.symm ha]
    · by_cases ha : a = k
      · simp [ha, hj]
      · simp [ha, hj]

/-! ### Operations on memory alone (R329, R331, R475, R522) -/

/-- The states differ in the memory system alone. -/
def State.MemOnly (s s' : State) : Prop := ∃ m, s' = { s with mem := m }

theorem State.MemOnly.refl (s : State) : s.MemOnly s := ⟨s.mem, rfl⟩

theorem State.MemOnly.trans {s t u : State} (h : s.MemOnly t) (k : t.MemOnly u) : s.MemOnly u := by
  obtain ⟨m, rfl⟩ := h
  obtain ⟨n, rfl⟩ := k
  exact ⟨n, rfl⟩

section
variable (s : State)

theorem State.countAccess_memOnly (f : Nat) : s.MemOnly (s.countAccess f) := by
  obtain ⟨cs, sw, h⟩ := s.countAccess_eq f
  exact ⟨_, h⟩

theorem State.keyFill_memOnly (f : Nat) (slot : Option Nat) : s.MemOnly (s.keyFill f slot) := by
  unfold State.keyFill
  split
  · exact .refl s
  · exact ⟨_, rfl⟩

theorem State.wrLines_memOnly (pa : Nat) (bs : List Byte) (k : Nat) (slot : Option Nat) : s.MemOnly (s.wrLines pa bs k slot) :=
  (s.keyFill_memOnly (pa / 65536) slot).trans ⟨_, rfl⟩

theorem State.sysWr_memOnly (a : Nat) (bs : List Byte) : s.MemOnly (s.sysWr a bs) := by
  unfold State.sysWr
  dsimp only
  split
  · exact ⟨_, rfl⟩
  · split
    · exact .refl s
    · exact (s.wrLines_memOnly ..).trans (State.countAccess_memOnly ..)

theorem State.sysBlit_memOnly (a n : Nat) (x : Memory) : s.MemOnly (s.sysBlit a n x) := by
  unfold State.sysBlit
  dsimp only
  split
  · split
    · exact s.sysWr_memOnly ..
    · exact ⟨_, rfl⟩
  · split
    · refine .trans ?_ (foldl_keeps .refl .trans (fun s (p : Nat × Nat) => s.countAccess_memOnly (p.1 / 65536)) _ _)
      exact ⟨_, rfl⟩
    · exact foldl_keeps .refl .trans
        (fun s (p : Nat × Nat) => s.sysWr_memOnly p.1 (x.rdBytes (p.1 - a % 2 ^ 52) p.2)) _ _

/-- A team's slot is memory (R475). -/
theorem State.writeSlot_memOnly (t : Team) (im : Images) : s.MemOnly (s.writeSlot t im) :=
  (foldl_keeps State.MemOnly.refl State.MemOnly.trans (fun s (p : Nat × List Byte) => s.sysBlit_memOnly _ p.2.length _) _ _).trans
    (State.sysBlit_memOnly ..)

theorem State.setPin_memOnly (a fa : Nat) (on : Bool) : s.MemOnly (s.setPin a fa on) := by
  unfold State.setPin
  split
  · exact .refl s
  · exact (s.sysWr_memOnly ..).trans ⟨_, rfl⟩

theorem State.unlock_memOnly (w : LockBy) (f : Nat) : s.MemOnly (s.unlock w f) := by
  unfold State.unlock
  dsimp only
  split
  · exact .refl s
  · split
    · exact .refl s
    · exact ⟨_, rfl⟩

end

/-! ### Operations on the hub, memory and contexts alone -/

/-- The states differ in the hub, the memory system and the contexts alone. -/
def State.HubSide (s s' : State) : Prop := ∃ h m cs, s' = { s with hub := h, mem := m, ctxs := cs }

theorem State.HubSide.refl (s : State) : s.HubSide s := ⟨s.hub, s.mem, s.ctxs, rfl⟩

theorem State.HubSide.trans {s t u : State} (h : s.HubSide t) (k : t.HubSide u) : s.HubSide u := by
  obtain ⟨h1, m1, c1, rfl⟩ := h
  obtain ⟨h2, m2, c2, rfl⟩ := k
  exact ⟨h2, m2, c2, rfl⟩

theorem State.MemOnly.hubSide {s s' : State} (h : s.MemOnly s') : s.HubSide s' := by
  obtain ⟨m, rfl⟩ := h
  exact ⟨s.hub, m, s.ctxs, rfl⟩

theorem State.HubSide.rm {s s' : State} (h : s.HubSide s') : s'.rm = s.rm := by
  obtain ⟨_, _, _, rfl⟩ := h
  rfl

theorem State.HubSide.cells {s s' : State} (h : s.HubSide s') : s'.cells = s.cells := by
  obtain ⟨_, _, _, rfl⟩ := h
  rfl

/-- The write-back of an account writes its USED and takes the charges that were pending (R99). -/
theorem State.writeBack_eq (s : State) (a : Nat) :
    ∃ m p, s.writeBack a = { s with mem := m, hub := { s.hub with acctPend := p } } := by
  by_cases hp : Sparse.get 0 s.hub.acctPend a = 0
  · exact ⟨s.mem, s.hub.acctPend, if_pos hp⟩
  · obtain ⟨m, hm⟩ := s.sysWr_memOnly (s.acctAddr a + 16) (leBytes 8 (s.usedAfter a))
    rw [State.writeBack_pending hp, hm]
    exact ⟨_, _, rfl⟩

section
variable (s : State)

theorem State.writeBack_hubSide (a : Nat) : s.HubSide (s.writeBack a) := by
  obtain ⟨m, p, h⟩ := s.writeBack_eq a
  exact ⟨_, m, s.ctxs, h⟩

theorem State.modCtx_hubSide (a : Nat) (f : Ctx → Ctx) : s.HubSide (s.modCtx a f) := ⟨s.hub, s.mem, _, rfl⟩

theorem State.modGraph_hubSide (p : Nat) (f : Graph → Graph) : s.HubSide (s.modGraph p f) := ⟨_, s.mem, s.ctxs, rfl⟩

theorem State.toRing_hubSide (fn r : Nat) (p : PendRec) : s.HubSide (s.toRing fn r p) := ⟨_, s.mem, s.ctxs, rfl⟩

theorem State.noteReady_hubSide (k : Nat) : s.HubSide (s.noteReady k) := ⟨_, s.mem, s.ctxs, rfl⟩

theorem State.noteAll_hubSide : s.HubSide s.noteAll :=
  foldl_keeps State.HubSide.refl State.HubSide.trans State.noteReady_hubSide _ s

theorem State.entryDone_hubSide (e : Option Nat) : s.HubSide (s.entryDone e) := by
  cases e with
  | none => exact .refl s
  | some k => exact ⟨_, s.mem, s.ctxs, rfl⟩

theorem State.freeGraph_hubSide (p : Nat) : s.HubSide (s.freeGraph p) := by
  unfold State.freeGraph
  split
  · exact .refl s
  · exact State.HubSide.trans ⟨_, s.mem, s.ctxs, rfl⟩ ((State.entryDone_hubSide _ _).trans (State.noteAll_hubSide _))

/-- A node starts, and waits for arbitration where it has to (R88). -/
def State.nodeStarts (s : State) (p j : Nat) (n : List Word) (g : Graph) : State :=
  let s := s.modGraph p fun g => { g with sts := g.sts.set j .running, ready := if ndKind n ≤ 2 then g.ready ++ [j] else g.ready }
  if ndKind n ≤ 2 then s.noteReady g.queue else s

theorem State.nodeStarts_hubSide (p j : Nat) (n : List Word) (g : Graph) : s.HubSide (s.nodeStarts p j n g) := by
  unfold State.nodeStarts
  split
  · exact (s.modGraph_hubSide p _).trans (State.noteReady_hubSide ..)
  · exact s.modGraph_hubSide p _

theorem State.startNodes_hubSide (p : Nat) : s.HubSide (s.startNodes p) := by
  unfold State.startNodes
  split
  · exact .refl s
  · split
    · exact .refl s
    · refine foldl_keeps .refl .trans (fun s n => ?_) _ s
      dsimp only
      split
      · exact .refl s
      · next g _ =>
        have hstart := s.nodeStarts_hubSide p n.2 n.1 g
        split
        · split
          · exact hstart.trans (State.toRing_hubSide ..)
          · exact hstart
        · exact .refl s

/-- Unpinning clears PIN in leaves, the contexts' notes of pinned pages, and locks (R361). -/
theorem State.unpinAll_hubSide (a : Nat) (fas : List Nat) : s.HubSide (s.unpinAll a fas) := by
  refine foldl_keeps State.HubSide.refl State.HubSide.trans (fun s fa => ?_) fas s
  dsimp only
  split
  · exact .refl s
  · have hpin := (s.setPin_memOnly a fa false).hubSide.trans (State.modCtx_hubSide _ a fun x =>
      { x with pinned := x.pinned.rem (frameAt ‹Word› fa) })
    split
    · exact hpin
    · exact hpin.trans (State.unlock_memOnly ..).hubSide

theorem State.settleWeight_hubSide (wid : Word) : s.HubSide (s.settleWeight wid) := by
  unfold State.settleWeight
  split
  · exact .refl s
  · split
    · exact State.HubSide.trans ⟨_, s.mem, s.ctxs, rfl⟩ (State.unpinAll_hubSide ..)
    · exact .refl s

theorem State.settleImage_hubSide (hash : Word) : s.HubSide (s.settleImage hash) := by
  unfold State.settleImage
  split
  · exact .refl s
  · split
    · exact ⟨_, s.mem, s.ctxs, rfl⟩
    · exact .refl s

theorem State.applyAllot_hubSide (c : Nat) : s.HubSide (s.applyAllot c) := by
  unfold State.applyAllot
  split
  · exact .refl s
  · dsimp only
    split
    · exact ⟨_, s.mem, s.ctxs, rfl⟩
    · exact .refl s

end

/-! ### Operations that leave the step's agent and argument alone -/

/-- Whose step it is, and what arrived with it, are the same (log 1). -/
structure State.SameStep (s s' : State) : Prop where
  cur : s'.cur = s.cur
  arg : s'.arg = s.arg

theorem State.SameStep.refl (s : State) : s.SameStep s := ⟨rfl, rfl⟩

theorem State.SameStep.trans {s t u : State} (h : s.SameStep t) (k : t.SameStep u) : s.SameStep u :=
  ⟨k.cur.trans h.cur, k.arg.trans h.arg⟩

theorem State.HubSide.sameStep {s s' : State} (h : s.HubSide s') : s.SameStep s' := by
  obtain ⟨_, _, _, rfl⟩ := h
  exact ⟨rfl, rfl⟩

section
variable (s : State)

theorem State.putTeam_sameStep (l : Loc) (t : Team) : s.SameStep (s.putTeam l t) := by
  cases l <;> exact ⟨rfl, rfl⟩

theorem State.modTeam_sameStep (l : Loc) (f : Team → Team) : s.SameStep (s.modTeam l f) := by
  unfold State.modTeam
  split
  · exact s.putTeam_sameStep ..
  · exact .refl s

theorem State.tellDrop_sameStep (a : Nat) : s.SameStep (s.tellDrop a) := by
  refine foldl_keeps .refl .trans (fun s p => ?_) _ s
  split
  · exact s.modTeam_sameStep ..
  · exact .refl s

theorem State.offer_sameStep (r : FRec) : s.SameStep (s.offer r) := by
  unfold State.offer
  dsimp only
  split
  · exact (s.sysWr_memOnly ..).hubSide.sameStep.trans ⟨rfl, rfl⟩
  · refine .trans ?_ (State.tellDrop_sameStep _ r.asid)
    exact ⟨rfl, rfl⟩

theorem State.raiseAsync_sameStep (l : Loc) (c : Cause) (i : Info) : s.SameStep (s.raiseAsync l c i) := by
  unfold State.raiseAsync
  split
  · exact .refl s
  · exact (s.modTeam_sameStep ..).trans (State.offer_sameStep ..)

theorem State.semSignal_sameStep (l : Loc) (i : Nat) (n : BitVec 32) : s.SameStep (s.semSignal l i n) := by
  unfold State.semSignal
  split
  · exact .refl s
  · dsimp only
    split
    · exact (s.putTeam_sameStep ..).trans (State.raiseAsync_sameStep ..)
    · exact s.putTeam_sameStep ..

theorem State.semSignalRef_sameStep (r : TeamRef) (i : Nat) (n : BitVec 32) : s.SameStep (s.semSignalRef r i n) := by
  unfold State.semSignalRef
  split
  · exact s.semSignal_sameStep ..
  · exact .refl s

theorem State.deliver_sameStep (ev fn ring : Nat) (team : Option TeamRef) (r : CR) (a : After) :
    s.SameStep (s.deliver ev fn ring team r a).1 := by
  unfold State.deliver
  split
  · exact (s.toRing_hubSide ..).sameStep
  · split
    · exact .refl s
    · split
      · exact .refl s
      · exact s.putTeam_sameStep ..
  · exact .refl s

theorem State.closeGraph_sameStep (p : Nat) : s.SameStep (s.closeGraph p).1 := by
  unfold State.closeGraph
  split
  · exact .refl s
  · split
    · exact ((s.writeBack_hubSide _).trans (State.modGraph_hubSide ..)).sameStep.trans (State.deliver_sameStep ..)
    · exact .refl s

theorem State.advanceGraph_sameStep (p : Nat) : s.SameStep (s.advanceGraph p) := by
  have hclose := (s.startNodes_hubSide p).sameStep.trans (State.closeGraph_sameStep _ p)
  unfold State.advanceGraph
  split
  · next heq =>
    rw [heq] at hclose
    exact hclose.trans (State.freeGraph_hubSide ..).sameStep
  · next heq =>
    rw [heq] at hclose
    exact hclose

theorem State.openGraph_sameStep (p : Nat) (g : Graph) : s.SameStep (s.openGraph p g) := by
  refine .trans ?_ (State.advanceGraph_sameStep _ p)
  exact ⟨rfl, rfl⟩

theorem State.nodeDone_sameStep (p j : Nat) : s.SameStep (s.nodeDone p j) :=
  (s.modGraph_hubSide ..).sameStep.trans (State.advanceGraph_sameStep _ p)

theorem State.nodeFail_sameStep (p j : Nat) (st : Status) : s.SameStep (s.nodeFail p j st) :=
  (s.modGraph_hubSide ..).sameStep.trans (State.advanceGraph_sameStep _ p)

theorem State.nodeEnd_sameStep (nd : Option (Nat × Nat)) (st : Status) : s.SameStep (s.nodeEnd nd st) := by
  unfold State.nodeEnd
  split
  · exact .refl s
  · split
    · exact s.nodeDone_sameStep ..
    · exact s.nodeFail_sameStep ..

theorem State.batchStep_sameStep (nd : Option (Nat × Nat)) (st : Status) : s.SameStep (s.batchStep nd st) := by
  unfold State.batchStep
  split
  · exact .refl s
  · dsimp only
    split
    · exact (s.modGraph_hubSide ..).sameStep.trans (State.nodeDone_sameStep ..)
    · exact (s.modGraph_hubSide ..).sameStep

theorem State.applyAfter_sameStep (a : After) : s.SameStep (s.applyAfter a) := by
  cases a with
  | nothing => exact .refl s
  | grid gid st =>
    simp only [State.applyAfter]
    split
    · exact .refl s
    · refine .trans (.trans ?_ (State.entryDone_hubSide _ _).sameStep) (State.nodeEnd_sameStep ..)
      exact ⟨rfl, rfl⟩
  | task nd e st => exact (s.entryDone_hubSide e).sameStep.trans (State.batchStep_sameStep ..)
  | graph p => exact (s.freeGraph_hubSide p).sameStep
  | notify p j => exact s.nodeDone_sameStep p j
  | entry q => exact (s.entryDone_hubSide (some q)).sameStep

theorem State.deliverNow_sameStep (ev fn ring : Nat) (team : Option TeamRef) (r : CR) (a : After) :
    s.SameStep (s.deliverNow ev fn ring team r a) :=
  (s.deliver_sameStep ..).trans (State.applyAfter_sameStep ..)

end

/-! ### Tasks (R39, R138, R144) -/

section
variable (s : State)

/-- A task that completes leaves the lists, and what only it referred to goes (R34, R361). -/
def State.taskLeaves (s : State) (u : Nat) (t : Task) : State :=
  (({ s with rm := { s.rm with tasks := s.rm.tasks.filter fun x => x.uid != u && x.orig != some u },
             hub := { s.hub with pool := s.hub.pool.filter fun c => c.task != some u } } : State).settleWeight
    (tkWid t.desc)).settleImage (tkHash t.desc)

/-- The semaphore of a task's submitter is signalled (R39). -/
def State.signalDone (s : State) (t : Task) : State :=
  match t.submitter with
  | some r => if tkCsemv t.desc then s.semSignalRef r (tkCsem t.desc) 1 else s
  | none => s

theorem State.finishTask_eq {s : State} {u : Nat} {t : Task} (h : s.task u = some t) (st : Status) (addr : Word) :
    s.finishTask u st addr = ((((s.taskLeaves u t).signalDone t).writeBack (tkAcct t.desc)).modCtx t.asid fun c =>
      { c with deficit := c.deficit + t.prov }).deliverNow (tkEvkind t.desc) t.fn (tkRing t.desc) t.submitter
        { src := 1, vfl := t.vfl, st := st, tag := tkTag t.desc, id := t.id.toNat, addr := addr } (.task t.node t.entry st) := by
  simp only [State.finishTask, h]
  rfl

theorem State.taskLeaves_sameStep (u : Nat) (t : Task) : s.SameStep (s.taskLeaves u t) := by
  refine .trans ?_ ((State.settleWeight_hubSide _ _).trans (State.settleImage_hubSide ..)).sameStep
  exact ⟨rfl, rfl⟩

theorem State.signalDone_sameStep (t : Task) : s.SameStep (s.signalDone t) := by
  unfold State.signalDone
  split
  · split
    · exact s.semSignalRef_sameStep ..
    · exact .refl s
  · exact .refl s

theorem State.finishTask_sameStep (u : Nat) (st : Status) (addr : Word) : s.SameStep (s.finishTask u st addr) := by
  cases h : s.task u with
  | none =>
    simp only [State.finishTask, h]
    exact .refl s
  | some t =>
    rw [State.finishTask_eq h]
    exact (((s.taskLeaves_sameStep u t).trans (State.signalDone_sameStep _ t)).trans
      ((State.writeBack_hubSide ..).trans (State.modCtx_hubSide ..)).sameStep).trans (State.deliverNow_sameStep ..)

theorem State.steerAgain_sameStep (u : Nat) : s.SameStep (s.steerAgain u) := by
  unfold State.steerAgain
  split
  · exact .refl s
  · dsimp only
    split
    · refine .trans ?_ (State.finishTask_sameStep ..)
      exact ⟨rfl, rfl⟩
    · exact ⟨rfl, rfl⟩

theorem State.unpark_sameStep (u : Nat) : s.SameStep (s.unpark u) := by
  unfold State.unpark
  split
  · exact .refl s
  · split
    · exact .refl s
    · split <;> exact ⟨rfl, rfl⟩

/-- Resuming parked rows leaves the step's agent and argument alone where what becomes of its tasks does. -/
theorem State.resumeTask_sameStep {again : Nat → State → State} (hagain : ∀ u s, State.SameStep s (again u s)) (a : Nat)
    (id : BitVec 32) : s.SameStep (s.resumeTask again a id) := by
  unfold State.resumeTask
  refine .trans ?_ (foldl_keeps .refl .trans (fun s e => ?_) _ _)
  · exact ⟨rfl, rfl⟩
  · refine .trans ?_ (foldl_keeps .refl .trans State.unpark_sameStep _ _)
    split
    · exact .refl s
    · refine foldl_keeps .refl .trans (fun s u => ?_) _ s
      split
      · exact hagain u s
      · exact ⟨rfl, rfl⟩

end

end Sys2Proof.Machine
end

section
/-! Proofs about the Barker: the residency table, steering, refusals and results (R138, R142 to R145). -/
namespace Sys2Proof.Machine

/-! ### Advertisements (R142, R143) -/

theorem State.fabricUp_of {s : State} (hfab : s.hasFabric = true) (hfv : s.fab.fv = true) (hup : s.boot.start = .up) :
    s.fabricUp = true := by
  simp [State.fabricUp, hfab, hfv, hup]

theorem State.advertOf_emit (s : State) (o : Out) (all : Bool) (wid : Word) : (s.emit o).advertOf all wid = s.advertOf all wid := rfl

/-- Advertisements that are sent one after the other append to the log, and none depends on those before it. -/
theorem State.foldl_emit_advertOf : ∀ (ps : List (Word × Weight)) (s : State),
    ps.foldl (fun s p => s.emit (s.advertOf true p.1)) s = { s with out := s.out ++ ps.map fun p => s.advertOf true p.1 }
  | [], s => by simp
  | p :: ps, s => by
    rw [List.foldl_cons, State.foldl_emit_advertOf ps]
    simp only [State.advertOf_emit, List.map_cons]
    simp [State.emit]

/-- The two advertisements speak of one pair: the identity and the device that has it. -/
def Advert.samePair (x y : Advert) : Bool := y.wid == x.wid && y.peer == x.peer

theorem Advert.samePair_iff {x y : Advert} : x.samePair y = true ↔ y.wid = x.wid ∧ y.peer = x.peer := by
  simp [Advert.samePair]

/-- While the table has room a pair enters it, in its own place where it stands there already, and no other pair changes. -/
theorem State.barker_enterAdvert {s : State} (x : Advert) (hroom : s.hub.barker.length < 32768) :
    x ∈ (s.enterAdvert x).hub.barker ∧
    ∀ y, x.samePair y = false → (y ∈ (s.enterAdvert x).hub.barker ↔ y ∈ s.hub.barker) := by
  have hself : x.samePair x = true := Advert.samePair_iff.2 ⟨rfl, rfl⟩
  have htab : (s.enterAdvert x).hub.barker =
      if s.hub.barker.any x.samePair then s.hub.barker.map fun y => if x.samePair y then x else y
      else if s.hub.barker.length < 32768 then s.hub.barker ++ [x]
      else (s.enterAdvert x).hub.barker := by
    simp only [State.enterAdvert, hroom, if_true]
    rfl
  rw [htab, if_pos hroom]
  split
  · next hany =>
    obtain ⟨z, hz, hsame⟩ := List.any_eq_true.1 hany
    refine ⟨List.mem_map.2 ⟨z, hz, if_pos hsame⟩, fun y hy => ⟨fun h => ?_, fun h => List.mem_map.2 ⟨y, h, by simp [hy]⟩⟩⟩
    obtain ⟨w, hw, rfl⟩ := List.mem_map.1 h
    by_cases hsw : x.samePair w = true
    · rw [if_pos hsw, hself] at hy
      cases hy
    · rwa [if_neg hsw]
  · refine ⟨by simp, fun y hy => ?_⟩
    have hne : y ≠ x := by
      rintro rfl
      exact absurd (hself.symm.trans hy) (by decide)
    simp [hne]

section
variable {s : State} (hup : s.fabricUp = true)
include hup

theorem execBarkerAdvertiseTable_eq : execBarkerAdvertiseTable s = .next { s with
    out := s.out ++ (s.hub.weights.filter fun p => !p.2.withdrawn).map fun p => s.advertOf true p.1 } := by
  rw [execBarkerAdvertiseTable, if_pos hup, State.foldl_emit_advertOf]

theorem execBarkerAdvertiseChange_eq :
    execBarkerAdvertiseChange s = .next { s with out := s.out ++ [s.advertOf false (nth s.arg.w 0)] } := by
  rw [execBarkerAdvertiseChange, if_pos hup]
  rfl

theorem execBarkerAdvertReceive_withdrawn (hc : s.arg.c = 1) : execBarkerAdvertReceive s = .next { s with hub := { s.hub with
    barker := s.hub.barker.filter fun y => !(y.wid == nth s.arg.w 0 && y.peer == s.arg.a) } } := by
  simp [execBarkerAdvertReceive, hup, hc]

theorem execBarkerAdvertReceive_enters (hc : s.arg.c ≠ 1) : execBarkerAdvertReceive s = .next (s.enterAdvert
    { wid := nth s.arg.w 0, peer := s.arg.a, queue := min 65535 s.arg.b, fresh := s.now }) := by
  simp [execBarkerAdvertReceive, hup, hc]

/-! ### Steered tasks that arrive (R37, R145) -/

/-- One of the checks that this device makes fails: the task is refused. -/
theorem execSteeredTaskArrive_refused {n : Nat} (hn : n < 6) (hcheck : s.checkTask 0 0 s.arg.w true false false = some n) :
    execSteeredTaskArrive s = .next { s with out := s.out ++ [.refuse s.arg.a (BitVec.ofNat 32 s.arg.c)] } := by
  simp [execSteeredTaskArrive, hup, hcheck, hn, State.emit]

/-- The task that arrives: its activation rows come with it. -/
def State.steeredTask (s : State) : Task :=
  let x := s.arg
  let len := ((s.taskClass (tkHash x.w) (tkShape x.w)).getD {}).abytes
  { id := BitVec.ofNat 32 x.c, desc := x.w, origin := some x.a, owed := 1,
    acts := (List.range (tkRows x.w)).map fun i => (x.bytes.drop (i * len)).take len }

/-- The checks that this device makes pass: the task is queued, whatever check 6 to 9 would say (log 68). -/
theorem execSteeredTaskArrive_accepted
    (hcheck : s.checkTask 0 0 s.arg.w true false false = none ∨ ∃ n, 6 ≤ n ∧ s.checkTask 0 0 s.arg.w true false false = some n) :
    execSteeredTaskArrive s = .next (s.addTask { s.steeredTask with die := s.dieFor s.steeredTask }).1 := by
  have hpass : ¬ (s.checkTask 0 0 s.arg.w true false false).getD 6 < 6 := by
    obtain h | ⟨n, hn, h⟩ := hcheck
    · simp [h]
    · simpa [h] using hn
  simp only [execSteeredTaskArrive, hup, hpass, Bool.not_true, Bool.false_eq_true, if_false]
  rfl

end

/-! ### Refusals and results (R145, R39, R448) -/

section
variable {s : State} {t : Task} (ht : s.awayTask s.arg.a s.arg.c = some t)
include ht

/-- The task with the device that refused it noted. -/
def State.noteRefusal (s : State) (u d : Nat) : State := s.modTask u fun y => { y with refused := y.refused ++ [d] }

theorem execSteerRefused_last (h : 3 ≤ t.refused.length) :
    execSteerRefused s = .next ((s.noteRefusal t.uid s.arg.a).finishTask t.uid .notResident t.parkAddr) := by
  simp only [execSteerRefused, ht, h, if_true]
  rfl

theorem execSteerRefused_again (h : t.refused.length < 3) :
    execSteerRefused s = .next ((s.noteRefusal t.uid s.arg.a).steerAgain t.uid) := by
  simp only [execSteerRefused, ht, if_neg (Nat.not_le.2 h)]
  rfl

end

/-- Result pieces of one accessor are translated, then stored, and its posted stores are performed (R497). -/
def storePieces (key : AgentKey) (c : Nat) (ps : List Piece) : M (Except (Cause × Nat × Nat) Unit) := do
  match <- translate key c ps with
  | .error e => pure (.error e)
  | .ok ys =>
    ys.forM fun y => y.2
    modify fun s => s.drainPosted fun x => x.src == c
    pure (.ok ())

theorem storePieces_ok {s s1 s2 : State} {key : AgentKey} {c : Nat} {ps : List Piece} {ys : List (Nat × M Unit)}
    (htr : (translate key c ps).run s = .ok (.ok ys) s1) (hst : (ys.forM fun y => y.2).run s1 = .ok () s2) :
    (storePieces key c ps).run s = .ok (.ok ()) (s2.drainPosted fun x => x.src == c) := by
  simp only [storePieces, EStateM.run_bind, htr, hst, run_modify, run_pure]

/-- The status and ADDR that a task ends with, from what its target reports of its epilogue (R448). -/
def reportedEnd (b : Nat) (t : Task) : Status × Nat :=
  match allCauses.find? fun k => k.code == b / 32 % 1024 with
  | some k => (.cause k, b / 2 ^ 15)
  | none => (.ok, t.parkAddr.toNat)

/-- Flags and charge of results that have come back. -/
def State.gotResults (s : State) (t : Task) (b d : Nat) : State :=
  (s.modTask t.uid fun y => { y with vfl := y.vfl ||| BitVec.ofNat 5 b, target := none }).chargeTask t.uid d

/-- Results whose bytes are stored: the task ends once they are performed. -/
theorem execSteeredResultsReceive_stored {s s1 s2 : State} {t : Task} {ys : List (Nat × M Unit)}
    (ht : s.awayTask s.arg.a s.arg.c = some t)
    (htr : (translate (taskKey t.uid) 256 (pieceList t.uid s.arg.w s.arg.bytes)).run s = .ok (.ok ys) s1)
    (hst : (ys.forM fun y => y.2).run s1 = .ok () s2) :
    execSteeredResultsReceive s = .next (((((s2.drainPosted fun y => y.src == 256).usedReplies (taskKey t.uid)).gotResults t
      s.arg.b s.arg.d).modTask t.uid fun y => { y with ending := some (reportedEnd s.arg.b t) }).landTasks) := by
  have htry := State.hubTry_ok (taskKey t.uid) (storePieces_ok htr hst)
  simp only [execSteeredResultsReceive, ht]
  split
  · next heq =>
    obtain ⟨rfl, -⟩ := Prod.mk.inj (heq.symm.trans htry)
    rfl
  · next heq => cases heq.symm.trans htry
  · next hok _ heq => exact absurd (congrArg Prod.snd (heq.symm.trans htry)) hok

/-- No cause has the code of a task that ended well. -/
theorem allCauses_code_ne_zero : ∀ k ∈ allCauses, k.code ≠ 0 := by decide

theorem reportedEnd_ok {b : Nat} (t : Task) (h : b < 32) : reportedEnd b t = (.ok, t.parkAddr.toNat) := by
  have hnone : (allCauses.find? fun k => k.code == b / 32 % 1024) = none := by
    rw [Nat.div_eq_of_lt h]
    exact List.find?_eq_none.2 fun k hk => by simpa using allCauses_code_ne_zero k hk
  rw [reportedEnd, hnone]

theorem reportedEnd_cause {b : Nat} (t : Task) {k : Cause} (h : (allCauses.find? fun y => y.code == b / 32 % 1024) = some k) :
    reportedEnd b t = (.cause k, b / 2 ^ 15) := by
  rw [reportedEnd, h]

theorem State.landTask_eq (s : State) {t : Task} {st : Status} {a : Nat} (h : t.ending = some (st, a)) :
    s.landTask t = if s.outstandingOf (taskKey t.uid) (fun _ => true) = true then s else s.finishTask t.uid st (wd a) := by
  rw [State.landTask, h]

/-! ### Steering (R144, R145) -/

/-- A change of a task is read back under its number, which the change keeps. -/
theorem State.task_modTask {s : State} {u : Nat} {t : Task} {f : Task → Task} (ht : s.task u = some t)
    (hf : ∀ x, (f x).uid = x.uid) : (s.modTask u f).task u = some (f t) := by
  have hkeep : ((fun x : Task => x.uid == u) ∘ fun x => if x.uid == u then f x else x) = fun x => x.uid == u := by
    funext x
    by_cases hx : x.uid = u <;> simp [hx, hf]
  have huid : t.uid = u := by simpa using List.find?_some ht
  rw [State.task, State.modTask, State.modTasks, List.find?_map, hkeep]
  rw [State.task] at ht
  simp [ht, huid]

/-- A task that is steered waits to be accepted, here or as the one that goes to its target. -/
theorem State.steerAgain_eq {s : State} {t : Task} {d : Nat} (ht : s.task t.uid = some t)
    (haim : (s.aimFor t.desc t.refused).1 = some d) : s.steerAgain t.uid =
      (s.modTask t.uid fun y => { y with refused := (s.aimFor t.desc t.refused).2 }).modTask t.uid fun y =>
        { y with st := .pending, target := if d = s.fab.devno then none else some d } := by
  simp only [State.steerAgain, ht, haim]
  rfl

/-- A target has not refused the task, and is this device or an advertiser of the identity. -/
theorem State.steerTo_spec {s : State} {wid : Word} {refused : List Nat} {d : Nat} (h : s.steerTo wid refused = some d) :
    refused.contains d = false ∧ (d = s.fab.devno ∨ ∃ y ∈ s.hub.barker, y.wid = wid ∧ y.peer = d) := by
  obtain ⟨p, hp, rfl⟩ := Option.map_eq_some_iff.1 h
  obtain hown | hfar := List.mem_append.1 (minBy_spec hp).1
  · split at hown
    · split at hown
      · cases hown
      · next hfree =>
        obtain rfl := List.mem_singleton.1 hown
        simp only [Bool.or_eq_true, not_or, Bool.not_eq_true] at hfree
        exact ⟨hfree.2, .inl rfl⟩
    · cases hown
  · split at hfar
    · obtain ⟨y, hy, rfl⟩ := List.mem_map.1 hfar
      obtain ⟨hmem, hok⟩ := List.mem_filter.1 hy
      simp only [Bool.and_eq_true, beq_iff_eq, Bool.not_eq_true'] at hok
      obtain ⟨⟨hwid, -⟩, hfree⟩ := hok
      exact ⟨hfree, .inr ⟨y, hmem, hwid, rfl⟩⟩
    · cases hfar

/-- The task that a doorbell names is resumed for each context of the function; what is resumed leaves the event's argument alone. -/
theorem execResumeDoorbell_eq {s : State} (hup : s.boot.start = .up) : execResumeDoorbell s = .next
    ((s.ctxs.filter fun p => p.2.fn == s.arg.a).foldl (fun s p => s.resumeTask steerParked p.1 (BitVec.ofNat 32 s.arg.c)) s) := by
  have hfold : ∀ (ps : List (Nat × Ctx)) (u : State), u.arg = s.arg →
      ps.foldl (fun u p => u.resumeTask steerParked p.1 (BitVec.ofNat 32 s.arg.c)) u =
        ps.foldl (fun u p => u.resumeTask steerParked p.1 (BitVec.ofNat 32 u.arg.c)) u := by
    intro ps
    induction ps with
    | nil => exact fun u _ => rfl
    | cons p ps ih =>
      intro u hu
      have hkeep := u.resumeTask_sameStep (again := steerParked) (fun v s => s.steerAgain_sameStep v) p.1 (BitVec.ofNat 32 s.arg.c)
      rw [List.foldl_cons, List.foldl_cons, hu]
      exact ih _ (hkeep.arg.trans hu)
  rw [← hfold _ s rfl]
  unfold execResumeDoorbell
  exact if_neg (by simp [hup])

/-- Settles O47: each event is its guard and one lemma above; a pair that enters the table leaves the others, and of the devices that
may run a task `steerTo` finds one that is listed and has not refused. -/
theorem barker : Obligations.Barker := by
  refine ⟨fun s hfab hfv hstart => ?_, fun s => rfl, fun s t ht => ?_, fun s t st a hend => ?_, fun s t d ht haim => ?_,
    fun s => execResumeDoorbell_eq, fun s wid refused d => State.steerTo_spec⟩
  · have hup := State.fabricUp_of hfab hfv hstart
    refine ⟨execBarkerAdvertiseTable_eq hup, execBarkerAdvertiseChange_eq hup, execBarkerAdvertReceive_withdrawn hup,
      fun hc hroom => ?_, fun n => execSteeredTaskArrive_refused hup, fun hcheck => ?_⟩
    · obtain ⟨hnew, hothers⟩ := State.barker_enterAdvert _ hroom
      exact ⟨_, execBarkerAdvertReceive_enters hup hc, hnew,
        fun y hy => hothers y (Bool.eq_false_iff.2 fun h => hy (Advert.samePair_iff.1 h)), rfl⟩
    · exact ⟨_, _, execSteeredTaskArrive_accepted hup hcheck, rfl, rfl, rfl, rfl, rfl, by simp [State.steeredTask], rfl⟩
  · refine ⟨execSteerRefused_last ht, execSteerRefused_again ht, fun s2 s3 ys htr hst => ?_⟩
    have hexec := execSteeredResultsReceive_stored ht htr hst
    refine ⟨fun hb => ?_, fun k hk => ?_⟩
    · rw [reportedEnd_ok t hb] at hexec
      exact hexec
    · rw [reportedEnd_cause t hk] at hexec
      exact hexec
  · have hland := s.landTask_eq hend
    exact ⟨fun h => hland.trans (if_neg (by simp [h])), fun h => hland.trans (if_pos h)⟩
  · rw [State.steerAgain_eq ht haim]
    have hrefused := State.task_modTask (f := fun y => { y with refused := (s.aimFor t.desc t.refused).2 }) ht fun _ => rfl
    exact ⟨_, State.task_modTask hrefused fun _ => rfl, rfl⟩

end Sys2Proof.Machine
end

section
/-! Proofs about tasks and passes (R124, R126, R128, R129, R132, R134, R141, R448, R497, R498). -/
namespace Sys2Proof.Machine

/-! ### Acceptance and deadlines (R124, R126, R145) -/

theorem State.hubUp_of {s : State} (hstart : s.boot.start = .up) (hready : s.boot.ready = true) : s.hubUp = true := by
  simp [State.hubUp, hstart, hready]

section
variable {s : State} {t : Task} (ht : s.task s.arg.a = some t)
include ht

theorem execTaskDeadline_due (hq : t.st = .queued) (h : t.deadline ≤ s.now) :
    execTaskDeadline s = .next (s.modTask s.arg.a fun x => { x with due := true }) := by
  simp [execTaskDeadline, ht, hq, h]

theorem execTaskDeadline_early (h : s.now < t.deadline) : execTaskDeadline s = .next s := by
  simp [execTaskDeadline, ht, Nat.not_le.2 h]

variable (hp : t.st = .pending) (hup : s.hubUp = true) (hrun : s.mayRun t.asid = true)
  (hfree : ∀ k ∈ s.hub.pool, k.task = some s.arg.a → k.started = true)
include hp hup hrun hfree

omit ht hp hup hrun in
/-- No child that holds the task waits to be started. -/
theorem State.notHeld : (s.hub.pool.any fun k => k.task == some s.arg.a && !k.started) = false := by
  simpa [List.any_eq_false] using hfree

/-- The task as its Ringmaster's queue takes it. -/
def Task.accept (t : Task) (s : State) : Task :=
  { t with st := .queued, order := s.rm.nextOrder, accepted := s.now, deadline := s.now + 500 * tkPatience t.desc,
           due := tkPatience t.desc == 0 }

/-- The children that a task was are gone from the pool. -/
def State.childGone (s : State) (u : Nat) : State :=
  { s with hub := { s.hub with pool := s.hub.pool.filter fun k => k.task != some u } }

theorem execTaskAccept_queues (htarget : t.target = none) (hroom : s.tileRoom t.die (tkBulk t.desc) = true) :
    ∃ s', execTaskAccept s = .next s' ∧ s'.task s.arg.a = some (t.accept s) ∧ s'.mem = s.mem := by
  simp only [execTaskAccept, ht, hp, hup, hrun, htarget, hroom, State.notHeld hfree, bne_self_eq_false, Bool.not_true,
    Bool.or_self, Option.isSome_none, Bool.false_eq_true, if_false]
  exact ⟨_, rfl, State.task_modTask (f := fun x => x.accept s) ht fun _ => rfl, rfl⟩

theorem execTaskAccept_sends {d : Nat} {rs : List RowRes} {s1 : State} (htarget : t.target = some d)
    (hrows : (gatherStage t (s.groupClass [t]).abytes).run s = .ok rs s1) :
    execTaskAccept s = .next ({ s1.usedReplies (taskKey t.uid) with
      hub := { (s1.usedReplies (taskKey t.uid)).hub with pool := s.hub.pool.filter fun k => k.task != some s.arg.a } }.sendAway
        t d rs) := by
  have htry := State.hubTry_ok (taskKey t.uid) hrows
  simp only [execTaskAccept, ht, hp, hup, hrun, htarget, State.notHeld hfree, bne_self_eq_false, Bool.not_true,
    Bool.or_self, Option.isSome_some, Bool.false_eq_true, if_false, if_true, htry]

end

/-! ### Forming a pass (R126 to R129) -/

theorem rowsIn_cons (t : Task) (ts : List Task) : rowsIn (t :: ts) = tkRows t.desc + rowsIn ts := by
  have hsum : ∀ ts : List Task, rowsIn ts = (ts.map fun t => tkRows t.desc).sum := fun ts => by
    rw [rowsIn, List.sum_eq_foldl]
  rw [hsum, hsum, List.map_cons, List.sum_cons]

/-- What is taken fits, and was there to take. -/
theorem fillRows_spec : ∀ (ts : List Task) (room : Nat), rowsIn (fillRows room ts) ≤ room ∧ ∀ t ∈ fillRows room ts, t ∈ ts
  | [], room => ⟨Nat.zero_le room, fun _ h => h⟩
  | x :: ts, room => by
    rw [fillRows]
    split
    · next hx =>
      obtain ⟨hle, hmem⟩ := fillRows_spec ts (room - tkRows x.desc)
      refine ⟨by rw [rowsIn_cons]; omega, fun t ht => ?_⟩
      obtain rfl | h := List.mem_cons.1 ht
      · exact List.mem_cons_self
      · exact List.mem_cons_of_mem _ (hmem t h)
    · exact ⟨Nat.zero_le room, fun _ h => by cases h⟩

/-- A pass holds at most 128 rows (R129). -/
theorem rowCap_le (c : TaskClass) : rowCap c ≤ 128 := Nat.min_le_left ..

theorem State.filled_spec (s : State) (ts : List Task) : rowsIn (s.filled ts) ≤ 128 ∧ ∀ t ∈ s.filled ts, t ∈ ts := by
  obtain ⟨hle, hmem⟩ := fillRows_spec ts (rowCap (s.groupClass ts))
  exact ⟨hle.trans (rowCap_le _), hmem⟩

/-- The pass of the tasks `t :: ts`, taken from a group of the state's. -/
def State.newPass (s : State) (g : List Task) (t : Task) (ts : List Task) : Pass :=
  { hash := tkHash t.desc, wid := tkWid t.desc, shape := tkShape t.desc, bulk := tkBulk t.desc, st := .gather,
    rows := (t :: ts).flatMap fun t => t.rows 0, groups := s.groupCols g, remainder := t.upto.isSome,
    reserved := rowsIn (t :: ts) * (s.groupClass g).rbytes }

theorem execPassForm_forms {s s1 : State} {g : List Task} {t : Task} {ts : List Task} (hcell : s.passCellFree s.arg.a = true)
    (hup : s.hubUp = true) (hgroup : s.chooseGroup (s.arg.a / 64) s.arg.a = (s1, some g)) (hfill : s1.filled g = t :: ts) :
    ∃ s', execPassForm s = .next s' ∧ s'.pass s.arg.a = some (s1.newPass g t ts) ∧ s'.mem = s1.mem := by
  simp only [execPassForm, hcell, hup, hgroup, hfill, Bool.not_true, Bool.or_self, Bool.false_eq_true, if_false]
  exact ⟨_, rfl, Tab.find_put_self _ _, rfl⟩

/-! ### Gather and column groups (R131, R132, R134, R141) -/

/-- Late tasks that a boundary admits are known from the tasks and passes alone. -/
theorem State.admitted_usedReplies (s : State) (k : AgentKey) (c : Nat) (p : Pass) (n : Nat) :
    (s.usedReplies k).admitted c p n = s.admitted c p n := by
  unfold State.usedReplies
  split <;> rfl

section
variable {s s1 : State} {p : Pass} (hp : s.pass s.arg.a = some p)
include hp

/-- Rows that are gathered go into the latch, and the pass runs. -/
theorem execPassGatherDone_runs {rs : List RowRes} (hst : p.st = .gather)
    (hrows : (gatherRows s.arg.a ((s.taskClass p.hash p.shape).getD {}).abytes p.rows).run s = .ok rs s1) :
    execPassGatherDone s = .next (((s1.usedReplies (passKey s.arg.a)).latch s.arg.a 0 rs).modPass s.arg.a fun y =>
      { y with st := .run, g := 0,
               early := (((s1.usedReplies (passKey s.arg.a)).latch s.arg.a 0 rs).sameQueue s.arg.a y).map (·.uid) }) := by
  have htry := State.hubTry_ok (passKey s.arg.a) hrows
  simp only [execPassGatherDone, hp, hst, htry, bne_self_eq_false, Bool.false_eq_true, if_false]

/-- What the end of a column group does before it is charged: its products land, and late tasks gather their rows (R132). -/
def columnWork (c : Nat) (p : Pass) (abytes n : Nat) : M (List (Task × List RowRes)) := do
  groupProducts c p p.g
  if decide (p.groups ≤ p.g + 1) || p.remainder then pure []
  else ((<- get).admitted c p n).mapM fun t => do
    let rs <- gatherRows c abytes (t.rows 0)
    pure (t, rs)

omit hp in
/-- No late task joins after the last group, in a remainder pass, or where none is admitted. -/
theorem columnWork_none {c n : Nat} (abytes : Nat) (hprod : (groupProducts c p p.g).run s = .ok () s1)
    (hnone : p.groups ≤ p.g + 1 ∨ p.remainder = true ∨ s1.admitted c p n = []) :
    (columnWork c p abytes n).run s = .ok [] s1 := by
  rw [columnWork, EStateM.run_bind, hprod]
  dsimp only
  split
  · rfl
  · next hgo =>
    simp only [Bool.or_eq_true, decide_eq_true_eq, not_or] at hgo
    obtain ⟨hlast, hrem⟩ := hgo
    have hadm := (hnone.resolve_left hlast).resolve_left hrem
    simp only [EStateM.run_bind, run_get, hadm, List.mapM_nil, run_pure]

/-- A group that ends without late tasks: after the last one the pass is charged and its epilogue starts, and otherwise the next
group begins. -/
theorem execPassColumnGroupEnd_eq (hst : p.st = .run) (hprod : (groupProducts s.arg.a p p.g).run s = .ok () s1)
    (hnone : p.groups ≤ p.g + 1 ∨ p.remainder = true ∨ s1.admitted s.arg.a p s.arg.b = []) :
    execPassColumnGroupEnd s = .next (if p.groups ≤ p.g + 1 then
        ((s1.usedReplies (passKey s.arg.a)).chargeSpan p p.span p.groups).startEpilogue s.arg.a
      else (s1.usedReplies (passKey s.arg.a)).modPass s.arg.a fun y =>
        { y with g := p.g + 1, early := ((s1.usedReplies (passKey s.arg.a)).sameQueue s.arg.a y).map (·.uid) }) := by
  have htry := State.hubTry_ok (passKey s.arg.a)
    (columnWork_none ((s.taskClass p.hash p.shape).getD {}).abytes hprod hnone)
  simp only [execPassColumnGroupEnd, hp, hst, bne_self_eq_false, Bool.false_eq_true, if_false]
  split
  · next heq =>
    obtain ⟨rfl, hlate⟩ := Prod.mk.inj (heq.symm.trans htry)
    obtain rfl := HubRes.done.inj hlate
    simp only [decide_eq_true_eq, List.isEmpty_nil, if_true, List.foldl_nil]
    split <;> rfl
  · next hdone heq => exact absurd (congrArg Prod.snd (heq.symm.trans htry)) (hdone [])

/-! ### Scatter (R141, R448, R497) -/

/-- The rows of a pass stand stored: by this event, or since an earlier one; `bad` are the owners whose rows could not be. -/
def State.scattered (s : State) (c : Nat) (p : Pass) (bad : List (Nat × Cause × Nat × Nat)) (s2 : State) : Prop :=
  (∃ s1, p.stored = none ∧ (scatterPass c p).run s = .ok bad s1 ∧ s2 = s1.usedReplies (passKey c)) ∨ p.stored = some bad ∧ s2 = s

/-- The rows of a pass whose epilogue has ended are stored; the pass ends when they are performed (R39). -/
theorem execPassScatterDone_eq {bad : List (Nat × Cause × Nat × Nat)} {s2 : State} (hst : p.st = .epilogue) (hend : p.ended = true)
    (h : s.scattered s.arg.a p bad s2) : execPassScatterDone s =
      .next (if (s2.modPass s.arg.a fun y => { y with stored := some bad }).outstandingOf (passKey s.arg.a) (fun _ => true) = true
        then s2.modPass s.arg.a fun y => { y with stored := some bad }
        else (s2.modPass s.arg.a fun y => { y with stored := some bad }).endPass s.arg.a p bad) := by
  obtain ⟨s1, hnone, hscatter, rfl⟩ | ⟨hsome, rfl⟩ := h
  · have htry := State.hubTry_ok (passKey s.arg.a) hscatter
    simp only [execPassScatterDone, hp, hst, hend, hnone, htry, bne_self_eq_false, Bool.not_true, Bool.or_self, Bool.false_eq_true,
      if_false]
  · simp only [execPassScatterDone, hp, hst, hend, hsome, bne_self_eq_false, Bool.not_true, Bool.or_self, Bool.false_eq_true,
      if_false]

end

/-- A pass that has ended is gone. -/
theorem State.pass_endPass (s : State) (c : Nat) (p : Pass) (bad : List (Nat × Cause × Nat × Nat)) : (s.endPass c p bad).pass c = none := by
  unfold State.endPass
  dsimp only
  split
  · next h => exact h
  · rw [State.pass, (((State.settleWeight_hubSide _ _).trans (State.settleImage_hubSide ..)).trans
      (State.applyAllot_hubSide ..)).rm]
    exact (Tab.find_del c c _).trans (if_pos rfl)

/-! ### The epilogue (R446, R448) -/

/-- A pass cell in which the epilogue's strand stands. -/
def Pass.seatEpilogue (p : Pass) (x : Cell) : Cell :=
  { x with a := some (epilogueTeam p x.work x.workBad), active := false, sw := none, sh := { x.sh with landings := [], array := [] } }

theorem State.startEpilogue_eq {s : State} {c : Nat} {p : Pass} (hp : s.pass c = some p) :
    s.startEpilogue c = (s.modCell c p.seatEpilogue).modPass c fun p => { p with st := .epilogue } := by
  simp only [State.startEpilogue, hp]
  rfl

/-- What the registers of an epilogue's strand hold. -/
theorem epilogueTeam_sreg (p : Pass) (work : Memory) (bad : NatSet) (r : Nat) : (epilogueTeam p work bad).sreg r =
    if r = 3 then wd p.shape else if r = 2 then wd p.groups else if r = 1 then wd p.rows.length else 0 := by
  unfold epilogueTeam
  dsimp only
  iterate 4 rw [Team.sreg_putReg (by simp [Team.putReg_priv]) (by simp [Team.putReg_loads]) (by decide)]
  by_cases hr : r = 4
  · simp [hr]
  · simp [hr, Team.sreg, Team.regOf]

theorem State.startEpilogue_spec {s : State} {c : Nat} {p : Pass} (hp : s.pass c = some p) :
    ((s.startEpilogue c).cell c).a = some (epilogueTeam p (s.cell c).work (s.cell c).workBad) ∧
    (s.startEpilogue c).pass c = some { p with st := .epilogue } := by
  rw [State.startEpilogue_eq hp]
  refine ⟨congrArg Cell.a (State.cell_modCell_self s c p.seatEpilogue), ?_⟩
  rw [State.pass, State.modPass, Tab.find_upd, if_pos rfl]
  exact congrArg (Option.map _) hp

/-! ### Parked rows that are scattered again (R138, R498) -/

/-- Parked rows that the event stores: those of the cell and owner that it names, while they are resumed. -/
def EvArg.names (x : EvArg) (e : Parked) : Bool := e.cell == x.a && e.owner == x.b && e.resuming

/-- The rows that an event names are taken from the parked ones; `more` are parked instead. -/
def State.unparkRows (s : State) (x : EvArg) (more : List Parked) : State :=
  { s with rm := { s.rm with parked := s.rm.parked.eraseP x.names ++ more } }

section
variable {s : State} {e : Parked} (he : s.rm.parked.find? s.arg.names = some e)
include he

/-- Rows stored by an earlier event: their tasks go on once they are performed. -/
theorem execResumedScatterDone_stored (hst : e.stored = true) : execResumedScatterDone s =
    .next (if s.outstandingOf (passKey s.arg.a) (fun _ => true) = true then s
      else e.tasks.foldl State.portion (s.unparkRows s.arg [])) := by
  have he' : (s.rm.parked.find? fun e => e.cell == s.arg.a && e.owner == s.arg.b && e.resuming) = some e := he
  simp only [execResumedScatterDone, he', hst, if_true, State.unparkRows, List.append_nil]
  rfl

/-- Rows that this event stores: their tasks go on where they are performed at once, and otherwise they stay, as stored. -/
theorem execResumedScatterDone_stores {s1 s2 : State} {ys : List (Nat × M Unit)} (hst : e.stored = false)
    (htr : (translate (passKey s.arg.a) s.arg.a e.kept).run s = .ok (.ok ys) s1)
    (hrun : (ys.forM fun y => y.2).run s1 = .ok () s2) : execResumedScatterDone s =
      let s3 := (s2.drainPosted fun x => x.src == s.arg.a).usedReplies (passKey s.arg.a)
      .next (if s3.outstandingOf (passKey s.arg.a) (fun _ => true) = true then s3.unparkRows s.arg [{ e with stored := true }]
        else e.tasks.foldl State.portion (s3.unparkRows s.arg [])) := by
  have he' : (s.rm.parked.find? fun e => e.cell == s.arg.a && e.owner == s.arg.b && e.resuming) = some e := he
  have htry := State.hubTry_ok (passKey s.arg.a) (storePieces_ok htr hrun)
  simp only [execResumedScatterDone, he', hst, Bool.false_eq_true, if_false]
  split
  · next heq =>
    obtain ⟨rfl, -⟩ := Prod.mk.inj (heq.symm.trans htry)
    simp only [State.unparkRows, List.append_nil]
    rfl
  · next heq => cases heq.symm.trans htry
  · next hok _ heq => exact absurd (congrArg Prod.snd (heq.symm.trans htry)) hok

end

/-- Settles O46: each event is its guard, a piece of work whose outcome is given, and what follows it; the rows of a pass are bounded
by the fill, and a pass that ends leaves the table. -/
theorem passes : Obligations.Passes := by
  refine ⟨fun s t ht => ⟨?_, ?_, execTaskDeadline_due ht, fun _ => execTaskDeadline_early ht⟩, State.filled_spec, ?_, ?_, ?_, ?_⟩
  · intro hst htarget hstart hready hrun hroom hfree
    exact execTaskAccept_queues ht hst (State.hubUp_of hstart hready) hrun hfree htarget hroom
  · intro d rs s1 hst htarget hstart hready hrun hfree hrows
    exact execTaskAccept_sends ht hst (State.hubUp_of hstart hready) hrun hfree htarget hrows
  · intro s s1 g t ts c hcell hstart hready hgroup hfill
    obtain ⟨s', hexec, hpass, hmem⟩ := execPassForm_forms hcell (State.hubUp_of hstart hready) hgroup hfill
    exact ⟨s', _, hexec, hpass, rfl, rfl, rfl, rfl, rfl, rfl, rfl, hmem⟩
  · intro s s1 p c hp cls
    refine ⟨fun rs => execPassGatherDone_runs hp, fun hst hprod => ⟨fun hlast => ?_, fun hmore hnone => ?_⟩, fun bad s2 hst hend h => ?_⟩
    · exact (execPassColumnGroupEnd_eq hp hst hprod (.inl hlast)).trans (congrArg _ (if_pos hlast))
    · rw [State.admitted_usedReplies] at hnone
      exact (execPassColumnGroupEnd_eq hp hst hprod (.inr hnone)).trans (congrArg _ (if_neg (Nat.not_le.2 hmore)))
    · have hexec := execPassScatterDone_eq hp hst hend (h.imp_left fun h => ⟨s1, h⟩)
      refine ⟨fun hdue => hexec.trans (congrArg _ (if_pos hdue)), fun hdue => ⟨hexec.trans (congrArg _ (if_neg ?_)), ?_⟩⟩
      · exact Bool.eq_false_iff.1 hdue
      · exact State.pass_endPass ..
  · intro s c p hp t
    obtain ⟨hteam, hpass⟩ := State.startEpilogue_spec hp
    exact ⟨hteam, hpass, rfl, epilogueTeam_sreg .., epilogueTeam_sreg .., epilogueTeam_sreg ..⟩
  · intro s s1 s2 e ys c mine rest due he
    refine ⟨fun hst hdue => ?_, fun hst hdue => ?_, fun hst htr hrun => ⟨fun hdue => ?_, fun hdue => ?_⟩⟩
    · exact (execResumedScatterDone_stored he hst).trans (congrArg _ (if_neg (Bool.eq_false_iff.1 hdue)))
    · exact (execResumedScatterDone_stored he hst).trans (congrArg _ (if_pos hdue))
    · exact (execResumedScatterDone_stores he hst htr hrun).trans (congrArg _ (if_neg (Bool.eq_false_iff.1 hdue)))
    · exact (execResumedScatterDone_stores he hst htr hrun).trans (congrArg _ (if_pos hdue))

end Sys2Proof.Machine
end

section
/-! Proofs about the instructions that create work: LAUNCH, TSUB, GRAPH.ARM and TRESUME (R103 to R105, R125, R138, R221, R222). -/
namespace Sys2Proof.Machine

/-! ### Meanings one step at a time -/

section
variable {α β : Type} {m : M α} {f : α → M β} {s s' : State}

/-- A meaning that goes on with what its first step answers. -/
theorem run_bind_ok {a : α} (h : m.run s = .ok a s') : (m >>= f).run s = (f a).run s' := by
  rw [EStateM.run_bind, h]

/-- A meaning that ends in its first step. -/
theorem run_bind_error {e : Exc} (h : m.run s = .error e s') : (m >>= f).run s = .error e s' := by
  rw [EStateM.run_bind, h]

end

/-! ### What these instructions read (R103 to R105) -/

section
variable {s : State} {c : Nat} {t : Team} (hc : s.cur = .stream c .strand) (ht : (s.cell c).act = some t)
include hc ht

theorem run_theGrid : theGrid.run s = .ok ((s.grid t.grid).getD {}) s := by
  simp only [theGrid, EStateM.run_bind, run_team hc ht, run_get, run_pure]

theorem run_placeFor_some {waited spill : Bool} (h : s.childPlace t.asid (c / 64) waited = some spill) :
    (placeFor waited).run s = .ok (c / 64, spill) s := by
  simp only [placeFor, EStateM.run_bind, run_theCell hc, run_team hc ht, run_get, run_pure, h]

theorem run_placeFor_none {waited : Bool} (h : s.childPlace t.asid (c / 64) waited = none) :
    (placeFor waited).run s = .error (.trap .childSpillFull {}) s := by
  simp only [placeFor, EStateM.run_bind, run_theCell hc, run_team hc ht, run_get, run_trap, h]

end

/-- Reading the issuing team and its grid never fails and changes nothing. -/
theorem run_team_ok (s : State) : ∃ t, team.run s = .ok t s := by
  cases hc : s.cur <;> exact ⟨_, by simp only [team, theCell, EStateM.run_bind, run_get, hc, run_pure]; rfl⟩

theorem run_theGrid_ok (s : State) : ∃ g, theGrid.run s = .ok g s := by
  obtain ⟨t, ht⟩ := run_team_ok s
  exact ⟨_, by simp only [theGrid, EStateM.run_bind, ht, run_get, run_pure]; rfl⟩

/-! ### The trap of a body that has read its record (R461) -/

/-- The state in which the strand of team `t` traps at its instruction, with what the instruction has read so far. -/
def State.strandTraps (s : State) (c : Nat) (t : Team) (k : Cause) (i : Info) : State :=
  ((s.modAct c fun u => { u with pc := t.pc }).did t).takeTrap c .strand k true t.pc i

theorem strandOp_whole_trap {s s' : State} {c : Nat} {t : Team} {pg : BitVec 3} {len : Nat} {body : M Unit} {k : Cause} {i : Info}
    (hg : Guarded s c t pg) (hb : body.run (s.withTeam c (t.past .strand len)) = .error (.trap k i) s') :
    strandOp len pg (whole body) s = .next (s'.strandTraps c t k i) :=
  strandOp_trap hg (whole_run_trap hb)

/-! ### Children (R103, R104) -/

/-- A child joins the pool in creation order; of one that is spilled the entry is written, and its context's tail moves. -/
theorem State.addChild_eq (s : State) (k : Child) : ∃ m cs, s.addChild k = { s with
    hub := { s.hub with pool := s.hub.pool ++ [{ k with order := s.hub.nextChild }], nextChild := s.hub.nextChild + 1 },
    mem := m, ctxs := cs } := by
  unfold State.addChild
  dsimp only
  split
  · obtain ⟨m, hm⟩ := State.sysWr_memOnly { s with hub := { s.hub with
      pool := s.hub.pool ++ [{ k with order := s.hub.nextChild }], nextChild := s.hub.nextChild + 1 } }
      ((s.ctx k.asid).regs.spillqbase.toNat + 64 * ((s.ctx k.asid).spTail % max 1 (s.ctx k.asid).regs.spillqsize.toNat))
      (childBytes { k with order := s.hub.nextChild })
    exact ⟨m, _, congrArg (State.modCtx · k.asid fun x => { x with spTail := x.spTail + 1 }) hm⟩
  · exact ⟨s.mem, s.ctxs, rfl⟩

theorem State.addChild_cur (s : State) (k : Child) : (s.addChild k).cur = s.cur := by
  obtain ⟨m, cs, hadd⟩ := s.addChild_eq k
  rw [hadd]

/-- The state after the instruction has added its child and written the id of the new work to its register. -/
def State.created (s : State) (c : Nat) (t : Team) (k : Child) (rd : BitVec 5) (id : Word) : State :=
  ((s.addChild k).modAct c fun u => u.setSreg rd.toNat id).did t

theorem State.created_spec {s : State} {c : Nat} {t2 : Team} (h2 : (s.cell c).act = some t2) (t : Team) (k : Child) (rd : BitVec 5)
    (id : Word) : ((s.created c t k rd id).cell c).act = some (t2.setSreg rd.toNat id) ∧
      (s.created c t k rd id).rm = s.rm ∧ (s.created c t k rd id).hub = { s.hub with
        pool := s.hub.pool ++ [{ k with order := s.hub.nextChild }], nextChild := s.hub.nextChild + 1 } := by
  obtain ⟨m, cs, hadd⟩ := s.addChild_eq k
  have hact : ((s.addChild k).cell c).act = some t2 := by
    rw [hadd]
    exact h2
  rw [State.created, State.modAct_of_act hact]
  refine ⟨(State.act_did _ _ _).trans (State.act_withTeam ..), ?_, ?_⟩
  · rw [State.did, State.usedReplies_rm, State.withTeam_rm, hadd]
  · rw [State.did, State.usedReplies_hub, State.withTeam_hub, hadd]

/-! ### The grid of a launch record (R19, R221) -/

theorem Tab.find_ne_none {α : Type} {k : Nat} : ∀ {t : Tab α}, k ∈ t.map (·.1) → Tab.find t k ≠ none
  | (a, v) :: t, h => by
    rw [Tab.find]
    split
    · exact Option.some_ne_none v
    · next hk => exact Tab.find_ne_none ((List.mem_cons.1 h).resolve_left hk)

/-- The next id in order is taken when no grid holds it. -/
theorem State.mkGrid_next {s : State} (g : Grid) (h : s.grid (s.hub.nextGrid % 2 ^ 32) = none) :
    (s.mkGrid g).2 = s.hub.nextGrid % 2 ^ 32 := by
  have hfree : (s.hub.grids.map (·.1)).contains (s.hub.nextGrid % 2 ^ 32) = false := by
    exact Bool.eq_false_iff.2 fun hmem => Tab.find_ne_none (List.contains_iff_mem.1 hmem) h
  simp only [State.mkGrid, freeGridId, hfree, Bool.false_eq_true, if_false]

/-- The grid of a launch record that a team of grid `g` issues, and the child that it is, under its id. -/
def Grid.launched (g : Grid) (t : Team) (r : List Word) : Grid :=
  { asid := t.asid, fn := g.fn, queue := g.queue, cls := min (lrPrio r) g.cls, lrec := r, parent := some t.ref }
def Grid.child (g : Grid) (die id : Nat) (spill : Bool) : Child :=
  { asid := g.asid, die := die, cls := g.cls, grid := some id, spilled := spill }

/-! ### The task of a descriptor (R37, R125, R144) -/

/-- The devices for which a TSUB's task is: the one that is found for it with peer ANY, and this one without; and those that have
refused it already. -/
def State.tsubAim (s : State) (any : Bool) (d : List Word) : Option Nat × List Nat :=
  if any then s.aimFor d [] else (some s.fab.devno, [])

/-- The task of a descriptor that a team of grid `g` submits on a die, for device `dst`. -/
def State.subTask (s : State) (g : Grid) (t : Team) (die dst : Nat) (any : Bool) (d : List Word) : Task :=
  { mkTask t.asid g.fn d with submitter := some t.ref, die := die, target := (some dst).filter (· != s.fab.devno),
                              refused := (s.tsubAim any d).2 }

/-- The id of the next task of a die (R125). -/
def State.nextTaskId (s : State) (die : Nat) : BitVec 32 := BitVec.ofNat 32 (at_ die 30 + Sparse.get 0 s.rm.seqs die % 2 ^ 30)

theorem State.nextTaskId_eq (s : State) (die : Nat) :
    s.nextTaskId die = BitVec.ofNat 32 (die * 2 ^ 30 + Sparse.get 0 s.rm.seqs die % 2 ^ 30) := by
  rw [State.nextTaskId, at_, Nat.shiftLeft_eq]

theorem State.tsubAim_eq_some {s : State} {any : Bool} {d : List Word} {dst : Nat}
    (h : any = false ∧ dst = s.fab.devno ∨ any = true ∧ (s.aimFor d []).1 = some dst) : (s.tsubAim any d).1 = some dst := by
  obtain ⟨rfl, rfl⟩ | ⟨rfl, h⟩ := h
  · rfl
  · exact h

theorem State.subTask_target (s : State) (g : Grid) (t : Team) (die dst : Nat) (any : Bool) (d : List Word) :
    (s.subTask g t die dst any d).target = if dst = s.fab.devno then none else some dst := by
  by_cases h : dst = s.fab.devno <;> simp [State.subTask, Option.filter, h]

/-- The child that a submitted task is. -/
def Task.child (k : Task) (cls u : Nat) (spill : Bool) : Child :=
  { asid := k.asid, die := k.die, cls := cls, task := some u, spilled := spill }

/-! ### LAUNCH (R19, R221) -/

section
variable {s s2 : State} {c : Nat} {t t2 : Team} {x : S64} {bs : List Byte} {al : Bool} (hg : Guarded s c t x.r.pg)
  (hcur : s2.cur = s.cur) (h2 : (s2.cell c).act = some t2)
include hg hcur h2

section
variable (hread : (readRecord x 128 128).run (s.withTeam c (t.past .strand 8)) = .ok (bs, al) s2)
include hread

theorem execLaunch_invalid {n : Nat}
    (hcheck : s2.checkLaunch t2.asid ((s2.grid t2.grid).getD {}).fn (bytesWords 16 bs) al false = some n) :
    execLaunch x s = .next (s2.strandTraps c t .launchInvalid { detail := n }) := by
  have hc2 := hcur.trans hg.1.1
  refine strandOp_whole_trap hg ?_
  refine (run_bind_ok hread).trans ((run_bind_ok (run_team hc2 h2)).trans ((run_bind_ok (run_theGrid hc2 h2)).trans
    ((run_bind_ok (run_get s2)).trans ?_)))
  rw [hcheck]
  rfl

variable (hcheck : s2.checkLaunch t2.asid ((s2.grid t2.grid).getD {}).fn (bytesWords 16 bs) al false = none)
include hcheck

theorem execLaunch_full (hplace : s2.childPlace t2.asid (c / 64) (lrEvkind (bytesWords 16 bs) == 2) = none) :
    execLaunch x s = .next (s2.strandTraps c t .childSpillFull {}) := by
  have hc2 := hcur.trans hg.1.1
  refine strandOp_whole_trap hg ?_
  refine (run_bind_ok hread).trans ((run_bind_ok (run_team hc2 h2)).trans ((run_bind_ok (run_theGrid hc2 h2)).trans
    ((run_bind_ok (run_get s2)).trans ?_)))
  rw [hcheck]
  exact run_bind_error (run_placeFor_none hc2 h2 hplace)

theorem execLaunch_launches {spill : Bool}
    (hplace : s2.childPlace t2.asid (c / 64) (lrEvkind (bytesWords 16 bs) == 2) = some spill) :
    let new := ((s2.grid t2.grid).getD {}).launched t2 (bytesWords 16 bs)
    execLaunch x s = .next ((s2.mkGrid new).1.created c t (new.child (c / 64) (s2.mkGrid new).2 spill) x.r.rd
      (wd (s2.mkGrid new).2)) := by
  have hc2 := hcur.trans hg.1.1
  intro new
  refine strandOp_ok hg (whole_run_ok ?_)
  refine (run_bind_ok hread).trans ((run_bind_ok (run_team hc2 h2)).trans ((run_bind_ok (run_theGrid hc2 h2)).trans
    ((run_bind_ok (run_get s2)).trans ?_)))
  rw [hcheck]
  have hcur2 := (State.addChild_cur (s2.mkGrid new).1 (new.child (c / 64) (s2.mkGrid new).2 spill)).trans hc2
  exact (run_bind_ok (run_placeFor_some hc2 h2 hplace)).trans ((run_bind_ok (run_get s2)).trans
    ((run_bind_ok (run_set _ _)).trans (run_setSreg hcur2 x.r.rd (wd (s2.mkGrid new).2))))

theorem execLaunch_creates {spill : Bool}
    (hplace : s2.childPlace t2.asid (c / 64) (lrEvkind (bytesWords 16 bs) == 2) = some spill) :
    let new := ((s2.grid t2.grid).getD {}).launched t2 (bytesWords 16 bs)
    let id := (s2.mkGrid new).2
    ∃ s', execLaunch x s = .next s' ∧ (s'.cell c).act = some (t2.setSreg x.r.rd.toNat (wd id)) ∧
      s'.grid id = some { new with total := lrTotal new.lrec } ∧
      ∃ k ∈ s'.hub.pool, k.grid = some id ∧ k.asid = t2.asid ∧ k.die = c / 64 ∧ k.spilled = spill := by
  intro new id
  have h2' : ((s2.mkGrid new).1.cell c).act = some t2 := h2
  obtain ⟨hact, -, hhub⟩ := State.created_spec h2' t (new.child (c / 64) id spill) x.r.rd (wd id)
  refine ⟨_, execLaunch_launches hg hcur h2 hread hcheck hplace, hact, ?_, ?_⟩
  · rw [State.grid, hhub]
    exact s2.grid_mkGrid new
  · rw [hhub]
    exact ⟨_, List.mem_append_right _ List.mem_cons_self, rfl, rfl, rfl, rfl⟩

end

/-! ### TSUB (R37, R125, R144, R221) -/

section
variable (hread : (readRecord x 64 64).run (s.withTeam c (t.past .strand 8)) = .ok (bs, al) s2)
include hread

theorem execTsub_invalid {n : Nat}
    (hcheck : s2.checkTask t2.asid ((s2.grid t2.grid).getD {}).fn (bytesWords 8 bs) al false (x.r.md.getLsbD 0) = some n) :
    execTsub x s = .next (s2.strandTraps c t .taskInvalid { detail := n }) := by
  have hc2 := hcur.trans hg.1.1
  refine strandOp_whole_trap hg ?_
  refine (run_bind_ok hread).trans ((run_bind_ok (run_team hc2 h2)).trans ((run_bind_ok (run_theGrid hc2 h2)).trans
    ((run_bind_ok (run_get s2)).trans ?_)))
  rw [hcheck]
  rfl

variable (hcheck : s2.checkTask t2.asid ((s2.grid t2.grid).getD {}).fn (bytesWords 8 bs) al false (x.r.md.getLsbD 0) = none)
include hcheck

theorem execTsub_submits {dst : Nat} {spill : Bool}
    (haim : (s2.tsubAim (x.r.md.getLsbD 0) (bytesWords 8 bs)).1 = some dst)
    (hplace : s2.childPlace t2.asid (c / 64) (tkCsemv (bytesWords 8 bs) || tkEvkind (bytesWords 8 bs) == 2) = some spill) :
    let g := (s2.grid t2.grid).getD {}
    let cls := min (tkPrio (bytesWords 8 bs)) g.cls
    let k := s2.subTask g t2 (c / 64) dst (x.r.md.getLsbD 0) (bytesWords 8 bs)
    let new := s2.submitTask k
    execTsub x s = .next (new.1.created c t (k.child cls new.2.2 spill) x.r.rd (new.2.1.zeroExtend 64)) := by
  have hc2 := hcur.trans hg.1.1
  intro g cls k new
  have hpair : s2.tsubAim (x.r.md.getLsbD 0) (bytesWords 8 bs) = (some dst, (s2.tsubAim (x.r.md.getLsbD 0) (bytesWords 8 bs)).2) :=
    Prod.ext haim rfl
  refine strandOp_ok hg (whole_run_ok ?_)
  refine (run_bind_ok hread).trans ((run_bind_ok (run_team hc2 h2)).trans ((run_bind_ok (run_theGrid hc2 h2)).trans
    ((run_bind_ok (run_get s2)).trans ?_)))
  rw [hcheck]
  refine (run_bind_ok (run_theCell hc2)).trans ((run_bind_ok (run_get s2)).trans ?_)
  rw [State.tsubAim] at hpair
  rw [hpair]
  have hcur2 := (State.addChild_cur new.1 (k.child cls new.2.2 spill)).trans hc2
  exact (run_bind_ok (run_placeFor_some hc2 h2 hplace)).trans ((run_bind_ok (run_set _ _)).trans
    (run_setSreg hcur2 x.r.rd (new.2.1.zeroExtend 64)))

theorem execTsub_creates {dst : Nat} {spill : Bool}
    (haim : (s2.tsubAim (x.r.md.getLsbD 0) (bytesWords 8 bs)).1 = some dst)
    (hplace : s2.childPlace t2.asid (c / 64) (tkCsemv (bytesWords 8 bs) || tkEvkind (bytesWords 8 bs) == 2) = some spill) :
    let k := s2.subTask ((s2.grid t2.grid).getD {}) t2 (c / 64) dst (x.r.md.getLsbD 0) (bytesWords 8 bs)
    ∃ s', execTsub x s = .next s' ∧
      (s'.cell c).act = some (t2.setSreg x.r.rd.toNat ((s2.nextTaskId (c / 64)).setWidth 64)) ∧
      s'.rm.tasks = s2.rm.tasks ++ [{ k with id := s2.nextTaskId (c / 64), owed := 1, uid := s2.rm.nextUid }] := by
  intro k
  have h2' : ((s2.submitTask k).1.cell c).act = some t2 := h2
  obtain ⟨hact, hrm, -⟩ := State.created_spec h2' t (k.child (min (tkPrio (bytesWords 8 bs)) ((s2.grid t2.grid).getD {}).cls)
    s2.rm.nextUid spill) x.r.rd ((s2.nextTaskId (c / 64)).setWidth 64)
  exact ⟨_, execTsub_submits hg hcur h2 hread hcheck haim hplace, hact, congrArg Ringm.tasks hrm⟩

end

end

/-! ### GRAPH.ARM (R44, R87, R221) -/

section
variable {s s2 s3 : State} {c : Nat} {t t3 : Team} {x : S64} {hd bs : List Byte} {ah al : Bool} (hg : Guarded s c t x.r.pg)
  (hhead : (readRecord x 64 64).run (s.withTeam c (t.past .strand 8)) = .ok (hd, ah) s2)
include hg hhead

/-- The nodes that the header of a graph announces. -/
def armedNodes (hd : List Byte) : Nat := if ghOk (bytesWords 8 hd) then ghNodes (nth (bytesWords 8 hd) 0) else 0

/-- The words of the nodes that stand behind a graph's header. -/
def nodeWords (n : Nat) (bs : List Byte) : List (List Word) :=
  (List.range n).map fun i => bytesWords 8 ((bs.drop (64 * (i + 1))).take 64)

variable (hnodes : (readRecord x (64 * (armedNodes hd + 1)) 64).run s2 = .ok (bs, al) s3)
  (hcur : s3.cur = s.cur)
include hnodes

theorem execGraphArm_invalid (h3 : (s3.cell c).act = some t3)
    (hbad : graphOk (bytesWords 8 hd) (nodeWords (armedNodes hd) bs) false = false) : execGraphArm x s = .next
      (((s3.withTeam c { t3 with pc := t.pc }).did t).takeTrap c .strand .graphInvalid true t.pc {}) := by
  obtain ⟨u, hu⟩ := run_team_ok s2
  obtain ⟨g, hgrid⟩ := run_theGrid_ok s2
  rw [← State.modAct_of_act h3 fun u => { u with pc := t.pc }]
  refine strandOp_whole_trap hg ?_
  refine (run_bind_ok hhead).trans ((run_bind_ok hu).trans ((run_bind_ok hgrid).trans ((run_bind_ok hnodes).trans ?_)))
  exact run_bind_error ((run_need _ _ _ s3).trans (if_neg (Bool.eq_false_iff.1 hbad)))

variable (hok : graphOk (bytesWords 8 hd) (nodeWords (armedNodes hd) bs) false = true)
include hcur hok

theorem execGraphArm_full (h3 : (s3.cell c).act = some t3) (hfull : s3.freePlace true = none) :
    execGraphArm x s = .next ((s3.withTeam c (t3.setPred (x.r.rd.toNat % 8) false)).did t) := by
  obtain ⟨u, hu⟩ := run_team_ok s2
  obtain ⟨g, hgrid⟩ := run_theGrid_ok s2
  rw [← State.modAct_of_act h3 fun u => u.setPred (x.r.rd.toNat % 8) false]
  refine strandOp_ok hg (whole_run_ok ?_)
  refine (run_bind_ok hhead).trans ((run_bind_ok hu).trans ((run_bind_ok hgrid).trans ((run_bind_ok hnodes).trans ?_)))
  refine (run_bind_ok ((run_need _ _ _ s3).trans (if_pos hok))).trans ((run_bind_ok (run_get s3)).trans ?_)
  rw [hfull]
  exact run_setPred (hcur.trans hg.1.1) _ false

theorem execGraphArm_opens {k : Nat} (hfree : s3.freePlace true = some k) :
    ∃ g, g.nodes = nodeWords (armedNodes hd) bs ∧ g.hdr = nth (bytesWords 8 hd) 0 ∧ execGraphArm x s =
      .next (((s3.openGraph k g).modAct c fun u => u.setPred (x.r.rd.toNat % 8) true).did t) := by
  obtain ⟨u, hu⟩ := run_team_ok s2
  obtain ⟨g, hgrid⟩ := run_theGrid_ok s2
  refine ⟨{ asid := u.asid, fn := g.fn, queue := g.queue, cls := g.cls, armed := some u.ref, hdr := nth (bytesWords 8 hd) 0,
            nodes := nodeWords (armedNodes hd) bs }, rfl, rfl, strandOp_ok hg (whole_run_ok ?_)⟩
  refine (run_bind_ok hhead).trans ((run_bind_ok hu).trans ((run_bind_ok hgrid).trans ((run_bind_ok hnodes).trans ?_)))
  refine (run_bind_ok ((run_need _ _ _ s3).trans (if_pos hok))).trans ((run_bind_ok (run_get s3)).trans ?_)
  rw [hfree]
  exact (run_bind_ok (run_modify _ s3)).trans
    (run_setPred ((State.openGraph_sameStep _ _ _).cur.trans (hcur.trans hg.1.1)) _ true)

end

/-! ### TRESUME (R138, R222) -/

theorem execTresume_resumes {s s2 : State} {c : Nat} {t : Team} {x : S32} (hg : Guarded s c t x.pg)
    (hrel : (release (s.whoIs c t) 3).run (s.withTeam c (t.past .strand 4)) = .ok () s2) :
    execTresume x s = .next ((s2.resumeTask steerParked t.asid ((t.sreg x.rs1.toNat).extractLsb' 0 32)).did t) := by
  refine strandOp_ok hg ?_
  exact (run_bind_ok (runw_sreg hg.1.1 _ x.rs1)).trans ((run_bind_ok (runw_theWho hg.1.1 _)).trans
    ((run_bind_ok hrel).trans (run_modify _ s2)))

/-- Where nothing of the context is parked, nothing is resumed. -/
theorem State.resumeTask_none {s : State} {a : Nat} (h : ∀ e ∈ s.rm.parked, e.owner ≠ a) (again : Nat → State → State)
    (id : BitVec 32) : s.resumeTask again a id = s := by
  have howner : ∀ e ∈ s.rm.parked, (e.owner == a) = false := fun e he => by simpa using h e he
  have hmine : (s.rm.parked.filter fun e => e.owner == a && !e.resuming && e.tasks.any fun u => (s.task u).any fun t => t.id == id) = [] :=
    List.filter_eq_nil_iff.2 fun e he => by simp [howner e he]
  have hstay : (s.rm.parked.filter fun e =>
      !(e.owner == a && !e.resuming && (e.tasks.any fun u => (s.task u).any fun t => t.id == id) && !e.scatter)) = s.rm.parked :=
    List.filter_eq_self.2 fun e he => by simp [howner e he]
  have hsame : (s.rm.parked.map fun e =>
      if e.owner == a && !e.resuming && e.tasks.any fun u => (s.task u).any fun t => t.id == id then { e with resuming := true }
      else e) = s.rm.parked :=
    (List.map_congr_left fun e he => by simp [howner e he]).trans (List.map_id _)
  simp only [State.resumeTask, hmine, hstay, hsame, List.foldl_nil]

/-! ### The statement -/

/-- Settles O11: each body is run step by step up to its outcome; what the new work is stands in the state that the outcome names. -/
theorem workCreation : Obligations.WorkCreation := by
  refine ⟨?_, ?_, ?_⟩
  · intro s s2 c t t2 x bs al n spill hg hcur h2 hasid hgrid hno t' g reads traps
    have hparent : t2.ref = ⟨t.grid, t.no⟩ := by rw [Team.ref, hgrid, hno]
    have hg2 : g = (s2.grid t2.grid).getD {} := by rw [hgrid]
    rw [← hasid, hg2, ← hparent]
    refine ⟨?_, ?_⟩
    · intro hread r
      refine ⟨execLaunch_invalid hg hcur h2 hread, execLaunch_full hg hcur h2 hread, fun hcheck hplace => ?_⟩
      obtain ⟨s', hexec, hact, hnew, hchild⟩ := execLaunch_creates hg hcur h2 hread hcheck hplace
      exact ⟨s', _, _, hexec, hact, hnew, rfl, rfl, rfl, rfl, rfl, State.mkGrid_next _, hchild⟩
    · intro hread d any id
      refine ⟨execTsub_invalid hg hcur h2 hread, fun dst hcheck haim hplace => ?_⟩
      have hid : s2.nextTaskId (c / 64) = id := s2.nextTaskId_eq (c / 64)
      obtain ⟨s', hexec, hact, htasks⟩ := execTsub_creates hg hcur h2 hread hcheck (State.tsubAim_eq_some haim) hplace
      rw [hid] at hact htasks
      exact ⟨s', _, hexec, hact, htasks, rfl, rfl, rfl, rfl,
        s2.subTask_target ((s2.grid t2.grid).getD {}) t2 (c / 64) dst any d, rfl⟩
  · intro s s2 s3 c t t3 x hd bs al ah hg t' hw n nodes hhead hnodes hcur h3
    exact ⟨fun hok => execGraphArm_full hg hhead hnodes hcur hok h3, fun k hok => execGraphArm_opens hg hhead hnodes hcur hok,
      execGraphArm_invalid hg hhead hnodes h3⟩
  · intro s s2 c t x hg hrel id
    refine ⟨execTresume_resumes hg hrel, fun hnone => ?_⟩
    rw [← State.resumeTask_none hnone steerParked id]
    exact execTresume_resumes hg hrel

end Sys2Proof.Machine
end

section
/-! Proofs about slices, swaps and the end of a grid (R119 to R123, R393, R472 to R475, R503 to R505). -/
namespace Sys2Proof.Machine

/-! ### Slices (R119, R120) -/

section
variable {s : State} {r : Resident}

theorem execGangSliceEnd_of (h : s.hub.residents.find? (fun x => x.gang.grid == s.arg.a && x.gang.first == s.arg.b) = some r) :
    execGangSliceEnd s = if r.leaving && (s.gangOn r.gang).isEmpty then .next (s.gangOut r.gang r.asid)
      else if r.leaving || r.arriving || (s.ctx r.asid).places.isEmpty || decide (s.now < r.since + s.sliceOf r.gang) then .next s
      else if s.needed r then .next (s.sendOut r.gang .swap)
      else .next { s with hub := { s.hub with residents := s.hub.residents.map fun x =>
        if x.gang.grid == s.arg.a && x.gang.first == s.arg.b then { x with since := x.since + s.sliceOf x.gang } else x } } := by
  simp only [execGangSliceEnd, h]

end

/-! ### Charges and removals leave what is swapped alone -/

/-- Memory, the time and the teams that are swapped out are the same. -/
structure State.SameSaved (s s' : State) : Prop where
  mem : s'.mem = s.mem
  now : s'.now = s.now
  saved : s'.hub.saved = s.hub.saved

theorem State.SameSaved.refl (s : State) : s.SameSaved s := ⟨rfl, rfl, rfl⟩

theorem State.SameSaved.trans {s t u : State} (h : s.SameSaved t) (k : t.SameSaved u) : s.SameSaved u :=
  ⟨k.mem.trans h.mem, k.now.trans h.now, k.saved.trans h.saved⟩

theorem State.CellsOnly.sameSaved {s s' : State} (h : s.CellsOnly s') : s.SameSaved s' := by
  obtain ⟨_, rfl⟩ := h
  exact ⟨rfl, rfl, rfl⟩

theorem Cell.team_setTeam_not (x : Cell) (b : Bool) (u : Option Team) : (x.setTeam (!b) u).team b = x.team b := by
  cases b <;> rfl

/-- The saved state of a stage depends on no team in the cell. -/
theorem Cell.sharedOf_setTeam (x : Cell) (b k : Bool) (u : Option Team) (t : Team) :
    (x.setTeam k u).sharedOf b t = x.sharedOf b t := by
  cases k <;> rfl

section
variable (s : State)

theorem State.chargeGrid_sameSaved (g n : Nat) : s.SameSaved (s.chargeGrid g n) := by
  unfold State.chargeGrid
  split
  · exact .refl s
  · exact ⟨rfl, rfl, rfl⟩

@[simp] theorem State.chargeGrid_cells (g n : Nat) : (s.chargeGrid g n).cells = s.cells := by
  unfold State.chargeGrid
  split <;> rfl

theorem State.cell_chargeGrid (g n c : Nat) : (s.chargeGrid g n).cell c = s.cell c := by
  simp [State.cell]

theorem State.chargeCell_sameSaved (c : Nat) (b : Bool) : s.SameSaved (s.chargeCell (.here c b)) := by
  unfold State.chargeCell
  split
  · exact .refl s
  · split
    · exact (s.chargeGrid_sameSaved ..).trans (State.modTeam_here_cellsOnly ..).sameSaved
    · exact .refl s

theorem State.flipTo_sameSaved (c : Nat) (b : Bool) : s.SameSaved (s.flipTo c b) :=
  (s.setCell_cellsOnly c _).sameSaved.trans (State.modTeam_here_cellsOnly ..).sameSaved

theorem State.applyAllot_sameSaved (c : Nat) : s.SameSaved (s.applyAllot c) := by
  unfold State.applyAllot
  split
  · exact .refl s
  · dsimp only
    split <;> exact ⟨rfl, rfl, rfl⟩

theorem State.removeTeam_here_sameSaved (c : Nat) (b : Bool) : s.SameSaved (s.removeTeam (.here c b)) := by
  unfold State.removeTeam
  dsimp only
  refine .trans ?_ (State.applyAllot_sameSaved ..)
  split
  · exact (s.setCell_cellsOnly c _).sameSaved.trans (State.flipTo_sameSaved ..)
  · exact ((s.setCell_cellsOnly c _).trans (State.setCell_cellsOnly ..)).sameSaved

theorem State.gangOut_saved (x : Gang) (a : Nat) : (s.gangOut x a).hub.saved = s.hub.saved := by
  unfold State.gangOut
  dsimp only
  split <;> rfl

theorem State.gangOut_cells (x : Gang) (a : Nat) : (s.gangOut x a).cells = s.cells := by
  unfold State.gangOut
  dsimp only
  split <;> rfl

theorem State.cell_applyAllot (c k : Nat) : (s.applyAllot c).cell k = s.cell k := by
  rw [State.cell, (s.applyAllot_hubSide c).cells, State.cell]

/-- A cell that a team has left holds none in that stage (R118, R503). -/
theorem State.team_removeTeam_here (c : Nat) (b : Bool) : ((s.removeTeam (.here c b)).cell c).team b = none := by
  unfold State.removeTeam
  dsimp only
  rw [State.cell_applyAllot]
  split
  · unfold State.flipTo
    rw [State.cell_modTeam_here, Cell.team_setTeam_not]
    cases b <;> simp [Cell.setTeam, Cell.team, Cell.setSave]
  · cases b <;> simp [Cell.setTeam, Cell.team, Cell.setSave]

end

/-- A charge of a cell changes at most the time from which its team is charged (R100). -/
theorem State.cell_chargeCell {s : State} {c : Nat} {b : Bool} {t : Team} (ht : (s.cell c).team b = some t) :
    ∃ n, (s.chargeCell (.here c b)).cell c = (s.cell c).setTeam b (some { t with chargeFrom := n }) := by
  unfold State.chargeCell
  simp only [State.teamAt, ht]
  split
  · exact ⟨s.now, by rw [State.cell_modTeam_here, State.cell_chargeGrid, ht]; rfl⟩
  · exact ⟨t.chargeFrom, by rw [← ht, Cell.setTeam_team]⟩

/-! ### Swapping out (R120 to R122, R474, R475) -/

/-- What is kept of a team that halted: the team, its pre-emption over, and its shared state (R473). -/
def State.savedOf (s : State) (c : Nat) (b : Bool) (t : Team) : Saved :=
  { team := { t with pre := none, frozen := [] }, sh := (s.cell c).sharedOf b t }

/-- A team is kept swapped out (R122). -/
def State.keepTeam (s : State) (v : Saved) : State := { s with hub := { s.hub with saved := s.hub.saved ++ [v] } }

/-- A charged team goes to its slot, leaves its cell and is kept (R120, R474, R475). -/
def State.swappedOut (s : State) (c : Nat) (b : Bool) (v : Saved) : State :=
  let p := s.images v.team v.sh true
  (((p.1.writeSlot v.team p.2).chargeGrid v.team.grid (unitsFor v.moved p.1.hub.copyRate)).removeTeam (.here c b)).keepTeam v

/-- A gang whose last team has left joins its queue again (R120). -/
def State.gangLeaves (s : State) (t : Team) : Res :=
  match s.residentOf t with
  | some r => .next (if (s.gangOn r.gang).isEmpty then s.gangOut r.gang t.asid else s)
  | none => .next s

theorem execSwapOutComplete_eq {s : State} {c : Nat} {b : Bool} {t : Team} (hl : argLoc s.arg = .here c b)
    (ht : s.teamAt (.here c b) = some t) : execSwapOutComplete s =
      if !(s.residentOf t).any (·.leaving) || !t.halted || t.pre.isNone || t.ended || t.startedCards then .next s
      else ((s.chargeCell (.here c b)).swappedOut c b ((s.chargeCell (.here c b)).savedOf c b t)).gangLeaves
        ((s.chargeCell (.here c b)).savedOf c b t).team := by
  unfold execSwapOutComplete
  rw [hl]
  extract_lets l
  rw [show s.teamAt l = some t from ht]
  rfl

theorem State.gangLeaves_next (s : State) (t : Team) :
    ∃ s', s.gangLeaves t = .next s' ∧ s'.hub.saved = s.hub.saved ∧ s'.cells = s.cells := by
  unfold State.gangLeaves
  split
  · split
    · exact ⟨_, rfl, s.gangOut_saved .., s.gangOut_cells ..⟩
    · exact ⟨_, rfl, rfl, rfl⟩
  · exact ⟨_, rfl, rfl, rfl⟩

theorem State.images_saved (s : State) (t : Team) (x : Shared) (acc : Bool) : (s.images t x acc).1.hub.saved = s.hub.saved := rfl

theorem State.writeSlot_saved (s : State) (t : Team) (im : Images) : (s.writeSlot t im).hub.saved = s.hub.saved := by
  obtain ⟨m, h⟩ := s.writeSlot_memOnly t im
  rw [h]

theorem State.swappedOut_saved (s : State) (c : Nat) (b : Bool) (v : Saved) :
    (s.swappedOut c b v).hub.saved = s.hub.saved ++ [v] := by
  simp only [State.swappedOut, State.keepTeam, (State.removeTeam_here_sameSaved ..).saved, (State.chargeGrid_sameSaved ..).saved,
    State.writeSlot_saved, State.images_saved]

theorem State.team_swappedOut (s : State) (c : Nat) (b : Bool) (v : Saved) : ((s.swappedOut c b v).cell c).team b = none :=
  State.team_removeTeam_here ..

section
variable {s : State} {b : Bool} {t : Team} {r : Resident}

/-- A charge changes nothing of what is kept of the team (R100). -/
theorem State.savedOf_chargeCell {c : Nat} (ht : (s.cell c).team b = some t) :
    (s.chargeCell (.here c b)).savedOf c b t = s.savedOf c b t := by
  obtain ⟨n, hcell⟩ := State.cell_chargeCell ht
  rw [State.savedOf, hcell, Cell.sharedOf_setTeam, State.savedOf]

variable (hb : s.arg.b = b.toNat) (ht : (s.cell s.arg.a).team b = some t) (hr : s.residentOf t = some r)
include hb ht hr

theorem execSwapOutComplete_leaves (hleave : r.leaving = true) (hhalt : t.halted = true) (hpre : t.pre.isSome)
    (hend : t.ended = false) (hcards : t.startedCards = false) : execSwapOutComplete s =
      ((s.chargeCell (.here s.arg.a b)).swappedOut s.arg.a b (s.savedOf s.arg.a b t)).gangLeaves (s.savedOf s.arg.a b t).team := by
  have hgo : t.pre.isNone = false := by simpa using hpre
  rw [execSwapOutComplete_eq (argLoc_here hb) ht]
  simp only [hr, Option.any_some, hleave, hhalt, hgo, hend, hcards, Bool.not_true, Bool.or_self,
    Bool.false_eq_true, if_false, State.savedOf_chargeCell ht]

theorem execSwapOutComplete_stays (hleave : r.leaving = false) : execSwapOutComplete s = .next s := by
  rw [execSwapOutComplete_eq (argLoc_here hb) ht]
  simp only [hr, Option.any_some, hleave, Bool.not_false, Bool.true_or, if_true]

end

/-! ### Swapping in (R120, R472) -/

/-- A team goes on where it stood: its engine streams issue again, and it is charged from now (R472). -/
def Team.goesOn (t : Team) (n : Nat) : Team := { t.restart with halted := false, chargeFrom := n }

/-- A team whose stage becomes the active one, its switch over and what was frozen for it given back (R108, R118). -/
def Team.flipped (t : Team) (n : Nat) : Team := { t.goesOn n with switching := false, frozen := [] }

/-- The bytes of a team that moved back are charged, and it goes on (R100, R472). -/
def State.movedIn (s : State) (c : Nat) (b : Bool) (t : Team) : State :=
  let bytes := ((s.cell c).save b).elim (49152 + t.valloc * 65536) fun x => ({ team := t, sh := x } : Saved).moved
  let s := s.chargeGrid t.grid (unitsFor bytes s.hub.copyRate)
  s.modTeam (.here c b) fun t => t.goesOn s.now

/-- A stage that is active, and whose shared state the switch save store holds, takes it up (R109, R118). -/
def State.takesUp (s : State) (c : Nat) (b : Bool) : State :=
  if (s.cell c).active == b && ((s.cell c).save b).isSome then s.flipTo c b else s

/-- A gang has arrived whose teams all run (R120). -/
def State.arrives (s : State) (r : Resident) : State :=
  let still := (s.gangLocs r.gang).any fun m => (s.teamAt m).any (·.halted)
  let same := fun (x : Resident) => x.gang.grid == r.gang.grid && x.gang.first == r.gang.first
  { s with hub := { s.hub with residents := s.hub.residents.map fun x => if same x then { x with arriving := still } else x } }

theorem execSwapInComplete_eq {s : State} {c : Nat} {b : Bool} {t : Team} {r : Resident} (hl : argLoc s.arg = .here c b)
    (ht : s.teamAt (.here c b) = some t) (hr : s.residentOf t = some r) : execSwapInComplete s =
      if !r.arriving || !t.halted || t.pre.isSome then .next s
      else .next ((((s.chargeCell (.here c b)).movedIn c b t).takesUp c b).arrives r) := by
  unfold execSwapInComplete
  rw [hl]
  extract_lets l
  rw [show s.teamAt l = some t from ht]
  show (match s.residentOf t with | none => _ | some r => _) = _
  rw [hr]
  rfl

theorem Team.eng_goesOn (t : Team) (n : Nat) (e : Engine) :
    ((t.goesOn n).eng e).stopped = false ∧ ((t.goesOn n).eng e).pc = (t.eng e).pc := by
  cases e <;> exact ⟨rfl, rfl⟩

section
variable (s : State) {c : Nat} {b : Bool} {t : Team}

theorem State.team_movedIn {u : Team} (ht : (s.cell c).team b = some u) :
    ((s.movedIn c b t).cell c).team b = some (u.goesOn s.now) := by
  unfold State.movedIn
  dsimp only
  rw [State.cell_modTeam_here, Cell.team_setTeam_self, State.cell_chargeGrid, ht, (State.chargeGrid_sameSaved ..).now]
  rfl

theorem State.movedIn_sameSaved (c : Nat) (b : Bool) (t : Team) : s.SameSaved (s.movedIn c b t) :=
  (s.chargeGrid_sameSaved ..).trans (State.modTeam_here_cellsOnly ..).sameSaved

theorem State.takesUp_sameSaved (c : Nat) (b : Bool) : s.SameSaved (s.takesUp c b) := by
  unfold State.takesUp
  split
  · exact s.flipTo_sameSaved c b
  · exact .refl s

/-- The team of the stage to which a cell flips issues again and is charged from now (R108, R118). -/
theorem State.team_flipTo {u : Team} (hu : u.pre = none) (ht : (s.cell c).team b = some u) :
    ((s.flipTo c b).cell c).team b = some { u.restart with chargeFrom := s.now, switching := false, frozen := [] } := by
  have hteam : ∀ (x : Cell) (sh : Shared), ({ x.setSave b none with sh := sh, active := b, sw := none } : Cell).team b = x.team b := by
    intro x sh
    cases b <;> rfl
  unfold State.flipTo
  rw [State.cell_modTeam_here, Cell.team_setTeam_self, State.cell_modCell_self, hteam, ht]
  simp only [Option.map_some, hu, Option.isNone_none, if_true]
  rfl

theorem State.team_takesUp (hpre : t.pre = none) (ht : (s.cell c).team b = some (t.goesOn s.now)) :
    ((s.takesUp c b).cell c).team b = some (t.goesOn s.now) ∨ ((s.takesUp c b).cell c).team b = some (t.flipped s.now) := by
  unfold State.takesUp
  split
  · exact .inr (s.team_flipTo (u := t.goesOn s.now) hpre ht)
  · exact .inl ht

end

/-- A team that runs again differs from the team that was halted in its charge and its switch alone (R472). -/
theorem Team.runsOn_of {t t' : Team} {n : Nat} (h : t' = t.goesOn n ∨ t' = t.flipped n) :
    t'.halted = false ∧ t'.chargeFrom = n ∧ t'.pc = t.pc ∧ t'.regs = t.regs ∧ t'.preds = t.preds ∧ t'.vault = t.vault ∧
    t'.sems = t.sems ∧ t'.priv = t.priv ∧ ∀ e, (t'.eng e).stopped = false ∧ (t'.eng e).pc = (t.eng e).pc := by
  obtain rfl | rfl := h
  · exact ⟨rfl, rfl, rfl, rfl, rfl, rfl, rfl, rfl, t.eng_goesOn n⟩
  · refine ⟨rfl, rfl, rfl, rfl, rfl, rfl, rfl, rfl, fun e => ?_⟩
    cases e <;> exact ⟨rfl, rfl⟩

theorem execSwapInComplete_arrives {s : State} {b : Bool} {t : Team} {r : Resident} (hb : s.arg.b = b.toNat)
    (ht : (s.cell s.arg.a).team b = some t) (hr : s.residentOf t = some r) (harrive : r.arriving = true) (hhalt : t.halted = true)
    (hpre : t.pre = none) : ∃ s' t', execSwapInComplete s = .next s' ∧ s'.mem = s.mem ∧ (s'.cell s.arg.a).team b = some t' ∧
      (t' = t.goesOn s.now ∨ t' = t.flipped s.now) := by
  obtain ⟨n, hcell⟩ := State.cell_chargeCell ht
  have hcharge := s.chargeCell_sameSaved s.arg.a b
  have hmove := (s.chargeCell (.here s.arg.a b)).movedIn_sameSaved s.arg.a b t
  have hmem := (hcharge.trans hmove).trans (State.takesUp_sameSaved _ s.arg.a b)
  have hteam : ((s.chargeCell (.here s.arg.a b)).cell s.arg.a).team b = some { t with chargeFrom := n } := by
    rw [hcell, Cell.team_setTeam_self]
  have hgo := State.team_movedIn (t := t) _ hteam
  rw [← hmove.now] at hgo
  have hrun := State.team_takesUp (t := t) _ hpre hgo
  rw [(hcharge.trans hmove).now] at hrun
  have hexec : execSwapInComplete s =
      .next ((((s.chargeCell (.here s.arg.a b)).movedIn s.arg.a b t).takesUp s.arg.a b).arrives r) := by
    rw [execSwapInComplete_eq (argLoc_here hb) ht hr]
    simp only [harrive, hhalt, hpre, Option.isSome_none, Bool.not_true, Bool.or_self, Bool.false_eq_true,
      if_false]
  obtain hrun | hrun := hrun
  · exact ⟨_, _, hexec, hmem.mem, hrun, .inl rfl⟩
  · exact ⟨_, _, hexec, hmem.mem, hrun, .inr rfl⟩

/-! ### The end of a grid (R393, R503 to R505) -/

section
variable (s : State)

theorem State.performPosted_cellsOnly (p : Posted) : s.CellsOnly (s.performPosted p) := by
  unfold State.performPosted
  dsimp only
  split
  · split
    · exact ⟨_, rfl⟩
    · exact .refl s
  · exact .refl s

theorem State.drainPosted_hub (p : Posted → Bool) : (s.drainPosted p).hub = s.hub := by
  obtain ⟨cs, h⟩ := foldl_keeps State.CellsOnly.refl State.CellsOnly.trans State.performPosted_cellsOnly (s.mem.posted.filter p)
    { s with mem := { s.mem with posted := s.mem.posted.filter fun x => !p x } }
  rw [State.drainPosted, h]

theorem State.enqueue_hub (d : Nat) (p : Packet) : (s.enqueue d p).hub = s.hub := by
  unfold State.enqueue State.creditWait
  dsimp only
  split
  · split <;> rfl
  · rfl

end

/-- A meaning that succeeds in every state and leaves the hub alone. -/
def KeepsHub (m : M Unit) : Prop := ∀ s, ∃ s', m.run s = .ok () s' ∧ s'.hub = s.hub

theorem KeepsHub.bind {m k : M Unit} (hm : KeepsHub m) (hk : KeepsHub k) : KeepsHub (m >>= fun _ => k) := by
  intro s
  obtain ⟨s1, h1, hub1⟩ := hm s
  obtain ⟨s2, h2, hub2⟩ := hk s1
  exact ⟨s2, by rw [EStateM.run_bind, h1]; exact h2, hub2.trans hub1⟩

theorem KeepsHub.forM {α : Type} {f : α → M Unit} (hf : ∀ x, KeepsHub (f x)) : ∀ xs : List α, KeepsHub (xs.forM f)
  | [] => fun s => ⟨s, rfl, rfl⟩
  | x :: xs => (hf x).bind (KeepsHub.forM hf xs)

theorem sendPacket_keepsHub (w : Who) (d ord : Nat) (op : PktOp) : KeepsHub (sendPacket w d ord op) :=
  fun s => ⟨_, rfl, s.enqueue_hub d _⟩

theorem putLine_keepsHub (x : PeerLine) : KeepsHub (modify fun s => s.putLine x) := fun s => ⟨s.putLine x, rfl, rfl⟩

theorem writeBackLines_keepsHub (w : Who) (p : PeerLine → Bool) : KeepsHub (writeBackLines w p) := by
  intro s
  have hlines : KeepsHub ((s.mem.lines.filter fun x => x.dirty && p x).forM fun x => do
      writeBackLine w x
      modify fun s => s.putLine { x with dirty := false }) :=
    .forM (fun x => .bind (sendPacket_keepsHub _ _ _ _) (putLine_keepsHub _)) _
  exact hlines s

/-- A release writes back lines and performs stores; the hub is as it was (R393). -/
theorem State.gridRelease_hub (s : State) (a : Nat) : (s.gridRelease a).hub = s.hub := by
  obtain ⟨s', hrun, hhub⟩ := writeBackLines_keepsHub (hubWho a) (fun x => x.asid == a) (s.drainPosted fun p => p.asid == a)
  simp only [State.gridRelease, hrun, hhub, State.drainPosted_hub]

/-- A released grid that closes: its charges are written back, and what is left of its provisional cost is given back (R94, R99). -/
def State.gridCloses (s : State) (gid : Nat) (g : Grid) : State :=
  ((s.writeBack (lrAcct g.lrec)).modCtx g.asid fun c => { c with deficit := c.deficit + g.prov }).modGrid gid fun g =>
    { g with closing := true, prov := 0 }

/-- The completion record of a grid (R506). -/
def State.gridCR (s : State) (gid : Nat) (g : Grid) : CR :=
  { src := 2, st := s.gridStatus gid g, tag := lrTag g.lrec, id := gid }

section
variable (s : State) (gid : Nat) {g : Grid}

theorem State.gridCloses_cells (g : Grid) : (s.gridCloses gid g).cells = s.cells := by
  obtain ⟨m, p, h⟩ := s.writeBack_eq (lrAcct g.lrec)
  rw [State.gridCloses, h]
  rfl

theorem State.gridCloses_ring (g : Grid) (k : Nat) : (s.gridCloses gid g).ring k = s.ring k := by
  obtain ⟨m, p, h⟩ := s.writeBack_eq (lrAcct g.lrec)
  rw [State.gridCloses, h]
  rfl

theorem State.grid_gridCloses (h : s.grid gid = some g) : (s.gridCloses gid g).grid gid = some { g with closing := true, prov := 0 } := by
  obtain ⟨m, p, hw⟩ := s.writeBack_eq (lrAcct g.lrec)
  have hfind : Tab.find s.hub.grids gid = some g := h
  rw [State.gridCloses, hw]
  simp only [State.grid, State.modGrid, Tab.find_upd, if_true]
  exact congrArg (Option.map _) hfind

/-- A grid that announces nothing, and that neither an entry nor a node waits for, is gone. -/
theorem State.deliverNow_grid_silent {fn ring : Nat} {team : Option TeamRef} {r : CR} {st : Status} (h : s.grid gid = some g)
    (he : g.entry = none) (hn : g.node = none) :
    s.deliverNow 0 fn ring team r (.grid gid st) = { s with hub := { s.hub with grids := Tab.del s.hub.grids gid } } := by
  simp only [State.deliverNow, State.deliver, State.applyAfter, h, he, hn, State.entryDone, State.nodeEnd]

theorem State.deliverNow_ring {fn ring : Nat} {team : Option TeamRef} {r : CR} {a : After} :
    s.deliverNow 1 fn ring team r a = s.toRing fn ring { cr := r.words, after := a } := rfl

end

section
variable {s : State} {g : Grid}

theorem execGridComplete_waits (h : s.grid s.arg.a = some g) (ht : g.retired < g.total) : execGridComplete s = .next s := by
  simp [execGridComplete, h, ht]

variable (hg : s.grid s.arg.a = some g) (hopen : g.closing = false) (hall : g.total ≤ g.retired)
  (hrst : s.gridRsts s.arg.a false = false)
include hg hopen hall hrst

theorem execGridComplete_due (hdue : (s.gridRelease g.asid).gridDue s.arg.a g.asid = true) :
    execGridComplete s = .next (s.gridRelease g.asid) := by
  simp [execGridComplete, hg, hopen, Nat.not_lt.mpr hall, hrst, hdue]

theorem execGridComplete_ends (hdue : (s.gridRelease g.asid).gridDue s.arg.a g.asid = false) :
    execGridComplete s = .next (((s.gridRelease g.asid).gridCloses s.arg.a g).deliverNow (lrEvkind g.lrec) g.fn (lrRing g.lrec)
      g.parent ((s.gridRelease g.asid).gridCR s.arg.a g) (.grid s.arg.a ((s.gridRelease g.asid).gridStatus s.arg.a g))) := by
  simp only [execGridComplete, hg, hopen, Nat.not_lt.mpr hall, hrst, hdue, decide_false, Bool.or_self, Bool.false_eq_true, if_false]
  rfl

end

theorem ringKey_lrRing (fn : Nat) (r : List Word) : ringKey fn (lrRing r) = 256 * fn + lrRing r := by
  have h : lrRing r < 256 := Nat.mod_lt _ (by decide)
  rw [ringKey, Nat.mod_eq_of_lt h]

theorem State.grid_toRing (s : State) (fn r gid : Nat) (p : PendRec) : (s.toRing fn r p).grid gid = s.grid gid := rfl

/-- The ring's waiting entries after one more is addressed to it (R509). -/
theorem State.ring_toRing (s : State) (fn r : Nat) (p : PendRec) :
    ((s.toRing fn r p).ring (ringKey fn r)).wait = (s.ring (ringKey fn r)).wait ++ [p] := by
  simp only [State.toRing, State.ring, State.setRing, Sparse.get_set_self]

/-! ### The obligation -/

/-- A gang at the end of its slice goes, stays or waits (R119, R120). -/
theorem gangSliceEnd_cases {s : State} {r : Resident}
    (h : s.hub.residents.find? (fun x => x.gang.grid == s.arg.a && x.gang.first == s.arg.b) = some r) :
    (r.leaving = true → s.gangOn r.gang = [] → execGangSliceEnd s = .next (s.gangOut r.gang r.asid)) ∧
    (r.leaving = false → s.now < r.since + s.sliceOf r.gang → execGangSliceEnd s = .next s) ∧
    (r.leaving = false → r.arriving = false → (s.ctx r.asid).places ≠ [] → r.since + s.sliceOf r.gang ≤ s.now →
      (s.needed r = true → execGangSliceEnd s = .next (s.sendOut r.gang .swap)) ∧
      (s.needed r = false → execGangSliceEnd s = .next { s with hub := { s.hub with residents := s.hub.residents.map fun x =>
        if x.gang.grid == s.arg.a && x.gang.first == s.arg.b then { x with since := x.since + s.sliceOf x.gang } else x } })) := by
  rw [execGangSliceEnd_of h]
  refine ⟨fun hleave hon => ?_, fun hleave hnow => ?_, fun hleave harrive hplaces hnow => ?_⟩
  · simp only [hleave, hon, List.isEmpty_nil, Bool.and_self, if_true]
  · simp only [hleave, hnow, Bool.false_and, Bool.false_eq_true, if_false, decide_true, Bool.or_true, if_true]
  · have hstay : (s.ctx r.asid).places.isEmpty = false := by simpa using hplaces
    simp only [hleave, harrive, hstay, Nat.not_lt.mpr hnow, Bool.false_and, Bool.false_eq_true, if_false, decide_false, Bool.or_self]
    exact ⟨fun hneed => if_pos hneed, fun hneed => if_neg (by simp [hneed])⟩

/-- The status of a grid by the first row that applies (R505). -/
theorem State.gridStatus_cases (s : State) (gid : Nat) (g : Grid) :
    (∀ k, g.cause = some k → s.gridStatus gid g = .cause k) ∧
    (g.cause = none → (g.discarded = true ∨ s.gridRsts gid true = true) → s.gridStatus gid g = .remoteLost) ∧
    (g.cause = none → g.discarded = false → s.gridRsts gid true = false → g.remoteFault = true →
      s.gridStatus gid g = .remoteFaultSt) ∧
    (g.cause = none → g.discarded = false → s.gridRsts gid true = false → g.remoteFault = false → s.gridStatus gid g = .ok) := by
  unfold State.gridStatus
  refine ⟨fun k hk => ?_, fun hk hlost => ?_, fun hk hd hl hf => ?_, fun hk hd hl hf => ?_⟩
  · simp only [hk]
  · obtain hd | hl := hlost
    · simp only [hk, hd, Bool.true_or, if_true]
    · simp only [hk, hl, Bool.or_true, if_true]
  · simp only [hk, hd, hl, hf, Bool.or_self, Bool.false_eq_true, if_false, if_true]
  · simp only [hk, hd, hl, hf, Bool.or_self, Bool.false_eq_true, if_false]

section
variable {s : State} {g : Grid} (hg : s.grid s.arg.a = some g)
include hg

theorem grid_closing : ((s.gridRelease g.asid).gridCloses s.arg.a g).grid s.arg.a = some { g with closing := true, prov := 0 } := by
  refine State.grid_gridCloses _ _ ?_
  rw [State.grid, State.gridRelease_hub]
  exact hg

variable (hopen : g.closing = false) (hall : g.total ≤ g.retired) (hrst : s.gridRsts s.arg.a false = false)
  (hdue : (s.gridRelease g.asid).gridDue s.arg.a g.asid = false)
include hopen hall hrst hdue

/-- A grid that announces nothing is gone when it completes. -/
theorem execGridComplete_silent (hev : lrEvkind g.lrec = 0) (he : g.entry = none) (hn : g.node = none) :
    ∃ s', execGridComplete s = .next s' ∧ s'.grid s.arg.a = none ∧ s'.cells = (s.gridRelease g.asid).cells := by
  refine ⟨_, execGridComplete_ends hg hopen hall hrst hdue, ?_⟩
  rw [hev, State.deliverNow_grid_silent _ _ (grid_closing hg) he hn]
  exact ⟨by rw [State.grid, Tab.find_del, if_pos rfl], (s.gridRelease g.asid).gridCloses_cells s.arg.a g⟩

/-- A grid that is announced in a ring closes until its record is written. -/
theorem execGridComplete_ring (hev : lrEvkind g.lrec = 1) : ∃ s', execGridComplete s = .next s' ∧
    s'.grid s.arg.a = some { g with closing := true, prov := 0 } ∧
    (s'.ring (256 * g.fn + lrRing g.lrec)).wait = ((s.gridRelease g.asid).ring (256 * g.fn + lrRing g.lrec)).wait ++
      [{ cr := ((s.gridRelease g.asid).gridCR s.arg.a g).words,
         after := .grid s.arg.a ((s.gridRelease g.asid).gridStatus s.arg.a g) }] := by
  refine ⟨_, execGridComplete_ends hg hopen hall hrst hdue, ?_⟩
  rw [hev, State.deliverNow_ring]
  refine ⟨by rw [State.grid_toRing, grid_closing hg], ?_⟩
  rw [← ringKey_lrRing, State.ring_toRing, State.gridCloses_ring]

end

/-- Settles O45: at the end of its slice a gang goes out, waits or stays; a team that is swapped out is kept whole and its cell is
freed; one that is swapped in goes on where it stood; a grid whose teams have retired is released and then ends. -/
theorem swapsAndGrids : Obligations.SwapsAndGrids := by
  unfold Obligations.SwapsAndGrids
  refine ⟨?_, ?_, ?_, ?_⟩
  · intro s r same hr
    exact gangSliceEnd_cases hr
  · intro s b t c hb ht r hr
    refine ⟨fun hleave hhalt hpre hend hcards => ?_, execSwapOutComplete_stays hb ht hr, fun harrive hhalt hpre => ?_⟩
    · obtain ⟨s', hnext, hsaved, hcells⟩ := State.gangLeaves_next
        ((s.chargeCell (.here c b)).swappedOut c b (s.savedOf c b t)) (s.savedOf c b t).team
      rw [State.swappedOut_saved, (s.chargeCell_sameSaved c b).saved] at hsaved
      refine ⟨s', (execSwapOutComplete_leaves hb ht hr hleave hhalt hpre hend hcards).trans hnext, ?_, ?_, fun v hv => ?_⟩
      · rw [State.cell, hcells]
        exact State.team_swappedOut ..
      · rw [hsaved]
        exact List.mem_append_right _ (List.mem_singleton_self _)
      · rw [hsaved]
        exact List.mem_append_left _ hv
    · obtain ⟨s', t', hnext, hmem, hteam, hrun⟩ := execSwapInComplete_arrives hb ht hr harrive hhalt hpre
      obtain ⟨hgo, hfrom, hpc, hregs, hpreds, hvault, hsems, hpriv, heng⟩ := Team.runsOn_of hrun
      exact ⟨s', t', hnext, hteam, hgo, hfrom, hpc, hregs, hpreds, hvault, hsems, hpriv, heng, hmem⟩
  · intro s g gid s1 hg hopen hall hrst st
    exact ⟨execGridComplete_due hg hopen hall hrst,
      fun hdue => ⟨execGridComplete_silent hg hopen hall hrst hdue, execGridComplete_ring hg hopen hall hrst hdue⟩,
      s1.gridStatus_cases gid g⟩
  · intro s g hg hlt
    exact execGridComplete_waits hg hlt

end Sys2Proof.Machine
end

section
/-! Proofs about the encoding (R146, R166 to R173, R187 to R189): decoding gives back what was encoded, and refuses what a stream does
not decode. -/
namespace Sys2Proof.Laws.RoundTrip

/-- Every instruction's words give back its name, its fields and itself: its constructor's law. -/
theorem statement_all (i : Instr) : Statement i :=
  Instr.rec (motive := Statement)
    queueDoorbell queueEnable queueDisable arbitrationDispatch sliceEnd queueAging acctUsedWriteback childSpillRefill
    graphConditionalRead graphRearm graphCopyNodeDone hubStageSwitch switchHardStop stageSwitchFlip cellAllotWrite gangPlace
    gangSliceEnd swapOutComplete swapInComplete taskAccept taskDeadline passForm passGatherDone passColumnGroupEnd
    passScatterDone resumeDoorbell resumedScatterDone barkerAdvertiseTable barkerAdvertiseChange barkerAdvertReceive
    barkerPairExpire steeredTaskArrive steerRefused steeredResultsReceive veResultLand productLand loadReturn
    pageWalkComplete tierSwapComplete counterDecay vaultScrub carouselSlot nbResume jobStart jobComplete portReceive
    rstAcknowledge remoteFault collChunkReceive collChunkAck leaseGrant leaseRetuneDone leaseDurationEnd leaseRevokeNotice
    leaseNoticeExpire leaseRetuneBackDone fabricPacketReceive fabricAckReceive peerLossTimeout peerLostDeclare
    partitionQuiesce quiesceLift fabcfgWrite wavelengthFail hbmChannelSpare cellFail preemptRequest preemptDrained
    preemptHardStop asyncTrapTake hubRequestDone gridComplete hostRingEntryWrite ringInterruptTimeout ringEnable stopCommand
    freeCommand stopReport attest attestReportDone fullReset scrubEnd scrubTimeout startComplete startFail startTimeout
    vfFunctionLevelReset registerWrite add addImm sub subImm mul mulImm mulh mulhImm div divImm rem remImm and andImm or
    orImm xor xorImm shl shlImm shr shrImm sra sraImm min minImm max maxImm clz popc bfx bfxImm bfi bfiImm ext extImm cmp
    cmpImm sel li64 li96 lea ld ldImm st stImm br jmp call loop jmpx ret nop nop64 nop96 endTeam fork join nestSet nestGo
    nestClamp launch tsub tresume graphArm evqPop evqWait semSig semSigImm semWait semWaitImm semSet semRsig ctlRd ctlWr
    tstamp stageSw trap eret vadd vaddFull vsub vsubFull vmul vmulFull vfma vmin vminFull vmax vmaxFull vabs vneg vand
    vandFull vor vorFull vxor vxorFull vshl vshr vcmp vsel vmov vmovFull vli vcvt vwid vnar vpack vunpk vrcp vrsq vexp vlog
    vtanh vsigm vgelu vsin vrcps vrsqs vrsum vrmax vrmin vscan vargmax vtopk vperm vshuf vbcast viota vmand vmor vmnot vmpop
    vqnt vdqnt vld vst vldx vstx vdefer vdrain vdret vbr vloop vtake vgive nestBeg nestEnd rdv engineEnd mma mmaz mmag
    mconst mprec mscale mown mclr mcvt mscat mfree cp cp96 cpc cpc96 cpg cpg96 cps cps96 cpk cpk96 qinit qinit96 qpush
    qpush96 qpop qpop96 qpeek pref pref96 pin pin96 unpin unpin96 kvcommit kvcommit96 rst rst96 rld rld96 lsend lsend96
    lradd lradd96 tslotSet tslotSet96 tfull tempty twait foot foot96 amoAdd amoAddImm amoMin amoMinImm amoMax amoMaxImm
    amoXchg amoXchgImm amoCas amoCasImm amoAnd amoAndImm amoOr amoOrImm vamo fence barExp barWait barArr collReg collAr
    collAg collRs collFree leaseReq leaseRet leaseQ bankRun bankStat codeReg codeReg64 keyAlloc keyAlloc64 keyRevoke
    keyRevoke64 ctxSave ctxSave64 ctxLoad ctxLoad64 partStop partStop64 scrub scrub64 calSet calSet64 tlbInv tlbInv64 halt
    halt64 nbOpen nbLdacc nbScadd nbScadd64 nbMac nbMac64 nbWr nbLoop nbScale nbScale64 nbClr nbEnd decodeTrap nbIllegalWord
    postedStorePerform msixVectorUnmask i

end Sys2Proof.Laws.RoundTrip

namespace Sys2Proof

/-! ### Words and their length code (R166) -/

/-- Fields are read from as many words as the first word's length code says. -/
theorem Fields.length_of_ofWords {w : W32} {ws : List W32} {f : Fields} (h : Fields.ofWords (w :: ws) = some f) :
    w.len.toNat = ws.length := by
  match ws with
  | [] =>
    obtain ⟨hl, -⟩ : w.len = 0 ∧ _ := by simpa [Fields.ofWords] using h
    simp [hl]
  | [_] =>
    obtain ⟨hl, -⟩ : w.len = 1 ∧ _ := by simpa [Fields.ofWords] using h
    simp [hl]
  | [_, _] =>
    obtain ⟨hl, -⟩ : w.len = 2 ∧ _ := by simpa [Fields.ofWords] using h
    simp [hl]
  | _ :: _ :: _ :: _ => simp [Fields.ofWords] at h

theorem ofWords_of_parseWords {ws : List W32} {o : Op} {f : Fields} (h : parseWords ws = some (o, f)) :
    Fields.ofWords ws = some f := by
  unfold parseWords at h
  split at h
  · next w _ f' hf =>
    cases ho : opAt w.cls.toNat w.len.toNat w.op.toNat <;> simp_all
  · cases h

/-- Words that parse have a length code other than 0b11, which counts them. -/
theorem wordCount_of_parseWords {w : W32} {ws : List W32} {o : Op} {f : Fields} (h : parseWords (w :: ws) = some (o, f)) :
    w.len ≠ 3 ∧ wordCount w = some (w :: ws).length := by
  have hlen := Fields.length_of_ofWords (ofWords_of_parseWords h)
  have hne : w.len ≠ 3 := by
    intro h3
    have hof := ofWords_of_parseWords h
    rw [h3] at hlen
    match ws, hlen with
    | [_, _, _], _ => simp [Fields.ofWords] at hof
  exact ⟨hne, by simp only [wordCount, beq_iff_eq, hne, if_false, hlen, List.length_cons]⟩

/-- No stream decodes class 0b111 (R167). -/
theorem cls_ne_seven_of_classInStream {st : Stream} {c : BitVec 3} (h : classInStream st c = true) : c ≠ 7 := by
  rintro rfl
  cases st <;> exact absurd h (by decide)

/-! ### Decoding in a stream and in a unit (R189) -/

section
variable {st : Stream} {priv nest : Bool} {w : W32} {ws : List W32} {o : Op} {f : Fields}

/-- Words that parse, in a stream that decodes them: checks 9 to 11 decide. -/
theorem decodeOp_of_parseWords (h : parseWords (w :: ws) = some (o, f)) (hcls : classInStream st w.cls = true)
    (hop : opInStream st w.cls o = true) (hpriv : w.cls = 5 → priv = true) :
    decodeOp st priv nest (w :: ws) = (opCheck st nest o f).elim (.ok (o, f)) .error := by
  obtain ⟨hlen, -⟩ := wordCount_of_parseWords h
  have hseven := cls_ne_seven_of_classInStream hcls
  have hill : (w.cls == 5 && !priv) = false := by simpa using hpriv
  simp only [decodeOp, beq_iff_eq, hlen, hseven, hcls, h, hop, hill, decodeCheck, if_false, Bool.not_true, Bool.false_eq_true]
  cases opCheck st nest o f <;> rfl

end

theorem Instr.check_of_op {i : Instr} {o : Op} (h : i.op = some o) (st : Stream) (nest : Bool) :
    i.check st nest = opCheck st nest o i.fields := by
  simp only [Instr.check, h]

/-- The words of an instruction decode to it where its class, its name and its privilege are admitted and its fields pass. -/
theorem decodeIn_encode {st : Stream} {priv nest : Bool} {i : Instr} {o : Op} {w : W32} {ws : List W32} (ho : i.op = some o)
    (he : encode i = w :: ws) (hcls : classInStream st w.cls = true) (hop : opInStream st w.cls o = true)
    (hpriv : w.cls = 5 → priv = true) : decodeIn st priv nest (w :: ws) = (i.check st nest).elim (.ok i) .error := by
  obtain ⟨hparse, hbuild⟩ := Laws.RoundTrip.statement_all i o ho
  rw [he] at hparse
  rw [decodeIn, decodeOp_of_parseWords hparse hcls hop hpriv, Instr.check_of_op ho]
  cases opCheck st nest o i.fields <;> simp [hbuild]

/-- Bytes that begin with an instruction's words decode as the words do, and leave the bytes after them. -/
theorem decodeBytes_encodeBytes {st : Stream} {priv nest : Bool} {i : Instr} {o : Op} {w : W32} {ws : List W32}
    (ho : i.op = some o) (he : encode i = w :: ws) (rest : List Byte) {j : Instr}
    (hd : decodeIn st priv nest (w :: ws) = .ok j) : decodeBytes st priv nest (encodeBytes i ++ rest) = .ok (j, rest) := by
  obtain ⟨hparse, -⟩ := Laws.RoundTrip.statement_all i o ho
  rw [he] at hparse
  obtain ⟨-, hcount⟩ := wordCount_of_parseWords hparse
  obtain ⟨r, hone⟩ := takeWords_one w ws rest
  simp only [decodeBytes, encodeBytes, he, hone, hcount, takeWords_bytes, hd]

/-- A near-bank instruction comes back from its words in a unit (R188). -/
theorem decodeUnit_encode {i : Instr} {o : Op} (ho : i.op = some o) (hcls : o.code.1 = 6)
    (hcheck : i.check .strand false = none) : decodeUnit (encode i) = some i := by
  obtain ⟨hparse, hbuild⟩ := Laws.RoundTrip.statement_all i o ho
  rw [Instr.check_of_op ho] at hcheck
  simp [decodeUnit, decodeUnitOp, hparse, hcls, decodeCheck, hcheck, hbuild]

/-- Settles O54: the words parse to the instruction's name and fields, the checks are its own, and the fields build it again. -/
theorem encodeDecodeRoundTrip : Obligations.EncodeDecodeRoundTrip := by
  unfold Obligations.EncodeDecodeRoundTrip
  refine ⟨fun st priv nest i o w ws rest ho he hcls hop hpriv hcheck => ?_, fun i o => decodeUnit_encode⟩
  have hd := decodeIn_encode (nest := nest) ho he hcls hop hpriv
  rw [hcheck] at hd
  exact decodeBytes_encodeBytes ho he rest hd

/-- Settles O53: the decoder is a function, and it reads each of these words as the instruction it stands for. -/
theorem knownWordsDecode : Obligations.KnownWordsDecode :=
  ⟨rfl, rfl, rfl, rfl, rfl, rfl, rfl, rfl, rfl, rfl, rfl, rfl, rfl, rfl⟩

end Sys2Proof
end

section
/-! Proofs about issue: what a stream or a unit fetches and decodes is what it runs, or the trap that it takes (R151, R161, R187 to
R189, R425). -/
namespace Sys2Proof.Machine

/-! ### Refusals of the decoder (R151, R166, R167, R187, R189) -/

section
variable {st : Stream} {priv nest : Bool} {w : W32} {ws : List W32} (hlen : w.len ≠ 3)

theorem decodeOp_illLen (hlen : w.len = 3) : decodeOp st priv nest (w :: ws) = .error .illLen := by
  simp only [decodeOp, beq_iff_eq, hlen, if_true]

include hlen

theorem decodeOp_illOp_of_cls (hcls : w.cls = 7) : decodeOp st priv nest (w :: ws) = .error .illOp := by
  simp only [decodeOp, beq_iff_eq, hlen, hcls, if_false, if_true]

theorem decodeOp_illClass (hseven : w.cls ≠ 7) (hcls : classInStream st w.cls = false) :
    decodeOp st priv nest (w :: ws) = .error .illClass := by
  simp only [decodeOp, beq_iff_eq, hlen, hseven, hcls, if_false, Bool.not_false, if_true]

theorem decodeOp_illOp_of_opAt (hcls : classInStream st w.cls = true) (hop : opAt w.cls.toNat w.len.toNat w.op.toNat = none) :
    decodeOp st priv nest (w :: ws) = .error .illOp := by
  have hparse : parseWords (w :: ws) = none := by
    unfold parseWords
    cases Fields.ofWords (w :: ws) <;> simp [hop]
  simp only [decodeOp, beq_iff_eq, hlen, cls_ne_seven_of_classInStream hcls, hcls, hparse, if_false, Bool.not_true,
    Bool.false_eq_true]

theorem decodeOp_illPriv (hcls : w.cls = 5) {o : Op} {f : Fields} (hparse : parseWords (w :: ws) = some (o, f)) :
    decodeOp .strand false nest (w :: ws) = .error .illPriv := by
  have hop : opInStream .strand 5 o = true := rfl
  have hclass : classInStream .strand 5 = true := rfl
  simp only [decodeOp, beq_iff_eq, hlen, hcls, hclass, hparse, hop, show (5 : BitVec 3) ≠ 7 by decide, if_false, Bool.not_true,
    Bool.not_false, beq_self_eq_true, Bool.and_self, Bool.false_eq_true, if_true]

end

theorem classInStream_six (st : Stream) : classInStream st 6 = false := by cases st <;> rfl

/-- The classes of each stream (R151). -/
theorem classInStream_iff (c : BitVec 3) : (classInStream .strand c = true ↔ c = 0 ∨ c = 3 ∨ c = 4 ∨ c = 5) ∧
    (classInStream .vector c = true ↔ c = 1 ∨ c = 3 ∨ c = 4) ∧ (classInStream .matrix c = true ↔ c = 2 ∨ c = 3 ∨ c = 4) ∧
    (classInStream .copy c = true ↔ c = 3 ∨ c = 4) := by
  simp [classInStream, or_assoc]

/-! ### A stream at its counter -/

section
variable {run : Runner} {s s' : State} {c : Nat} {st : Stream} {t : Team} {ws : List W32}

/-- Changing the active team leaves who fetches for it. -/
theorem State.fetchWho_modAct (ht : (s.cell c).act = some t) (f : Team → Team) (u : Team) (st : Stream) :
    (s.modAct c f).fetchWho c u st = s.fetchWho c u st := by
  rw [State.modAct_of_act ht]
  simp [State.fetchWho]

theorem State.modAct_cur (ht : (s.cell c).act = some t) (f : Team → Team) : (s.modAct c f).cur = s.cur := by
  rw [State.modAct_of_act ht, State.withTeam_cur]

/-- Words that have been fetched are issued, and what peers answered to the fetch is used. -/
theorem issueFetched_ok (h : (fetchInstr (s.fetchWho c t st) t (t.pcOf st).toNat).run { s with cur := .stream c st } = .ok ws s') :
    issueFetched run c st t s = issueWords run c st t.priv false ws (s'.usedReplies (t.fetchKey st)) := by
  simp only [issueFetched, whole_run_ok h]

theorem issueWords_error {priv nest : Bool} {k : Cause} (h : decodeOp st priv nest ws = .error k) :
    issueWords run c st priv nest ws s =
      .next (s.takeTrap c st k true (s.pcAt c st) { addr := (s.pcAt c st).toNat }) := by
  simp only [issueWords, h, State.decodeTrapAt]

/-- Words that decode to an instruction run its meaning. -/
theorem issueWords_of_decodeIn {priv nest : Bool} {i : Instr} (h : decodeIn st priv nest ws = .ok i) :
    issueWords execForm c st priv nest ws s = exec i { s with cur := .stream c st } := by
  unfold decodeIn at h
  cases hd : decodeOp st priv nest ws with
  | error k => simp [hd] at h
  | ok p =>
    cases hb : buildInstr p.1 p.2 with
    | none => simp [hd, hb] at h
    | some j =>
      simp only [hd, hb, Except.ok.injEq] at h
      simp only [issueWords, hd, execForm, hb, h]

variable (ht : (s.cell c).act = some t)
include ht

/-- A strand that may issue, and that no pending cause stops, issues what its fetch returns. -/
theorem issueStream_strand (hruns : s.strandRuns c t = true) (hpend : t.apend = [] ∨ t.priv = true)
    (h : (fetchInstr (s.fetchWho c t .strand) t t.pc.toNat).run
      { (s.modAct c fun t => { t with started := true }) with cur := .stream c .strand } = .ok ws s') :
    issueStream run c .strand s = issueWords run c .strand t.priv false ws (s'.usedReplies (t.fetchKey .strand)) := by
  have hasync : (!t.apend.isEmpty && !t.priv) = false := by rcases hpend with h | h <;> simp [h]
  rw [← State.fetchWho_modAct ht (fun t => { t with started := true })] at h
  simp only [issueStream, ht, engineOf, hruns, hasync, Bool.not_true, Bool.false_eq_true, if_false]
  exact issueFetched_ok h

/-- An engine stream outside a nest that may issue issues what its fetch returns. -/
theorem issueStream_engine {e : Engine} (hruns : s.engineRuns c t e = true) (hnest : (t.eng e).nest = none)
    (h : (fetchInstr (s.fetchWho c t e.stream) t (t.eng e).pc.toNat).run { s with cur := .stream c e.stream } = .ok ws s') :
    issueStream run c e.stream s = issueWords run c e.stream t.priv false ws (s'.usedReplies (t.fetchKey e.stream)) := by
  have hpc : t.pcOf e.stream = (t.eng e).pc := by simp only [Team.pcOf, engineOf_stream]
  simp only [issueStream, ht, engineOf_stream, hruns, hnest, Bool.not_true, Bool.false_eq_true, if_false]
  exact issueFetched_ok (by rw [hpc]; exact h)

/-- A nest sequencer that may issue comes to the body instruction at its position (R161). -/
theorem issueStream_nest {e : Engine} {k : Bool} {off : Nat} {o : Op} {f : Fields} (hruns : s.engineRuns c t e = true)
    (hnest : (t.eng e).nest = some k) (hbody : (t.slot k).body[(t.slot k).pos]? = some (off, ws))
    (hparse : parseWords ws = some (o, f)) :
    issueStream run c e.stream s =
      let v := s.modAct c fun t => t.modEng e fun x => { x with pc := BitVec.ofNat 64 off }
      if (t.slot k).issues (nestFlagsOf f) then issueWords run c e.stream t.priv true ws v
      else .next (v.modAct c fun t => t.nestStep e) := by
  simp only [issueStream, ht, engineOf_stream, hruns, hnest, issueNest, hbody, hparse, Bool.not_true, Bool.false_eq_true, if_false]
  rfl

end

/-! ### Units (R425) -/

/-- A running unit runs the instruction at its counter. -/
theorem issueUnit_of_decodeUnit {ill : Nat → State → State} {s : State} {n : Nat} {i : Instr} (hrun : (s.unit n).st = .run)
    (h : decodeUnit (s.unit n).words = some i) (hcur : s.cur = .unit n) : issueUnit execForm ill n s = exec i s := by
  have hs : ({ s with cur := .unit n } : State) = s := by rw [← hcur]
  unfold decodeUnit at h
  cases hd : decodeUnitOp (s.unit n).words with
  | none => simp [hd] at h
  | some p =>
    simp only [hd] at h
    simp [issueUnit, hrun, hd, hs, execForm, h]

/-! ### The two statements -/

/-- DECODE_TRAP at a strand whose words do not decode takes the trap of the failing check. -/
theorem execDecodeTrap_strand {s s2 : State} {t : Team} {ws : List W32} {k : Cause} (hb : s.arg.b = 0)
    (ht : (s.cell s.arg.a).act = some t) (hruns : s.strandRuns s.arg.a t = true) (hpend : t.apend = [])
    (h : (fetchInstr (s.fetchWho s.arg.a t .strand) t t.pc.toNat).run
      { (s.modAct s.arg.a fun t => { t with started := true }) with cur := .stream s.arg.a .strand } = .ok ws s2)
    (hd : decodeOp .strand t.priv false ws = .error k) :
    let s2 := s2.usedReplies (t.fetchKey .strand)
    execDecodeTrap s = .next (s2.takeTrap s.arg.a .strand k true (s2.pcAt s.arg.a .strand)
      { addr := (s2.pcAt s.arg.a .strand).toNat }) := by
  have hev : execDecodeTrap s = issueStream (fun _ _ _ => .next s) s.arg.a .strand s := by
    simp [execDecodeTrap, hb, ht, hpend]
  rw [hev, issueStream_strand ht hruns (.inl hpend) h, issueWords_error hd]

/-- Settles O55: the checks in their order, and the trap of a stream whose words fail one. -/
theorem reservedEncodingsTrap : Obligations.ReservedEncodingsTrap := by
  unfold Obligations.ReservedEncodingsTrap
  refine ⟨fun st priv nest w ws => ⟨decodeOp_illLen, fun hlen hcls => decodeOp_illOp_of_cls hlen hcls, fun hlen hcls => ?_,
    fun hlen hseven hcls => decodeOp_illClass hlen hseven hcls, fun hlen hcls hop => decodeOp_illOp_of_opAt hlen hcls hop,
    fun o f hlen hcls hparse => decodeOp_illPriv hlen hcls hparse⟩, classInStream_iff, ?_, ?_⟩
  · exact decodeOp_illClass hlen (by rw [hcls]; decide) (by rw [hcls]; exact classInStream_six st)
  · rintro s s1 s2 t ws k c hb ht hruns hpend rfl h hd
    exact execDecodeTrap_strand hb ht hruns hpend h hd
  · intro st nest i o w ws k ho he hcls hop hfive hcheck
    rw [decodeIn_encode ho he hcls hop (fun h => absurd h hfive), hcheck]
    rfl

/-- A step whose move is agent `g` issuing is that agent's issue from a state in which it is the one that issues. -/
theorem step_eq_issueAgent {s u : State} {g : Agent} (h : (s.inputs = [] ∧ s.cur = g ∧ u = s) ∨
    (∃ dt rest, s.inputs = { dt := dt, act := .run g } :: rest ∧ u = { ({ s with inputs := rest } : State).tick dt with cur := g })) :
    u.cur = g ∧ step s = issueAgent execForm (fun n s => s.nbIll n) g u := by
  rcases h with ⟨hin, rfl, rfl⟩ | ⟨dt, rest, hin, rfl⟩
  · exact ⟨rfl, by simp only [step, hin]⟩
  · exact ⟨rfl, by simp only [step, hin]; cases g <;> rfl⟩

theorem issueAgent_stream {run : Runner} {ill : Nat → State → State} {u : State} {c : Nat} {st : Stream} (h : u.cur = .stream c st) :
    issueAgent run ill (.stream c st) u = issueStream run c st u := by
  simp only [issueAgent, ← h]

/-- Settles O56: an agent's issue is its fetch, its decoder and the meaning that the decoder's answer names. -/
theorem stepRunsInstruction : Obligations.StepRunsInstruction := by
  unfold Obligations.StepRunsInstruction
  refine ⟨fun s u g hmove => ?_, ?_, ?_⟩
  · obtain ⟨hcur, hstep⟩ := step_eq_issueAgent hmove
    refine ⟨?_, ?_, ?_, ?_⟩
    · rintro c t ws i u1 rfl ht hruns hpend h hd
      have hfetch : (fetchInstr (u.fetchWho c t .strand) t t.pc.toNat).run
          { (u.modAct c fun t => { t with started := true }) with cur := .stream c .strand } = .ok ws u1 := by
        rw [← h, ← hcur, ← State.modAct_cur ht]
      rw [hstep, issueAgent_stream hcur, issueStream_strand ht hruns hpend hfetch, issueWords_of_decodeIn hd]
    · rintro c e t ws i u1 rfl ht hruns hnest h hd
      have hfetch : (fetchInstr (u.fetchWho c t e.stream) t (t.eng e).pc.toNat).run { u with cur := .stream c e.stream } =
          .ok ws u1 := by rw [← h, ← hcur]
      rw [hstep, issueAgent_stream hcur, issueStream_engine ht hruns hnest hfetch, issueWords_of_decodeIn hd]
    · rintro c e t k off ws i o f rfl ht hruns hnest hbody hparse v
      have hissue := issueStream_nest (run := execForm) ht hruns hnest hbody hparse
      refine ⟨fun hhit hd => ?_, fun hmiss => ?_⟩
      · rw [hstep, issueAgent_stream hcur, hissue]
        simp only [hhit, if_true]
        exact issueWords_of_decodeIn hd
      · rw [hstep, issueAgent_stream hcur, hissue]
        simp only [hmiss, Bool.false_eq_true, if_false]
        rfl
    · rintro n i rfl hrun hd
      have hs : ({ u with cur := .unit n } : State) = u := by rw [← hcur]
      rw [hstep, issueAgent, hs, issueUnit_of_decodeUnit hrun hd hcur]
  · intro s dt i a rest hin ho
    simp [step, hin, ho]
  · intro s dt o rest hin
    simp only [step, hin]

end Sys2Proof.Machine
end

section
/-! Proofs about the guard of strand, sync and system instructions (R181, R200) and about absent units (R4, R189). -/
namespace Sys2Proof.Machine

/-- Instruction `i` of `len` bytes, with guard predicate `pg`, only goes on where its guard reads false (R181). -/
def SkippedWhenOff (i : Instr) (len : Nat) (pg : BitVec 3) : Prop :=
  ∀ (s : State) (c : Nat) (t : Team), Issues s c .strand t → t.pred pg.toNat = false →
    exec i s = .next (s.withTeam c (t.past .strand len))

section
variable {i : Instr} {len : Nat} {pg : BitVec 3} {body : M Unit}

theorem skippedWhenOff_strandOp (h : ∀ s, exec i s = strandOp len pg body s) : SkippedWhenOff i len pg :=
  fun s _ _ hi hp => (h s).trans (strandOp_off hi hp)

/-- An instruction that several streams decode, in the strand, where its guard does not hold. -/
theorem sharedOp_strand_off {s : State} {c : Nat} {t : Team} {sts : List Stream} (hi : Issues s c .strand t)
    (hm : Stream.strand ∈ sts) (hp : t.pred pg.toNat = false) :
    sharedOp len pg sts body s = .next (s.withTeam c (t.past .strand len)) := by
  obtain ⟨hc, ha⟩ := hi
  simp [sharedOp, hc, ha, hm, hp, State.passed_of_act ha]

theorem skippedWhenOff_sharedOp {sts : List Stream} (hm : Stream.strand ∈ sts) (h : ∀ s, exec i s = sharedOp len pg sts body s) :
    SkippedWhenOff i len pg :=
  fun s _ _ hi hp => (h s).trans (sharedOp_strand_off hi hm hp)

/-- An instruction of a unit: where the guard reads false it goes on, but traps where the unit is absent (R4). -/
theorem gatedOp_strandOp_off {has : State → Bool} {s : State} {c : Nat} {t : Team} (hi : Issues s c .strand t)
    (hp : t.pred pg.toNat = false) : gatedOp has (strandOp len pg body) s =
      .next (if has s then s.withTeam c (t.past .strand len) else s.takeTrap c .strand .unitAbsent true t.pc {}) := by
  cases hh : has s with
  | true => rw [gatedOp_has _ hh, strandOp_off hi hp, if_pos rfl]
  | false => exact gatedOp_absent _ hi hh

end

/-- Settles O6: each instruction is a body in the frame of the strand, and the frame passes over it. -/
theorem guardFalse : Obligations.GuardFalse := by
  intro s c t hi
  refine ⟨fun x hp i hmem => ?_, fun x hp i hmem => ?_, fun x hp p hmem => ?_, fun x hp i hmem => ?_⟩
  · suffices h : SkippedWhenOff (i x) 4 x.pg from h s c t hi hp
    revert i
    have hstrand {i : Instr} {body : M Unit} (h : ∀ s, exec i s = strandOp 4 x.pg body s) : SkippedWhenOff i 4 x.pg :=
      skippedWhenOff_strandOp h
    simp only [List.forall_mem_cons, List.not_mem_nil, false_imp_iff, implies_true, and_true]
    -- FENCE, the 47th, is the one that several streams decode
    iterate 46 refine ⟨hstrand fun _ => rfl, ?_⟩
    refine ⟨skippedWhenOff_sharedOp List.mem_cons_self fun _ => rfl, ?_⟩
    iterate 9 refine ⟨hstrand fun _ => rfl, ?_⟩
    exact hstrand fun _ => rfl
  · suffices h : SkippedWhenOff (i x) 8 x.r.pg from h s c t hi hp
    revert i
    have hstrand {i : Instr} {body : M Unit} (h : ∀ s, exec i s = strandOp 8 x.r.pg body s) : SkippedWhenOff i 8 x.r.pg :=
      skippedWhenOff_strandOp h
    simp only [List.forall_mem_cons, List.not_mem_nil, false_imp_iff, implies_true, and_true]
    -- BAR.ARR, the 44th, likewise
    iterate 43 refine ⟨hstrand fun _ => rfl, ?_⟩
    refine ⟨skippedWhenOff_sharedOp List.mem_cons_self fun _ => rfl, ?_⟩
    iterate 9 refine ⟨hstrand fun _ => rfl, ?_⟩
    exact hstrand fun _ => rfl
  · revert p
    simp only [List.forall_mem_cons, List.not_mem_nil, false_imp_iff, implies_true, and_true]
    exact ⟨gatedOp_strandOp_off hi hp, gatedOp_strandOp_off hi hp, gatedOp_strandOp_off hi hp, gatedOp_strandOp_off hi hp,
      gatedOp_strandOp_off hi hp, gatedOp_strandOp_off hi hp, gatedOp_strandOp_off hi hp, gatedOp_strandOp_off hi hp,
      gatedOp_strandOp_off hi hp, gatedOp_strandOp_off hi hp⟩
  · suffices h : SkippedWhenOff (i x) 12 x.r.pg from h s c t hi hp
    revert i
    simp only [List.forall_mem_cons, List.not_mem_nil, false_imp_iff, implies_true, and_true]
    exact ⟨skippedWhenOff_strandOp fun _ => rfl, skippedWhenOff_strandOp fun _ => rfl, skippedWhenOff_strandOp fun _ => rfl⟩

end Sys2Proof.Machine
end

section
/-! Frames of instructions that leave the state at their instruction: a strand that waits or traps before it has changed more than its
team (R198, R461), and the first checks of FORK, JOIN and NEST.GO. -/
namespace Sys2Proof.Machine

section
variable {s : State} {c : Nat} {t u : Team} {len : Nat} {pg : BitVec 3} {body : M Unit}

theorem State.rewound_strand (s : State) (c : Nat) (u : Team) (pc : Word) (n0 n1 : Nat) :
    (s.withTeam c u).rewound c .strand pc n0 n1 = s.withTeam c { u with pc := pc } := State.modAct_withTeam ..

/-- The strand stands at an instruction that waits before it has changed anything. -/
theorem strandOp_stays (h : Guarded s c t pg)
    (hb : body.run (s.withTeam c (t.past .strand len)) = .error (.wait none) (s.withTeam c (t.past .strand len))) :
    strandOp len pg body s = .next (s.withTeam c t.still) := by
  rw [strandOp_wait h hb, State.rewound_strand, State.modAct_withTeam]
  rfl

/-- The strand traps at its instruction from a state in which only its team has changed: put back, it is `v`. -/
theorem strandOp_trapAt {k : Cause} {i : Info} {v : Team} (h : Guarded s c t pg)
    (hb : body.run (s.withTeam c (t.past .strand len)) = .error (.trap k i) (s.withTeam c u)) (hv : { u with pc := t.pc } = v)
    (hkey : v.key .strand = t.key .strand) : strandOp len pg body s = .next (s.trapAt c .strand v k i) := by
  have hpc : v.pcOf .strand = t.pc := by
    subst hv
    rfl
  rw [strandOp_trap h hb, State.rewound_strand, hv, State.trapAt, hkey, hpc]

/-- The same where nothing has changed. -/
theorem strandOp_trapAt_still {k : Cause} {i : Info} (h : Guarded s c t pg)
    (hb : body.run (s.withTeam c (t.past .strand len)) = .error (.trap k i) (s.withTeam c (t.past .strand len))) :
    strandOp len pg body s = .next (s.trapAt c .strand t.still k i) := strandOp_trapAt h hb rfl rfl

/-- An instruction of the strand that changes its team alone. -/
theorem strandOp_after (h : Guarded s c t pg) (hb : body.run (s.withTeam c (t.past .strand len)) = .ok () (s.withTeam c u))
    (hkey : u.key .strand = t.key .strand) : strandOp len pg body s = .next (s.after c u) := by
  rw [strandOp_ok h hb, State.did, State.after, hkey]

end

section
variable {s : State} {c : Nat} {t u : Team} {e : Engine} {len : Nat} {body : M Unit}

/-- An engine stream traps at its instruction from a state in which only its team has changed: put back, it is `v`. -/
theorem engineOp_trapAt {k : Cause} {i : Info} {v : Team} (h : EngineIssues s c e t)
    (hb : body.run (s.withTeam c (t.past e.stream len)) = .error (.trap k i) (s.withTeam c u))
    (hv : (s.withTeam c u).rewound c e.stream (t.pcOf e.stream) t.nt0.pos t.nt1.pos = s.withTeam c v)
    (hkey : v.key e.stream = t.key e.stream) (hpc : v.pcOf e.stream = t.pcOf e.stream) :
    engineOp e len body s = .next (s.trapAt c e.stream v k i) := by
  obtain ⟨⟨hc, ha⟩, hp⟩ := h
  rw [State.trapAt, hkey, hpc, ← hv]
  cases e <;> simp_all [engineOp, runAt, State.passed_of_act ha, Engine.stream]

/-- The same where nothing has changed. -/
theorem engineOp_trapAt_still {k : Cause} {i : Info} (h : EngineIssues s c e t)
    (hb : body.run (s.withTeam c (t.past e.stream len)) = .error (.trap k i) (s.withTeam c (t.past e.stream len))) :
    engineOp e len body s = .next (s.trapAt c e.stream t k i) :=
  engineOp_trapAt h hb (State.rewound_past ..) rfl rfl

/-- Outside a nest an engine stream's counter moves past its instruction. -/
theorem Team.past_engine (hn : (t.eng e).nest = none) :
    t.past e.stream len = t.setEng e { t.eng e with pc := (t.eng e).pc + wd len } := by
  simp only [Team.past, engineOf_stream, hn, Option.isSome_none, Bool.false_eq_true, if_false, Team.setPc, Team.modEng, Team.pcOf]

end

theorem Team.past_strand_pcOf (t : Team) (len : Nat) : (t.past .strand len).pcOf .strand - wd len = t.pc := by
  show t.pc + wd len - wd len = t.pc
  exact BitVec.add_sub_cancel ..

@[simp] theorem Team.eng_past_strand (t : Team) (len : Nat) (e : Engine) : (t.past .strand len).eng e = t.eng e := by
  cases e <;> rfl

@[simp] theorem Team.slot_past_strand (t : Team) (len : Nat) (k : Bool) : (t.past .strand len).slot k = t.slot k := by
  cases k <;> rfl

theorem runw_notPriv {s : State} {c : Nat} {st : Stream} (hc : s.cur = .stream c st) {t : Team} (hp : t.priv = false) :
    notPriv.run (s.withTeam c t) = .ok () (s.withTeam c t) := by
  simp [notPriv, runw_team hc, run_need, hp]

end Sys2Proof.Machine
end

section
/-! Proofs about FORK, JOIN and END of the strand (R153, R154, R156, R217, R218, R236, R503). -/
namespace Sys2Proof.Machine

/-! ### Engines changed one by one -/

/-- Engines changed one after the other, each by what it was. -/
def Team.mapEngs (t : Team) (es : List Engine) (g : Engine → EStream → EStream) : Team :=
  es.foldl (fun t e => t.setEng e (g e (t.eng e))) t

section
variable (t : Team) {es : List Engine} (g : Engine → EStream → EStream)

theorem Team.eng_mapEngs (hnd : es.Nodup) (e : Engine) : (t.mapEngs es g).eng e = if e ∈ es then g e (t.eng e) else t.eng e := by
  have hstep : ∀ (u : Team) (i k : Engine), (u.setEng i (g i (u.eng i))).eng k = if k = i then g i (u.eng k) else u.eng k := by
    intro u i k
    rw [Team.eng_setEng]
    split <;> simp_all
  split
  · next h => exact get_foldl_of_mem hstep t h hnd fun _ _ heq => heq
  · next h => exact get_foldl_of_ne hstep t fun i hi heq => h (heq ▸ hi)

theorem Team.mapEngs_eq : ∀ (es : List Engine) (t : Team), t.mapEngs es g =
    { t with vec := (t.mapEngs es g).vec, mat := (t.mapEngs es g).mat, cpy := (t.mapEngs es g).cpy }
  | [], _ => rfl
  | e :: es, t => by
    have ih := Team.mapEngs_eq es (t.setEng e (g e (t.eng e)))
    rw [Team.mapEngs, List.foldl_cons, ← Team.mapEngs, ih]
    cases e <;> rfl

end

theorem mem_maskEngines {md : BitVec 3} {e : Engine} : e ∈ maskEngines md ↔ md.getLsbD e.index = true := by
  cases e <;> simp [maskEngines, engines]

theorem nodup_maskEngines (md : BitVec 3) : (maskEngines md).Nodup := List.Nodup.filter _ (by decide)

/-! ### FORK (R153, R217) -/

/-- The entry of an engine in FORK. -/
def forkField (x : S96) (e : Engine) : BitVec 21 := (x.lit ++ x.imm).extractLsb' (21 * e.index) 21

theorem forkEntry_eq (x : S96) (e : Engine) :
    forkEntry x e = if forkField x e = 0x100000 then none else some (forkField x e).toInt := by
  have hnat : (x.lit ++ x.imm).toNat / 2 ^ (21 * e.index) % 2 ^ 21 = (forkField x e).toNat := (toNat_ext ..).symm
  have hcont : forkField x e = 0x100000 ↔ (forkField x e).toNat = 2 ^ 20 := by rw [← BitVec.toNat_inj]; rfl
  simp only [forkEntry, hnat, hcont, sextNat_eq_toInt (show 0 < 21 by decide), BitVec.ofNat_toNat, BitVec.setWidth_eq]

/-- An engine that FORK starts (R217). -/
def startedBy (x : S96) (pc : Word) (e : Engine) (z : EStream) : EStream :=
  { st := .run, pc := if forkField x e = 0x100000 then z.pc else pc + 4 * (forkField x e).signExtend 64 }

/-- The counter that the model gives an engine is the one of its entry. -/
theorem startedBy_eq (x : S96) (pc : Word) (e : Engine) (z : EStream) : startedBy x pc e z =
    { st := .run, pc := (forkEntry x e).elim z.pc fun k => pc + BitVec.ofInt 64 (4 * k) } := by
  rw [startedBy, forkEntry_eq]
  split
  · rfl
  · simp [BitVec.ofInt_mul, BitVec.signExtend]

section
variable {s : State} {c : Nat} {t : Team} {x : S96} (h : Guarded s c t x.r.pg) (hpriv : t.priv = false)
include h hpriv

/-- FORK waits while an engine of its mask runs. -/
theorem execFork_waits (hrun : ∃ e, x.r.md.getLsbD e.index = true ∧ (t.eng e).st = .run) :
    execFork x s = .next (s.withTeam c t.still) := by
  have hall : ((maskEngines x.r.md).all fun e => ((t.past .strand 12).eng e).parked) = false := by
    obtain ⟨e, he, hst⟩ := hrun
    exact List.all_eq_false.2 ⟨e, mem_maskEngines.2 he, by simp [EStream.parked, Team.eng_past_strand, hst]⟩
  refine strandOp_stays h ?_
  simp only [EStateM.run_bind, runw_notPriv h.1.1 (t := t.past .strand 12) hpriv, runw_pcHere h.1.1, runw_team h.1.1, hall, run_waitFor]
  rfl

variable (hpark : ∀ e, x.r.md.getLsbD e.index = true → (t.eng e).st ≠ .run)

include hpark

omit h hpriv in
theorem parked_of_mask : ((maskEngines x.r.md).all fun e => ((t.past .strand 12).eng e).parked) = true :=
  List.all_eq_true.2 fun e he => bne_iff_ne.2 (by simpa using hpark e (mem_maskEngines.1 he))

/-- FORK traps where it would let an idle engine go on (R217). -/
theorem execFork_traps (hidle : ∃ e, x.r.md.getLsbD e.index = true ∧ forkField x e = 0x100000 ∧ (t.eng e).st = .idle) :
    execFork x s = .next (s.trapAt c .strand t.still .forkState {}) := by
  have hall : ((maskEngines x.r.md).all fun e =>
      !((forkEntry x e).isNone && ((t.past .strand 12).eng e).st == .idle)) = false := by
    obtain ⟨e, he, hcont, hst⟩ := hidle
    exact List.all_eq_false.2 ⟨e, mem_maskEngines.2 he, by simp [forkEntry_eq, hcont, hst]⟩
  refine strandOp_trapAt_still h ?_
  simp only [EStateM.run_bind, runw_notPriv h.1.1 (t := t.past .strand 12) hpriv, runw_pcHere h.1.1, runw_team h.1.1,
    parked_of_mask hpark, hall, run_waitFor, run_need, if_true]
  rfl

/-- FORK starts the engines of its mask (R153, R217). -/
theorem execFork_starts (hcont : ∀ e, x.r.md.getLsbD e.index = true → forkField x e = 0x100000 → (t.eng e).st ≠ .idle) :
    execFork x s = .next (s.after c ((t.past .strand 12).mapEngs (maskEngines x.r.md) (startedBy x t.pc))) := by
  have hall : ((maskEngines x.r.md).all fun e =>
      !((forkEntry x e).isNone && ((t.past .strand 12).eng e).st == .idle)) = true :=
    List.all_eq_true.2 fun e he => by simpa [forkEntry_eq, imp_iff_not_or] using hcont e (mem_maskEngines.1 he)
  refine strandOp_after h ?_ (by rw [Team.mapEngs_eq]; rfl)
  simp only [EStateM.run_bind, runw_notPriv h.1.1 (t := t.past .strand 12) hpriv, runw_pcHere h.1.1, runw_team h.1.1,
    parked_of_mask hpark, hall, run_waitFor, run_need, if_true, runw_modTeam h.1.1, Team.past_strand_pcOf]
  refine congrArg (fun step => EStateM.Result.ok () (s.withTeam c ((maskEngines x.r.md).foldl step (t.past .strand 12)))) ?_
  funext u e
  rw [startedBy_eq]
  cases forkEntry x e <;> rfl

end

/-! ### JOIN and END (R154, R156, R236) -/

/-- What JOIN waits for of an engine (R154). -/
def State.joinable (s : State) (c : Nat) (t : Team) (e : Engine) : Prop :=
  (t.eng e).st ≠ .run ∧ (e = .vector → (s.cell c).sh.landings = []) ∧ (e = .matrix → (s.cell c).sh.array = [])

theorem State.joinable_iff {s : State} {c : Nat} {t : Team} {e : Engine} (len : Nat) :
    s.joinable c t e ↔ (((t.past .strand len).eng e).parked && (s.withTeam c (t.past .strand len)).settled c e) = true := by
  cases e <;> simp [State.joinable, EStream.parked, State.settled, State.landed]

section
variable {s : State} {c : Nat} {t : Team} (hc : s.cur = .stream c .strand) {es : List Engine} {len : Nat}
include hc

theorem runw_waitJoin_ready (h : ∀ e ∈ es, s.joinable c t e) :
    (waitJoin es).run (s.withTeam c (t.past .strand len)) = .ok () (s.withTeam c (t.past .strand len)) := by
  have hall := List.all_eq_true.2 fun e he => (State.joinable_iff len).1 (h e he)
  simp only [waitJoin, EStateM.run_bind, runw_team hc, run_get, runw_theCell hc, hall, run_waitFor, if_true]

theorem runw_waitJoin_waits {e : Engine} (he : e ∈ es) (h : ¬ s.joinable c t e) :
    (waitJoin es).run (s.withTeam c (t.past .strand len)) = .error (.wait none) (s.withTeam c (t.past .strand len)) := by
  have hall : (es.all fun e => ((t.past .strand len).eng e).parked && (s.withTeam c (t.past .strand len)).settled c e) = false :=
    List.all_eq_false.2 ⟨e, he, mt (State.joinable_iff len).2 h⟩
  simp only [waitJoin, EStateM.run_bind, runw_team hc, run_get, runw_theCell hc, hall, run_waitFor, Bool.false_eq_true, if_false]

end

section
variable {s : State} {c : Nat} {t : Team} {x : S32}

theorem execJoin_goesOn (h : Guarded s c t x.pg) (hpriv : t.priv = false)
    (hready : ∀ e, x.md.getLsbD e.index = true → s.joinable c t e) : execJoin x s = .next (s.after c (t.past .strand 4)) := by
  refine strandOp_after h ?_ rfl
  rw [EStateM.run_bind, runw_notPriv h.1.1 (t := t.past .strand 4) hpriv]
  exact runw_waitJoin_ready h.1.1 fun e he => hready e (mem_maskEngines.1 he)

theorem execJoin_waits (h : Guarded s c t x.pg) (hpriv : t.priv = false) {e : Engine} (he : x.md.getLsbD e.index = true)
    (hnot : ¬ s.joinable c t e) : execJoin x s = .next (s.withTeam c t.still) := by
  refine strandOp_stays h ?_
  rw [EStateM.run_bind, runw_notPriv h.1.1 (t := t.past .strand 4) hpriv]
  exact runw_waitJoin_waits h.1.1 (mem_maskEngines.2 he) hnot

theorem mem_engines (e : Engine) : e ∈ engines := by cases e <;> decide

/-- END has no guard. -/
theorem Issues.guarded_zero (h : Issues s c .strand t) : Guarded s c t 0 := ⟨h, rfl⟩

theorem execEndTeam_waits (h : Issues s c .strand t) (hnot : ∃ e, ¬ s.joinable c t e) :
    execEndTeam x s = .next (s.withTeam c t.still) := by
  obtain ⟨e, he⟩ := hnot
  refine strandOp_stays h.guarded_zero ?_
  rw [EStateM.run_bind, runw_waitJoin_waits h.1 (mem_engines e) he]

/-- END retires a team that has joined its engines and whose jobs have completed. -/
theorem execEndTeam_retires (h : Issues s c .strand t) (hready : ∀ e, s.joinable c t e) (hcards : ∀ k ∈ t.cards, k.st = .recording) :
    execEndTeam x s = .next (((s.withTeam c (t.past .strand 4)).retire (.here c (s.cell c).active)).did t) := by
  refine strandOp_ok h.guarded_zero ?_
  have hdone : (t.past .strand 4).cardsDone = true := List.all_eq_true.2 fun k hk => beq_iff_eq.2 (hcards k hk)
  simp only [EStateM.run_bind, runw_waitJoin_ready h.1 fun e _ => hready e, runw_team h.1, hdone, run_waitFor, if_true, runw_theLoc h.1,
    run_modify]

end

/-! ### Retirement (R503) -/

theorem State.CellsOnly.grid {s s' : State} (h : s.CellsOnly s') (gid : Nat) : s'.grid gid = s.grid gid := by
  obtain ⟨cs, rfl⟩ := h
  rfl

theorem State.grid_removeTeam_here (s : State) (c : Nat) (b : Bool) (gid : Nat) : (s.removeTeam (.here c b)).grid gid = s.grid gid := by
  have hallot : ∀ u : State, (u.applyAllot c).grid gid = u.grid gid := fun u => by
    unfold State.applyAllot
    split
    · rfl
    · dsimp only
      split <;> rfl
  have hflip : ∀ (u : State) (k : Bool), (u.flipTo c k).grid gid = u.grid gid := fun u k => by
    exact ((u.setCell_cellsOnly c _).trans (State.modTeam_here_cellsOnly ..)).grid gid
  unfold State.removeTeam
  dsimp only
  rw [hallot]
  split
  · rw [hflip]
    rfl
  · rfl

section
variable {s : State} {c : Nat} {b : Bool} {t : Team} {g : Grid}

theorem State.grid_modGrid (s : State) (gid j : Nat) (f : Grid → Grid) :
    (s.modGrid gid f).grid j = if j = gid then (s.grid gid).map f else s.grid j := Tab.find_upd ..

theorem State.grid_chargeGrid {gid : Nat} (k n : Nat) (hg : s.grid gid = some g) :
    ∃ g', (s.chargeGrid k n).grid gid = some g' ∧ g'.retired = g.retired ∧ g'.gone = g.gone := by
  unfold State.chargeGrid
  split
  · exact ⟨g, hg, rfl, rfl⟩
  · next u hu =>
    have hcharge : ∀ a x y z, (s.charge a x y z).grid = s.grid := fun _ _ _ _ => rfl
    dsimp only
    rw [State.grid_modGrid, hcharge]
    split
    · next h => exact ⟨{ g with prov := g.prov - min u.prov n }, by rw [← h, hg]; rfl, rfl, rfl⟩
    · exact ⟨g, hg, rfl, rfl⟩

/-- A charge leaves which teams of a grid have retired. -/
theorem State.grid_chargeCell (gid : Nat) (hg : s.grid gid = some g) :
    ∃ g', (s.chargeCell (.here c b)).grid gid = some g' ∧ g'.retired = g.retired ∧ g'.gone = g.gone := by
  unfold State.chargeCell
  split
  · exact ⟨g, hg, rfl, rfl⟩
  · next t _ =>
    split
    · obtain ⟨g', hg', hret, hgone⟩ := State.grid_chargeGrid t.grid (cyclesOf s.now - cyclesOf t.chargeFrom) hg
      exact ⟨g', ((State.modTeam_here_cellsOnly ..).grid gid).trans hg', hret, hgone⟩
    · exact ⟨g, hg, rfl, rfl⟩

/-- The state in which the residents are `rs`. -/
def State.withResidents (s : State) (rs : List Resident) : State := { s with hub := { s.hub with residents := rs } }

theorem State.withResidents_self (s : State) : s.withResidents s.hub.residents = s := rfl
theorem State.grid_withResidents (s : State) (rs : List Resident) (gid : Nat) : (s.withResidents rs).grid gid = s.grid gid := rfl
theorem State.cell_withResidents (s : State) (rs : List Resident) (c : Nat) : (s.withResidents rs).cell c = s.cell c := rfl
theorem State.cell_modGrid (s : State) (gid c : Nat) (f : Grid → Grid) : (s.modGrid gid f).cell c = s.cell c := rfl

/-- Retirement is a charge, the removal of the team and its grid's count; residents that have left are forgotten. -/
theorem State.retire_here_eq (ht : (s.cell c).team b = some t) (he : t.epilogue = none) (hev : t.evHub = []) :
    ∃ rs, s.retire (.here c b) = (((s.chargeCell (.here c b)).removeTeam (.here c b)).modGrid t.grid fun g =>
      { g with retired := g.retired + 1, gone := g.gone.ins t.no }).withResidents rs := by
  have hat : s.teamAt (.here c b) = some t := ht
  unfold State.retire
  simp only [hat, he, hev, Option.isSome_none, Bool.false_eq_true, if_false, List.foldl_nil]
  split
  · exact ⟨_, rfl⟩
  · exact ⟨_, (State.withResidents_self _).symm⟩

theorem NatSet.mem_ins_self (s : NatSet) (k : Nat) : (s.ins k).mem k = true := Sparse.get_set_self false s k true

/-- A team that retires leaves its stage, and its grid counts it. -/
theorem State.retire_here (ht : (s.cell c).team b = some t) (he : t.epilogue = none) (hev : t.evHub = [])
    (hg : s.grid t.grid = some g) : ((s.retire (.here c b)).cell c).team b = none ∧
      ∃ g', (s.retire (.here c b)).grid t.grid = some g' ∧ g'.retired = g.retired + 1 ∧ g'.gone.mem t.no = true := by
  obtain ⟨g1, hg1, hret, hgone⟩ := State.grid_chargeCell (c := c) (b := b) t.grid hg
  have hg2 := ((s.chargeCell (.here c b)).grid_removeTeam_here c b t.grid).trans hg1
  have hg3 := State.grid_modGrid ((s.chargeCell (.here c b)).removeTeam (.here c b)) t.grid t.grid fun g =>
    { g with retired := g.retired + 1, gone := g.gone.ins t.no }
  rw [if_pos rfl, hg2, Option.map_some] at hg3
  obtain ⟨rs, hrs⟩ := State.retire_here_eq ht he hev
  rw [hrs, State.cell_withResidents, State.cell_modGrid, State.grid_withResidents]
  refine ⟨State.team_removeTeam_here _ c b, _, hg3, ?_, ?_⟩
  · exact congrArg (· + 1) hret
  · exact NatSet.mem_ins_self ..

end

/-- Settles O9: FORK and JOIN are their waits, checks and the engines of the mask; END is the join and the team's retirement. -/
theorem forkJoinEnd : Obligations.ForkJoinEnd := by
  unfold Obligations.ForkJoinEnd
  refine ⟨?_, ?_⟩
  · intro s c t x h hpriv entry
    refine ⟨fun hok => ?_, fun hrun => execFork_waits h hpriv hrun, fun hpark hidle => execFork_traps h hpriv hpark hidle⟩
    have hstart := execFork_starts h hpriv (fun e he => (hok e he).1) fun e he => (hok e he).2
    rw [Team.mapEngs_eq] at hstart
    refine ⟨_, _, _, hstart, fun e => ?_⟩
    have heng := (t.past .strand 12).eng_mapEngs (startedBy x t.pc) (nodup_maskEngines x.r.md) e
    simp only [mem_maskEngines, Team.eng_past_strand] at heng
    refine Eq.trans ?_ heng
    cases e <;> rfl
  · intro s c t x h ready
    refine ⟨fun hp hpriv => ⟨fun hready => execJoin_goesOn ⟨h, hp⟩ hpriv hready,
      fun e he hnot => execJoin_waits ⟨h, hp⟩ hpriv he hnot⟩, fun g hready hcards he hev hg => ?_,
      fun hnot => execEndTeam_waits (x := x) h hnot⟩
    have hteam : ((s.withTeam c (t.past .strand 4)).cell c).team (s.cell c).active = some (t.past .strand 4) := by simp
    obtain ⟨hleft, g', hg', hret, hgone⟩ := State.retire_here (g := g) hteam he hev hg
    exact ⟨_, g', execEndTeam_retires (x := x) h hready hcards, by rw [State.did, State.cell_usedReplies]; exact hleft,
      by rw [State.did, State.grid, State.usedReplies_hub]; exact hg', hret, hgone⟩

end Sys2Proof.Machine
end

section
/-! Proofs about the nest instructions of the strand (R157 to R160, R163, R219, R220) and the markers of the engine streams (R155, R159,
R161, R300). -/
namespace Sys2Proof.Machine

/-! ### Nest slots -/

section
variable (t : Team) (k : Bool) (n : NestSlot)

@[simp] theorem Team.slot_setSlot_self : (t.setSlot k n).slot k = n := by cases k <;> rfl
@[simp] theorem Team.slot_setSlot_not : (t.setSlot k n).slot (!k) = t.slot (!k) := by cases k <;> rfl
theorem Team.modEng_setSlot_setEng (e : Engine) (z : EStream) (f : EStream → EStream) :
    ((t.setEng e z).setSlot k n).modEng e f = ((t.setEng e z).setSlot k n).setEng e (f z) := by cases e <;> cases k <;> rfl
theorem Team.setPc_setSlot_setEng (e : Engine) (z : EStream) (p : Word) :
    ((t.setEng e z).setSlot k n).setPc e.stream p = (t.setSlot k n).setEng e { z with pc := p } := by cases e <;> cases k <;> rfl
theorem Team.pcOf_setEng (e : Engine) (z : EStream) : (t.setEng e z).pcOf e.stream = z.pc := by cases e <;> rfl
theorem Team.slot_setEng (e : Engine) (z : EStream) : (t.setEng e z).slot k = t.slot k := by cases e <;> cases k <;> rfl

end

/-! ### NEST.SET (R219) -/

section
variable {s : State} {c : Nat} {t : Team} {x : S32}

theorem runw_readCode (hc : s.cur = .stream c .strand) (he : t.epilogue = none) (off n : Nat) :
    (readCode off n).run (s.withTeam c t) = (load (s.whoIs c t) t.codeh off n).run (s.withTeam c t) := by
  simp only [readCode, EStateM.run_bind, runw_team hc, he, runw_theWho hc]

/-- The bytes that NEST.SET reads: through the code handle, or through the handle in RS2. -/
theorem runw_nestTable (h : Issues s c .strand t) (he : x.rs2 = 0 → t.epilogue = none) (off : Nat) :
    (if x.rs2 = 0 then readCode off 256 else (do load (<- theWho) (fld (<- sreg x.rs2) 0 12) off 256)).run
        (s.withTeam c (t.past .strand 4)) =
      (load (s.whoIs c t) (if x.rs2 = 0 then t.codeh else (t.sreg x.rs2.toNat).toNat % 4096) off 256).run
        (s.withTeam c (t.past .strand 4)) := by
  by_cases h0 : x.rs2 = 0
  · rw [if_pos h0, if_pos h0, runw_readCode (t := t.past .strand 4) h.1 (he h0)]
    rfl
  · rw [if_neg h0, if_neg h0]
    simp only [EStateM.run_bind, runw_theWho h.1, runw_sreg h.1]
    rfl

theorem execNestSet_misaligned (h : Guarded s c t x.pg) (hoff : (t.sreg x.rs1.toNat).toNat % 64 ≠ 0) :
    execNestSet x s = .next (s.trapAt c .strand t.still .nestInvalid { addr := t.pc.toNat }) := by
  have hoff' : (((t.past .strand 4).sreg x.rs1.toNat).toNat % 64 == 0) = false := beq_eq_false_iff_ne.2 hoff
  refine strandOp_trapAt_still h ?_
  simp only [EStateM.run_bind, runw_pcHere h.1.1, runw_sreg h.1.1, hoff', run_need, Team.past_strand_pcOf]
  rfl

/-- NEST.SET copies what it has read into the shadow copy of its slot. -/
theorem execNestSet_copies (h : Guarded s c t x.pg) (hoff : (t.sreg x.rs1.toNat).toNat % 64 = 0)
    (he : x.rs2 = 0 → t.epilogue = none) {bs : List Byte} {s' : State}
    (hl : (load (s.whoIs c t) (if x.rs2 = 0 then t.codeh else (t.sreg x.rs2.toNat).toNat % 4096) (t.sreg x.rs1.toNat).toNat 256).run
      (s.withTeam c (t.past .strand 4)) = .ok bs s') (hcur : s'.cur = s.cur) :
    execNestSet x s = .next ((s'.modAct c fun u => u.setSlot (x.md.getLsbD 0)
      { u.slot (x.md.getLsbD 0) with shadow := bytesWords 32 bs }).did t) := by
  have hoff' : (((t.past .strand 4).sreg x.rs1.toNat).toNat % 64 == 0) = true := beq_iff_eq.2 hoff
  have hread := (runw_nestTable h.1 he _).trans hl
  refine strandOp_ok h ?_
  simp only [EStateM.run_bind, runw_pcHere h.1.1, runw_sreg h.1.1, hoff', run_need, if_true]
  rw [show (t.past .strand 4).sreg = t.sreg from rfl]
  by_cases h0 : x.rs2 = 0
  · rw [if_pos h0] at hread ⊢
    exact (run_bind_ok hread).trans (run_modTeam (hcur.trans h.1.1) _)
  · rw [if_neg h0] at hread ⊢
    exact (run_bind_ok hread).trans (run_modTeam (hcur.trans h.1.1) _)

end

/-! ### NEST.GO (R159, R160, R220) -/

theorem isMark_of_asMark {o : Op} {f : Fields} {m : Mark} {e : Engine} {k : Bool} (hf : f.asMark = some m) (he : m.eng = e)
    (hk : m.slot = 1 ↔ k = true) : isMark o o f e k = true := by
  have hslot : (m.slot == 1) = k := by rw [Bool.eq_iff_iff, beq_iff_eq, hk]
  simp only [isMark, hf, he, hslot, beq_self_eq_true, Bool.and_self]

section
variable {s : State} {c : Nat} {t : Team} {x : S32} (h : Guarded s c t x.pg) (hpriv : t.priv = false)
  (hst : (t.slot (x.md.getLsbD 0)).st = .idle ∨ (t.slot (x.md.getLsbD 0)).st = .held)
include h hpriv hst

/-- NEST.GO on a table that is none traps; its slot is idle. -/
theorem execNestGo_invalid (htab : tableOf (t.slot (x.md.getLsbD 0)).shadow = none) :
    execNestGo x s = .next (s.trapAt c .strand (t.still.setSlot (x.md.getLsbD 0)
      { t.slot (x.md.getLsbD 0) with st := .idle, saved := [] }) .nestInvalid { addr := t.pc.toNat }) := by
  have hst' : ((t.slot (x.md.getLsbD 0)).st == .idle || (t.slot (x.md.getLsbD 0)).st == .held) = true := by simpa using hst
  refine strandOp_trapAt (u := (t.past .strand 4).setSlot (x.md.getLsbD 0)
    { t.slot (x.md.getLsbD 0) with st := .idle, saved := [] }) h ?_ ?_ ?_
  · simp only [EStateM.run_bind, runw_notPriv h.1.1 (t := t.past .strand 4) hpriv, runw_pcHere h.1.1, runw_team h.1.1,
      Team.slot_past_strand, hst', run_waitFor, if_true, runw_modTeam h.1.1, htab, run_trap, Team.past_strand_pcOf]
  · cases x.md.getLsbD 0 <;> rfl
  · cases x.md.getLsbD 0 <;> rfl

/-- NEST.GO on a table and a body that pass their checks arms its slot. -/
theorem execNestGo_arms {e : Engine} {off last : Nat} {levels : List NestLevel} {w0 : W32} {f : Fields}
    {body : List (Nat × List W32)} {s2 s3 s4 : State} (htab : tableOf (t.slot (x.md.getLsbD 0)).shadow = some (e, off, levels))
    (hword : (nestWord (s.whoIs c t) (t.past .strand 4) t.pc.toNat off).run (s.withTeam c ((t.past .strand 4).setSlot
      (x.md.getLsbD 0) { t.slot (x.md.getLsbD 0) with st := .idle, saved := [] })) = .ok (some w0) s2)
    (hparse : parseWords [w0] = some (.nestBeg, f))
    (hmark : ∃ m, f.asMark = some m ∧ m.eng = e ∧ (m.slot = 1 ↔ x.md.getLsbD 0 = true))
    (hbody : (bodyFrom (s.whoIs c t) (t.past .strand 4) t.pc.toNat e (x.md.getLsbD 0) 257 256 (off + 4)).run s2 =
      .ok (some (body, last)) s3)
    (hgood : ∀ p ∈ body, bodyBad levels.length p.2 = false)
    (hcheck : (body.forM fun p => bodyCheck (t.past .strand 4) e body p.1 p.2).run s3 = .ok () s4) (hcur : s4.cur = s.cur) :
    execNestGo x s = .next ((s4.modAct c fun u => u.setSlot (x.md.getLsbD 0)
      { t.slot (x.md.getLsbD 0) with
        st := .armed, eng := e, bodyOff := off, endOff := last + 4, levels := levels, body := body,
        start := levels.map fun _ => 0, saved := [], stop0 := none, preClamp := false }).did t) := by
  have hst' : ((t.slot (x.md.getLsbD 0)).st == .idle || (t.slot (x.md.getLsbD 0)).st == .held) = true := by simpa using hst
  obtain ⟨m, hm, hme, hmk⟩ := hmark
  have hbad : (body.any fun p => bodyBad levels.length p.2) = false := List.any_eq_false.2 fun p hp => by simp [hgood p hp]
  have hwho : s.whoIs c ((t.past .strand 4).setSlot (x.md.getLsbD 0)
      { t.slot (x.md.getLsbD 0) with st := .idle, saved := [] }) = s.whoIs c t := by cases x.md.getLsbD 0 <;> rfl
  refine strandOp_ok h ?_
  simp only [EStateM.run_bind, runw_notPriv h.1.1 (t := t.past .strand 4) hpriv, runw_pcHere h.1.1, runw_team h.1.1,
    Team.slot_past_strand, hst', run_waitFor, if_true, runw_modTeam h.1.1, htab, runw_theWho h.1.1, hwho, Team.past_strand_pcOf, hword,
    Option.bind_some, hparse, isMark_of_asMark hm hme hmk, hbody, hbad, Bool.not_true, Bool.false_eq_true, if_false, hcheck,
    run_modTeam (hcur.trans h.1.1)]

end

/-! ### NEST.CLAMP (R163, R220) -/

theorem NestSlot.clamp_of_not {n : NestSlot} (pre : Bool) (h : n.st ≠ .run ∨ n.stop0 ≠ none) : n.clamp pre = n := by
  unfold NestSlot.clamp
  refine if_neg fun hif => ?_
  simp_all

section
variable {n : NestSlot} (pre : Bool) (hst : n.st = .run) (hstop : n.stop0 = none)
include hst hstop

theorem NestSlot.clamp_eq : n.clamp pre = { n.onward with
    stop0 := some (min (n.onward.idx.getD 0 0 + (n.onward.levels.getD 0 {}).epi) ((n.onward.levels.getD 0 {}).trip - 1)),
    preClamp := pre } := by
  simp only [NestSlot.clamp, hst, hstop, beq_self_eq_true, Option.isNone_none, Bool.and_self, if_true]

theorem NestSlot.clamp_inside (hpos : n.pos < n.body.length) : n.clamp pre = { n with
    stop0 := some (min (n.idx.getD 0 0 + (n.levels.getD 0 {}).epi) ((n.levels.getD 0 {}).trip - 1)), preClamp := pre } := by
  have hon : n.onward = n := if_pos hpos
  rw [NestSlot.clamp_eq pre hst hstop, hon]

theorem NestSlot.clamp_between {ix : List Nat} {j : Nat} (hpos : n.body.length ≤ n.pos)
    (hnext : nextIdx n.levels n.idx 0 = some (ix, j)) : n.clamp pre = { n with
      idx := ix, pos := 0, resumed := n.resumed && j == 0,
      stop0 := some (min (ix.getD 0 0 + (n.levels.getD 0 {}).epi) ((n.levels.getD 0 {}).trip - 1)), preClamp := pre } := by
  have hon : n.onward = { n with idx := ix, pos := 0, resumed := n.resumed && j == 0 } := by
    simp only [NestSlot.onward, if_neg (Nat.not_lt.2 hpos), hnext]
  rw [NestSlot.clamp_eq pre hst hstop, hon]

end

section
variable (t : Team) (k pre : Bool)

theorem Team.slot_modEng (e : Engine) (f : EStream → EStream) (j : Bool) : (t.modEng e f).slot j = t.slot j := Team.slot_setEng ..

/-- A clamp changes the slot as `NestSlot.clamp` says, and no other slot. -/
theorem Team.slot_clamp : (t.clamp k pre).slot k = (t.slot k).clamp pre ∧ (t.clamp k pre).slot (!k) = t.slot (!k) := by
  unfold Team.clamp
  dsimp only
  split
  · rw [Team.slot_modEng, Team.slot_modEng]
    exact ⟨Team.slot_setSlot_self .., Team.slot_setSlot_not ..⟩
  · exact ⟨Team.slot_setSlot_self .., Team.slot_setSlot_not ..⟩

/-- A clamp changes the nest slots and the counters of engine streams alone. -/
theorem Team.clamp_eq : t.clamp k pre = { t with
    nt0 := (t.clamp k pre).nt0, nt1 := (t.clamp k pre).nt1, vec := (t.clamp k pre).vec, mat := (t.clamp k pre).mat,
    cpy := (t.clamp k pre).cpy } := by
  unfold Team.clamp
  dsimp only
  split
  · cases ((t.slot k).clamp pre).eng <;> cases k <;> rfl
  · cases k <;> rfl

end

theorem execNestClamp_clamps {s : State} {c : Nat} {t : Team} {x : S32} (h : Guarded s c t x.pg) :
    execNestClamp x s = .next (s.after c ((t.past .strand 4).clamp (x.md.getLsbD 0) false)) :=
  strandOp_after h (runw_modTeam h.1.1 ..) (by rw [Team.clamp_eq]; rfl)

/-! ### Markers (R155, R159, R161, R300) -/

/-- The state that RDV and END of an engine stream go on in: its packets performed for the matrix stream (R300). -/
def State.drainedFor (s : State) (c : Nat) (e : Engine) : State :=
  if e = .matrix then s.drainPosted fun p => p.src == c else s

theorem State.drainPosted_cur (s : State) (p : Posted → Bool) : (s.drainPosted p).cur = s.cur := by
  obtain ⟨cs, h⟩ := foldl_keeps State.CellsOnly.refl State.CellsOnly.trans State.performPosted_cellsOnly (s.mem.posted.filter p)
    { s with mem := { s.mem with posted := s.mem.posted.filter fun x => !p x } }
  rw [State.drainPosted, h]

theorem State.drainedFor_cur (s : State) (c : Nat) (e : Engine) : (s.drainedFor c e).cur = s.cur := by
  unfold State.drainedFor
  split
  · exact s.drainPosted_cur _
  · rfl

section
variable {s : State} {c : Nat} {t : Team} {x : Mark} (h : EngineIssues s c x.eng t)
include h

/-- A NEST.END that an engine issues itself traps (R159). -/
theorem execNestEnd_traps : execNestEnd x s =
    .next (s.trapAt c x.eng.stream t .nestMismatch { addr := ((t.past x.eng.stream 4).pcOf x.eng.stream - wd 4).toNat }) :=
  engineOp_trapAt_still h (by simp only [EStateM.run_bind, runw_pcHere h.1.1, run_trap])

section
variable {n : NestSlot} (hslot : (t.past x.eng.stream 4).slot (x.slot == 1) = n) (hst : n.st = .armed ∨ n.st = .held)
  (heng : n.eng = x.eng) (hoff : n.bodyOff = ((t.past x.eng.stream 4).pcOf x.eng.stream - 4).toNat)
include hslot hst heng hoff

/-- NEST.BEG of a nest without an empty level enters it, at the start or at the saved indices (R161). -/
theorem execNestBeg_enters (hlev : ∀ l ∈ n.levels, l.trip ≠ 0) {start : List Nat} {n' : NestSlot}
    (hstart : start = if n.st = .held then n.saved else n.levels.map fun _ => 0)
    (hn' : n' = { n with st := .run, start := start, idx := start, pos := 0, stop0 := none, saved := [], preClamp := false,
                         resumed := decide (n.st = .held ∧ 0 < start.getD 0 0) }) :
    execNestBeg x s = .next ((s.withTeam c (((t.past x.eng.stream 4).setSlot (x.slot == 1) n').modEng x.eng fun z =>
      { z with nest := some (x.slot == 1), pc := wd n'.offset })).cycled x.eng c t) := by
  have hidle : (n.st != .idle) = true := by rcases hst with h | h <;> rw [h] <;> rfl
  have hrun : (n.st != .run) = true := by rcases hst with h | h <;> rw [h] <;> rfl
  have hany : (n.levels.any fun l => l.trip == 0) = false := List.any_eq_false.2 fun l hl => by simpa using hlev l hl
  subst hstart hn'
  refine engineOp_ok h ?_
  simp only [EStateM.run_bind, runw_team h.1.1, hslot, hidle, hrun, heng, ← hoff, hany, run_waitFor, run_need, if_true, beq_self_eq_true,
    Bool.and_self, Bool.false_eq_true, if_false, runw_modTeam h.1.1]
  have hheld : (n.st == .held) = decide (n.st = .held) := beq_eq_decide ..
  simp only [hheld, decide_eq_true_eq, Bool.decide_and]

/-- NEST.BEG of a nest with an empty level passes over it and leaves its slot idle. -/
theorem execNestBeg_passes (hlev : ∃ l ∈ n.levels, l.trip = 0) :
    execNestBeg x s = .next ((s.withTeam c (((t.past x.eng.stream 4).setSlot (x.slot == 1) { n with st := .idle, saved := [] }).setPc
      x.eng.stream (wd n.endOff))).cycled x.eng c t) := by
  have hidle : (n.st != .idle) = true := by rcases hst with h | h <;> rw [h] <;> rfl
  have hrun : (n.st != .run) = true := by rcases hst with h | h <;> rw [h] <;> rfl
  have hany : (n.levels.any fun l => l.trip == 0) = true := List.any_eq_true.2 (by simpa using hlev)
  refine engineOp_ok h ?_
  simp only [EStateM.run_bind, runw_team h.1.1, hslot, hidle, hrun, heng, ← hoff, hany, run_waitFor, run_need, if_true, beq_self_eq_true,
    Bool.and_self, runw_modTeam h.1.1]

end

section
variable (hland : (x.eng = .vector → (s.cell c).sh.landings = []) ∧ (x.eng = .matrix → (s.cell c).sh.array = []))
include hland

omit h in
theorem settled_of_landed (u : Team) : (s.withTeam c u).settled c x.eng = true := by
  obtain ⟨hv, hm⟩ := hland
  cases he : x.eng <;> simp_all [State.settled, State.landed]

theorem runw_waitSettled (u : Team) :
    (waitSettled x.eng).run (s.withTeam c u) = .ok () ((s.withTeam c u).drainedFor c x.eng) := by
  simp only [waitSettled, EStateM.run_bind, EStateM.run_get, runw_theCell h.1.1, settled_of_landed hland, run_waitFor, if_true,
    beq_iff_eq, State.drainedFor]
  split <;> rfl

/-- RDV and END wait for the stream's results and change the team by `f`. -/
theorem engineOp_settled (f : Team → Team) : engineOp x.eng 4 (do waitSettled x.eng; modTeam f) s =
    .next ((((s.withTeam c (t.past x.eng.stream 4)).drainedFor c x.eng).modAct c f).cycled x.eng c t) := by
  refine engineOp_ok h ?_
  exact (run_bind_ok (runw_waitSettled h hland _)).trans (run_modTeam ((State.drainedFor_cur (s.withTeam c _) c x.eng).trans h.1.1) f)

end

end

/-- Settles O10: each instruction by the lemmas above; an engine stream outside a nest has its counter past its marker. -/
theorem nestsAndMarkers : Obligations.NestsAndMarkers := by
  refine ⟨fun s c t x h => ?_, fun s c t x h hn => ?_⟩
  · intro k n t' w
    refine ⟨fun bs s' hoff he hl hcur => execNestSet_copies h hoff he hl hcur, fun hoff => execNestSet_misaligned h hoff, ?_, ?_⟩
    · intro hpriv hst s1
      exact ⟨fun e off levels w0 f body last s2 s3 s4 htab hword hparse hmark hbody hgood hcheck hcur =>
        execNestGo_arms h hpriv hst htab hword hparse hmark hbody hgood hcheck hcur, fun htab => execNestGo_invalid h hpriv hst htab⟩
    · intro stop
      have hslot := t'.slot_clamp k false
      rw [show t'.slot k = n from Team.slot_past_strand .., show t'.slot (!k) = t.slot (!k) from Team.slot_past_strand ..] at hslot
      refine ⟨t'.clamp k false, execNestClamp_clamps h, hslot.2, fun e => ?_, Team.clamp_eq .., ?_, ?_, ?_⟩
      · simpa [t'] using t'.eng_clamp k false e
      · exact fun hnot => hslot.1.trans (NestSlot.clamp_of_not false hnot)
      · exact fun hst hstop hpos => hslot.1.trans (NestSlot.clamp_inside false hst hstop hpos)
      · exact fun ix j hst hstop hpos hnext => hslot.1.trans (NestSlot.clamp_between false hst hstop hpos hnext)
  · intro k n pc t' landed drained
    have hpast : t.past x.eng.stream 4 = t' := Team.past_engine hn
    have hpc : (t.past x.eng.stream 4).pcOf x.eng.stream - 4 = pc := by
      rw [hpast, Team.pcOf_setEng]
      exact BitVec.add_sub_cancel ..
    have hslot : (t.past x.eng.stream 4).slot k = n := by rw [hpast]; exact Team.slot_setEng ..
    refine ⟨fun hst heng hoff hlev => ?_, fun hst heng hoff hlev => ?_, ?_, fun hland => ⟨?_, ?_⟩⟩
    · intro start n'
      refine (execNestBeg_enters h hslot hst heng (hoff.trans (by rw [hpc])) hlev rfl rfl).trans ?_
      rw [hpast, Team.modEng_setSlot_setEng]
    · refine (execNestBeg_passes h hslot hst heng (hoff.trans (by rw [hpc])) hlev).trans ?_
      rw [hpast, Team.setPc_setSlot_setEng]
    · refine (execNestEnd_traps h).trans ?_
      rw [show wd 4 = 4 from rfl, hpc]
    · refine (engineOp_settled h hland _).trans ?_
      rw [hpast]
      simp only [beq_iff_eq]
      rfl
    · refine (engineOp_settled h hland _).trans ?_
      rw [hpast]
      simp only [beq_iff_eq]
      rfl

end Sys2Proof.Machine
end


section
/-! Proofs about the results of the vector stream: lanes as lists, what a pending result writes when it lands (R237, R238), and the
frame of an instruction that issues one. -/
namespace Sys2Proof.Machine

/-! ### Lanes as lists (R174, R177, R179) -/

theorem Sparse.get_filter_keys {α : Type} (d : α) (q : Nat → Bool) (k : Nat) : ∀ m : Sparse α,
    Sparse.get d (m.filter fun p => q p.1) k = if q k then Sparse.get d m k else d
  | [] => by simp
  | (a, v) :: m => by
    have ih := Sparse.get_filter_keys d q k m
    by_cases ha : q a <;> by_cases hk : k = a <;> simp_all [Sparse.get]

theorem zip_range_map {α : Type} (n : Nat) (g : Nat → α) :
    (List.range n).zip ((List.range n).map g) = (List.range n).map fun i => (i, g i) := by
  simpa using List.zip_map' (f := id) (g := g) (l := List.range n)

theorem laneKey_inj {r r' i i' : Nat} (hi : i < 128) (hi' : i' < 128) : laneKey r i = laneKey r' i' ↔ r = r' ∧ i = i' := by
  unfold laneKey
  omega

theorem Shared.lanesOf_eq (x : Shared) (r : Nat) : x.lanesOf r = (List.range 128).map (x.laneAt r) := by
  refine List.map_congr_left fun i hi => ?_
  have hi := List.mem_range.1 hi
  have hkey : (laneKey r i / 128 == r) = true := by
    rw [beq_iff_eq, laneKey]
    omega
  exact (Sparse.get_filter_keys 0 (fun k => k / 128 == r) _ x.v).trans (if_pos hkey)

theorem Shared.getD_lanesOf (x : Shared) (r : Nat) {i : Nat} (hi : i < 128) : (x.lanesOf r).getD i 0 = x.laneAt r i := by
  simp [Shared.lanesOf_eq, hi]

theorem activeLanes_eq (x : Shared) (v : V64) : activeLanes x v = (List.range 128).map (laneActive v x) := by
  unfold activeLanes laneActive
  split
  · next h => simp [h]
  · next h =>
    simp only [decide_eq_false h, Bool.false_or]
    rfl

theorem srcA_eq (x : Shared) (v : V64) : srcA x v = (List.range 128).map (srcLane v x) := by
  rw [srcA, Shared.lanesOf_eq, List.map_map]
  rfl

/-- The active lanes in ascending order (R177). -/
def Shared.active (x : Shared) (v : V64) : List Nat := (List.range 128).filter (laneActive v x)

theorem Shared.mem_active {x : Shared} {v : V64} {i : Nat} : i ∈ x.active v ↔ i < 128 ∧ laneActive v x i = true := by
  simp [Shared.active]

theorem Shared.nodup_active (x : Shared) (v : V64) : (x.active v).Nodup := List.nodup_range.filter _

theorem Shared.sorted_active (x : Shared) (v : V64) : (x.active v).Pairwise (· < ·) := List.pairwise_lt_range.filter _

/-- The active lanes with what `f` gives each. -/
theorem keepActive_eq {α : Type} (x : Shared) (v : V64) (f : Nat → α) :
    keepActive (activeLanes x v) ((List.range 128).map f) = (x.active v).map fun i => (i, f i) := by
  rw [keepActive, activeLanes_eq, List.zip_map', zip_range_map, List.filter_map, List.map_map]
  rfl

theorem keepActive_range (x : Shared) (v : V64) : (keepActive (activeLanes x v) (List.range 128)).map (·.1) = x.active v := by
  have h := keepActive_eq x v id
  rw [List.map_id] at h
  simp [h, Function.comp_def]

/-! ### Flags (R59) -/

section
variable {w j : Nat} {ι : Type}

theorem getLsbD_foldl_or (g : ι → BitVec w) : ∀ (es : List ι) (a : BitVec w),
    (es.foldl (fun a e => a ||| g e) a).getLsbD j = true ↔ a.getLsbD j = true ∨ ∃ e ∈ es, (g e).getLsbD j = true
  | [], _ => by simp
  | e :: es, a => by simp [getLsbD_foldl_or g es, or_assoc]

theorem getLsbD_foldl_or_zero (g : ι → BitVec w) (es : List ι) :
    (es.foldl (fun a e => a ||| g e) 0).getLsbD j = true ↔ ∃ e ∈ es, (g e).getLsbD j = true := by
  simp [getLsbD_foldl_or]

end

theorem getLsbD_allFlags {j : Nat} (fs : List Flags) : (allFlags fs).getLsbD j = true ↔ ∃ f ∈ fs, f.getLsbD j = true :=
  getLsbD_foldl_or_zero id fs

/-! ### What a result writes (R238) -/

section
variable {l : Landing}

theorem mergeBits_full (old v : BitVec 32) : mergeBits old 0xFFFFFFFF v = v := by
  have h : (0xFFFFFFFF : BitVec 32) = BitVec.allOnes 32 := rfl
  rw [mergeBits, h, BitVec.not_allOnes, BitVec.and_zero, BitVec.zero_or, BitVec.and_allOnes]

/-- One lane of a result lands. -/
def landLane (v : Sparse (BitVec 32)) (p : Nat × BitVec 32 × BitVec 32) : Sparse (BitVec 32) :=
  Sparse.set 0 v p.1 (mergeBits (Sparse.get 0 v p.1) p.2.1 p.2.2)

/-- The value that a lane of a result gives a lane that was `old`. -/
def landedLane (p : Nat × BitVec 32 × BitVec 32) (old : BitVec 32) : BitVec 32 := mergeBits old p.2.1 p.2.2

theorem get_landLane (v : Sparse (BitVec 32)) (p : Nat × BitVec 32 × BitVec 32) (k : Nat) :
    Sparse.get 0 (landLane v p) k = if k = p.1 then landedLane p (Sparse.get 0 v k) else Sparse.get 0 v k := by
  rw [landLane, Sparse.get_set]
  split
  · next h => rw [h, landedLane]
  · rfl

theorem Shared.laneAt_land (z : Shared) (r i : Nat) :
    (z.land l).laneAt r i = Sparse.get 0 (l.lanes.foldl landLane z.v) (laneKey r i) := rfl

/-- A lane that the result writes takes the bits under its mask. -/
theorem Landing.laneAt_of_mem (hnd : (l.lanes.map (·.1)).Nodup) {r i : Nat} {m w : BitVec 32} (hmem : (laneKey r i, m, w) ∈ l.lanes)
    (z : Shared) : (z.land l).laneAt r i = mergeBits (z.laneAt r i) m w := by
  rw [Shared.laneAt_land]
  exact get_foldl_of_mem get_landLane z.v hmem hnd.of_map fun _ hp hkey => List.inj_on_of_nodup_map hnd hmem hp hkey

/-- A lane that the result does not name keeps its value. -/
theorem Landing.laneAt_of_not_mem {r i : Nat} (hne : ∀ p ∈ l.lanes, laneKey r i ≠ p.1) (z : Shared) :
    (z.land l).laneAt r i = z.laneAt r i := by
  rw [Shared.laneAt_land]
  exact get_foldl_of_ne get_landLane z.v hne

/-- A result of whole lanes writes what its list says. -/
theorem Landing.writes_of_lanes {w : Nat → Nat → Option (BitVec 32)} (hbits : l.bits = []) (hnd : (l.lanes.map (·.1)).Nodup)
    (hsome : ∀ r i v, i < 128 → w r i = some v → (laneKey r i, 0xFFFFFFFF, v) ∈ l.lanes)
    (hnone : ∀ r i, i < 128 → w r i = none → ∀ p ∈ l.lanes, laneKey r i ≠ p.1) : l.writes w := by
  refine fun z => ⟨fun r i hi => ?_, by rw [Shared.land, hbits]; rfl⟩
  cases hw : w r i with
  | none => exact Landing.laneAt_of_not_mem (hnone r i hi hw) z
  | some v => exact (Landing.laneAt_of_mem hnd (hsome r i v hi hw) z).trans (mergeBits_full _ v)

/-- A result that writes `f i` to each lane `i` of a list, whole. -/
theorem Landing.writes_of_whole {d : Nat} {is : List Nat} {f : Nat → BitVec 32} (hbits : l.bits = []) (hnd : is.Nodup)
    (hlt : ∀ i ∈ is, i < 128) (hl : l.lanes = is.map fun i => (laneKey d i, 0xFFFFFFFF, f i)) :
    l.writes fun r i => if r = d ∧ i ∈ is then some (f i) else none := by
  refine Landing.writes_of_lanes hbits ?_ ?_ ?_
  · rw [hl, List.map_map]
    exact hnd.map_on fun i hi j hj h => ((laneKey_inj (hlt i hi) (hlt j hj)).1 h).2
  · intro r i v _ hw
    obtain ⟨⟨rfl, hi⟩, hv⟩ := Option.ite_some_none_eq_some.1 hw
    exact hl ▸ List.mem_map.2 ⟨i, hi, by rw [hv]⟩
  · intro r i hi hw p hp hkey
    obtain ⟨j, hj, rfl⟩ := List.mem_map.1 (hl ▸ hp)
    obtain ⟨rfl, rfl⟩ := (laneKey_inj hi (hlt j hj)).1 hkey
    simp [hj] at hw

end

/-! ### Instructions that issue a result (R237) -/

section
variable {s : State} {c : Nat} {t : Team}

/-- Changing the shared part of the cell, in whatever stream. -/
theorem runw_changeShared {st : Stream} (hc : s.cur = .stream c st) (u : Team) (f : Shared → Shared) :
    (modShared f).run (s.withTeam c u) = .ok () ((s.withTeam c u).withShared c (f (s.cell c).sh)) := by
  rw [run_modShared (by simpa using hc), State.withShared, State.modCell, State.modCell, State.cell_withTeam, Cell.sh_setTeam]

section
variable {len : Nat} {body : M Unit}

theorem vecOp_ok {s' : State} (h : EngineIssues s c .vector t) (hb : body.run (s.withTeam c (t.past .vector len)) = .ok () s') :
    vecOp len body s = .next (s'.cycled .vector c t) := engineOp_ok h hb

theorem vecOp_wait (h : EngineIssues s c .vector t) (hb : body.run (s.withTeam c (t.past .vector len)) =
    .error (.wait none) (s.withTeam c (t.past .vector len))) : vecOp len body s = .next ((s.withTeam c t).streamCycle c) :=
  engineOp_wait h hb

theorem vecOp_trapAt {k : Cause} {i : Info} (h : EngineIssues s c .vector t) (hb : body.run (s.withTeam c (t.past .vector len)) =
    .error (.trap k i) (s.withTeam c (t.past .vector len))) : vecOp len body s = .next (s.trapAt c .vector t k i) :=
  engineOp_trapAt_still h hb

end

/-- An instruction of the vector stream whose meaning adds one pending result. -/
theorem vecOp_issuing (h : EngineIssues s c .vector t) {len : Nat} {l : Landing} {body : M Unit}
    (hb : body.run (s.withTeam c (t.past .vector len)) = (addLanding l).run (s.withTeam c (t.past .vector len))) :
    vecOp len body s = .next (s.issuing c t len l) := by
  refine (vecOp_ok h (hb.trans (runw_changeShared h.1.1 _ _))).trans ?_
  rfl

end

end Sys2Proof.Machine
end


section
/-! Proofs about the lane-wise instructions of the vector stream (R178, R240, R245 to R248, R251 to R253, R257, R259). -/
namespace Sys2Proof.Machine

/-! ### The elements of a lane (R178, R245) -/

/-- The bits of an element. -/
def elemMask (e : Nat × Nat) : BitVec 32 := BitVec.ofNat 32 ((2 ^ e.2 - 1) * 2 ^ e.1)

/-- A value at an element's place. -/
def elemPut (e : Nat × Nat) (r : Nat) : BitVec 32 := BitVec.ofNat 32 (r % 2 ^ e.2 * 2 ^ e.1)

/-- What an operation gives for an element of three lanes. -/
def elemRun (f : Nat → Nat → Nat → Nat × Flags) (a b c : BitVec 32) (e : Nat × Nat) : Nat × Flags :=
  f (a.extractLsb' e.1 e.2).toNat (b.extractLsb' e.1 e.2).toNat (c.extractLsb' e.1 e.2).toNat

theorem laneElems_eq (es : List (Nat × Nat)) (f : Nat → Nat → Nat → Nat × Flags) (a b c : BitVec 32) : laneElems es f a b c =
    (es.foldl (fun m e => m ||| elemMask e) 0, es.foldl (fun v e => v ||| elemPut e (elemRun f a b c e).1) 0,
      es.foldl (fun fl e => fl ||| (elemRun f a b c e).2) 0) := by
  have gen : ∀ (es : List (Nat × Nat)) (o : LaneOut), es.foldl (fun (m, v, fl) (lo, n) =>
      let e := fun (w : BitVec 32) => w.toNat / 2 ^ lo % 2 ^ n
      let r := f (e a) (e b) (e c)
      (m ||| BitVec.ofNat 32 ((2 ^ n - 1) * 2 ^ lo), v ||| BitVec.ofNat 32 (r.1 % 2 ^ n * 2 ^ lo), fl ||| r.2)) o =
      (es.foldl (fun m e => m ||| elemMask e) o.1, es.foldl (fun v e => v ||| elemPut e (elemRun f a b c e).1) o.2.1,
        es.foldl (fun fl e => fl ||| (elemRun f a b c e).2) o.2.2) := by
    intro es
    induction es with
    | nil => exact fun _ => rfl
    | cons e es ih =>
      intro o
      simp only [List.foldl_cons]
      rw [ih]
      simp only [elemMask, elemPut, elemRun, toNat_ext]
  exact gen es (0, 0, 0)

section
variable {e : Nat × Nat} {j : Nat}

theorem getLsbD_elemMask (hj : j < 32) : (elemMask e).getLsbD j = true ↔ e.1 ≤ j ∧ j < e.1 + e.2 := by
  simp only [elemMask, BitVec.getLsbD_ofNat, hj, decide_true, Bool.true_and, Nat.testBit_mul_two_pow, Nat.testBit_two_pow_sub_one,
    Bool.and_eq_true, decide_eq_true_eq]
  omega

theorem getLsbD_elemPut (hj : j < 32) (r : Nat) :
    (elemPut e r).getLsbD j = true ↔ (e.1 ≤ j ∧ j < e.1 + e.2) ∧ r.testBit (j - e.1) = true := by
  simp only [elemPut, BitVec.getLsbD_ofNat, hj, decide_true, Bool.true_and, Nat.testBit_mul_two_pow, Nat.testBit_mod_two_pow,
    Bool.and_eq_true, decide_eq_true_eq, and_assoc]
  refine and_congr_right fun _ => and_congr_left fun _ => ?_
  omega

theorem getLsbD_mergeBits (old m v : BitVec 32) (hj : j < 32) :
    (mergeBits old m v).getLsbD j = if m.getLsbD j then v.getLsbD j else old.getLsbD j := by
  simp only [mergeBits, BitVec.getLsbD_or, BitVec.getLsbD_and, BitVec.getLsbD_not, hj, decide_true, Bool.true_and]
  cases m.getLsbD j <;> simp

end

/-- Elements lie in the lane, and two of them share no bit. -/
def ElemsApart (es : List (Nat × Nat)) : Prop :=
  ∀ e ∈ es, e.1 + e.2 ≤ 32 ∧ ∀ e' ∈ es, e' = e ∨ e'.1 + e'.2 ≤ e.1 ∨ e.1 + e.2 ≤ e'.1

theorem elemsApart_elemsOf (ty : BitVec 4) (hs : BitVec 2) : ElemsApart (elemsOf ty hs) := by
  unfold elemsOf ElemsApart
  split
  · decide
  · split_ifs <;> decide
  · decide

section
variable {es : List (Nat × Nat)} (f : Nat → Nat → Nat → Nat × Flags) (a b c old : BitVec 32)

/-- Merging what the elements of a lane give writes each element. -/
theorem extract_mergeBits_laneElems (hap : ElemsApart es) {e : Nat × Nat} (he : e ∈ es) :
    (mergeBits old (laneElems es f a b c).1 (laneElems es f a b c).2.1).extractLsb' e.1 e.2 =
      BitVec.ofNat e.2 (elemRun f a b c e).1 := by
  obtain ⟨hle, hother⟩ := hap e he
  apply BitVec.eq_of_getLsbD_eq
  intro k hk
  have hj : e.1 + k < 32 := by omega
  have hm : (laneElems es f a b c).1.getLsbD (e.1 + k) = true := by
    rw [laneElems_eq, getLsbD_foldl_or_zero]
    exact ⟨e, he, (getLsbD_elemMask hj).2 (by omega)⟩
  have hv : (laneElems es f a b c).2.1.getLsbD (e.1 + k) = true ↔ (elemRun f a b c e).1.testBit k = true := by
    simp only [laneElems_eq, getLsbD_foldl_or_zero, getLsbD_elemPut hj]
    constructor
    · rintro ⟨e', he', hin, hbit⟩
      rcases hother e' he' with rfl | h | h
      · rwa [Nat.add_sub_cancel_left] at hbit
      · omega
      · omega
    · exact fun hbit => ⟨e, he, by omega, by rwa [Nat.add_sub_cancel_left]⟩
  rw [BitVec.getLsbD_extractLsb', getLsbD_mergeBits _ _ _ hj, hm, if_pos rfl, BitVec.getLsbD_ofNat, Bool.eq_iff_iff]
  simp [hv, hk]

/-- Merging what the elements of a lane give leaves the bits outside them. -/
theorem getLsbD_mergeBits_laneElems {j : Nat} (hout : ∀ e ∈ es, j < e.1 ∨ e.1 + e.2 ≤ j) :
    (mergeBits old (laneElems es f a b c).1 (laneElems es f a b c).2.1).getLsbD j = old.getLsbD j := by
  by_cases hj : j < 32
  · have hm : (laneElems es f a b c).1.getLsbD j = false := by
      rw [← Bool.not_eq_true, laneElems_eq, getLsbD_foldl_or_zero]
      rintro ⟨e, he, hbit⟩
      have hin := (getLsbD_elemMask hj).1 hbit
      have := hout e he
      omega
    rw [getLsbD_mergeBits _ _ _ hj, hm]
    rfl
  · rw [BitVec.getLsbD_of_ge _ _ (by omega), BitVec.getLsbD_of_ge _ _ (by omega)]

theorem getLsbD_flags_laneElems {j : Nat} :
    (laneElems es f a b c).2.2.getLsbD j = true ↔ ∃ e ∈ es, (elemRun f a b c e).2.getLsbD j = true := by
  rw [laneElems_eq, getLsbD_foldl_or_zero]

end

/-! ### The result of a lane-wise instruction -/

section
variable (v : V64) (lat : Nat) (f : Nat → Nat → Nat → Nat × Flags) (x : Shared)

/-- What lane `i` contributes, for a type of at most 32 bits. -/
def laneOut (i : Nat) : LaneOut :=
  laneElems (elemsOf v.ty v.hs) f (srcLane v x i) (x.laneAt v.r.vs2.toNat i) (x.laneAt v.vs3.toNat i)

/-- What lane `i` contributes, for a type of 64 bits. -/
def pairOut (i : Nat) : Nat × Flags := f (x.pairAt v.r.vs1.toNat i) (x.pairAt v.r.vs2.toNat i) (x.pairAt v.vs3.toNat i)

/-- The result of a lane-wise instruction, for a type of at most 32 bits. -/
def narrowLanding : Landing :=
  { rem := lat, sq := v.sq == 1,
    lanes := (x.active v).map fun i => (laneKey (dstReg v.r) i, (laneOut v f x i).1, (laneOut v f x i).2.1),
    flags := allFlags ((x.active v).map fun i => (laneOut v f x i).2.2) }

/-- The result of a lane-wise instruction, for a type of 64 bits. -/
def wideLanding : Landing :=
  { rem := lat, sq := v.sq == 1,
    lanes := (x.active v).flatMap fun i => [(laneKey (dstReg v.r) i, 0xFFFFFFFF, BitVec.ofNat 32 (pairOut v f x i).1),
      (laneKey (dstReg v.r + 1) i, 0xFFFFFFFF, BitVec.ofNat 32 ((pairOut v f x i).1 / 2 ^ 32))],
    flags := allFlags ((x.active v).map fun i => (pairOut v f x i).2) }

theorem pairs_eq (r : Nat) : (((x.lanesOf r).zip (x.lanesOf (r + 1))).map fun p => p.1.toNat + 2 ^ 32 * p.2.toNat) =
    (List.range 128).map (x.pairAt r) := by
  rw [Shared.lanesOf_eq, Shared.lanesOf_eq, List.zip_map', List.map_map]
  rfl

theorem wideLanding_writes : (wideLanding v lat f x).writes fun k i => if laneActive v x i = true then
    (if k = dstReg v.r then some (BitVec.ofNat 32 (pairOut v f x i).1)
      else if k = dstReg v.r + 1 then some (BitVec.ofNat 32 ((pairOut v f x i).1 / 2 ^ 32)) else none) else none := by
  refine Landing.writes_of_lanes rfl ?_ (fun r i w hi hw => ?_) fun r i hi hw p hp hkey => ?_
  · simp only [wideLanding, List.map_flatMap, List.map_cons, List.map_nil]
    refine List.nodup_flatMap.2 ⟨fun i _ => by simp [laneKey], (x.nodup_active v).imp_of_mem fun {i j} hi hj hne => ?_⟩
    have := (Shared.mem_active.1 hi).1
    have := (Shared.mem_active.1 hj).1
    simp [laneKey, List.disjoint_left]
    omega
  · simp only [Option.ite_none_right_eq_some] at hw
    obtain ⟨hact, hw⟩ := hw
    refine List.mem_flatMap.2 ⟨i, Shared.mem_active.2 ⟨hi, hact⟩, ?_⟩
    split_ifs at hw <;> simp_all
  · obtain ⟨j, hj, hp⟩ := List.mem_flatMap.1 hp
    obtain ⟨hj, hact⟩ := Shared.mem_active.1 hj
    simp only [List.mem_cons, List.not_mem_nil, or_false] at hp
    rcases hp with rfl | rfl
    · obtain ⟨rfl, rfl⟩ := (laneKey_inj hi hj).1 hkey
      simp [hact] at hw
    · obtain ⟨rfl, rfl⟩ := (laneKey_inj hi hj).1 hkey
      simp [hact] at hw

theorem narrowLanding_nodup : ((narrowLanding v lat f x).lanes.map (·.1)).Nodup := by
  simp only [narrowLanding, List.map_map]
  exact (x.nodup_active v).map_on fun i hi j hj h =>
    ((laneKey_inj (Shared.mem_active.1 hi).1 (Shared.mem_active.1 hj).1).1 h).2

theorem narrowLanding_writes : (narrowLanding v lat f x).writesElems (dstReg v.r) (laneActive v x) (elemsOf v.ty v.hs) fun i lo n =>
    (elemRun f (srcLane v x i) (x.laneAt v.r.vs2.toNat i) (x.laneAt v.vs3.toNat i) (lo, n)).1 := by
  refine fun z => ⟨rfl, fun r i hi => ⟨?_, fun hnot => Landing.laneAt_of_not_mem (fun p hp hkey => ?_) z⟩⟩
  · rintro rfl hact
    have hmem : (laneKey (dstReg v.r) i, (laneOut v f x i).1, (laneOut v f x i).2.1) ∈ (narrowLanding v lat f x).lanes :=
      List.mem_map.2 ⟨i, Shared.mem_active.2 ⟨hi, hact⟩, rfl⟩
    rw [Landing.laneAt_of_mem (narrowLanding_nodup v lat f x) hmem]
    exact ⟨fun e he => extract_mergeBits_laneElems f _ _ _ _ (elemsApart_elemsOf v.ty v.hs) he,
      fun j hout => getLsbD_mergeBits_laneElems f _ _ _ _ hout⟩
  · obtain ⟨j, hj, rfl⟩ := List.mem_map.1 hp
    obtain ⟨hj, hact⟩ := Shared.mem_active.1 hj
    obtain ⟨rfl, rfl⟩ := (laneKey_inj hi hj).1 hkey
    simp [hact] at hnot

theorem narrowLanding_flags {j : Nat} : (narrowLanding v lat f x).flags.getLsbD j = true ↔
    ∃ i e, i < 128 ∧ laneActive v x i = true ∧ e ∈ elemsOf v.ty v.hs ∧
      (elemRun f (srcLane v x i) (x.laneAt v.r.vs2.toNat i) (x.laneAt v.vs3.toNat i) e).2.getLsbD j = true := by
  simp only [narrowLanding, getLsbD_allFlags, List.mem_map, Shared.mem_active, exists_exists_and_eq_and, laneOut,
    getLsbD_flags_laneElems]
  constructor
  · rintro ⟨i, ⟨hi, hact⟩, e, he, hbit⟩
    exact ⟨i, e, hi, hact, he, hbit⟩
  · rintro ⟨i, e, hi, hact, he, hbit⟩
    exact ⟨i, ⟨hi, hact⟩, e, he, hbit⟩

theorem wideLanding_flags {j : Nat} : (wideLanding v lat f x).flags.getLsbD j = true ↔
    ∃ i, i < 128 ∧ laneActive v x i = true ∧ (pairOut v f x i).2.getLsbD j = true := by
  simp only [wideLanding, getLsbD_allFlags, List.mem_map, Shared.mem_active, exists_exists_and_eq_and]
  simp only [and_assoc]

end

section
variable {s : State} {c : Nat}

theorem runw_laneWise (hc : s.cur = .stream c .vector) (u : Team) (v : V64) (lat : Nat) (f : Nat → Nat → Nat → Nat × Flags) :
    (laneWise v lat f).run (s.withTeam c u) =
      (addLanding (if ty64 v.ty then wideLanding v lat f (s.cell c).sh else narrowLanding v lat f (s.cell c).sh)).run
        (s.withTeam c u) := by
  simp only [laneWise, EStateM.run_bind, runw_shared hc]
  split
  · simp only [pairs_eq, activeLanes_eq, List.zip_map', zip_range_map, List.filter_map, List.map_map, List.flatMap_map]
    rfl
  · simp only [laneRows, srcA_eq, Shared.lanesOf_eq, activeLanes_eq, List.zip_map', zip_range_map, List.filter_map, List.map_map]
    rfl

end

/-- Settles O29: each instruction of the list is a lane-wise one by its definition, and its result is the one described above. -/
theorem vectorLaneWise : Obligations.VectorLaneWise := by
  intro s c t x y h sh wide lat rnd sp spLat p hp v f d
  have hop : exec p.1 s = vecOp p.2.1 (laneWise v p.2.2.2.1 f) s := by
    fin_cases hp <;> rfl
  refine ⟨_, hop.trans (vecOp_issuing h (runw_laneWise h.1.1 _ v p.2.2.2.1 f)), ?_, fun hn => ?_, fun hw => ?_⟩
  · split <;> exact ⟨rfl, rfl, rfl⟩
  · rw [if_neg (by simpa [wide] using hn)]
    exact ⟨narrowLanding_writes v p.2.2.2.1 f sh, fun j => narrowLanding_flags v p.2.2.2.1 f sh⟩
  · rw [if_pos hw]
    exact ⟨wideLanding_writes v p.2.2.2.1 f sh, fun j => wideLanding_flags v p.2.2.2.1 f sh⟩

end Sys2Proof.Machine
end


section
/-! Proofs about vector loads and stores on the vault (R162, R267 to R269, R323). -/
namespace Sys2Proof.Machine

/-! ### Bytes and words of a vault -/

theorem getElem_leBytes : ∀ (n v i : Nat) (h : i < (leBytes n v).length), (leBytes n v)[i] = BitVec.ofNat 8 (v / 256 ^ i)
  | n + 1, v, 0, _ => by simp [leBytes]
  | n + 1, v, i + 1, h => by
    have ih := getElem_leBytes n (v / 256) i (by simpa [leBytes] using h)
    simp only [leBytes, List.getElem_cons_succ, ih, Nat.div_div_eq_div_mul, Nat.pow_succ']

/-- Byte `i` of a lane. -/
theorem getElem_leBytes_lane (w : BitVec 32) (i : Nat) (h : i < (leBytes 4 w.toNat).length) :
    (leBytes 4 w.toNat)[i] = w.extractLsb' (8 * i) 8 := by
  rw [getElem_leBytes]
  apply BitVec.eq_of_toNat_eq
  rw [toNat_ext, BitVec.toNat_ofNat, Nat.pow_mul]

/-- The little-endian word at an address. -/
def Memory.word (m : Memory) (a : Nat) : BitVec 32 := m.rd (a + 3) ++ m.rd (a + 2) ++ m.rd (a + 1) ++ m.rd a

theorem word32_rdBytes (m : Memory) {a n i : Nat} (h : 4 * i + 4 ≤ n) : word32 (m.rdBytes a n) i = m.word (a + 4 * i) := by
  rw [word32, Memory.take_drop_rdBytes m h]
  generalize a + 4 * i = b
  have hbytes : m.rdBytes b 4 = [m.rd b, m.rd (b + 1), m.rd (b + 2), m.rd (b + 3)] := rfl
  have := (m.rd b).isLt
  have := (m.rd (b + 1)).isLt
  have := (m.rd (b + 2)).isLt
  have := (m.rd (b + 3)).isLt
  apply BitVec.eq_of_toNat_eq
  simp only [Memory.word, hbytes, leNat, toNat_app, BitVec.toNat_ofNat]
  omega

/-- No vault word that the bytes touch is poisoned (R323). -/
def Team.clean (t : Team) (off n : Nat) : Prop := ∀ j, off / 8 ≤ j → j * 8 < off + n → t.vpoison.mem j = false

section
variable {t : Team} {off n : Nat}

theorem Team.poisoned_iff (hn : n ≠ 0) :
    ((span (off / 8) ((off + n - 1) / 8 - off / 8 + 1)).any fun k => t.vpoison.mem k) = true ↔ ¬ t.clean off n := by
  simp only [Team.clean, span, List.any_map, List.any_eq_true, List.mem_range, Function.comp_apply, not_forall, Bool.not_eq_false]
  constructor
  · rintro ⟨i, hi, hbad⟩
    exact ⟨off / 8 + i, by omega, by omega, hbad⟩
  · rintro ⟨j, hlo, hhi, hbad⟩
    exact ⟨j - off / 8, by omega, by rwa [Nat.add_sub_cancel' hlo]⟩

theorem Team.vaultRd_of_clean (hn : n ≠ 0) (h : t.clean off n) : t.vaultRd off n = some (t.vault.rdBytes off n) := by
  refine if_neg fun hbad => ?_
  exact (Team.poisoned_iff hn).1 (Bool.and_eq_true_iff.1 hbad).2 h

theorem Team.vaultRd_of_poisoned (hn : n ≠ 0) (h : ¬ t.clean off n) : t.vaultRd off n = none :=
  if_pos (Bool.and_eq_true_iff.2 ⟨decide_eq_true hn, (Team.poisoned_iff hn).2 h⟩)

end

/-! ### Words stored one after the other (R269) -/

/-- Words stored in the order of a list, each with its address. -/
def Memory.storeWords (m : Memory) (ws : List (Nat × BitVec 32)) : Memory := ws.foldl (fun m p => m.wrBytes p.1 (leBytes 4 p.2.toNat)) m

theorem Memory.rd_storeWords_out {k : Nat} : ∀ {ws : List (Nat × BitVec 32)} (m : Memory), (∀ p ∈ ws, k < p.1 ∨ p.1 + 4 ≤ k) →
    (m.storeWords ws).rd k = m.rd k
  | [], _, _ => rfl
  | p :: ws, m, h => (Memory.rd_storeWords_out (ws := ws) (m.wrBytes p.1 (leBytes 4 p.2.toNat)) fun q hq => h q (List.mem_cons_of_mem p hq)).trans
      (Memory.rd_wrBytes_out _ m (by rw [length_leBytes]; exact h p List.mem_cons_self))

/-- A byte holds what the last store to it wrote. -/
theorem Memory.rd_storeWords_last (m : Memory) {as bs : List (Nat × BitVec 32)} {p : Nat × BitVec 32} {k : Nat} (hlo : p.1 ≤ k)
    (hhi : k < p.1 + 4) (hbs : ∀ q ∈ bs, k < q.1 ∨ q.1 + 4 ≤ k) :
    (m.storeWords (as ++ p :: bs)).rd k = p.2.extractLsb' (8 * (k - p.1)) 8 := by
  have hout := Memory.rd_storeWords_out ((m.storeWords as).wrBytes p.1 (leBytes 4 p.2.toNat)) hbs
  rw [Memory.storeWords, List.foldl_append, List.foldl_cons]
  refine hout.trans ?_
  rw [Memory.rd_wrBytes, dif_pos ⟨hlo, by rwa [length_leBytes]⟩, getElem_leBytes_lane]

theorem Memory.wrBytes_append : ∀ (as bs : List Byte) (m : Memory) (a : Nat),
    m.wrBytes a (as ++ bs) = (m.wrBytes a as).wrBytes (a + as.length) bs
  | [], _, _, _ => rfl
  | b :: as, bs, m, a => by
    simp only [List.cons_append, Memory.wrBytes, Memory.wrBytes_append as, List.length_cons, Nat.add_assoc, Nat.add_comm 1]

/-- Neighbouring lanes stored together are stored as they would be one by one. -/
theorem Memory.foldl_laneRuns (off : Nat) : ∀ (ls : List (Nat × BitVec 32)) (m : Memory),
    (laneRuns ls).foldl (fun m p => m.wrBytes (off + 4 * p.1) p.2) m = m.storeWords (ls.map fun p => (off + 4 * p.1, p.2))
  | [], _ => rfl
  | (i, w) :: ls, m => by
    have ih := Memory.foldl_laneRuns off ls (m.wrBytes (off + 4 * i) (leBytes 4 w.toNat))
    rw [List.map_cons, Memory.storeWords, List.foldl_cons, ← Memory.storeWords, ← ih, laneRuns]
    cases laneRuns ls with
    | nil => rfl
    | cons p more =>
      obtain ⟨j, bs⟩ := p
      by_cases hj : j = i + 1
      · subst hj
        simp only [if_true, List.foldl_cons, Memory.wrBytes_append, length_leBytes, Nat.mul_add, Nat.add_assoc]
      · simp only [if_neg hj, List.foldl_cons]

/-- Byte runs stored in a team's vault in the order of a list. -/
def Team.storeAll (t : Team) (l : List (Nat × List Byte)) : Team := l.foldl (fun t p => t.vaultWr p.1 p.2) t

/-- Stores change the vault and its poison alone. -/
theorem Team.storeAll_eq : ∀ (l : List (Nat × List Byte)) (t : Team), t.storeAll l =
    { t with vault := l.foldl (fun m p => m.wrBytes p.1 p.2) t.vault, vpoison := (t.storeAll l).vpoison }
  | [], _ => rfl
  | p :: l, t => (Team.storeAll_eq l (t.vaultWr p.1 p.2)).trans rfl

/-! ### The checks of R268 -/

/-- Moving past its instruction changes of an engine stream's team the engines and the nest slots alone. -/
theorem Team.past_engine_eq (t : Team) (e : Engine) (len : Nat) : t.past e.stream len =
    { t with vec := (t.past e.stream len).vec, mat := (t.past e.stream len).mat, cpy := (t.past e.stream len).cpy,
             nt0 := (t.past e.stream len).nt0, nt1 := (t.past e.stream len).nt1 } := by
  simp only [Team.past, engineOf_stream, Team.setPc, Team.nestStep]
  cases (t.eng e).nest with
  | none => cases e <;> rfl
  | some k => cases e <;> cases k <;> rfl

@[simp] theorem Team.valloc_past_vector (t : Team) (len : Nat) : (t.past .vector len).valloc = t.valloc := by
  rw [show Stream.vector = Engine.vector.stream from rfl, Team.past_engine_eq]

/-- `n` bytes at an exact offset lie in the team's allotment, the offset aligned to `al`. -/
def Team.fits (t : Team) (n al : Nat) (o : Int) : Prop := (0 ≤ o ∧ o + n ≤ t.valloc * 65536) ∧ o % (al : Int) = 0

theorem Team.fits_past {t : Team} {n al : Nat} {o : Int} (len : Nat) (h : t.fits n al o) : (t.past .vector len).fits n al o := by
  rwa [Team.fits, Team.valloc_past_vector]

/-- The exact offset of a vector access (R162, R267). -/
def Team.vectorOffset (t : Team) (x : V96) : Int := x.lit.toNat + genOffset x t

section
variable {s : State} {c : Nat} (hc : s.cur = .stream c .vector) (t : Team) (x : V96)
include hc

theorem runw_vaultOffset : (vaultOffset x).run (s.withTeam c (t.past .vector 12)) =
    .ok (t.vectorOffset x) (s.withTeam c (t.past .vector 12)) := by
  have hag := runw_agOffset (e := .vector) (t := t.past .vector 12) hc (x.v.fn.getLsbD 2) (x.v.fn.toNat % 4)
  have hpast := Team.agOffset_past t .vector 12 (x.v.fn.toNat % 4)
  simp only [Engine.stream] at hpast
  rw [hpast] at hag
  exact run_bind_ok hag

theorem runw_vaultChecks {n al : Nat} {offs : List Int} (h : ∀ o ∈ offs, t.fits n al o) :
    (vaultChecks n al offs).run (s.withTeam c t) = .ok () (s.withTeam c t) := by
  have hin : offs.find? (fun o => decide (o < 0 ∨ (t.valloc : Int) * 65536 < o + n)) = none :=
    List.find?_eq_none.2 fun o ho => by have := (h o ho).1; simp; omega
  have hal : offs.find? (fun o => o % (al : Int) != 0) = none := List.find?_eq_none.2 fun o ho => by simpa using (h o ho).2
  simp only [vaultChecks, EStateM.run_bind, runw_team hc, hin, hal, run_pure]

theorem runw_vaultChecks_bound {n al : Nat} {o : Int} (h : o < 0 ∨ (t.valloc : Int) * 65536 < o + n) :
    (vaultChecks n al [o]).run (s.withTeam c t) = .error (.trap .vaultBound { addr := offsetOf o }) (s.withTeam c t) := by
  simp only [vaultChecks, EStateM.run_bind, runw_team hc, List.find?_cons, h, decide_true, run_trap]

theorem runw_vaultChecks_align {n al : Nat} {o : Int} (hin : 0 ≤ o ∧ o + n ≤ t.valloc * 65536) (hal : o % (al : Int) ≠ 0) :
    (vaultChecks n al [o]).run (s.withTeam c t) = .error (.trap .vaultAlign { addr := offsetOf o }) (s.withTeam c t) := by
  have hout : decide (o < 0 ∨ (t.valloc : Int) * 65536 < o + n) = false := decide_eq_false (by omega)
  have hal' : (o % (al : Int) != 0) = true := bne_iff_ne.2 hal
  simp only [vaultChecks, EStateM.run_bind, runw_team hc, List.find?_cons, List.find?_nil, hout, hal', run_trap]

/-- Changes of the team one after the other. -/
theorem runw_forM_modTeam {α : Type} (g : α → Team → Team) : ∀ (l : List α) (u : Team),
    (l.forM fun a => modTeam (g a)).run (s.withTeam c u) = .ok () (s.withTeam c (l.foldl (fun u a => g a u) u))
  | [], _ => rfl
  | a :: l, u => (run_bind_ok (runw_modTeam hc u (g a))).trans (runw_forM_modTeam g l (g a u))

end

/-! ### Loads (R267, R268) -/

/-- The pending result of a load of the words that `f` gives the active lanes. -/
def loadLanding (x : V96) (lat : Nat) (sh : Shared) (f : Nat → BitVec 32) : Landing :=
  { rem := lat, sq := x.v.sq == 1, lanes := (sh.active x.v).map fun i => (laneKey (dstReg x.v.r) i, 0xFFFFFFFF, f i) }

theorem loadLanding_writes (x : V96) (lat : Nat) (sh : Shared) (f : Nat → BitVec 32) : (loadLanding x lat sh f).writes fun r i =>
    if r = dstReg x.v.r ∧ i < 128 ∧ laneActive x.v sh i = true then some (f i) else none := by
  have h := Landing.writes_of_whole (l := loadLanding x lat sh f) rfl (sh.nodup_active x.v) (fun i hi => (Shared.mem_active.1 hi).1) rfl
  simpa only [Shared.mem_active] using h

/-- The pending result of a load that read poison: it is due at `pc` (R268). -/
def poisonLanding (x : V96) (lat : Nat) (pc : Word) : Landing := { rem := lat, sq := x.v.sq == 1, poison := some pc }

section
variable {x : V96} {lat : Nat} {pc : Word} {reads : List (Option (List Byte))} {ls : List (Nat × BitVec 32)}

theorem loadResult_clean {sh : Shared} {f : Nat → BitVec 32} (hreads : ∀ r ∈ reads, r.isSome = true)
    (hls : ls = (sh.active x.v).map fun i => (i, f i)) : loadResult x lat pc reads ls = addLanding (loadLanding x lat sh f) := by
  have hany : reads.any Option.isNone = false := List.any_eq_false.2 fun r hr => by simp [Option.isSome_iff_ne_none.1 (hreads r hr)]
  subst hls
  simp only [loadResult, hany, Bool.false_eq_true, if_false, List.map_map]
  rfl

theorem loadResult_poisoned (hreads : none ∈ reads) : loadResult x lat pc reads ls = addLanding (poisonLanding x lat pc) := by
  have hany : reads.any Option.isNone = true := List.any_eq_true.2 ⟨none, hreads, rfl⟩
  simp only [loadResult, hany, if_true]
  rfl

end

section
variable {s : State} {c : Nat} {t : Team} {x : V96} (h : EngineIssues s c .vector t)
include h

theorem runw_pcHere_vector (hpc : (t.past .vector 12).pcOf .vector = t.pcOf .vector + 12) :
    (pcHere 12).run (s.withTeam c (t.past .vector 12)) = .ok (t.pcOf .vector) (s.withTeam c (t.past .vector 12)) := by
  have hrun := runw_pcHere h.1.1 (t.past .vector 12) 12
  simp only [Engine.stream] at hrun
  rw [hrun, hpc, show wd 12 = 12 from rfl, BitVec.add_sub_cancel]

section
variable (hfit : t.fits 512 64 (t.vectorOffset x))
include hfit

theorem runw_vaultChecks_block : (vaultChecks 512 64 [t.vectorOffset x]).run (s.withTeam c (t.past .vector 12)) =
    .ok () (s.withTeam c (t.past .vector 12)) :=
  runw_vaultChecks h.1.1 _ (List.forall_mem_singleton.2 (Team.fits_past 12 hfit))

theorem execVld_loads (hclean : t.clean (t.vectorOffset x).toNat 512) : execVld x s =
    .next (s.issuing c t 12 (loadLanding x 10 (s.cell c).sh fun i => t.vault.word ((t.vectorOffset x).toNat + 4 * i))) := by
  have hwords : keepActive (activeLanes (s.cell c).sh x.v) ((List.range 128).map (word32 (t.vault.rdBytes (t.vectorOffset x).toNat 512))) =
      ((s.cell c).sh.active x.v).map fun i => (i, t.vault.word ((t.vectorOffset x).toNat + 4 * i)) :=
    (keepActive_eq ..).trans (List.map_congr_left fun i hi => by
      rw [word32_rdBytes _ (by have := (Shared.mem_active.1 hi).1; omega)])
  refine vecOp_issuing h ?_
  simp only [EStateM.run_bind, runw_pcHere h.1.1, runw_vaultOffset h.1.1, runw_vaultChecks_block h hfit, runw_team h.1.1,
    runw_shared h.1.1, Team.vaultRd_past, Team.vaultRd_of_clean (by decide : (512 : Nat) ≠ 0) hclean, Option.getD_some]
  rw [loadResult_clean (List.forall_mem_singleton.2 rfl) hwords]

theorem execVld_poisoned (hbad : ¬ t.clean (t.vectorOffset x).toNat 512)
    (hpc : (t.past .vector 12).pcOf .vector = t.pcOf .vector + 12) :
    execVld x s = .next (s.issuing c t 12 (poisonLanding x 10 (t.pcOf .vector))) := by
  refine vecOp_issuing h ?_
  simp only [EStateM.run_bind, runw_pcHere_vector h hpc, runw_vaultOffset h.1.1, runw_vaultChecks_block h hfit, runw_team h.1.1,
    runw_shared h.1.1, Team.vaultRd_past, Team.vaultRd_of_poisoned (by decide : (512 : Nat) ≠ 0) hbad]
  rw [loadResult_poisoned (List.mem_singleton.2 rfl)]

end

/-! ### Indexed loads -/

/-- The exact address of lane `i` of an indexed access (R267). -/
def laneAddr (x : V96) (t : Team) (sh : Shared) (i : Nat) : Int := t.vectorOffset x + (sh.laneAt x.v.r.vs2.toNat i).toNat

section
variable (hfit : ∀ i ∈ (s.cell c).sh.active x.v, t.fits 4 4 (laneAddr x t (s.cell c).sh i))
include hfit

theorem runw_laneOffsets : (laneOffsets x).run (s.withTeam c (t.past .vector 12)) =
    .ok (((s.cell c).sh.active x.v).map fun i => (i, laneAddr x t (s.cell c).sh i)) (s.withTeam c (t.past .vector 12)) := by
  have hchk := runw_vaultChecks h.1.1 (t.past .vector 12) (n := 4) (al := 4)
    (offs := ((s.cell c).sh.active x.v).map (laneAddr x t (s.cell c).sh)) fun o ho => by
      obtain ⟨i, hi, rfl⟩ := List.mem_map.1 ho
      exact Team.fits_past 12 (hfit i hi)
  simp only [laneOffsets, EStateM.run_bind, runw_vaultOffset h.1.1, runw_shared h.1.1, Shared.lanesOf_eq, keepActive_eq, List.map_map]
  exact run_bind_ok hchk

theorem execVldx_loads (hclean : ∀ i ∈ (s.cell c).sh.active x.v, t.clean (laneAddr x t (s.cell c).sh i).toNat 4) : execVldx x s =
    .next (s.issuing c t 12 (loadLanding x 14 (s.cell c).sh fun i => t.vault.word (laneAddr x t (s.cell c).sh i).toNat)) := by
  refine vecOp_issuing h ?_
  simp only [EStateM.run_bind, runw_pcHere h.1.1, runw_laneOffsets h hfit, runw_team h.1.1, Team.vaultRd_past, List.map_map,
    List.zip_map']
  refine congrArg (fun m : M Unit => m.run _) (loadResult_clean (fun r hr => ?_) (List.map_congr_left fun i hi => ?_))
  · obtain ⟨i, hi, rfl⟩ := List.mem_map.1 hr
    exact Option.isSome_iff_exists.2 ⟨_, Team.vaultRd_of_clean (by decide) (hclean i hi)⟩
  · have hword := word32_rdBytes t.vault (a := (laneAddr x t (s.cell c).sh i).toNat) (n := 4) (i := 0) (by decide)
    simp only [Function.comp_apply, Team.vaultRd_of_clean (by decide : (4 : Nat) ≠ 0) (hclean i hi), Option.getD_some, hword, Nat.mul_zero,
      Nat.add_zero]

theorem execVldx_poisoned (hbad : ∃ i ∈ (s.cell c).sh.active x.v, ¬ t.clean (laneAddr x t (s.cell c).sh i).toNat 4)
    (hpc : (t.past .vector 12).pcOf .vector = t.pcOf .vector + 12) :
    execVldx x s = .next (s.issuing c t 12 (poisonLanding x 14 (t.pcOf .vector))) := by
  obtain ⟨i, hi, hbad⟩ := hbad
  refine vecOp_issuing h ?_
  simp only [EStateM.run_bind, runw_pcHere_vector h hpc, runw_laneOffsets h hfit, runw_team h.1.1, Team.vaultRd_past, List.map_map]
  exact congrArg (fun m : M Unit => m.run _)
    (loadResult_poisoned (List.mem_map.2 ⟨i, hi, Team.vaultRd_of_poisoned (by decide) hbad⟩))

/-! ### Stores (R267, R269) -/

/-- The words that an indexed store writes, in lane order. -/
theorem execVstx_stores : execVstx x s = .next ((s.withTeam c ((t.past .vector 12).storeAll (((s.cell c).sh.active x.v).map fun i =>
    ((laneAddr x t (s.cell c).sh i).toNat, leBytes 4 ((s.cell c).sh.laneAt x.v.r.vs1.toNat i).toNat)))).cycled .vector c t) := by
  refine vecOp_ok h ?_
  simp only [EStateM.run_bind, runw_laneOffsets h hfit, runw_shared h.1.1]
  refine (runw_forM_modTeam h.1.1 (fun (p : Nat × Int) u => u.vaultWr p.2.toNat
    (leBytes 4 (((s.cell c).sh.lanesOf x.v.r.vs1.toNat).getD p.1 0).toNat)) _ _).trans ?_
  refine congrArg (fun u => EStateM.Result.ok () (s.withTeam c u)) ?_
  rw [Team.storeAll, List.foldl_map, List.foldl_map]
  refine List.foldl_ext _ _ _ fun u i hi => ?_
  rw [Shared.getD_lanesOf _ _ (Shared.mem_active.1 hi).1]

end

theorem execVst_stores (hfit : t.fits 512 64 (t.vectorOffset x)) : execVst x s =
    .next ((s.withTeam c ((t.past .vector 12).storeAll ((laneRuns (((s.cell c).sh.active x.v).map fun i =>
      (i, (s.cell c).sh.laneAt x.v.r.vs1.toNat i))).map fun p => ((t.vectorOffset x).toNat + 4 * p.1, p.2)))).cycled .vector c t) := by
  refine vecOp_ok h ?_
  simp only [EStateM.run_bind, runw_vaultOffset h.1.1, runw_vaultChecks_block h hfit, runw_shared h.1.1, Shared.lanesOf_eq, keepActive_eq]
  refine (runw_forM_modTeam h.1.1 (fun (p : Nat × List Byte) u => u.vaultWr ((t.vectorOffset x).toNat + 4 * p.1) p.2) _ _).trans ?_
  rw [Team.storeAll, List.foldl_map]

end

/-! ### Accesses that trap (R268) -/

section
variable {s : State} {c : Nat} {t : Team} {x : V96} (h : EngineIssues s c .vector t) {k : Cause} {i : Info}
  (hchk : (vaultChecks 512 64 [t.vectorOffset x]).run (s.withTeam c (t.past .vector 12)) =
    .error (.trap k i) (s.withTeam c (t.past .vector 12)))
include h hchk

/-- VLD and VST trap where a check of their bytes fails. -/
theorem exec_block_traps : ∀ f ∈ [Instr.vld, .vst], exec (f x) s = .next (s.trapAt c .vector t k i) := by
  refine List.forall_mem_cons.2 ⟨vecOp_trapAt h ?_, List.forall_mem_singleton.2 (vecOp_trapAt h ?_)⟩
  · simp only [EStateM.run_bind, runw_pcHere h.1.1, runw_vaultOffset h.1.1, hchk]
  · simp only [EStateM.run_bind, runw_vaultOffset h.1.1, hchk]

end

/-! ### The vault after a store -/

section
variable (m : Memory) {sh : Shared} {v : V64} {addr : Nat → Nat} {data : Nat → BitVec 32} {k : Nat}

theorem rd_storeLanes_out (h : ∀ i ∈ sh.active v, k < addr i ∨ addr i + 4 ≤ k) :
    (m.storeWords ((sh.active v).map fun i => (addr i, data i))).rd k = m.rd k :=
  Memory.rd_storeWords_out m fun p hp => by
    obtain ⟨i, hi, rfl⟩ := List.mem_map.1 hp
    exact h i hi

/-- A byte holds what the highest lane that stores to it has there (R269). -/
theorem rd_storeLanes_last {i : Nat} (hi : i ∈ sh.active v) (hlo : addr i ≤ k) (hhi : k < addr i + 4)
    (hlast : ∀ j ∈ sh.active v, i < j → k < addr j ∨ addr j + 4 ≤ k) :
    (m.storeWords ((sh.active v).map fun i => (addr i, data i))).rd k = (data i).extractLsb' (8 * (k - addr i)) 8 := by
  obtain ⟨as, bs, hsplit⟩ := List.append_of_mem hi
  have hsorted := sh.sorted_active v
  rw [hsplit, List.pairwise_append, List.pairwise_cons] at hsorted
  rw [hsplit, List.map_append, List.map_cons]
  refine Memory.rd_storeWords_last m hlo hhi fun q hq => ?_
  obtain ⟨j, hj, rfl⟩ := List.mem_map.1 hq
  exact hlast j (by simp [hsplit, hj]) (hsorted.2.1.1 j hj)

end

/-- The bytes after the active lanes have been stored in a row from `off` (R267). -/
theorem rd_storeLanes_row (m : Memory) (sh : Shared) (v : V64) (off : Nat) (data : Nat → BitVec 32) (k : Nat) :
    (m.storeWords ((sh.active v).map fun i => (off + 4 * i, data i))).rd k =
      if off ≤ k ∧ (k - off) / 4 < 128 ∧ laneActive v sh ((k - off) / 4) = true then
        (data ((k - off) / 4)).extractLsb' (8 * ((k - off) % 4)) 8 else m.rd k := by
  split
  · next hin =>
    obtain ⟨hle, hlane⟩ := hin
    rw [rd_storeLanes_last m (Shared.mem_active.2 hlane) (by omega) (by omega) fun j _ hj => by omega]
    congr 1
    omega
  · next hnot =>
    refine rd_storeLanes_out m fun i hi => ?_
    by_contra hcover
    have hlane : (k - off) / 4 = i := by omega
    exact hnot ⟨by omega, hlane ▸ Shared.mem_active.1 hi⟩

section
variable (t : Team) (len : Nat) (l : List (Nat × List Byte))

theorem Team.storeAll_past : (t.past .vector len).storeAll l = { t.past .vector len with
    vault := ((t.past .vector len).storeAll l).vault, vpoison := ((t.past .vector len).storeAll l).vpoison } := by
  rw [Team.storeAll_eq]

theorem Team.vault_storeAll_past : ((t.past .vector len).storeAll l).vault = l.foldl (fun m p => m.wrBytes p.1 p.2) t.vault := by
  rw [Team.storeAll_eq, (Team.past_vaultTiles t .vector len).2.1]

end

theorem vault_storeLanes (t : Team) (len : Nat) (sh : Shared) (v : V64) (addr : Nat → Nat) (data : Nat → BitVec 32) :
    ((t.past .vector len).storeAll ((sh.active v).map fun i => (addr i, leBytes 4 (data i).toNat))).vault =
      t.vault.storeWords ((sh.active v).map fun i => (addr i, data i)) := by
  rw [Team.vault_storeAll_past, Memory.storeWords, List.foldl_map, List.foldl_map]

theorem vault_storeRuns (t : Team) (len off : Nat) (sh : Shared) (v : V64) (data : Nat → BitVec 32) :
    ((t.past .vector len).storeAll ((laneRuns ((sh.active v).map fun i => (i, data i))).map fun p => (off + 4 * p.1, p.2))).vault =
      t.vault.storeWords ((sh.active v).map fun i => (off + 4 * i, data i)) := by
  rw [Team.vault_storeAll_past, List.foldl_map, Memory.foldl_laneRuns, List.map_map]
  rfl

/-- Settles O32: the loads and stores as above; the checks are those of R268. -/
theorem vectorMemory : Obligations.VectorMemory := by
  intro s c t x h sh act d off size addr ok okx word clean pc stored
  have hoffset : offsetOf off = (off % 2 ^ 64).toNat := rfl
  refine ⟨fun hok => ?_, fun hokx => ?_, fun hout => ?_, fun h0 hsize hal => ?_⟩
  · have hfit : t.fits 512 64 (t.vectorOffset x) := ⟨⟨hok.1, hok.2.1⟩, hok.2.2⟩
    refine ⟨fun hclean => ⟨_, execVld_loads h hfit hclean, ⟨rfl, rfl, rfl⟩, rfl, loadLanding_writes x 10 sh _⟩,
      fun hbad hpc => execVld_poisoned h hfit hbad hpc, _, _, execVst_stores h hfit, ⟨rfl, Team.storeAll_past ..⟩, fun k => ?_⟩
    exact (congrArg (Memory.rd · k) (vault_storeRuns ..)).trans (rd_storeLanes_row ..)
  · have hlane : ∀ i ∈ sh.active x.v, 0 ≤ addr i ∧ addr i + 4 ≤ size ∧ addr i % 4 = 0 := fun i hi =>
      hokx i (Shared.mem_active.1 hi).1 (Shared.mem_active.1 hi).2
    have hfit : ∀ i ∈ sh.active x.v, t.fits 4 4 (laneAddr x t sh i) := fun i hi =>
      ⟨⟨(hlane i hi).1, (hlane i hi).2.1⟩, (hlane i hi).2.2⟩
    refine ⟨fun hclean => ⟨_, execVldx_loads h hfit fun i hi => hclean i (Shared.mem_active.1 hi).1 (Shared.mem_active.1 hi).2,
        ⟨rfl, rfl, rfl⟩, rfl, loadLanding_writes x 14 sh _⟩,
      fun ⟨i, hi, hact, hbad⟩ hpc => execVldx_poisoned h hfit ⟨i, Shared.mem_active.2 ⟨hi, hact⟩, hbad⟩ hpc,
      _, _, execVstx_stores h hfit, ⟨rfl, Team.storeAll_past ..⟩, fun k => ?_⟩
    have hvault := congrArg (Memory.rd · k) (vault_storeLanes t 12 sh x.v (fun i => (addr i).toNat) (sh.laneAt x.v.r.vs1.toNat))
    refine ⟨fun i hi hact hlo hhi hlast => hvault.trans ?_, fun hout => hvault.trans ?_⟩
    · have hmem := Shared.mem_active.2 ⟨hi, hact⟩
      refine rd_storeLanes_last _ hmem hlo hhi fun j hj hij => ?_
      obtain ⟨hj0, -, hj4⟩ := hlane j hj
      obtain ⟨hi0, -, hi4⟩ := hlane i hmem
      have hne := hlast j hij (Shared.mem_active.1 hj).1 (Shared.mem_active.1 hj).2
      omega
    · exact rd_storeLanes_out _ fun i hi => hout i (Shared.mem_active.1 hi).1 (Shared.mem_active.1 hi).2
  · exact hoffset ▸ exec_block_traps h (runw_vaultChecks_bound h.1.1 _ (by rwa [Team.valloc_past_vector]))
  · exact hoffset ▸ exec_block_traps h (runw_vaultChecks_align h.1.1 _ (by rw [Team.valloc_past_vector]; exact ⟨h0, hsize⟩) hal)

end Sys2Proof.Machine
end


section
/-! Proofs about branches of the vector stream and its deferral queues (R175, R241, R242, R270 to R273, R323). -/
namespace Sys2Proof.Machine

/-! ### Idle cycles and taken branches (R237, R241, R273) -/

/-- `k` stream cycles. -/
def State.cycles (s : State) (c k : Nat) : State := Nat.repeat (fun v : State => v.streamCycle c) k s

theorem State.cycles_succ (c : Nat) : ∀ (k : Nat) (s : State), (s.streamCycle c).cycles c k = s.cycles c (k + 1)
  | 0, _ => rfl
  | k + 1, s => congrArg (State.streamCycle · c) (State.cycles_succ c k s)

theorem State.modTeam_cur (s : State) (l : Loc) (f : Team → Team) : (s.modTeam l f).cur = s.cur := by
  unfold State.modTeam State.putTeam
  split
  · split <;> rfl
  · rfl

theorem State.raiseFlags_cur (s : State) (c : Nat) (row : Option Nat) (f : Flags) : (s.raiseFlags c row f).cur = s.cur := by
  unfold State.raiseFlags
  dsimp only
  split
  · rfl
  · exact s.modTeam_cur _ _

theorem State.streamCycle_cur (s : State) (c : Nat) : (s.streamCycle c).cur = s.cur := by
  unfold State.streamCycle
  dsimp only
  refine List.foldlRecOn (motive := fun v : State => v.cur = s.cur) _ _ rfl fun v hv l _ => ?_
  split
  · exact hv
  · exact (v.raiseFlags_cur ..).trans hv

/-- The cell with its shared part replaced. -/
def Cell.withSh (y : Cell) (x : Shared) : Cell := { y with sh := x }

theorem Cell.setTeam_withSh (y : Cell) (b : Bool) (t u : Option Team) (x : Shared) :
    ((y.setTeam b t).withSh x).setTeam b u = (y.setTeam b u).withSh x := by cases b <;> rfl

theorem Cell.withSh_ne_empty (y : Cell) (b : Bool) (u : Team) (x : Shared) : (y.setTeam b (some u)).withSh x ≠ {} := by
  refine Cell.ne_empty_of_team (b := b) (t := u) ?_
  cases b <;> rfl

section
variable (s : State) (c : Nat) (u : Team) (x y : Shared)

/-- The cell with its active team and its shared part replaced. -/
theorem State.withTeam_withShared : (s.withTeam c u).withShared c x =
    s.setCell c (((s.cell c).setTeam (s.cell c).active (some u)).withSh x) := by
  have h : (s.cell c).setTeam (s.cell c).active (some u) ≠ {} := Cell.ne_empty_of_team (b := (s.cell c).active) (t := u) (by simp)
  rw [State.withShared, State.modCell, State.cell_withTeam, State.withTeam, State.putTeam, State.modCell]
  exact State.setCell_setCell s c _ _ h

theorem State.withShared_withShared : ((s.withTeam c u).withShared c x).withShared c y = (s.withTeam c u).withShared c y := by
  rw [State.withTeam_withShared s c u y, State.withTeam_withShared s c u x, State.withShared, State.modCell, State.cell_setCell_self]
  exact State.setCell_setCell s c _ _ (Cell.withSh_ne_empty (s.cell c) (s.cell c).active u x)

theorem State.withShared_self : (s.withTeam c u).withShared c (s.cell c).sh = s.withTeam c u := by
  have h : ((s.cell c).setTeam (s.cell c).active (some u)).withSh (s.cell c).sh = (s.cell c).setTeam (s.cell c).active (some u) := by
    cases (s.cell c).active <;> rfl
  rw [State.withTeam_withShared, h]
  rfl

theorem State.modAct_withShared (f : Team → Team) :
    ((s.withTeam c u).withShared c x).modAct c f = (s.withTeam c (f u)).withShared c x := by
  have hactive : (((s.cell c).setTeam (s.cell c).active (some u)).withSh x).active = (s.cell c).active := Cell.active_setTeam ..
  rw [State.modAct_of_act (State.act_withShared (State.act_withTeam s c u) x), State.withTeam_withShared, State.withTeam_withShared,
    State.withTeam, State.putTeam, State.modCell, State.cell_setCell_self, hactive, Cell.setTeam_withSh]
  exact State.setCell_setCell s c _ _ (Cell.withSh_ne_empty (s.cell c) (s.cell c).active u x)

end

section
variable {s : State} {c : Nat} {st : Stream}

theorem run_idleCycles : ∀ (k : Nat) {s : State}, s.cur = .stream c st → (idleCycles k).run s = .ok () (s.cycles c k)
  | 0, _, _ => rfl
  | k + 1, s, hc => by
    have hcycle : idleCycle.run s = .ok () (s.streamCycle c) := (run_bind_ok (run_theCell hc)).trans rfl
    rw [← State.cycles_succ]
    exact (run_bind_ok hcycle).trans (run_idleCycles k ((State.streamCycle_cur ..).trans hc))

/-- The results that a taken branch leaves: those that are not squashable, and those that land in its cycle (R241). -/
def keptLandings (ls : List Landing) : List Landing := ls.filter fun l => !(l.sq && decide (1 < l.rem))

section
variable (hc : s.cur = .stream c st) (u : Team) (x : Shared)
include hc

/-! The monad at a state whose active team and shared part are known. -/

theorem runws_modTeam (f : Team → Team) : (modTeam f).run ((s.withTeam c u).withShared c x) =
    .ok () ((s.withTeam c (f u)).withShared c x) := by
  rw [run_modTeam (st := st) (c := c) (by exact hc), State.modAct_withShared]

theorem runws_changeShared (f : Shared → Shared) : (modShared f).run ((s.withTeam c u).withShared c x) =
    .ok () ((s.withTeam c u).withShared c (f x)) := by
  rw [run_modShared (st := st) (c := c) (by exact hc), ← State.withShared_withShared s c u x (f x)]
  simp only [State.withShared, State.modCell, State.cell_setCell_self]

theorem runws_jumpTo (o : Word) : (jumpTo o).run ((s.withTeam c u).withShared c x) =
    .ok () ((s.withTeam c (u.setPc st o)).withShared c x) := by
  rw [run_jumpTo (st := st) (c := c) (by exact hc), State.modAct_withShared]

/-- A taken branch (R241, R273). -/
theorem runws_takenBranch (off : Word) : (takenBranch off).run ((s.withTeam c u).withShared c x) =
    .ok () (((s.withTeam c (u.setPc st off)).withShared c { x with landings := keptLandings x.landings }).cycles c 2) :=
  (run_bind_ok (runws_changeShared hc u x _)).trans ((run_bind_ok (runws_jumpTo hc u _ off)).trans (run_idleCycles 2 (by exact hc)))

end

end

/-! ### VBR and VLOOP (R273) -/

theorem sext64_eq_signExtend (w : BitVec 32) : sext64 32 w.toNat = w.signExtend 64 := by
  rw [sext64, sextNat_eq_toInt (by decide), BitVec.ofNat_toNat, BitVec.setWidth_eq, BitVec.signExtend]

/-- The condition of a VBR on the bits of its mask. -/
def vbrGo (fn : Nat) (m : List Bool) : Bool :=
  match fn with
  | 0 => true
  | 1 => m.any id
  | 2 => !m.any id
  | 3 => m.all id
  | _ => !m.all id

/-- The condition of a VBR as R273 gives it. -/
def VbrGo (fn : Nat) (m : Nat → Bool) : Prop :=
  match fn with
  | 0 => True
  | 1 => ∃ i, i < 128 ∧ m i = true
  | 2 => ¬ ∃ i, i < 128 ∧ m i = true
  | 3 => ∀ i, i < 128 → m i = true
  | _ => ¬ ∀ i, i < 128 → m i = true

theorem vbrGo_iff (fn : Nat) (m : Nat → Bool) : vbrGo fn ((List.range 128).map m) = true ↔ VbrGo fn m := by
  have hany : ((List.range 128).map m).any id = true ↔ ∃ i, i < 128 ∧ m i = true := by simp
  have hall : ((List.range 128).map m).all id = true ↔ ∀ i, i < 128 → m i = true := by simp
  match fn with
  | 0 => simp [vbrGo, VbrGo]
  | 1 => exact hany
  | 2 => exact Bool.not_eq_true' _ ▸ (Bool.not_eq_true _ ▸ not_congr hany)
  | 3 => exact hall
  | n + 4 => exact Bool.not_eq_true' _ ▸ (Bool.not_eq_true _ ▸ not_congr hall)

section
variable {s : State} {c : Nat} {t : Team} {y : V96} (h : EngineIssues s c .vector t)
  (hpc : (t.past .vector 12).pcOf .vector = t.pcOf .vector + 12)
include h hpc

theorem execVbr_taken (hgo : VbrGo y.v.fn.toNat ((s.cell c).sh.maskAt y.v.msk.toNat)) : execVbr y s =
    .next ((((s.withTeam c ((t.past .vector 12).setPc .vector (t.pcOf .vector + y.lit.signExtend 64))).withShared c
      { (s.cell c).sh with landings := keptLandings (s.cell c).sh.landings }).cycles c 2).cycled .vector c t) := by
  have hgo' := (vbrGo_iff ..).2 hgo
  refine vecOp_ok h ?_
  refine (run_bind_ok (runw_pcHere_vector h hpc)).trans ((run_bind_ok (runw_shared h.1.1 _)).trans ?_)
  refine (congrArg (fun m : M Unit => m.run _) (if_pos hgo')).trans ?_
  rw [sext64_eq_signExtend, ← State.withShared_self s c (t.past .vector 12)]
  exact runws_takenBranch h.1.1 _ _ _

theorem execVbr_not_taken (hgo : ¬ VbrGo y.v.fn.toNat ((s.cell c).sh.maskAt y.v.msk.toNat)) : execVbr y s =
    .next ((s.withTeam c (t.past .vector 12)).cycled .vector c t) := by
  have hgo' := mt (vbrGo_iff ..).1 hgo
  refine vecOp_ok h ?_
  refine (run_bind_ok (runw_pcHere_vector h hpc)).trans ((run_bind_ok (runw_shared h.1.1 _)).trans ?_)
  exact congrArg (fun m : M Unit => m.run _) (if_neg hgo')

/-- The count of a VLOOP, lowered. -/
def loopCount (y : V96) (sh : Shared) : BitVec 32 := sh.laneAt y.v.r.vd.toNat 0 - 1

/-- The result that a VLOOP issues: it lands in its cycle. -/
def loopLanding (y : V96) (sh : Shared) : Landing := { rem := 1, lanes := [(laneKey y.v.r.vd.toNat 0, 0xFFFFFFFF, loopCount y sh)] }

omit h hpc in
theorem keptLandings_loop (ls : List Landing) (y : V96) (sh : Shared) :
    keptLandings (ls ++ [loopLanding y sh]) = keptLandings ls ++ [loopLanding y sh] := by
  rw [keptLandings, List.filter_append]
  rfl

theorem execVloop_taken (hn : loopCount y (s.cell c).sh ≠ 0) : execVloop y s =
    .next ((((s.withTeam c ((t.past .vector 12).setPc .vector (t.pcOf .vector + y.lit.signExtend 64))).withShared c
      { (s.cell c).sh with landings := keptLandings (s.cell c).sh.landings ++ [loopLanding y (s.cell c).sh] }).cycles c 2).cycled
        .vector c t) := by
  have hn' : (loopCount y (s.cell c).sh != 0) = true := bne_iff_ne.2 hn
  refine vecOp_ok h ?_
  refine (run_bind_ok (runw_pcHere_vector h hpc)).trans ((run_bind_ok (runw_shared h.1.1 _)).trans
    ((run_bind_ok (runw_changeShared h.1.1 _ _)).trans ?_))
  refine (congrArg (fun m : M Unit => m.run _) (if_pos hn')).trans ?_
  rw [sext64_eq_signExtend, ← keptLandings_loop]
  exact runws_takenBranch h.1.1 _ _ _

theorem execVloop_not_taken (hn : loopCount y (s.cell c).sh = 0) :
    execVloop y s = .next (s.issuing c t 12 (loopLanding y (s.cell c).sh)) := by
  have hn' : ¬ (loopCount y (s.cell c).sh != 0) = true := by simp [hn]
  refine vecOp_issuing h ?_
  refine (run_bind_ok (runw_pcHere_vector h hpc)).trans ((run_bind_ok (runw_shared h.1.1 _)).trans
    ((run_bind_ok (runw_changeShared h.1.1 _ _)).trans ?_))
  refine (congrArg (fun m : M Unit => m.run _) (if_neg hn')).trans ?_
  exact (runw_changeShared h.1.1 _ fun x => { x with landings := x.landings ++ [loopLanding y (s.cell c).sh] }).symm

end

end Sys2Proof.Machine
end


section
/-! Proofs about the deferral queues of the vector stream: VDEFER, VDRAIN and VDRET (R175, R270 to R272, R323). -/
namespace Sys2Proof.Machine

/-! ### Folds and lists -/

section
variable {σ ι κ β : Type} [DecidableEq κ] {get : σ → κ → β} {step : σ → ι → σ} {key : ι → κ} {val : ι → β → β}

/-- A place takes what the last step that writes it makes of its value. -/
theorem get_foldl_of_last (hstep : ∀ x i k, get (step x i) k = if k = key i then val i (get x k) else get x k) {as bs : List ι} {i : ι}
    (x : σ) (h : ∀ j ∈ bs, key i ≠ key j) :
    get ((as ++ i :: bs).foldl step x) (key i) = val i (get (as.foldl step x) (key i)) := by
  rw [List.foldl_append, List.foldl_cons, get_foldl_of_ne hstep _ h, hstep, if_pos rfl]

end

theorem zipIdx_map_range {α : Type} (n : Nat) (g : Nat → α) :
    ((List.range n).map g).zipIdx = (List.range n).map fun j => (g j, j) := by
  rw [List.zipIdx_eq_zip_range', List.length_map, List.length_range, ← List.range_eq_range']
  simpa using List.zip_map' (f := g) (g := id) (l := List.range n)

section
variable {α β : Type} {s : State} {f : α → M β}

theorem run_mapM_ok {g : α → β} : ∀ {l : List α}, (∀ a ∈ l, (f a).run s = .ok (g a) s) → (l.mapM f).run s = .ok (l.map g) s
  | [], _ => rfl
  | a :: l, h => by
    have ih := run_mapM_ok fun b hb => h b (List.mem_cons_of_mem a hb)
    rw [List.mapM_cons]
    exact (run_bind_ok (h a List.mem_cons_self)).trans ((run_bind_ok ih).trans rfl)

/-- A list of which one element fails: the first that does says how. -/
theorem run_mapM_error {e : α → Exc} : ∀ {l : List α}, (∀ a ∈ l, (∃ b, (f a).run s = .ok b s) ∨ (f a).run s = .error (e a) s) →
    (∃ a ∈ l, (f a).run s = .error (e a) s) → ∃ a ∈ l, (l.mapM f).run s = .error (e a) s
  | [], _, ⟨_, hmem, _⟩ => nomatch hmem
  | a :: l, h, ⟨b, hb, hfail⟩ => by
    rw [List.mapM_cons]
    rcases h a List.mem_cons_self with ⟨v, hv⟩ | herr
    · have hbl : b ∈ l := by
        rcases List.mem_cons.1 hb with rfl | hbl
        · rw [hv] at hfail
          cases hfail
        · exact hbl
      obtain ⟨a', ha', hrun⟩ := run_mapM_error (fun b hb => h b (List.mem_cons_of_mem a hb)) ⟨b, hbl, hfail⟩
      exact ⟨a', List.mem_cons_of_mem a ha', (run_bind_ok hv).trans (run_bind_error hrun)⟩
    · exact ⟨a, List.mem_cons_self, run_bind_error herr⟩

end

/-! ### The checks of a deferral (R270 to R272) -/

section
variable (t : Team) (len : Nat)

@[simp] theorem Team.batch_past_vector : (t.past .vector len).batch = t.batch := by
  rw [show Stream.vector = Engine.vector.stream from rfl, Team.past_engine_eq]

@[simp] theorem Team.qw_past_vector (n : Nat) : (t.past .vector len).qw n = t.qw n := by
  rw [show Stream.vector = Engine.vector.stream from rfl, Team.past_engine_eq]
  rfl

@[simp] theorem Team.batchN_past_vector : (t.past .vector len).batchN = t.batchN := by
  rw [show Stream.vector = Engine.vector.stream from rfl, Team.past_engine_eq]

@[simp] theorem Team.origin_past_vector : (t.past .vector len).origin = t.origin := by
  rw [show Stream.vector = Engine.vector.stream from rfl, Team.past_engine_eq]

theorem Team.nest_past_vector (h : t.vec.nest = none) : (t.past .vector len).vec.nest = none := by
  rw [show Stream.vector = Engine.vector.stream from rfl, Team.past_engine (e := .vector) h]
  exact h

end

section
variable {s : State} {c : Nat} (hc : s.cur = .stream c .vector) (u : Team)
include hc

theorem runw_needBatch (b : Bool) : (needBatch b).run (s.withTeam c u) =
    if u.batch = b then .ok () (s.withTeam c u) else .error (.trap .vdeferState {}) (s.withTeam c u) := by
  rw [needBatch, EStateM.run_bind, runw_team hc]
  simp only [run_need, beq_iff_eq]

theorem runw_notInNest (h : u.vec.nest = none) : notInNest.run (s.withTeam c u) = .ok () (s.withTeam c u) := by
  rw [notInNest, EStateM.run_bind, runw_team hc]
  simp only [run_need, h, Option.isNone_none, if_true]

theorem runw_waitLanded (h : (s.cell c).sh.landings = []) : waitLanded.run (s.withTeam c u) = .ok () (s.withTeam c u) := by
  have hland : (s.withTeam c u).landed c = true := by simp [State.landed, h]
  simp only [waitLanded, EStateM.run_bind, run_get, runw_theCell hc, hland, run_waitFor, if_true]

theorem runw_deferQueue {n : Nat} (hv : (u.qw n).v = true) (hesz : (u.qw n).esz = 3) :
    (deferQueue n).run (s.withTeam c u) = .ok (u.qw n) (s.withTeam c u) := by
  have hesz' : ((u.qw n).esz == 3) = true := beq_iff_eq.2 hesz
  simp only [deferQueue, validQw, EStateM.run_bind, runw_team hc, run_need, hv, if_true, run_pure, hesz']

end

/-! ### VDEFER (R271, R272) -/

/-- The entry that VDEFER pushes for a lane. -/
def deferEntry (x : V64) (sh : Shared) (i : Nat) : List Byte :=
  leBytes 4 i ++ (List.range x.swz.toNat).flatMap fun k => leBytes 4 (sh.laneAt (x.r.vs1.toNat + k) i).toNat

section
variable {s : State} {c : Nat} {t : Team} {x : V64} (h : EngineIssues s c .vector t)
include h

theorem execVdefer_inBatch (hb : t.batch = true) : execVdefer x s = .next (s.trapAt c .vector t .vdeferState {}) := by
  refine vecOp_trapAt h (run_bind_error ?_)
  rw [runw_needBatch h.1.1, if_neg (by simp [hb])]

theorem runw_needBatch_past {b : Bool} (hb : t.batch = b) :
    (needBatch b).run (s.withTeam c (t.past .vector 8)) = .ok () (s.withTeam c (t.past .vector 8)) := by
  rw [runw_needBatch h.1.1, if_pos (by simpa using hb)]

section
variable (hv : (t.qw x.ty.toNat).v = true) (hesz : (t.qw x.ty.toNat).esz = 3)
include hv hesz

theorem runw_deferQueue_past : (deferQueue x.ty.toNat).run (s.withTeam c (t.past .vector 8)) =
    .ok (t.qw x.ty.toNat) (s.withTeam c (t.past .vector 8)) := by
  have hq := runw_deferQueue h.1.1 (t.past .vector 8) (n := x.ty.toNat) (by simpa using hv) (by simpa using hesz)
  rwa [Team.qw_past_vector] at hq

variable (hb : t.batch = false)
include hb

theorem execVdefer_full (hfull : (t.qw x.ty.toNat).depth - (t.qw x.ty.toNat).count < ((s.cell c).sh.active x).length) :
    execVdefer x s = .next (s.trapAt c .vector t .vqueueFull {}) := by
  refine vecOp_trapAt h ?_
  simp only [EStateM.run_bind, runw_needBatch_past h hb, runw_deferQueue_past h hv hesz, runw_shared h.1.1, keepActive_range,
    run_need, decide_eq_false (Nat.not_le.2 hfull)]
  rfl

theorem execVdefer_pushes (hroom : ((s.cell c).sh.active x).length ≤ (t.qw x.ty.toNat).depth - (t.qw x.ty.toNat).count) :
    execVdefer x s = .next (((s.withTeam c (((s.cell c).sh.active x).foldl (fun u i => u.qPush x.ty.toNat (deferEntry x (s.cell c).sh i))
      (t.past .vector 8))).cycles c ((((s.cell c).sh.active x).length + 63) / 64 + 1)).cycled .vector c t) := by
  have hcount : 1 + ceilDiv ((s.cell c).sh.active x).length 64 = (((s.cell c).sh.active x).length + 63) / 64 + 1 := by
    rw [ceilDiv, if_neg (by decide), Nat.add_comm]
    rfl
  have hentries : ∀ u : Team, ((s.cell c).sh.active x).foldl (fun t i => t.qPush x.ty.toNat (leBytes 4 i ++
      ((List.range x.swz.toNat).map fun k => (s.cell c).sh.lanesOf (x.r.vs1.toNat + k)).flatMap fun r => leBytes 4 (r.getD i 0).toNat)) u =
      ((s.cell c).sh.active x).foldl (fun u i => u.qPush x.ty.toNat (deferEntry x (s.cell c).sh i)) u := fun u =>
    List.foldl_ext _ _ _ fun v i hi => by
      simp only [List.flatMap_map, Shared.getD_lanesOf _ _ (Shared.mem_active.1 hi).1, deferEntry]
  refine vecOp_ok h ?_
  simp only [EStateM.run_bind, runw_needBatch_past h hb, runw_deferQueue_past h hv hesz, runw_shared h.1.1, keepActive_range,
    run_need, decide_eq_true hroom, if_true, runw_modTeam h.1.1, hentries, hcount]
  exact run_idleCycles _ (by exact h.1.1)

end

end

/-! ### VDRAIN (R271, R272, R323) -/

/-- The place of the `j`th entry of a batch. -/
def drainPlace (q : QWord) (j : Nat) : Nat := q.place (q.head + BitVec.ofNat 32 j)

/-- A batch is due: 128 entries, or any where the instruction takes fewer (R271). -/
def drainDue (x : V64) (q : QWord) : Prop := 128 ≤ q.count ∨ x.fn.getLsbD 0 = true ∧ 0 < q.count

theorem drainDue_iff (x : V64) (q : QWord) : drainDue x q ↔
    (decide (128 ≤ q.count) || (x.fn.getLsbD 0 && decide (0 < q.count))) = true := by
  simp [drainDue]

/-- Reading an entry of a batch (R323). -/
def readEntry (t : Team) (q : QWord) (j : Nat) : M (List Byte) :=
  match t.vaultRd (drainPlace q j) 32 with
  | some bs => pure bs
  | none => trap .poison { addr := drainPlace q j }

section
variable {t : Team} {q : QWord} {j : Nat} {s : State}

theorem readEntry_clean {bs : List Byte} (h : t.vaultRd (drainPlace q j) 32 = some bs) : (readEntry t q j).run s = .ok bs s := by
  rw [readEntry, h]
  rfl

theorem readEntry_poisoned (h : t.vaultRd (drainPlace q j) 32 = none) :
    (readEntry t q j).run s = .error (.trap .poison { addr := some (drainPlace q j) }) s := by
  rw [readEntry, h]
  rfl

variable (t q j s)

theorem readEntry_run : (∃ bs, (readEntry t q j).run s = .ok bs s) ∨
    (readEntry t q j).run s = .error (.trap .poison { addr := some (drainPlace q j) }) s := by
  cases h : t.vaultRd (drainPlace q j) 32 with
  | none => exact .inr (readEntry_poisoned h)
  | some bs => exact .inl ⟨bs, readEntry_clean h⟩

end

/-- The mask that a VDRAIN writes: its first `n` bits set. -/
def drainMask (x : V64) (n : Nat) (m : Sparse Bool) : Sparse Bool :=
  (List.range 128).foldl (fun b j => Sparse.set false b (128 * (x.r.vd.toNat % 16) + j) (decide (j < n))) m

/-- The registers after a VDRAIN of entries `es`. -/
def drainLanes (x : V64) (es : List (List Byte)) (v : Sparse (BitVec 32)) : Sparse (BitVec 32) :=
  (List.range x.swz.toNat).foldl (fun v k => (List.range 128).foldl (fun v j =>
    Sparse.set 0 v (laneKey (x.r.vs1.toNat + k) j) (word32 (es.getD j []) (1 + k))) v) v

/-- The shared part after a VDRAIN of entries `es`: the latches are cleared (R175). -/
def Shared.drained (sh : Shared) (x : V64) (es : List (List Byte)) : Shared :=
  { sh with m := drainMask x es.length sh.m, v := drainLanes x es sh.v }.clearLatches

/-- The origins of a batch (R271). -/
def drainOrigin (es : List (List Byte)) (o : Sparse Nat) : Sparse Nat :=
  es.zipIdx.foldl (fun o p => Sparse.set 0 o p.2 ((word32 p.1 0).toNat % 128)) o

/-- The team after a VDRAIN of entries `es`. -/
def Team.drained (t : Team) (x : V64) (es : List (List Byte)) : Team :=
  { t.qDrop x.ty.toNat es.length with batch := true, batchN := es.length, origin := drainOrigin es t.origin }

section
variable {s : State} {c : Nat} {t : Team} {x : V64} (h : EngineIssues s c .vector t)
include h

section
variable (hv : (t.qw x.ty.toNat).v = true) (hesz : (t.qw x.ty.toNat).esz = 3) (hb : t.batch = false) (hn : t.vec.nest = none)
  (hland : (s.cell c).sh.landings = [])
include hv hesz hb hn hland

theorem runw_drainChecks {α : Type} (f : QWord → M α) :
    ((do notInNest; waitLanded; needBatch false; let q <- deferQueue x.ty.toNat; f q) : M α).run (s.withTeam c (t.past .vector 8)) =
      (f (t.qw x.ty.toNat)).run (s.withTeam c (t.past .vector 8)) := by
  simp only [EStateM.run_bind, runw_notInNest h.1.1 _ (Team.nest_past_vector t 8 hn), runw_waitLanded h.1.1 _ hland,
    runw_needBatch_past h hb, runw_deferQueue_past h hv hesz]

theorem execVdrain_poisoned (hdue : drainDue x (t.qw x.ty.toNat))
    (hbad : ∃ j, j < min (t.qw x.ty.toNat).count 128 ∧ t.vaultRd (drainPlace (t.qw x.ty.toNat) j) 32 = none) :
    ∃ a, execVdrain x s = .next (s.trapAt c .vector t .poison { addr := some a }) := by
  have hdue' := (drainDue_iff ..).1 hdue
  obtain ⟨j, hj, hbad⟩ := hbad
  obtain ⟨a, -, hrun⟩ := run_mapM_error (fun j _ => readEntry_run (t.past .vector 8) (t.qw x.ty.toNat) j (s.withTeam c (t.past .vector 8)))
    ⟨j, List.mem_range.2 hj, readEntry_poisoned (by rwa [Team.vaultRd_past])⟩
  refine ⟨drainPlace (t.qw x.ty.toNat) a, vecOp_trapAt (i := { addr := some (drainPlace (t.qw x.ty.toNat) a) }) h
    ((runw_drainChecks h hv hesz hb hn hland _).trans ?_)⟩
  exact (congrArg (fun m : M Unit => m.run _) (if_pos hdue')).trans ((run_bind_ok (runw_team h.1.1 _)).trans (run_bind_error hrun))

theorem execVdrain_starts (hdue : drainDue x (t.qw x.ty.toNat))
    (hok : ∀ j, j < min (t.qw x.ty.toNat).count 128 → (t.vaultRd (drainPlace (t.qw x.ty.toNat) j) 32).isSome = true) {es : List (List Byte)}
    (hes : es = (List.range (min (t.qw x.ty.toNat).count 128)).map fun j => t.vault.rdBytes (drainPlace (t.qw x.ty.toNat) j) 32) :
    execVdrain x s = .next (((s.withTeam c ((t.past .vector 8).drained x es)).withShared c
      ((s.cell c).sh.drained x es)).cycled .vector c t) := by
  have hlen : es.length = min (t.qw x.ty.toNat).count 128 := by simp [hes]
  have hdue' := (drainDue_iff ..).1 hdue
  have hread : ∀ j ∈ List.range (min (t.qw x.ty.toNat).count 128), (t.past .vector 8).vaultRd (drainPlace (t.qw x.ty.toNat) j) 32 =
      some (t.vault.rdBytes (drainPlace (t.qw x.ty.toNat) j) 32) := fun j hj => by
    rw [Team.vaultRd_past, Team.vaultRd_eq_of_isSome (hok j (List.mem_range.1 hj))]
  refine vecOp_ok h ((runw_drainChecks h hv hesz hb hn hland _).trans ?_)
  refine (congrArg (fun m : M Unit => m.run _) (if_pos hdue')).trans ?_
  refine (run_bind_ok (runw_team h.1.1 _)).trans ((run_bind_ok (run_mapM_ok
    (g := fun j => t.vault.rdBytes (drainPlace (t.qw x.ty.toNat) j) 32) fun j hj => readEntry_clean (hread j hj))).trans ?_)
  rw [← hes]
  refine (run_bind_ok (runw_changeShared h.1.1 _ _)).trans ((run_bind_ok (runws_modTeam h.1.1 _ _ _)).trans
    ((runws_changeShared h.1.1 _ _ _).trans ?_))
  rw [← hlen]
  rfl

theorem execVdrain_nothing (hdue : ¬ drainDue x (t.qw x.ty.toNat)) : execVdrain x s =
    .next (((s.withTeam c (t.past .vector 8)).withShared c
      { (s.cell c).sh with m := drainMask x 0 (s.cell c).sh.m }).cycled .vector c t) := by
  have hdue' := mt (drainDue_iff ..).2 hdue
  refine vecOp_ok h ((runw_drainChecks h hv hesz hb hn hland _).trans ?_)
  exact (congrArg (fun m : M Unit => m.run _) (if_neg hdue')).trans (runw_changeShared h.1.1 _ _)

end
end

/-! ### What a batch holds (R175, R271) -/

theorem State.streamCycle_of_landed {s : State} {c : Nat} (h : (s.cell c).sh.landings = []) : (s.streamCycle c).cell c = s.cell c := by
  rw [State.streamCycle_eq h (by simp)]
  refine (State.cell_withShared ..).trans ?_
  rw [List.filter_nil, List.filter_nil, List.map_nil, List.foldl_nil, ← h]

theorem State.cell_cycled {s : State} {c : Nat} (t : Team) (h : (s.cell c).sh.landings = []) :
    (s.cycled .vector c t).cell c = s.cell c := by
  refine (State.streamCycle_of_landed ?_).trans (State.cell_usedReplies ..)
  rwa [State.cell_usedReplies]

theorem Shared.laneAt_clearLatches (sh : Shared) {r i : Nat} (hr : r < 64) (hi : i < 128) :
    sh.clearLatches.laneAt r i = sh.laneAt r i :=
  (Sparse.get_filter_keys 0 (fun k => decide (k < laneKey 64 0)) _ sh.v).trans (if_pos (decide_eq_true (by unfold laneKey; omega)))

theorem Shared.latch_clearLatches (sh : Shared) {r : Nat} (i : Nat) (hr : 64 ≤ r) : sh.clearLatches.laneAt r i = 0 :=
  (Sparse.get_filter_keys 0 (fun k => decide (k < laneKey 64 0)) _ sh.v).trans
    (if_neg fun h => absurd (of_decide_eq_true h) (by unfold laneKey; omega))

theorem get_drainMask (x : V64) (n : Nat) (m : Sparse Bool) {j : Nat} (hj : j < 128) :
    Sparse.get false (drainMask x n m) (128 * (x.r.vd.toNat % 16) + j) = decide (j < n) :=
  get_foldl_of_mem (get := Sparse.get false) (key := fun j => 128 * (x.r.vd.toNat % 16) + j) (val := fun j _ => decide (j < n))
    (fun b i k => Sparse.get_set false b _ k _) m (List.mem_range.2 hj) List.nodup_range fun i _ h => by omega

/-- One lane of a batch. -/
def drainStep (x : V64) (es : List (List Byte)) (v : Sparse (BitVec 32)) (p : Nat × Nat) : Sparse (BitVec 32) :=
  Sparse.set 0 v (laneKey (x.r.vs1.toNat + p.1) p.2) (word32 (es.getD p.2 []) (1 + p.1))

theorem drainLanes_eq (x : V64) (es : List (List Byte)) (v : Sparse (BitVec 32)) :
    drainLanes x es v = (List.range x.swz.toNat ×ˢ List.range 128).foldl (drainStep x es) v := by
  simp only [SProd.sprod, List.product, List.foldl_flatMap, List.foldl_map]
  rfl

theorem get_drainLanes (x : V64) (es : List (List Byte)) (v : Sparse (BitVec 32)) {k j : Nat} (hk : k < x.swz.toNat) (hj : j < 128) :
    Sparse.get 0 (drainLanes x es v) (laneKey (x.r.vs1.toNat + k) j) = word32 (es.getD j []) (1 + k) := by
  rw [drainLanes_eq]
  refine get_foldl_of_mem (step := drainStep x es) (get := Sparse.get 0) (key := fun p : Nat × Nat => laneKey (x.r.vs1.toNat + p.1) p.2)
    (val := fun p _ => word32 (es.getD p.2 []) (1 + p.1)) (fun v p i => Sparse.get_set 0 v _ i _) v (i := (k, j))
    (List.pair_mem_product.2 ⟨List.mem_range.2 hk, List.mem_range.2 hj⟩) (List.nodup_range.product List.nodup_range) fun p hp hkey => ?_
  obtain ⟨-, hp2⟩ := List.mem_product.1 hp
  obtain ⟨h1, h2⟩ := (laneKey_inj hj (List.mem_range.1 hp2)).1 hkey
  exact Prod.ext (by simpa using h1) h2

theorem get_drainOrigin {n : Nat} (g : Nat → List Byte) (o : Sparse Nat) {j : Nat} (hj : j < n) :
    Sparse.get 0 (drainOrigin ((List.range n).map g) o) j = (word32 (g j) 0).toNat % 128 := by
  rw [drainOrigin, zipIdx_map_range, List.foldl_map]
  exact get_foldl_of_mem (get := Sparse.get 0) (key := id) (val := fun j _ => (word32 (g j) 0).toNat % 128)
    (fun o i k => Sparse.get_set 0 o _ k _) o (List.mem_range.2 hj) List.nodup_range fun i _ h => h

section
variable {n k j : Nat} (sh : Shared) (x : V64) (g : Nat → List Byte)

theorem maskAt_drained (hj : j < 128) : (sh.drained x ((List.range n).map g)).maskAt (x.r.vd.toNat % 16) j = decide (j < n) := by
  have hlen : ((List.range n).map g).length = n := by simp
  rw [Shared.maskAt, show (sh.drained x ((List.range n).map g)).m = drainMask x ((List.range n).map g).length sh.m from rfl, hlen,
    get_drainMask x n sh.m hj]

theorem laneAt_drained (hk : k < x.swz.toNat) (hr : x.r.vs1.toNat + k < 64) (hj : j < n) (hn : n ≤ 128) :
    (sh.drained x ((List.range n).map g)).laneAt (x.r.vs1.toNat + k) j = word32 (g j) (1 + k) := by
  refine (Shared.laneAt_clearLatches _ hr (by omega)).trans ((get_drainLanes x _ _ hk (by omega)).trans ?_)
  simp [hj]

end

/-! ### VDRET (R271, R272) -/

/-- The lanes that a VDRET sends back. -/
def retLanes (x : V64) (t : Team) (sh : Shared) : List Nat := (sh.active x).filter fun i => decide (i < t.batchN)

/-- The shared part after a VDRET: the latches are cleared (R175). -/
def Shared.returned (sh : Shared) (x : V64) (t : Team) : Shared :=
  { sh with v := (retLanes x t sh).foldl (fun v i =>
      Sparse.set 0 v (laneKey x.r.vd.toNat (Sparse.get 0 t.origin i)) (sh.laneAt x.r.vs1.toNat i)) sh.v }.clearLatches

theorem laneAt_returned (sh : Shared) (x : V64) (t : Team) {j : Nat} (hd : x.r.vd.toNat < 64) (hj : j ∈ retLanes x t sh)
    (ho : Sparse.get 0 t.origin j < 128)
    (hlast : ∀ k ∈ retLanes x t sh, j < k → Sparse.get 0 t.origin k ≠ Sparse.get 0 t.origin j) :
    (sh.returned x t).laneAt x.r.vd.toNat (Sparse.get 0 t.origin j) = sh.laneAt x.r.vs1.toNat j := by
  obtain ⟨as, bs, hsplit⟩ := List.append_of_mem hj
  have hsorted : (retLanes x t sh).Pairwise (· < ·) := (sh.sorted_active x).filter _
  rw [hsplit, List.pairwise_append, List.pairwise_cons] at hsorted
  obtain ⟨-, ⟨hlt, -⟩, -⟩ := hsorted
  refine (Shared.laneAt_clearLatches _ hd ho).trans ?_
  refine (congrArg (fun l => Sparse.get 0 (List.foldl _ sh.v l) _) hsplit).trans ?_
  refine get_foldl_of_last (get := Sparse.get 0) (key := fun i => laneKey x.r.vd.toNat (Sparse.get 0 t.origin i))
    (val := fun i _ => sh.laneAt x.r.vs1.toNat i) (fun v i k => Sparse.get_set 0 v _ k _) sh.v fun k hk hkey => ?_
  refine hlast k (by simp [hsplit, hk]) (hlt k hk) ?_
  simpa [laneKey] using hkey.symm

section
variable {s : State} {c : Nat} {t : Team} {x : V64} (h : EngineIssues s c .vector t) (hn : t.vec.nest = none)
  (hland : (s.cell c).sh.landings = [])
include h hn hland

theorem execVdret_outside (hb : t.batch = false) : execVdret x s = .next (s.trapAt c .vector t .vdeferState {}) := by
  refine vecOp_trapAt h ?_
  have hbatch := runw_needBatch h.1.1 (t.past .vector 8) true
  rw [if_neg (by simp [hb])] at hbatch
  simp only [EStateM.run_bind, runw_notInNest h.1.1 _ (Team.nest_past_vector t 8 hn), runw_waitLanded h.1.1 _ hland, hbatch]

theorem execVdret_returns (hb : t.batch = true) : execVdret x s =
    .next (((s.withTeam c { t.past .vector 8 with batch := false }).withShared c ((s.cell c).sh.returned x t)).cycled .vector c t) := by
  refine vecOp_ok h ?_
  simp only [EStateM.run_bind, runw_notInNest h.1.1 _ (Team.nest_past_vector t 8 hn), runw_waitLanded h.1.1 _ hland,
    runw_needBatch_past h hb, runw_team h.1.1, runw_shared h.1.1, runw_changeShared h.1.1, runws_modTeam h.1.1, Shared.lanesOf_eq,
    keepActive_eq, List.filter_map, List.foldl_map, Team.batchN_past_vector, Team.origin_past_vector]
  exact runws_changeShared h.1.1 _ _ _

end

/-! ### What a VDRAIN leaves (R271) -/

theorem cell_cycled_both (s : State) (c : Nat) (t u : Team) {x : Shared} (h : x.landings = []) :
    let s' := ((s.withTeam c u).withShared c x).cycled .vector c t
    (s'.cell c).act = some u ∧ (s'.cell c).sh = x := by
  have hcell : ((s.withTeam c u).withShared c x).cell c = ((s.cell c).setTeam (s.cell c).active (some u)).withSh x := by
    rw [State.withTeam_withShared, State.cell_setCell_self]
  dsimp only
  rw [State.cell_cycled t (by rw [hcell]; exact h)]
  exact ⟨State.act_withShared (State.act_withTeam s c u) x, by rw [hcell]; rfl⟩

theorem Team.qw_qDrop (t : Team) (n k : Nat) :
    (t.qDrop n k).qw n = { t.qw n with head := (t.qw n).head + BitVec.ofNat 32 k } := Sparse.get_set_self ..

theorem toNat_word32_mod (bs : List Byte) : (word32 bs 0).toNat % 128 = leNat (bs.take 4) % 128 := by
  rw [word32, BitVec.toNat_ofNat, Nat.mod_mod_of_dvd _ (by decide)]
  rfl

section
variable {s : State} {c : Nat} {t : Team} {x : V64} (h : EngineIssues s c .vector t)
include h

section
variable (hv : (t.qw x.ty.toNat).v = true) (hesz : (t.qw x.ty.toNat).esz = 3) (hb : t.batch = false) (hn : t.vec.nest = none)
  (hland : (s.cell c).sh.landings = [])
include hv hesz hb hn hland

/-- A VDRAIN that starts a batch: the team, its queue and its origins, the mask, the registers and the latches. -/
theorem execVdrain_batch (hdue : drainDue x (t.qw x.ty.toNat))
    (hok : ∀ j, j < min (t.qw x.ty.toNat).count 128 → (t.vaultRd (drainPlace (t.qw x.ty.toNat) j) 32).isSome = true) :
    ∃ s' u, execVdrain x s = .next s' ∧ (s'.cell c).act = some u ∧
      u.batch = true ∧ u.batchN = min (t.qw x.ty.toNat).count 128 ∧
      u.qw x.ty.toNat = { t.qw x.ty.toNat with
        head := (t.qw x.ty.toNat).head + BitVec.ofNat 32 (min (t.qw x.ty.toNat).count 128) } ∧ u.vault = t.vault ∧
      (∀ j, j < 128 → (s'.cell c).sh.maskAt (x.r.vd.toNat % 16) j = decide (j < min (t.qw x.ty.toNat).count 128)) ∧
      (∀ j, j < min (t.qw x.ty.toNat).count 128 →
        Sparse.get 0 u.origin j = leNat ((t.vault.rdBytes (drainPlace (t.qw x.ty.toNat) j) 32).take 4) % 128 ∧
        ∀ k, k < x.swz.toNat → x.r.vs1.toNat + k < 64 → (s'.cell c).sh.laneAt (x.r.vs1.toNat + k) j =
          BitVec.ofNat 32 (leNat (((t.vault.rdBytes (drainPlace (t.qw x.ty.toNat) j) 32).drop (4 + 4 * k)).take 4))) ∧
      ∀ r j, 64 ≤ r → (s'.cell c).sh.laneAt r j = 0 := by
  let g : Nat → List Byte := fun j => t.vault.rdBytes (drainPlace (t.qw x.ty.toNat) j) 32
  let n := min (t.qw x.ty.toNat).count 128
  have hlen : ((List.range n).map g).length = n := by simp
  have hcell := cell_cycled_both s c t ((t.past .vector 8).drained x ((List.range n).map g))
    (x := (s.cell c).sh.drained x ((List.range n).map g)) hland
  refine ⟨_, _, execVdrain_starts h hv hesz hb hn hland hdue hok rfl, hcell.1, rfl, hlen, ?_, (Team.past_vaultTiles t .vector 8).2.1,
    fun j hj => ?_, fun j hj => ⟨?_, fun k hk hr => ?_⟩, fun r j hr => ?_⟩
  · refine (Team.qw_qDrop ..).trans ?_
    rw [Team.qw_past_vector, hlen]
  · rw [hcell.2]
    exact maskAt_drained (s.cell c).sh x g hj
  · exact (get_drainOrigin g _ hj).trans (toNat_word32_mod (g j))
  · rw [hcell.2, laneAt_drained (s.cell c).sh x g hk hr hj (Nat.min_le_right ..), word32, Nat.mul_add]
  · rw [hcell.2]
    exact Shared.latch_clearLatches _ j hr

/-- A VDRAIN that starts none clears the mask. -/
theorem execVdrain_idle (hcount : (t.qw x.ty.toNat).count < 128)
    (hnot : x.fn.getLsbD 0 = false ∨ (t.qw x.ty.toNat).count = 0) : ∃ s', execVdrain x s = .next s' ∧
    (s'.cell c).act = some (t.past .vector 8) ∧ ∀ j, j < 128 → (s'.cell c).sh.maskAt (x.r.vd.toNat % 16) j = false := by
  have hdue : ¬ drainDue x (t.qw x.ty.toNat) := by
    rintro (hge | ⟨hfn, hpos⟩)
    · omega
    · rcases hnot with hnot | hnot
      · rw [hfn] at hnot
        cases hnot
      · omega
  have hcell := cell_cycled_both s c t (t.past .vector 8) (x := { (s.cell c).sh with m := drainMask x 0 (s.cell c).sh.m }) hland
  refine ⟨_, execVdrain_nothing h hv hesz hb hn hland hdue, hcell.1, fun j hj => ?_⟩
  rw [hcell.2, Shared.maskAt]
  dsimp only
  rw [get_drainMask x 0 _ hj]
  exact decide_eq_false (Nat.not_lt_zero j)

end
end

end Sys2Proof.Machine
end


section
/-! Proofs about the exchange of the vector stream with the accumulator banks: VTAKE and VGIVE (R77, R78, R274). -/
namespace Sys2Proof.Machine

section
variable {s : State} {c : Nat} (hc : s.cur = .stream c .vector) (u : Team) {k : Bool}
include hc

theorem runw_bankTaken (hland : (s.cell c).sh.landings = []) (hfull : (s.cell c).sh.full k = true) :
    (bankTaken k).run (s.withTeam c u) = .ok () (s.withTeam c u) := by
  simp only [bankTaken, EStateM.run_bind, runw_waitLanded hc u hland, runw_shared hc, run_waitFor, hfull, if_true]

theorem runw_bankTaken_waits (h : (s.cell c).sh.landings ≠ [] ∨ (s.cell c).sh.full k = false) :
    (bankTaken k).run (s.withTeam c u) = .error (.wait none) (s.withTeam c u) := by
  by_cases hland : (s.cell c).sh.landings = []
  · have hfull : (s.cell c).sh.full k = false := h.resolve_left (not_not_intro hland)
    simp only [bankTaken, EStateM.run_bind, runw_waitLanded hc u hland, runw_shared hc, run_waitFor, hfull, Bool.false_eq_true, if_false]
  · have hwait : (s.withTeam c u).landed c = false := by simpa [State.landed] using hland
    simp only [bankTaken, waitLanded, EStateM.run_bind, run_get, runw_theCell hc, hwait, run_waitFor, Bool.false_eq_true, if_false]

end

/-- The bank is set EMPTY where the instruction says so (R274). -/
def Shared.emptied (z : Shared) (x : V64) : Shared := if x.fn.getLsbD 1 then z.setFull (x.fn.getLsbD 0) false else z

/-- An entry of a bank row as FP32 (R77). -/
def bankOut (x : V64) (sh : Shared) (i : Nat) : BitVec 32 × Flags :=
  (sh.accOf (x.fn.getLsbD 0) x.vs3.toNat i).toFp32 (sh.tensorA (x.fn.getLsbD 0)) (sh.tensorB (x.fn.getLsbD 0))

/-- The pending result of a VTAKE. -/
def takeLanding (x : V64) (sh : Shared) : Landing :=
  { rem := 6, sq := x.sq == 1, lanes := (List.range 128).map fun i => (laneKey (dstReg x.r) i, 0xFFFFFFFF, (bankOut x sh i).1),
    flags := allFlags ((List.range 128).map fun i => (bankOut x sh i).2), row := some x.vs3.toNat }

theorem takeLanding_writes (x : V64) (sh : Shared) :
    (takeLanding x sh).writes fun r i => if r = dstReg x.r ∧ i < 128 then some (bankOut x sh i).1 else none := by
  have h := Landing.writes_of_whole (l := takeLanding x sh) (d := dstReg x.r) (f := fun i => (bankOut x sh i).1) rfl
    List.nodup_range (fun i hi => List.mem_range.1 hi) rfl
  simpa only [List.mem_range] using h

theorem takeLanding_flags (x : V64) (sh : Shared) {j : Nat} :
    (takeLanding x sh).flags.getLsbD j = true ↔ ∃ i, i < 128 ∧ (bankOut x sh i).2.getLsbD j = true := by
  simp [takeLanding, getLsbD_allFlags]

/-- The bank with a row written from the lanes. -/
def giveRow (x : V64) (sh : Shared) : Shared :=
  (List.range 128).foldl (fun z i => z.setAcc (x.fn.getLsbD 0) x.vs3.toNat i (accExact (srcLane x sh i))) sh

theorem giveRow_eq (x : V64) (sh : Shared) : giveRow x sh = { sh with acc := (giveRow x sh).acc } :=
  List.foldlRecOn (motive := fun z : Shared => z = { sh with acc := z.acc }) _ _ rfl fun z hz i _ => by
    rw [hz]
    rfl

theorem accOf_giveRow (x : V64) (sh : Shared) (hrow : x.vs3.toNat < 128) (b : Bool) {r i : Nat} (hr : r < 128) (hi : i < 128) :
    (giveRow x sh).accOf b r i = if b = x.fn.getLsbD 0 ∧ r = x.vs3.toNat then accExact (srcLane x sh i) else sh.accOf b r i := by
  have hstep : ∀ (z : Shared) (i k : Nat), Sparse.get {} (z.setAcc (x.fn.getLsbD 0) x.vs3.toNat i (accExact (srcLane x sh i))).acc k =
      if k = accKey (x.fn.getLsbD 0) x.vs3.toNat i then accExact (srcLane x sh i) else Sparse.get {} z.acc k := fun z i k =>
    Sparse.get_set {} z.acc _ k _
  split
  · next h =>
    obtain ⟨rfl, rfl⟩ := h
    exact get_foldl_of_mem (get := fun z : Shared => Sparse.get {} z.acc) (val := fun i _ => accExact (srcLane x sh i)) hstep sh
      (List.mem_range.2 hi) List.nodup_range fun j hj hkey => ((accKey_inj hrow hrow hi (List.mem_range.1 hj)).1 hkey).2.2
  · next h =>
    refine get_foldl_of_ne (get := fun z : Shared => Sparse.get {} z.acc) (val := fun i _ => accExact (srcLane x sh i)) hstep sh
      fun j hj hkey => h ?_
    obtain ⟨hb, hr', -⟩ := (accKey_inj hr hrow hi (List.mem_range.1 hj)).1 hkey
    exact ⟨hb, hr'⟩

theorem Shared.setDirty_emptied_acc (x : V64) (sh : Shared) (a : Sparse AccE) :
    (({ sh with acc := a }.setDirty (x.fn.getLsbD 0) true).emptied x) = { (sh.setDirty (x.fn.getLsbD 0) true).emptied x with acc := a } := by
  unfold Shared.emptied Shared.setDirty Shared.setFull
  cases x.fn.getLsbD 0 <;> cases x.fn.getLsbD 1 <;> rfl

/-- The shared part after a VGIVE. -/
def Shared.given (sh : Shared) (x : V64) : Shared := { (sh.setDirty (x.fn.getLsbD 0) true).emptied x with acc := (giveRow x sh).acc }

theorem giveRow_given (x : V64) (sh : Shared) : ((giveRow x sh).setDirty (x.fn.getLsbD 0) true).emptied x = sh.given x :=
  (congrArg (fun z : Shared => (z.setDirty (x.fn.getLsbD 0) true).emptied x) (giveRow_eq x sh)).trans
    (Shared.setDirty_emptied_acc x sh _)

theorem accOf_given (x : V64) (sh : Shared) (b : Bool) (r i : Nat) : (sh.given x).accOf b r i = (giveRow x sh).accOf b r i := by
  unfold Shared.accOf Shared.given
  rfl

section
variable {s : State} {c : Nat} {t : Team} {x : V64} (h : EngineIssues s c .vector t)
include h

theorem exec_bank_waits (hwait : (s.cell c).sh.landings ≠ [] ∨ (s.cell c).sh.full (x.fn.getLsbD 0) = false) :
    ∀ i ∈ [Instr.vtake, .vgive], exec (i x) s = .next ((s.withTeam c t).streamCycle c) :=
  List.forall_mem_cons.2 ⟨vecOp_wait h (run_bind_error (runw_bankTaken_waits h.1.1 _ hwait)),
    List.forall_mem_singleton.2 (vecOp_wait h (run_bind_error (runw_bankTaken_waits h.1.1 _ hwait)))⟩

/-- The last step of both: the bank is set EMPTY or stays as it is. -/
theorem runws_emptied (u : Team) (z : Shared) :
    (if x.fn.getLsbD 1 then modShared fun sh => sh.setFull (x.fn.getLsbD 0) false else pure () : M Unit).run
      ((s.withTeam c u).withShared c z) = .ok () ((s.withTeam c u).withShared c (z.emptied x)) := by
  unfold Shared.emptied
  split
  · exact runws_changeShared h.1.1 u z _
  · rfl

variable (hland : (s.cell c).sh.landings = []) (hfull : (s.cell c).sh.full (x.fn.getLsbD 0) = true)
include hland hfull

theorem execVtake_takes : execVtake x s = .next (((s.withTeam c (t.past .vector 8)).withShared c
    (Shared.emptied { (s.cell c).sh with landings := [takeLanding x (s.cell c).sh] } x)).cycled .vector c t) := by
  refine vecOp_ok h ?_
  refine (run_bind_ok (runw_bankTaken h.1.1 _ hland hfull)).trans ((run_bind_ok (runw_shared h.1.1 _)).trans
    ((run_bind_ok (runw_changeShared h.1.1 _ _)).trans ?_))
  refine (runws_emptied h _ _).trans ?_
  simp only [hland, List.nil_append, zipIdx_map_range, List.map_map]
  rfl

theorem execVgive_gives :
    execVgive x s = .next (((s.withTeam c (t.past .vector 8)).withShared c ((s.cell c).sh.given x)).cycled .vector c t) := by
  rw [← giveRow_given]
  refine vecOp_ok h ?_
  refine (run_bind_ok (runw_bankTaken h.1.1 _ hland hfull)).trans ((run_bind_ok (runw_changeShared h.1.1 _ _)).trans ?_)
  refine (runws_emptied h _ _).trans ?_
  simp only [srcA_eq, zipIdx_map_range, List.foldl_map]
  rfl

end

end Sys2Proof.Machine
end


section
/-! Proofs about VAMO (R400 to R403), and about the control of the vector stream as a whole. -/
namespace Sys2Proof.Machine

/-! ### Effects that a meaning tries -/

section
variable {α : Type} {m : M α} {s s' : State}

theorem run_attempt_ok {a : α} (h : m.run s = .ok a s') : (attempt m).run s = .ok (.ok a) s' := by
  have h' : m s = .ok a s' := h
  simp only [attempt, EStateM.run, tryCatch, tryCatchThe, MonadExceptOf.tryCatch, EStateM.tryCatch, Functor.map, EStateM.map, h']

theorem run_attempt_trap {k : Cause} {i : Info} (h : m.run s = .error (.trap k i) s') : (attempt m).run s = .ok (.error (k, i)) s' := by
  have h' : m s = .error (.trap k i) s' := h
  simp only [attempt, EStateM.run, tryCatch, tryCatchThe, MonadExceptOf.tryCatch, EStateM.tryCatch, Functor.map, EStateM.map, h']
  rfl

theorem run_whole_trap {k : Cause} {i : Info} (h : m.run s = .error (.trap k i) s') : (whole m).run s = .error (.trap k i) s' := by
  have h' : m s = .error (.trap k i) s' := h
  simp only [whole, EStateM.run, h']

end

section
variable (s : State) (k : AgentKey) (c : Nat)

theorem State.modAct_usedReplies (f : Team → Team) : (s.usedReplies k).modAct c f = (s.modAct c f).usedReplies k := by
  have hteam : (s.usedReplies k).teamAt (.here c (s.cell c).active) = s.teamAt (.here c (s.cell c).active) := by
    simp [State.teamAt]
  simp only [State.modAct, State.modTeam, State.cell_usedReplies, hteam]
  cases s.teamAt (.here c (s.cell c).active) with
  | none => rfl
  | some t =>
    unfold State.usedReplies
    by_cases he : s.fab.replies.isEmpty = true
    · rw [if_pos he]
      exact (if_pos (c := (s.putTeam (.here c (s.cell c).active) (f t)).fab.replies.isEmpty = true) he).symm
    · rw [if_neg he]
      exact (if_neg (c := (s.putTeam (.here c (s.cell c).active) (f t)).fab.replies.isEmpty = true) he).symm

theorem State.usedReplies_idem : (s.usedReplies k).usedReplies k = s.usedReplies k := by
  unfold State.usedReplies
  by_cases he : s.fab.replies.isEmpty = true
  · rw [if_pos he, if_pos he]
  · rw [if_neg he]
    split
    · rfl
    · simp

end

/-! ### Lanes that are left (R403) -/

/-- The lane that a VAMO goes on at. -/
def Team.vamoStart (t : Team) : Nat := if t.vpos = 0 then t.vrstidx.toNat else t.vpos

/-- The active lanes that are left of a VAMO. -/
def vamoLeft (x : V64) (sh : Shared) (i0 : Nat) : List Nat := (span i0 (128 - i0)).filter (laneActive x sh)

section
variable {x : V64} {sh : Shared} {i0 i : Nat}

theorem mem_vamoLeft : i ∈ vamoLeft x sh i0 ↔ i0 ≤ i ∧ i < 128 ∧ laneActive x sh i = true := by
  simp only [vamoLeft, span, List.mem_filter, List.mem_map, List.mem_range]
  constructor
  · rintro ⟨⟨j, hj, rfl⟩, hact⟩
    exact ⟨by omega, by omega, hact⟩
  · rintro ⟨hlo, hhi, hact⟩
    exact ⟨⟨i - i0, by omega, by omega⟩, hact⟩

theorem sorted_vamoLeft (x : V64) (sh : Shared) (i0 : Nat) : (vamoLeft x sh i0).Pairwise (· < ·) :=
  (List.pairwise_map.2 (List.pairwise_lt_range.imp fun h => Nat.add_lt_add_left h i0)).filter _

theorem vamoLeft_eq (x : V64) (sh : Shared) (i0 : Nat) :
    ((span i0 (128 - i0)).filter fun i => (activeLanes sh x).getD i false) = vamoLeft x sh i0 := by
  refine List.filter_congr fun i hi => ?_
  obtain ⟨j, hj, rfl⟩ := List.mem_map.1 hi
  have hlt : i0 + j < 128 := by have := List.mem_range.1 hj; omega
  simp [activeLanes_eq, hlt]

/-- The first lane that is left, with the rest. -/
theorem vamoLeft_cons (hi : i ∈ vamoLeft x sh i0) (hmin : ∀ j ∈ vamoLeft x sh i0, i ≤ j) :
    ∃ rest, vamoLeft x sh i0 = i :: rest ∧ (rest = [] ↔ ∀ j ∈ vamoLeft x sh i0, j = i) := by
  have hsorted := sorted_vamoLeft x sh i0
  cases hl : vamoLeft x sh i0 with
  | nil => simp [hl] at hi
  | cons j rest =>
    rw [hl] at hi hmin hsorted
    have hlt := (List.pairwise_cons.1 hsorted).1
    have hji : j = i := by
      rcases List.mem_cons.1 hi with rfl | hmem
      · rfl
      · exact absurd (hlt i hmem) (Nat.not_lt.2 (hmin j List.mem_cons_self))
    subst hji
    refine ⟨rest, rfl, fun hnil => by simp [hnil], fun hall => ?_⟩
    exact List.eq_nil_iff_forall_not_mem.2 fun k hk => (hlt k hk).ne' (hall k (List.mem_cons_of_mem _ hk))

end

/-! ### A VAMO put back on its instruction -/

/-- The team with its flags and where its VAMO stands. -/
def Team.vamoAt (t : Team) (f : Flags) (idx : BitVec 8) (pos : Nat) : Team := { t with vflags := f, vrstidx := idx, vpos := pos }

/-- What putting the vector stream back on its instruction does to a team. -/
def Team.rewindVector (u t : Team) : Team :=
  { u with nt0 := { u.nt0 with pos := t.nt0.pos }, nt1 := { u.nt1 with pos := t.nt1.pos } }.setPc .vector (t.pcOf .vector)

theorem Team.rewindVector_past (t : Team) (len : Nat) (f : Flags) (idx : BitVec 8) (pos : Nat) :
    ((t.past .vector len).vamoAt f idx pos).rewindVector t = t.vamoAt f idx pos := by
  have hv : engineOf .vector = some .vector := rfl
  simp only [Team.past, hv, Team.setPc, Team.pcOf]
  cases hn : (t.eng .vector).nest with
  | none => rfl
  | some k =>
    simp only [Option.isSome_some, if_true, Team.nestStep, hn]
    cases k <;> simp only [Team.rewindVector, Team.vamoAt, Team.setPc, Team.pcOf, hv, Team.setSlot, Team.slot, Team.modEng, Team.setEng,
      Team.eng, if_true, if_false, Bool.false_eq_true]

theorem State.rewound_vector (s : State) (c : Nat) (u t : Team) :
    (s.withTeam c u).rewound c .vector (t.pcOf .vector) t.nt0.pos t.nt1.pos = s.withTeam c (u.rewindVector t) := by
  rw [State.rewound, State.modAct_withTeam]
  rfl

theorem State.rewound_vector_shared (s : State) (c : Nat) (u t : Team) (z : Shared) (k : AgentKey) :
    (((s.withTeam c u).withShared c z).usedReplies k).rewound c .vector (t.pcOf .vector) t.nt0.pos t.nt1.pos =
      ((s.withTeam c (u.rewindVector t)).withShared c z).usedReplies k := by
  rw [State.rewound, State.modAct_usedReplies, State.modAct_withShared]
  rfl

/-- The vector stream stands at an instruction that waits after it has changed something. -/
theorem vecOp_wait_from {s s' : State} {c : Nat} {t : Team} {len : Nat} {body : M Unit} (h : EngineIssues s c .vector t)
    (hb : body.run (s.withTeam c (t.past .vector len)) = .error (.wait none) s') : vecOp len body s =
      .next (((s'.rewound c .vector (t.pcOf .vector) t.nt0.pos t.nt1.pos).modAct c id).streamCycle c) := by
  obtain ⟨⟨hc, ha⟩, hp⟩ := h
  have hid : (fun t : Team => t) = id := rfl
  simp_all [vecOp, engineOp, runAt, State.passed_of_act ha, Engine.stream]

theorem State.streamCycle_mem_of_landed {s : State} {c : Nat} (h : (s.cell c).sh.landings = []) : (s.streamCycle c).mem = s.mem := by
  rw [State.streamCycle_eq h (by simp)]
  rfl

theorem State.cycled_usedReplies (s : State) (c : Nat) (t : Team) :
    (s.usedReplies (t.key .vector)).cycled .vector c t = s.cycled .vector c t := by
  simp only [State.cycled, if_true, Engine.stream, State.usedReplies_idem]

/-! ### One element (R402) -/

section
variable (t : Team) (len : Nat)

theorem Team.vamoFields_past : (t.past .vector len).vpos = t.vpos ∧ (t.past .vector len).vrstidx = t.vrstidx ∧
    (t.past .vector len).vflags = t.vflags ∧ (t.past .vector len).key = t.key := by
  rw [show Stream.vector = Engine.vector.stream from rfl, Team.past_engine_eq]
  exact ⟨rfl, rfl, rfl, rfl⟩

theorem State.whoIs_past_vector (s : State) (c : Nat) : s.whoIs c (t.past .vector len) .vector = s.whoIs c t .vector := by
  rw [show Stream.vector = Engine.vector.stream from rfl, Team.past_engine_eq]
  rfl

end

section
variable (x : V64) (sh : Shared) (i : Nat)

/-- The handle that the descriptor register of a VAMO names (R401). -/
def vamoHandle : Nat := (sh.laneAt (x.vs3.toNat % 64) 0).toNat % 4096

/-- The offset of an element: the lane's added to the base (R401). -/
def vamoOff : Nat := ((sh.laneAt (x.vs3.toNat % 64) 1).toNat + 2 ^ 32 * (sh.laneAt (x.vs3.toNat % 64) 2).toNat +
  (sh.laneAt x.r.vs2.toNat i).toNat) % 2 ^ 64

/-- An element's access by `w`. -/
def vamoAccess (w : Who) : M Nat :=
  readModifyWrite w (vamoHandle x sh) (vamoOff x sh i) 4 i (vamoOp x) (!tySigned x.ty) (sh.laneAt x.r.vs1.toNat i).toNat 0

/-- The flags of an element that read `old`. -/
def vamoFlags (old : Nat) : Flags := (atomicNew (vamoOp x) (!tySigned x.ty) 32 old (sh.laneAt x.r.vs1.toNat i).toNat 0).2

/-- The shared part after an element that read `old`. -/
def vamoWritten (old : Nat) : Shared := { sh with v := Sparse.set 0 sh.v (laneKey (dstReg x.r) i) (BitVec.ofNat 32 old) }

end

section
variable {s s2 : State} {c : Nat} {t : Team} {x : V64} {i old : Nat} (h : EngineIssues s c .vector t)
include h

section
variable (hrun : (vamoAccess x (s.cell c).sh i (s.whoIs c t .vector)).run (s.withTeam c (t.past .vector 8)) = .ok old s2)
  (hcur : s2.cur = s.cur) (hact : (s2.cell c).act = some (t.past .vector 8)) (hsh : (s2.cell c).sh = (s.cell c).sh)
include hrun hcur hact hsh

theorem run_vamoElement_ok : (vamoElement x i).run (s.withTeam c (t.past .vector 8)) =
    .ok () ((s2.withTeam c { t.past .vector 8 with vflags := t.vflags ||| vamoFlags x (s.cell c).sh i old }).withShared c
      (vamoWritten x (s.cell c).sh i old)) := by
  have hwho := runw_theWho h.1.1 (t.past .vector 8)
  rw [show Engine.vector.stream = Stream.vector from rfl, State.whoIs_past_vector] at hwho
  have hc2 := hcur.trans h.1.1
  refine (run_bind_ok (runw_shared h.1.1 _)).trans ((run_bind_ok hwho).trans ((run_bind_ok hrun).trans
    ((run_bind_ok (run_modTeam hc2 _)).trans ?_)))
  rw [State.modAct_of_act hact]
  refine (runw_changeShared hc2 _ _).trans ?_
  rw [hsh, (Team.vamoFields_past t 8).2.2.1]
  rfl

end

theorem run_vamoElement_misaligned (hoff : vamoOff x (s.cell c).sh i % 4 ≠ 0) :
    (vamoElement x i).run (s.withTeam c (t.past .vector 8)) =
      .error (.trap .ldstAlign { addr := vamoOff x (s.cell c).sh i, detail := i }) (s.withTeam c (t.past .vector 8)) := by
  have hwho := runw_theWho h.1.1 (t.past .vector 8)
  refine (run_bind_ok (runw_shared h.1.1 _)).trans ((run_bind_ok hwho).trans (run_bind_error (run_whole_trap (run_bind_error
    (run_bind_error ((run_need _ _ _ _).trans ?_))))))
  exact if_neg fun heq => hoff (beq_iff_eq.1 heq)

end

/-! ### The instruction (R402, R403) -/

section
variable {s : State} {c : Nat} {t : Team} {x : V64} (h : EngineIssues s c .vector t) (hland : (s.cell c).sh.landings = [])
  (hstart : t.vamoStart < 128)
include h hland hstart

theorem execVamo_done (hleft : vamoLeft x (s.cell c).sh t.vamoStart = []) : execVamo x s =
    .next ((s.withTeam c { t.past .vector 8 with vrstidx := 0, vpos := 0 }).cycled .vector c t) := by
  obtain ⟨hpos, hidx, -, -⟩ := Team.vamoFields_past t 8
  unfold Team.vamoStart at hleft hstart
  refine vecOp_ok h ?_
  simp only [EStateM.run_bind, runw_waitLanded h.1.1 _ hland, runw_team h.1.1, runw_shared h.1.1, run_need, hpos, hidx, hstart,
    decide_true, if_true, vamoLeft_eq, hleft]
  exact runw_modTeam h.1.1 _ _

section
variable {i : Nat} {rest : List Nat} (hleft : vamoLeft x (s.cell c).sh t.vamoStart = i :: rest)
include hleft

theorem execVamo_traps {k : Cause} {info : Info} (hrun : (vamoElement x i).run (s.withTeam c (t.past .vector 8)) =
    .error (.trap k info) (s.withTeam c (t.past .vector 8))) :
    execVamo x s = .next (s.trapAt c .vector { t with vrstidx := BitVec.ofNat 8 i, vpos := 0 } k { info with detail := i }) := by
  obtain ⟨hpos, hidx, hflags, -⟩ := Team.vamoFields_past t 8
  unfold Team.vamoStart at hleft hstart
  refine engineOp_trapAt (u := { t.past .vector 8 with vrstidx := BitVec.ofNat 8 i, vpos := 0 }) h ?_ ?_ rfl rfl
  · rw [show Engine.vector.stream = Stream.vector from rfl]
    simp only [EStateM.run_bind, runw_waitLanded h.1.1 _ hland, runw_team h.1.1, runw_shared h.1.1, run_need, hpos, hidx, hstart,
      decide_true, if_true, vamoLeft_eq, hleft, run_attempt_trap hrun, runw_modTeam h.1.1, run_trap]
  · rw [show Engine.vector.stream = Stream.vector from rfl, State.rewound_vector]
    have hback : (t.vamoAt (t.past .vector 8).vflags (BitVec.ofNat 8 i) 0) = { t with vrstidx := BitVec.ofNat 8 i, vpos := 0 } := by
      rw [hflags]
      rfl
    exact congrArg (s.withTeam c) ((Team.rewindVector_past t 8 _ _ 0).trans hback)

theorem execVamo_misaligned (hoff : vamoOff x (s.cell c).sh i % 4 ≠ 0) : execVamo x s =
    .next (s.trapAt c .vector { t with vrstidx := BitVec.ofNat 8 i, vpos := 0 } .ldstAlign
      { addr := vamoOff x (s.cell c).sh i, detail := i }) := by
  have htrap := execVamo_traps h hland hstart hleft (run_vamoElement_misaligned h hoff)
  exact htrap

variable {u : Team} {s2 : State} {z : Shared} (hrun : (vamoElement x i).run (s.withTeam c (t.past .vector 8)) =
    .ok () ((s2.withTeam c u).withShared c z)) (hcur : s2.cur = s.cur)
include hrun hcur

theorem execVamo_last (hrest : rest = []) : execVamo x s =
    .next (((s2.withTeam c { u with vrstidx := 0, vpos := 0 }).withShared c z).cycled .vector c t) := by
  obtain ⟨hpos, hidx, -, hkey⟩ := Team.vamoFields_past t 8
  have hc2 : (((s2.withTeam c u).withShared c z).usedReplies (t.key .vector)).cur = .stream c .vector :=
    (State.usedReplies_cur ..).trans (hcur.trans h.1.1)
  unfold Team.vamoStart at hleft hstart
  rw [← State.cycled_usedReplies]
  refine vecOp_ok h ?_
  simp only [EStateM.run_bind, runw_waitLanded h.1.1 _ hland, runw_team h.1.1, runw_shared h.1.1, run_need, hpos, hidx, hstart,
    decide_true, if_true, vamoLeft_eq, hleft, run_attempt_ok hrun, run_modify, hkey, hrest, List.isEmpty_nil, run_modTeam hc2,
    State.modAct_usedReplies, State.modAct_withShared]

theorem execVamo_goesOn (hrest : rest ≠ []) : execVamo x s = .next (((((s2.withTeam c ({ u with vpos := i + 1 }.rewindVector t)).withShared
    c z).usedReplies (t.key .vector)).modAct c id).streamCycle c) := by
  obtain ⟨hpos, hidx, -, hkey⟩ := Team.vamoFields_past t 8
  have hc2 : (((s2.withTeam c u).withShared c z).usedReplies (t.key .vector)).cur = .stream c .vector :=
    (State.usedReplies_cur ..).trans (hcur.trans h.1.1)
  have hempty : rest.isEmpty = false := by simpa using hrest
  unfold Team.vamoStart at hleft hstart
  rw [← State.rewound_vector_shared]
  refine vecOp_wait_from h ?_
  simp only [EStateM.run_bind, runw_waitLanded h.1.1 _ hland, runw_team h.1.1, runw_shared h.1.1, run_need, hpos, hidx, hstart,
    decide_true, if_true, vamoLeft_eq, hleft, run_attempt_ok hrun, run_modify, hkey, hempty, Bool.false_eq_true, if_false, run_modTeam hc2,
    State.modAct_usedReplies, State.modAct_withShared, run_wait]

end

/-- A VAMO that has lanes left stands at its instruction, past the lane it has performed (R403). -/
theorem execVamo_advances {i : Nat} {rest : List Nat} (hleft : vamoLeft x (s.cell c).sh t.vamoStart = i :: rest) (hrest : rest ≠ [])
    {s2 : State} {z : Shared} {f : Flags} (hrun : (vamoElement x i).run (s.withTeam c (t.past .vector 8)) =
      .ok () ((s2.withTeam c { t.past .vector 8 with vflags := f }).withShared c z)) (hcur : s2.cur = s.cur) (hz : z.landings = []) :
    ∃ s', execVamo x s = .next s' ∧ (s'.cell c).sh = z ∧ s'.mem = s2.mem ∧
      (s'.cell c).act = some { t with vflags := f, vpos := i + 1 } := by
  have hteam : ({ t.past .vector 8 with vflags := f, vpos := i + 1 } : Team).rewindVector t = { t with vflags := f, vpos := i + 1 } := by
    refine (Team.rewindVector_past t 8 f (t.past .vector 8).vrstidx (i + 1)).trans ?_
    rw [(Team.vamoFields_past t 8).2.1]
    rfl
  have hexec := execVamo_goesOn h hland hstart hleft hrun hcur hrest
  rw [hteam, State.modAct_usedReplies, State.modAct_withShared] at hexec
  have hcell : (((s2.withTeam c { t with vflags := f, vpos := i + 1 }).withShared c z).usedReplies (t.key .vector)).cell c =
      { (s2.withTeam c { t with vflags := f, vpos := i + 1 }).cell c with sh := z } :=
    (State.cell_usedReplies ..).trans (State.cell_withShared ..)
  have hlanded : ((((s2.withTeam c { t with vflags := f, vpos := i + 1 }).withShared c z).usedReplies (t.key .vector)).cell c).sh.landings =
      [] := by rw [hcell]; exact hz
  refine ⟨_, hexec, ?_, (State.streamCycle_mem_of_landed hlanded).trans (State.usedReplies_mem ..), ?_⟩
  · exact (congrArg Cell.sh ((State.streamCycle_of_landed hlanded).trans hcell)).trans rfl
  · rw [id, State.streamCycle_of_landed hlanded, State.cell_usedReplies]
    exact State.act_withShared (State.act_withTeam ..) z

end

/-! ### Values (R400, R402) -/

section
variable {old v : Nat} (ho : old < 2 ^ 32) (hv : v < 2 ^ 32)
include ho hv

theorem amoLess_iff (u : Bool) : (if u then decide (old < v) else decide (sextNat 32 old < sextNat 32 v)) =
    (if u then (BitVec.ofNat 32 old).ult (BitVec.ofNat 32 v) else (BitVec.ofNat 32 old).slt (BitVec.ofNat 32 v)) := by
  cases u with
  | false => simp only [sextNat_eq_toInt (show 0 < 32 by decide), BitVec.slt, Bool.false_eq_true, if_false]
  | true => simp only [BitVec.ult, BitVec.toNat_ofNat, Nat.mod_eq_of_lt ho, Nat.mod_eq_of_lt hv, if_true]

theorem ofNat_amoNew {f : AmoFn} (hf : f ≠ .cas) (u : Bool) :
    BitVec.ofNat 32 (amoNew f u 32 old v 0) = amoSpec 32 f u (BitVec.ofNat 32 old) (BitVec.ofNat 32 v) := by
  cases f with
  | add => exact BitVec.eq_of_toNat_eq (by simp [amoNew, amoSpec])
  | min => simp only [amoNew, amoSpec, amoLess_iff hv ho, apply_ite (BitVec.ofNat 32)]
  | max => simp only [amoNew, amoSpec, amoLess_iff ho hv, apply_ite (BitVec.ofNat 32)]
  | xchg => rfl
  | cas => exact absurd rfl hf
  | and => simp [amoNew, amoSpec, BitVec.ofNat_and]
  | or => simp [amoNew, amoSpec, BitVec.ofNat_or]

/-- A numbered integer operation of VAMO. -/
theorem atomicNew_eq {n : Nat} (hn : n < 7) (hcas : n ≠ 4) (u : Bool) : (atomicNew n u 32 old v 0).1.map (BitVec.ofNat 32) =
    some (amoSpec 32 (amoFnOf n) u (BitVec.ofNat 32 old) (BitVec.ofNat 32 v)) := by
  have hf : amoFnOf n ≠ .cas := by
    unfold amoFnOf
    split <;> simp_all
  rw [atomicNew, if_neg (by omega), if_neg fun h => hcas h.1, ← ofNat_amoNew ho hv hf]
  rfl

end

/-- The integer operation that FN names (R402). -/
def vamoFn (n : Nat) : AmoFn :=
  match n with
  | 0 => .add
  | 1 => .min
  | 2 => .max
  | 3 => .xchg
  | 4 => .and
  | _ => .or

theorem vamoOp_integer {x : V64} (hty : x.ty ≠ 8) (hfn : x.fn.toNat ≤ 5) :
    vamoOp x < 7 ∧ vamoOp x ≠ 4 ∧ amoFnOf (vamoOp x) = vamoFn x.fn.toNat := by
  simp only [vamoOp, if_neg hty]
  generalize x.fn.toNat = n at hfn ⊢
  interval_cases n <;> decide

/-- Settles O33: branches, deferral queues, banks and VAMO as above. -/
theorem vectorControlAndAtomics : Obligations.VectorControlAndAtomics := by
  refine ⟨fun s c t x y h => ?_, fun s s2 c t x h hland => ?_⟩
  · intro sh cycles ty tx kept target
    refine ⟨fun hpc => ?_, fun hpc => ?_, ?_, fun hb hn hland hvd => ?_, fun hb hn hland => execVdret_outside h hn hland hb, ?_⟩
    · exact ⟨fun hgo => execVbr_taken h hpc hgo, fun hgo => execVbr_not_taken h hpc hgo⟩
    · exact ⟨fun hn => execVloop_taken h hpc hn, fun hn => execVloop_not_taken h hpc hn⟩
    · intro q lanes entry hv hesz
      refine ⟨fun hb hroom => execVdefer_pushes h hv hesz hb hroom, fun hb hfull => execVdefer_full h hv hesz hb hfull,
        fun hb => execVdefer_inBatch h hb, fun hb hn hland => ?_⟩
      intro m n at_ due
      refine ⟨fun hdue hbad => execVdrain_poisoned h hv hesz hb hn hland hdue hbad,
        fun hdue hok => execVdrain_batch h hv hesz hb hn hland hdue hok, fun hcount hnot => execVdrain_idle h hv hesz hb hn hland hcount hnot⟩
    · have hcell := cell_cycled_both s c t { t.past .vector 8 with batch := false } (x := sh.returned x t) hland
      have hmem : ∀ {j}, j ∈ retLanes x t sh ↔ (j < 128 ∧ laneActive x sh j = true) ∧ j < t.batchN := fun {j} => by
        rw [retLanes, List.mem_filter, Shared.mem_active, decide_eq_true_eq]
      refine ⟨_, execVdret_returns h hn hland hb, hcell.1, fun j hj hact hjn ho hlast => ?_, fun r j hr => ?_⟩
      · rw [hcell.2]
        refine laneAt_returned sh x t hvd (hmem.2 ⟨⟨hj, hact⟩, hjn⟩) ho fun k hk hjk => ?_
        obtain ⟨⟨hk, hkact⟩, hkn⟩ := hmem.1 hk
        exact hlast k hjk hk hkact hkn
      · rw [hcell.2]
        exact Shared.latch_clearLatches _ j hr
    · intro k row out d emptied
      refine ⟨fun hwait => exec_bank_waits h hwait, fun hland hfull => ⟨⟨_, execVtake_takes h hland hfull, ⟨rfl, rfl, rfl⟩, rfl,
        takeLanding_writes x sh, fun j => takeLanding_flags x sh⟩, fun hrow =>
          ⟨sh.given x, execVgive_gives h hland hfull, rfl, fun b r i hr hi => ?_⟩⟩⟩
      rw [accOf_given]
      exact accOf_giveRow x sh hrow b hr hi
  · intro sh i0 hi0 tx left
    have hmem : ∀ {j}, j ∈ vamoLeft x sh t.vamoStart ↔ left j := by
      intro j
      rw [mem_vamoLeft]
      rfl
    refine ⟨fun hnone => execVamo_done h hland hi0 ?_, fun i hi hmin => ?_, fun old v hty ho hv hfn => ?_⟩
    · exact List.eq_nil_iff_forall_not_mem.2 fun j hj => hnone j (hmem.1 hj)
    · intro w d hnd off v last
      obtain ⟨rest, hleft, hrest⟩ := vamoLeft_cons (hmem.2 hi) fun j hj => hmin j (hmem.1 hj)
      have hlast : rest = [] ↔ last := hrest.trans ⟨fun hall j hj => hall j (hmem.2 hj), fun hall j hj => hall j (hmem.1 hj)⟩
      refine ⟨fun old hrun hcur hact hsh => ?_, fun hoff => ?_⟩
      · intro z flags u
        have helem := run_vamoElement_ok h hrun hcur hact hsh
        refine ⟨fun hl => execVamo_last h hland hi0 hleft helem hcur (hlast.2 hl), fun hl => ?_⟩
        exact execVamo_advances h hland hi0 hleft (mt hlast.1 hl) helem hcur hland
      · exact execVamo_misaligned h hland hi0 hleft hoff
    · intro f
      obtain ⟨hlt, hcas, hop⟩ := vamoOp_integer hty hfn
      have hnew := atomicNew_eq ho hv hlt hcas (!tySigned x.ty)
      rw [hop] at hnew
      exact hnew

end Sys2Proof.Machine
end

section
/-! Proofs about strand arithmetic: the exact results of R203 are those of bit vectors (R202, R203). -/
namespace Sys2Proof.Machine

/-! ### Exact results as bits (R203) -/

theorem sext64_eq_signExtend_ofNat {n : Nat} (hn : 0 < n) (v : Nat) : sext64 n v = (BitVec.ofNat n v).signExtend 64 := by
  rw [sext64, sextNat_eq_toInt hn, BitVec.signExtend]

section
variable {n : Nat}

theorem ofInt_emod_two_pow (t : Int) : BitVec.ofInt n (t % (2 : Int) ^ n) = BitVec.ofInt n t := by
  apply BitVec.eq_of_toNat_eq
  simp [BitVec.toNat_ofInt]

/-- The high half of a product of double width. -/
theorem setWidth_ushiftRight_ofInt (p : Int) :
    (BitVec.ofInt (2 * n) p >>> n).setWidth n = BitVec.ofInt n (p / (2 : Int) ^ n) := by
  have hpos : (0 : Int) < 2 ^ n := by positivity
  have hsq : ((2 ^ (2 * n) : Nat) : Int) = 2 ^ n * 2 ^ n := by rw [two_mul, pow_add]; push_cast; rfl
  have hnonneg : 0 ≤ p % (2 ^ n * 2 ^ n : Int) := Int.emod_nonneg _ (by positivity)
  apply BitVec.eq_of_toNat_eq
  rw [BitVec.toNat_setWidth, BitVec.toNat_ushiftRight, BitVec.toNat_ofInt, BitVec.toNat_ofInt, Nat.shiftRight_eq_div_pow, hsq]
  zify
  rw [Int.toNat_of_nonneg hnonneg, Int.toNat_of_nonneg (Int.emod_nonneg _ hpos.ne')]
  rw [Int.emod_def p, sub_eq_add_neg, ← mul_neg, mul_assoc, Int.add_mul_ediv_left _ _ hpos.ne', Int.add_mul_emod_self_left]

theorem ofInt_toInt_mul (x y : BitVec n) :
    BitVec.ofInt (2 * n) (x.toInt * y.toInt) = x.signExtend (2 * n) * y.signExtend (2 * n) := by
  rw [BitVec.ofInt_mul, BitVec.signExtend, BitVec.signExtend]

theorem ofInt_toNat_mul (x y : BitVec n) :
    BitVec.ofInt (2 * n) ((x.toNat : Int) * (y.toNat : Int)) = x.setWidth (2 * n) * y.setWidth (2 * n) := by
  rw [BitVec.ofInt_mul, BitVec.ofInt_natCast, BitVec.ofInt_natCast, BitVec.ofNat_toNat, BitVec.ofNat_toNat]

theorem ofInt_clampTo (hn : 0 < n) (u : Bool) (t : Int) : BitVec.ofInt n (clampTo n u t) = saturate n u t := by
  have h1 : (0 : Int) < 2 ^ (n - 1) := by positivity
  have h2 : (0 : Int) < 2 ^ n := by positivity
  cases u
  · have hmin : BitVec.ofInt n (-(2 : Int) ^ (n - 1)) = BitVec.intMin n := by rw [← BitVec.toInt_intMin_of_pos hn, BitVec.ofInt_toInt]
    have hmax : BitVec.ofInt n ((2 : Int) ^ (n - 1) - 1) = BitVec.intMax n := by rw [← BitVec.toInt_intMax, BitVec.ofInt_toInt]
    simp only [clampTo, saturate, Bool.false_eq_true, if_false]
    push_cast
    simp only [Int.sub_one_lt_iff, apply_ite (BitVec.ofInt n), hmin, hmax]
  · have hmax : BitVec.ofInt n ((2 : Int) ^ n - 1) = BitVec.allOnes n := by
      rw [sub_eq_add_neg, BitVec.ofInt_add, BitVec.ofInt_neg, ← BitVec.neg_one_eq_allOnes, ← ofInt_emod_two_pow, Int.emod_self]
      simp
    simp only [clampTo, saturate, if_true]
    push_cast
    simp only [Int.sub_one_lt_iff, apply_ite (BitVec.ofInt n), hmax]
    simp


/-- Signed division: where the quotient does not fit, it wraps to the dividend. -/
theorem ofInt_tdiv (x y : BitVec n) : BitVec.ofInt n (x.toInt.tdiv y.toInt) = x.sdiv y := by
  apply BitVec.eq_of_toInt_eq
  rw [BitVec.toInt_ofInt, BitVec.toInt_sdiv]

theorem ofInt_tmod (x y : BitVec n) : BitVec.ofInt n (x.toInt.tmod y.toInt) = x.srem y := by
  rw [← BitVec.toInt_srem, BitVec.ofInt_toInt]

theorem eq_intMin_of_toInt (hn : 0 < n) {x : BitVec n} (h : x.toInt = -((2 ^ (n - 1) : Nat) : Int)) : x = BitVec.intMin n := by
  apply BitVec.eq_of_toInt_eq
  rw [h, BitVec.toInt_intMin_of_pos hn]
  push_cast
  rfl

/-- The one quotient that does not fit: the dividend is its own negation. -/
theorem sdiv_overflow (hn : 0 < n) {x y : BitVec n} (hx : x.toInt = -((2 ^ (n - 1) : Nat) : Int)) (hy : y.toInt = -1) :
    x.sdiv y = x := by
  rw [← ofInt_tdiv, hy, Int.tdiv_neg, Int.tdiv_one, BitVec.ofInt_neg, BitVec.ofInt_toInt, eq_intMin_of_toInt hn hx,
    BitVec.neg_intMin]

theorem srem_overflow {x y : BitVec n} (hy : y.toInt = -1) : x.srem y = 0 := by
  rw [← ofInt_tmod, hy, Int.tmod_neg, Int.tmod_one]
  rfl

theorem valueOf_eq_zero_iff (u : Bool) (y : BitVec n) : valueOf u y = 0 ↔ y = 0 := by
  cases u
  · simp only [valueOf, Bool.false_eq_true, if_false]
    exact ⟨fun h => BitVec.eq_of_toInt_eq (by simpa using h), fun h => by simp [h]⟩
  · simp only [valueOf, if_true, Int.natCast_eq_zero]
    exact ⟨fun h => BitVec.eq_of_toNat_eq (by simpa using h), fun h => by simp [h]⟩

/-- The exact value of R203, with its operands as the values of bits. -/
theorem aluExact_eq (hn : 0 < n) (op : AluOp) (u sat : Bool) (x y : BitVec n) : aluExact op n u sat x.toNat y.toNat =
    match op with
    | .add => if sat then clampTo n u (valueOf u x + valueOf u y) else valueOf u x + valueOf u y
    | .sub => if sat then clampTo n u (valueOf u x - valueOf u y) else valueOf u x - valueOf u y
    | .mul => if sat then clampTo n u (valueOf u x * valueOf u y) else valueOf u x * valueOf u y
    | .mulh => (valueOf u x * valueOf u y) / (2 : Int) ^ n
    | .div => if y = 0 then -1
        else if u = false ∧ x.toInt = -((2 ^ (n - 1) : Nat) : Int) ∧ y.toInt = -1 then x.toInt else (valueOf u x).tdiv (valueOf u y)
    | .rem => if y = 0 then valueOf u x
        else if u = false ∧ x.toInt = -((2 ^ (n - 1) : Nat) : Int) ∧ y.toInt = -1 then 0 else (valueOf u x).tmod (valueOf u y)
    | .and => (x.toNat &&& y.toNat : Nat)
    | .or => (x.toNat ||| y.toNat : Nat)
    | .xor => (x.toNat ^^^ y.toNat : Nat)
    | .shl => if n ≤ y.toNat then 0 else (x.toNat * 2 ^ y.toNat : Nat)
    | .shr => if n ≤ y.toNat then 0 else (x.toNat / 2 ^ y.toNat : Nat)
    | .sra => if n ≤ y.toNat then (if x.toInt < 0 then -1 else 0) else x.toInt / (2 : Int) ^ y.toNat
    | .min => if valueOf u x ≤ valueOf u y then valueOf u x else valueOf u y
    | .max => if valueOf u x ≤ valueOf u y then valueOf u y else valueOf u x := by
  have hval : ∀ z : BitVec n, (if u = true then (z.toNat : Int) else z.toInt) = valueOf u z := fun _ => rfl
  cases op <;> simp only [aluExact, sextNat_eq_toInt hn, BitVec.ofNat_toNat, BitVec.setWidth_eq, hval, valueOf_eq_zero_iff,
    Nat.shiftLeft_eq, Nat.shiftRight_eq_div_pow]
  case mulh => push_cast; rfl
  case div => cases u <;> simp [valueOf]
  case rem => cases u <;> simp [valueOf, Int.tmod_def]
  case sra => push_cast; rfl

/-- The exact quotient of R203, and the dividend where the quotient does not fit, are the quotient of the bits. -/
theorem ofInt_quotient (hn : 0 < n) (u : Bool) (x y : BitVec n) :
    BitVec.ofInt n (if u = false ∧ x.toInt = -((2 ^ (n - 1) : Nat) : Int) ∧ y.toInt = -1 then x.toInt
      else (valueOf u x).tdiv (valueOf u y)) = if u then x / y else x.sdiv y := by
  split
  · next h =>
    obtain ⟨rfl, hx, hy⟩ := h
    rw [BitVec.ofInt_toInt, if_neg (by decide), sdiv_overflow hn hx hy]
  · cases u
    · exact ofInt_tdiv x y
    · apply BitVec.eq_of_toNat_eq
      simp only [valueOf, if_true, BitVec.toNat_udiv]
      rw [← Int.ofNat_tdiv, BitVec.ofInt_natCast, BitVec.toNat_ofNat]
      exact Nat.mod_eq_of_lt (Nat.lt_of_le_of_lt (Nat.div_le_self ..) x.isLt)

/-- The same for the remainder. -/
theorem ofInt_remainder (u : Bool) (x y : BitVec n) :
    BitVec.ofInt n (if u = false ∧ x.toInt = -((2 ^ (n - 1) : Nat) : Int) ∧ y.toInt = -1 then 0
      else (valueOf u x).tmod (valueOf u y)) = if u then x % y else x.srem y := by
  split
  · next h =>
    obtain ⟨rfl, _, hy⟩ := h
    rw [if_neg (by decide), srem_overflow hy]
    rfl
  · cases u
    · exact ofInt_tmod x y
    · apply BitVec.eq_of_toNat_eq
      simp only [valueOf, if_true, BitVec.toNat_umod]
      rw [← Int.ofNat_tmod, BitVec.ofInt_natCast, BitVec.toNat_ofNat]
      exact Nat.mod_eq_of_lt (Nat.lt_of_le_of_lt (Nat.mod_le ..) x.isLt)

theorem ofInt_aluExact (hn : 0 < n) (op : AluOp) (u sat : Bool) (x y : BitVec n) :
    BitVec.ofInt n (aluExact op n u sat x.toNat y.toNat) = aluBits n op u sat x y := by
  have hzero : BitVec.ofInt n 0 = 0 := rfl
  have hones : BitVec.ofInt n (-1) = BitVec.allOnes n := by rw [BitVec.ofInt_neg, ← BitVec.neg_one_eq_allOnes]; rfl
  rw [aluExact_eq hn]
  cases op <;> simp only [aluBits, apply_ite (BitVec.ofInt n), ofInt_clampTo hn, ofInt_valueOf, BitVec.ofInt_add, BitVec.ofInt_mul,
    BitVec.ofInt_natCast, BitVec.ofNat_and, BitVec.ofNat_or, BitVec.ofNat_xor, BitVec.ofNat_toNat, BitVec.setWidth_eq,
    ofNat_mul_two_pow, ofNat_div_two_pow x.isLt, valueOf_le_iff, hzero, hones]
  case sub => rw [sub_eq_add_neg, BitVec.ofInt_add, BitVec.ofInt_neg, ofInt_valueOf, ofInt_valueOf, BitVec.sub_eq_add_neg]
  case mulh =>
    rw [← setWidth_ushiftRight_ofInt]
    cases u
    · exact congrArg (fun w : BitVec (2 * n) => (w >>> n).setWidth n) (ofInt_toInt_mul x y)
    · exact congrArg (fun w : BitVec (2 * n) => (w >>> n).setWidth n) (ofInt_toNat_mul x y)
  case div => rw [← ofInt_quotient hn, apply_ite (BitVec.ofInt n)]
  case rem => rw [← ofInt_remainder, apply_ite (BitVec.ofInt n)]; rfl
  case sra =>
    rw [BitVec.sshiftRight_eq, Int.shiftRight_eq_div_pow, BitVec.msb_eq_toInt]
    simp only [decide_eq_true_eq]
    norm_cast

end

theorem alu_eq_aluSpec (op : AluOp) (md : BitVec 3) (a b : Word) : alu op md a b = aluSpec op md a b := by
  unfold alu aluSpec
  cases md.getLsbD 0
  · simp only [Bool.false_eq_true, if_false]
    rw [sext64_eq_signExtend_ofNat (by decide), ofNat_lowBits, Nat.mod_eq_of_lt a.isLt, Nat.mod_eq_of_lt b.isLt,
      ofInt_aluExact (by decide), BitVec.signExtend_eq]
  · simp only [if_true]
    rw [sext64_eq_signExtend_ofNat (by decide), ofNat_lowBits, ← BitVec.toNat_setWidth, ← BitVec.toNat_setWidth,
      ofInt_aluExact (by decide)]

section
variable {s : State} {c : Nat} {t : Team}

theorem Team.key_setSreg (t : Team) (r : Nat) (v : Word) (st : Stream) : (t.setSreg r v).key st = t.key st := by
  rw [Team.setSreg_eq]
  rfl

/-- An instruction of the strand whose body writes one register. -/
theorem strandOp_setSreg {len : Nat} {pg : BitVec 3} {body : M Unit} {r : Nat} {v : Word} (h : Guarded s c t pg)
    (hb : body.run (s.withTeam c (t.past .strand len)) = .ok () (s.withTeam c ((t.past .strand len).setSreg r v))) :
    strandOp len pg body s = .next (s.after c ((t.past .strand len).setSreg r v)) :=
  strandOp_after h hb (Team.key_setSreg ..)

@[simp] theorem Team.sreg_past_strand (t : Team) (len r : Nat) : (t.past .strand len).sreg r = t.sreg r := rfl

theorem aluReg_next (op : AluOp) {x : S32} (h : Guarded s c t x.pg) : aluReg op x s =
    .next (s.after c ((t.past .strand 4).setSreg x.rd.toNat (aluSpec op x.md (t.sreg x.rs1.toNat) (t.sreg x.rs2.toNat)))) :=
  strandOp_setSreg h (by simp [runw_sreg h.1.1, runw_setSreg h.1.1, alu_eq_aluSpec])

theorem aluImm_next (op : AluOp) {x : S64} (h : Guarded s c t x.r.pg) : aluImm op x s =
    .next (s.after c ((t.past .strand 8).setSreg x.r.rd.toNat (aluSpec op x.r.md (t.sreg x.r.rs1.toNat) (x.imm.signExtend 64)))) :=
  strandOp_setSreg h (by simp [runw_sreg h.1.1, runw_setSreg h.1.1, alu_eq_aluSpec, sext64_eq_signExtend])

end

/-- Settles O1: the exact result of R203, reduced to its width, is the result of the bit-vector operation. -/
theorem aluForms : Obligations.AluForms := by
  refine ⟨fun s c t x h p hp => ?_, fun s c t x h p hp => ?_⟩
  · revert p
    simp only [List.forall_mem_cons, List.not_mem_nil, false_imp_iff, implies_true, and_true]
    exact ⟨aluReg_next .add h, aluReg_next .sub h, aluReg_next .mul h, aluReg_next .mulh h, aluReg_next .div h, aluReg_next .rem h,
      aluReg_next .and h, aluReg_next .or h, aluReg_next .xor h, aluReg_next .shl h, aluReg_next .shr h, aluReg_next .sra h,
      aluReg_next .min h, aluReg_next .max h⟩
  · revert p
    simp only [List.forall_mem_cons, List.not_mem_nil, false_imp_iff, implies_true, and_true]
    exact ⟨aluImm_next .add h, aluImm_next .sub h, aluImm_next .mul h, aluImm_next .mulh h, aluImm_next .div h, aluImm_next .rem h,
      aluImm_next .and h, aluImm_next .or h, aluImm_next .xor h, aluImm_next .shl h, aluImm_next .shr h, aluImm_next .sra h,
      aluImm_next .min h, aluImm_next .max h⟩

end Sys2Proof.Machine
end

section
/-! Proofs about writes of strand registers and predicates (R196, R197, R200). -/
namespace Sys2Proof.Machine

theorem Team.regOf_putReg_self (t : Team) {r : Nat} (hr : r ≠ 0) (v : Word) : (t.putReg r v).regOf r = v := by
  unfold Team.putReg Team.regOf
  rw [if_neg hr]
  cases h : t.priv && decide (24 ≤ r) <;> simp_all

/-- No outstanding load returns to a register that has been written since (R197). -/
theorem find_released (t : Team) (r : Nat) : (t.loads.map (Load.released r)).reverse.find? (fun l => l.reg == some r) = none := by
  rw [List.find?_eq_none]
  intro l hl
  obtain ⟨l', _, rfl⟩ := List.mem_map.1 (List.mem_reverse.1 hl)
  unfold Load.released
  split <;> simp_all

theorem Team.sreg_setSreg_self (t : Team) {r : Nat} (hr : r ≠ 0) (v : Word) : (t.setSreg r v).sreg r = v := by
  rw [Team.setSreg_pos hr, Team.sreg, if_neg hr, Team.putReg_loads]
  simp only [find_released, Team.regOf_putReg_self _ hr]

/-- What every register reads after a write of one (R196, R200). -/
theorem Team.sreg_setSreg (t : Team) (r k : Nat) (v : Word) :
    (t.setSreg r v).sreg k = if k = 0 then 0 else if k = r then v else t.sreg k := by
  by_cases hk : k = 0
  · rw [hk, if_pos rfl]
    rfl
  · rw [if_neg hk]
    by_cases h : k = r
    · rw [if_pos h, ← h, Team.sreg_setSreg_self t hk]
    · rw [if_neg h, Team.sreg_setSreg_ne h]

/-- Outside privileged mode the privileged registers keep their values. -/
theorem Team.pregs_setSreg {t : Team} (h : t.priv = false) (r : Nat) (v : Word) : (t.setSreg r v).pregs = t.pregs := by
  by_cases hr : r = 0
  · rw [hr, Team.setSreg_zero]
  · rw [Team.setSreg_pos hr, Team.putReg, if_neg hr]
    simp [h]

theorem Team.setPred_eq (t : Team) (p : Nat) (b : Bool) : t.setPred p b = { t with preds := (t.setPred p b).preds } := by
  unfold Team.setPred
  split <;> rfl

/-- What every predicate reads after a write of one (R200). -/
theorem Team.pred_setPred (t : Team) {p q : Nat} (b : Bool) (hp : p < 8) (hq : q < 8) :
    (t.setPred p b).pred q = if q = 0 then true else if q = p then b else t.pred q := by
  have hbit : (BitVec.ofNat 8 (2 ^ p)).getLsbD q = decide (q = p) := by
    rw [BitVec.getLsbD_ofNat, Nat.testBit_two_pow, decide_eq_true hq, Bool.true_and]
    exact decide_eq_decide.2 eq_comm
  by_cases hq0 : q = 0
  · rw [hq0]
    rfl
  · simp only [Team.setPred, Team.pred, Nat.mod_eq_of_lt hp, Nat.mod_eq_of_lt hq, if_neg hq0, beq_false_of_ne hq0, Bool.false_or]
    by_cases hp0 : p = 0
    · rw [if_pos hp0, if_neg (hp0 ▸ hq0)]
    · rw [if_neg hp0]
      cases b
      · show (t.preds &&& ~~~BitVec.ofNat 8 (2 ^ p)).getLsbD q = _
        rw [BitVec.getLsbD_and, BitVec.getLsbD_not, hbit, decide_eq_true hq]
        by_cases h : q = p <;> simp [h]
      · show (t.preds ||| BitVec.ofNat 8 (2 ^ p)).getLsbD q = _
        rw [BitVec.getLsbD_or, hbit]
        by_cases h : q = p <;> simp [h]

/-- Settles O4: a write of one register or predicate is what that one reads, and every other reads as before. -/
theorem registerWrites : Obligations.RegisterWrites := by
  intro t r v _
  exact ⟨fun k _ => t.sreg_setSreg r k v, ⟨_, _, _, t.setSreg_eq r v, fun h => Team.pregs_setSreg h r v⟩,
    fun p b hp => ⟨fun q hq => t.pred_setPred b hp hq, _, t.setPred_eq p b⟩⟩

end Sys2Proof.Machine
end

section
/-! Proofs about bit operations, comparison, selection and literals of the strand (R204 to R208, R231, R235). -/
namespace Sys2Proof.Machine

/-! ### Counts of bits (R204) -/

theorem clzNat_le (n a : Nat) : clzNat n a ≤ n := by
  unfold clzNat
  split <;> omega

/-- Above the highest one of a value there are only zeros. -/
theorem testBit_of_clzNat_le {n a i : Nat} (hi : n - clzNat n a ≤ i) (hin : i < n) : a.testBit i = false := by
  unfold clzNat at hi
  split at hi
  · next h => rw [h, Nat.zero_testBit]
  · refine Nat.testBit_eq_false_of_lt (lt_of_lt_of_le Nat.lt_log2_self (Nat.pow_le_pow_right (by decide) ?_))
    omega

/-- The highest one. -/
theorem testBit_clzNat {n a : Nat} (ha : a < 2 ^ n) (h : clzNat n a < n) : a.testBit (n - 1 - clzNat n a) = true := by
  have h0 : a ≠ 0 := by
    rintro rfl
    simp [clzNat] at h
  have hlog : a.log2 < n := (Nat.log2_lt h0).2 ha
  rw [clzNat, if_neg h0, show n - 1 - (n - 1 - a.log2) = a.log2 by omega]
  exact Nat.testBit_log2 h0

theorem popcNat_zero (n : Nat) : popcNat n 0 = 0 := by
  induction n with
  | zero => rfl
  | succ n ih => simp [popcNat, ih]

/-- The ones among the low `n` bits. -/
theorem popcNat_mod (m : Nat) : ∀ n a : Nat, popcNat (n + m) (a % 2 ^ n) = ((List.range n).filter fun i => a.testBit i).length
  | 0, a => by simp [Nat.mod_one, popcNat_zero]
  | n + 1, a => by
    have hlow : a % 2 ^ (n + 1) % 2 = a % 2 := Nat.mod_mod_of_dvd _ (Dvd.intro_left (2 ^ n) rfl)
    have hhigh : a % 2 ^ (n + 1) / 2 = a / 2 % 2 ^ n := by rw [Nat.pow_succ', Nat.mod_mul_right_div_self]
    have hrest : ((fun i => a.testBit i) ∘ Nat.succ) = fun i => (a / 2).testBit i := funext fun i => Nat.testBit_succ a i
    rw [Nat.add_right_comm, popcNat, hlow, hhigh, popcNat_mod m n, List.range_succ_eq_map, List.filter_cons, List.filter_map, hrest,
      Nat.testBit_zero]
    obtain h | h := Nat.mod_two_eq_zero_or_one a <;> simp [h, Nat.add_comm]

/-- Of a register only the low `n` bits are counted. -/
theorem popcNat_toNat {n : Nat} (hn : n ≤ 64) (a : Word) :
    popcNat 64 (a.toNat % 2 ^ n) = ((List.range n).filter fun i => a.getLsbD i).length := by
  have h := popcNat_mod (64 - n) n a.toNat
  rwa [Nat.add_sub_cancel' hn] at h

theorem widthOf_le (md : BitVec 3) : widthOf md ≤ 64 := by
  unfold widthOf
  split <;> omega

/-! ### Bit fields (R205) -/

/-- The bits of a field that is extended. -/
theorem getLsbD_extField (u : Bool) (len v : Nat) {i : Nat} (hi : i < 64) : (extField u len v).getLsbD i =
    if i < len then v.testBit i else if u || len == 0 then false else v.testBit (len - 1) := by
  cases u with
  | true =>
    rw [extField, if_pos rfl, wd, BitVec.getLsbD_ofNat, Nat.testBit_mod_two_pow, decide_eq_true hi]
    by_cases h : i < len <;> simp [h]
  | false =>
    rw [extField, if_neg (by decide)]
    obtain rfl | hlen := Nat.eq_zero_or_pos len
    · simp [sext64, sextNat]
    · rw [sext64_eq_signExtend_ofNat hlen, BitVec.getLsbD_signExtend, BitVec.getLsbD_ofNat, BitVec.msb_eq_getLsbD_last,
        BitVec.getLsbD_ofNat, decide_eq_true hi]
      by_cases h : i < len <;> simp [h, hlen, hlen.ne']

/-- BFX and EXT: the field's bits, then zeros or its highest bit. -/
theorem getLsbD_bfx (u : Bool) (a : Word) (pos len : Nat) {i : Nat} (hi : i < 64) : (bfx u a (pos, len)).getLsbD i =
    if i < len then a.getLsbD (pos + i) else if u || len == 0 then false else a.getLsbD (pos + len - 1) := by
  have hbits : ∀ j, (a.toNat / 2 ^ pos).testBit j = a.getLsbD (pos + j) := fun j => by
    rw [Nat.testBit_div_two_pow, Nat.add_comm]
    rfl
  refine (getLsbD_extField u len (a.toNat / 2 ^ pos) hi).trans ?_
  rw [hbits, hbits]
  obtain rfl | hlen := Nat.eq_zero_or_pos len
  · simp
  · rw [Nat.add_sub_assoc hlen]

/-- BFI: the field's bits inside the field, and the old ones outside. -/
theorem getLsbD_bfi (old a : Word) (pos len : Nat) {i : Nat} (hi : i < 64) : (bfi old a (pos, len)).getLsbD i =
    if pos ≤ i ∧ i < pos + len then a.getLsbD (i - pos) else old.getLsbD i := by
  have hmask : (wd ((2 ^ len - 1) * 2 ^ pos)).getLsbD i = decide (pos ≤ i ∧ i < pos + len) := by
    rw [wd, BitVec.getLsbD_ofNat, Nat.testBit_mul_two_pow, Nat.testBit_two_pow_sub_one, decide_eq_true hi, Bool.true_and,
      ← Bool.decide_and, decide_eq_decide]
    omega
  have hfield : (wd (a.toNat % 2 ^ len * 2 ^ pos)).getLsbD i = (decide (pos ≤ i ∧ i < pos + len) && a.getLsbD (i - pos)) := by
    rw [wd, BitVec.getLsbD_ofNat, Nat.testBit_mul_two_pow, Nat.testBit_mod_two_pow, decide_eq_true hi, Bool.true_and,
      ← Bool.and_assoc, ← Bool.decide_and]
    refine congrArg (· && a.toNat.testBit (i - pos)) (decide_eq_decide.2 ?_)
    omega
  simp only [bfi, BitVec.getLsbD_or, BitVec.getLsbD_and, BitVec.getLsbD_not, hmask, hfield, decide_eq_true hi]
  by_cases h : pos ≤ i ∧ i < pos + len <;> simp [h]

/-! ### Comparison and literals (R206, R208) -/

theorem append_eq_ofNat (a b : BitVec 32) : (a ++ b : Word) = BitVec.ofNat 64 (a.toNat * 2 ^ 32 + b.toNat) := by
  apply BitVec.eq_of_toNat_eq
  rw [BitVec.toNat_append, ← Nat.shiftLeft_add_eq_or_of_lt b.isLt, Nat.shiftLeft_eq, BitVec.toNat_ofNat, Nat.mod_eq_of_lt]
  omega

theorem cmpCond_cases (md : BitVec 3) (a b : Word) :
    ∀ p ∈ [(0, decide (a = b)), (1, decide (a ≠ b)), (2, decide (a.toInt < b.toInt)), (3, decide (b.toInt ≤ a.toInt)),
      (4, decide (a.toNat < b.toNat)), (5, decide (b.toNat ≤ a.toNat)), (6, decide (a &&& b ≠ 0)), (7, decide (a &&& b = 0))],
      md.toNat = p.1 → cmpCond md a b = p.2 := by
  simp only [List.forall_mem_cons, List.not_mem_nil, false_imp_iff, implies_true, and_true]
  refine ⟨?_, ?_, ?_, ?_, ?_, ?_, ?_, ?_⟩ <;> intro h <;> simp only [cmpCond, h]
  · rfl
  · exact (decide_not ..).symm
  · rfl
  · exact (decide_not ..).symm.trans (decide_eq_decide.2 Int.not_lt)
  · rfl
  · exact (decide_not ..).symm.trans (decide_eq_decide.2 Nat.not_lt)
  · exact (decide_not ..).symm
  · rfl

section
variable {s : State} {c : Nat} {t : Team}

/-- An instruction of the strand whose body writes one predicate. -/
theorem strandOp_setPred {len : Nat} {pg : BitVec 3} {body : M Unit} {p : Nat} {b : Bool} (h : Guarded s c t pg)
    (hb : body.run (s.withTeam c (t.past .strand len)) = .ok () (s.withTeam c ((t.past .strand len).setPred p b))) :
    strandOp len pg body s = .next (s.after c ((t.past .strand len).setPred p b)) :=
  strandOp_after h hb (by rw [Team.setPred_eq]; rfl)

/-- An instruction of the strand that only goes on. -/
theorem strandOp_nothing {len : Nat} {pg : BitVec 3} (h : Guarded s c t pg) :
    strandOp len pg (pure ()) s = .next (s.after c (t.past .strand len)) := strandOp_after h rfl rfl

theorem fieldDesc_toNat {w : Nat} (d : BitVec w) : fieldDesc d.toNat =
    ((d.extractLsb' 0 6).toNat, min (d.extractLsb' 6 7).toNat (64 - (d.extractLsb' 0 6).toNat)) := by
  simp [fieldDesc, Nat.shiftRight_eq_div_pow]

end

/-- Settles O2: leading zeros, ones and fields bit by bit. -/
theorem bitOperations : Obligations.BitOperations := by
  refine ⟨fun s c t x h => ?_, fun s c t x y h h' => ?_⟩
  · intro n a
    have hlow : ∀ {i}, i < n → (a.toNat % 2 ^ n).testBit i = a.getLsbD i := fun {i} hi => by
      rw [Nat.testBit_mod_two_pow, decide_eq_true hi, Bool.true_and]
      rfl
    refine ⟨⟨clzNat n (a.toNat % 2 ^ n), clzNat_le .., ?_, fun i hi hin => ?_, fun hz => ?_⟩, ?_⟩
    · exact strandOp_setSreg h (by simp [runw_sreg h.1.1, runw_setSreg h.1.1]; rfl)
    · exact (hlow hin).symm.trans (testBit_of_clzNat_le hi hin)
    · exact (hlow (by omega)).symm.trans (testBit_clzNat (Nat.mod_lt _ (by positivity)) hz)
    · refine strandOp_setSreg h ?_
      simp [runw_sreg h.1.1, runw_setSreg h.1.1, popcNat_toNat (widthOf_le _)]
      rfl
  · intro ext ins to32 to64 d pos len
    refine ⟨⟨bfx (x.md.getLsbD 1) (t.sreg x.rs1.toNat) (pos, min len (64 - pos)), ?_, fun i hi => getLsbD_bfx _ _ _ _ hi⟩,
      ⟨bfi (t.sreg x.rd.toNat) (t.sreg x.rs1.toNat) (pos, min len (64 - pos)), ?_, fun i hi => getLsbD_bfi _ _ _ _ hi⟩,
      ⟨bfx (x.md.getLsbD 1) (t.sreg x.rs1.toNat) (0, min (d.extractLsb' 0 7).toNat 64), ?_, fun i hi => ?_⟩, ?_⟩
    · exact strandOp_setSreg h (by simp [runw_sreg h.1.1, runw_setSreg h.1.1, fieldDesc_toNat]; rfl)
    · exact strandOp_setSreg h (by simp [runw_sreg h.1.1, runw_setSreg h.1.1, fieldDesc_toNat]; rfl)
    · exact strandOp_setSreg h (by simp [runw_sreg h.1.1, runw_setSreg h.1.1]; rfl)
    · exact getLsbD_bfx _ _ _ _ hi
    · intro pos len
      refine ⟨fun hfit => ?_, fun hfit => ?_⟩
      · have hdesc : fieldDesc y.imm.toNat = (pos, len) := by
          rw [fieldDesc_toNat]
          exact congrArg (Prod.mk pos) (Nat.min_eq_left (by omega))
        refine ⟨⟨bfx (y.r.md.getLsbD 1) (t.sreg y.r.rs1.toNat) (pos, len), ?_, fun i hi => getLsbD_bfx _ _ _ _ hi⟩,
          ⟨bfi (t.sreg y.r.rd.toNat) (t.sreg y.r.rs1.toNat) (pos, len), ?_, fun i hi => getLsbD_bfi _ _ _ _ hi⟩⟩
        · exact strandOp_setSreg h' (by simp [runw_sreg h.1.1, runw_setSreg h.1.1, hdesc])
        · exact strandOp_setSreg h' (by simp [runw_sreg h.1.1, runw_setSreg h.1.1, hdesc])
      · refine ⟨bfx (y.r.md.getLsbD 1) (t.sreg y.r.rs1.toNat) (0, (y.imm.extractLsb' 0 7).toNat), ?_,
          fun i hi => getLsbD_bfx _ _ _ _ hi⟩
        refine strandOp_setSreg h' ?_
        have hlen : min (y.imm.toNat % 128) 64 = (y.imm.extractLsb' 0 7).toNat := by
          rw [BitVec.extractLsb'_toNat, Nat.shiftRight_zero] at hfit ⊢
          exact Nat.min_eq_left hfit
        simp [runw_sreg h.1.1, runw_setSreg h.1.1, hlen]

/-- Settles O3: what CMP, SEL, LI and TSTAMP write, and that NOP only goes on. -/
theorem compareSelectLiterals : Obligations.CompareSelectLiterals := by
  refine ⟨fun s c t x h => ⟨?_, ?_, ?_, strandOp_nothing h⟩, fun s c t x h => ⟨?_, ?_, strandOp_nothing h⟩,
    fun s c t x h => ⟨?_, strandOp_nothing h⟩⟩
  · exact fun p hp hmd => strandOp_setPred h (by simp [runw_sreg h.1.1, runw_setPred h.1.1, cmpCond_cases _ _ _ p hp hmd])
  · exact strandOp_setSreg h (by simp [runw_sreg h.1.1, runw_setSreg h.1.1, runw_team h.1.1]; rfl)
  · exact strandOp_setSreg h (by simp [runw_setSreg h.1.1]; rfl)
  · exact fun p hp hmd => strandOp_setPred h (by
      simp [runw_sreg h.1.1, runw_setPred h.1.1, sext64_eq_signExtend, cmpCond_cases _ _ _ p hp hmd])
  · exact strandOp_setSreg h (by rw [runw_setSreg h.1.1, sext64_eq_signExtend, wd, BitVec.ofNat_toNat])
  · exact strandOp_setSreg h (by rw [runw_setSreg h.1.1, append_eq_ofNat])

end Sys2Proof.Machine
end

section
/-! Proofs about accesses through handles (R27, R309): to the issuing team's own vault (R306, R322 to R324, R524) and to local memory
(R310 to R315, R329). -/
namespace Sys2Proof.Machine

/-! ### A state whose team is replaced -/

section
variable (s : State) (c : Nat) (u : Team)

theorem State.countAccess_withTeam (f : Nat) : (s.withTeam c u).countAccess f = (s.countAccess f).withTeam c u := by
  have hmem : ∀ cs, (({ s with cells := cs } : State).countAccess f).mem = (s.countAccess f).mem := fun cs => by
    simp only [State.countAccess, State.startSwap, apply_ite State.mem]
    rfl
  obtain ⟨cs, sw, hs⟩ := s.countAccess_eq f
  obtain ⟨cs', sw', hs'⟩ := (s.withTeam c u).countAccess_eq f
  have hboth := (congrArg State.mem hs').symm.trans ((hmem _).trans (congrArg State.mem hs))
  rw [hs, hs']
  exact congrArg (fun m => ({ s.withTeam c u with mem := m } : State)) hboth

theorem State.handleRead_withTeam (a n : Nat) : (s.withTeam c u).handleRead a n = (s.handleRead a n).withTeam c u := by
  unfold State.handleRead
  change (s.handleFrame a n).elim (s.withTeam c u) (s.withTeam c u).countAccess = _
  cases s.handleFrame a n with
  | none => rfl
  | some f => exact s.countAccess_withTeam c u f

end

/-- Reading a handle entry counts an access at most: counters and swaps of groups (R329). -/
theorem State.handleRead_eq (s : State) (a h : Nat) :
    ∃ cs sw, s.handleRead a h = { s with mem := { s.mem with counts := cs, swaps := sw } } := by
  unfold State.handleRead
  cases s.handleFrame a h with
  | none => exact ⟨s.mem.counts, s.mem.swaps, rfl⟩
  | some f => exact s.countAccess_eq f

section
variable (s : State) (a h : Nat)

@[simp] theorem State.handleRead_cur : (s.handleRead a h).cur = s.cur := by
  obtain ⟨_, _, he⟩ := s.handleRead_eq a h
  rw [he]
@[simp] theorem State.cell_handleRead (c : Nat) : (s.handleRead a h).cell c = s.cell c := by
  obtain ⟨_, _, he⟩ := s.handleRead_eq a h
  rw [he]
  rfl
@[simp] theorem State.handleRead_posted : (s.handleRead a h).mem.posted = s.mem.posted := by
  obtain ⟨_, _, he⟩ := s.handleRead_eq a h
  rw [he]

end

/-! ### The checks of R27 -/

section
variable {s : State} {a h off n : Nat} {write : Bool} {e : HEntry}

/-- The checks, after the entry has been read. -/
def handleChecks (s : State) (a h off n : Nat) (write : Bool) : M (Nat × Nat) :=
  match s.handle? a h with
  | none => trap .handleInvalid
  | some e => do
    need (e.fits off n) .handleBound { addr := some (e.flat off % 2 ^ 64) }
    need (!write || !e.wp) .handleRo { addr := some (e.flat off % 2 ^ 64) }
    pure (e.flat off, e.ord)

theorem run_handleAt (hfree : ∀ f, s.handleFrame a h = some f → s.swapBlocks f = false) :
    (handleAt a h off n write).run s = (handleChecks s a h off n write).run (s.handleRead a h) := by
  unfold handleAt State.handleRead
  cases hf : s.handleFrame a h with
  | none =>
    simp only [EStateM.run_bind, run_get, hf, Option.elim_none]
    rfl
  | some f =>
    simp only [EStateM.run_bind, run_get, hf, run_waitFor, hfree f hf, Bool.not_false, if_true, run_modify, Option.elim_some]
    rfl

theorem run_handleAt_ok (hok : HandleOk s a h off n write e) :
    (handleAt a h off n write).run s = .ok (e.flat off, e.ord) (s.handleRead a h) := by
  obtain ⟨hentry, hfits, hwp, hfree⟩ := hok
  have hro : (!write || !e.wp) = true := by cases write <;> simp_all
  simp [run_handleAt hfree, handleChecks, hentry, hfits, run_need, hro]

theorem run_handleAt_invalid (hfree : ∀ f, s.handleFrame a h = some f → s.swapBlocks f = false) (hentry : s.handle? a h = none) :
    (handleAt a h off n write).run s = .error (.trap .handleInvalid {}) (s.handleRead a h) := by
  simp [run_handleAt hfree, handleChecks, hentry]

theorem run_handleAt_bound (hfree : ∀ f, s.handleFrame a h = some f → s.swapBlocks f = false) (hentry : s.handle? a h = some e)
    (hfits : e.fits off n = false) :
    (handleAt a h off n write).run s = .error (.trap .handleBound { addr := some (e.flat off % 2 ^ 64) }) (s.handleRead a h) := by
  simp [run_handleAt hfree, handleChecks, hentry, hfits, run_need]

theorem run_handleAt_ro (hfree : ∀ f, s.handleFrame a h = some f → s.swapBlocks f = false) (hentry : s.handle? a h = some e)
    (hfits : e.fits off n = true) (hwp : e.wp = true) :
    (handleAt a h off n true).run s = .error (.trap .handleRo { addr := some (e.flat off % 2 ^ 64) }) (s.handleRead a h) := by
  simp [run_handleAt hfree, handleChecks, hentry, hfits, hwp, run_need]

end

/-! ### The own vault (R306, R322, R524) -/

theorem State.drainPosted_none {s : State} {p : Posted → Bool} (h : ∀ x ∈ s.mem.posted, p x = false) : s.drainPosted p = s := by
  have hgo : s.mem.posted.filter p = [] := List.filter_eq_nil_iff.2 fun x hx => by simp [h x hx]
  have hkeep : s.mem.posted.filter (fun x => !p x) = s.mem.posted := List.filter_eq_self.2 fun x hx => by simp [h x hx]
  simp only [State.drainPosted, hgo, hkeep, List.foldl_nil]

section
variable {s : State} {c : Nat} {t : Team} {w : Who} {h off n v : Nat} {write : Bool} (ht : (s.cell c).act = some t)
  (hw : w.asid = t.asid ∧ w.cell = c ∧ w.stage = (s.cell c).active)
include ht hw

theorem run_vaultDest_self (hv : v < 2 ^ 23) (hin : v + n ≤ t.valloc * 65536) :
    (vaultDest w (3 * 2 ^ 52 + (2 ^ 31 + v)) n).run s = .ok (.vault (.here c (s.cell c).active) c v false) s := by
  obtain ⟨hasid, hcell, hstage⟩ := hw
  have hoff : (3 * 2 ^ 52 + (2 ^ 31 + v)) % 2 ^ 23 = v := by omega
  have hself : (3 * 2 ^ 52 + (2 ^ 31 + v)) / 2 ^ 31 % 2 = 1 := by omega
  have hzero : (3 * 2 ^ 52 + (2 ^ 31 + v)) / 2 ^ 23 % 256 = 0 := by omega
  have hlow : (3 * 2 ^ 52 + (2 ^ 31 + v)) % 2 ^ 52 < 2 ^ 32 := by omega
  have hteam : (s.cell c).team (s.cell c).active = some t := ht
  generalize 3 * 2 ^ 52 + (2 ^ 31 + v) = fa at hoff hself hzero hlow
  simp only [vaultDest, EStateM.run_bind, run_get, run_need, hoff, hself, hzero, hlow, hcell, hstage, beq_self_eq_true, if_true,
    decide_true, Bool.or_true, hteam, hasid, hin, bne_self_eq_false, run_pure]

end

section
variable {s : State} {c : Nat} {t : Team} {h off n v : Nat} {write : Bool} (hown : OwnVault s c t h off n write v)
include hown

/-- The entry of a handle on the own vault, with the flat address that it gives. -/
theorem OwnVault.entry : ∃ e, HandleOk s t.asid h off n write e ∧ e.flat off = 3 * 2 ^ 52 + (2 ^ 31 + v) := by
  obtain ⟨⟨e, hok, hpath, hbase⟩, _⟩ := hown
  exact ⟨e, hok, by rw [HEntry.flat, hpath]; omega⟩

theorem OwnVault.path : (3 * 2 ^ 52 + (2 ^ 31 + v)) / 2 ^ 52 % 16 = 3 := by
  obtain ⟨_, hv, _⟩ := hown
  omega

/-- No posted store to the cell is on its way, so none is performed. -/
theorem OwnVault.drained : (s.handleRead t.asid h).drainPosted (fun p => p.cell == c) = s.handleRead t.asid h := by
  obtain ⟨_, _, _, hposted⟩ := hown
  refine State.drainPosted_none fun p hp => ?_
  rw [State.handleRead_posted] at hp
  exact beq_false_of_ne (hposted p hp)

section
variable {w : Who} (ht : (s.cell c).act = some t) (hw : w.asid = t.asid ∧ w.cell = c ∧ w.stage = (s.cell c).active)
include ht hw

theorem OwnVault.dest : (destOf w (3 * 2 ^ 52 + (2 ^ 31 + v)) n write).run (s.handleRead t.asid h) =
    .ok (.vault (.here c (s.cell c).active) c v false) (s.handleRead t.asid h) := by
  have hcell := s.cell_handleRead t.asid h c
  obtain ⟨_, hv, hin, _⟩ := id hown
  have hrun := run_vaultDest_self (s := s.handleRead t.asid h) (w := w) (hcell ▸ ht) (hcell ▸ hw) hv hin
  rw [hcell] at hrun
  rw [destOf, hown.path, if_pos (beq_self_eq_true 3), hrun]

end

end

section
variable {s : State} {c : Nat} {t : Team} {w : Who} {h off n v : Nat} (ht : (s.cell c).act = some t)
  (hw : w.asid = t.asid ∧ w.cell = c ∧ w.stage = (s.cell c).active)
include ht hw

/-- A load through a handle on the own vault answers the bytes there; reading the entry is all that it leaves. -/
theorem run_load_ownVault {bs : List Byte} (hown : OwnVault s c t h off n false v) (hbs : t.vaultRd v n = some bs) :
    (load w h off n).run s = .ok bs (s.handleRead t.asid h) := by
  obtain ⟨e, hok, hflat⟩ := hown.entry
  have hteam : (s.handleRead t.asid h).teamAt (.here c (s.cell c).active) = some t := by
    rw [State.teamAt, State.cell_handleRead]
    exact ht
  refine whole_run_ok ?_
  rw [run_bind_ok (by rw [hw.1]; exact run_handleAt_ok hok), hflat]
  refine whole_run_ok ?_
  rw [hown.path, if_pos (beq_self_eq_true 3), run_bind_ok (hown.dest ht hw)]
  simp only [readDest, EStateM.run_bind, run_get, run_modify, hown.drained, hteam, Option.bind_some, hbs, run_pure]

/-- A store through a handle on the own vault writes the bytes there. -/
theorem run_store_ownVault {bs : List Byte} (hn : bs.length = n) (posted : Bool) (hown : OwnVault s c t h off n true v) :
    (store w h off posted bs).run s = .ok () ((s.handleRead t.asid h).withTeam c (t.vaultWr v bs)) := by
  obtain ⟨e, hok, hflat⟩ := hown.entry
  refine whole_run_ok ?_
  rw [run_bind_ok (by rw [hw.1, hn]; exact run_handleAt_ok hok), hflat]
  refine whole_run_ok ?_
  rw [hown.path, if_pos (beq_self_eq_true 3), hn, run_bind_ok (hown.dest ht hw)]
  simp only [writeDest, Bool.false_and, Bool.false_eq_true, if_false, run_modify, hown.drained]
  have hmod := State.modAct_of_act (s := s.handleRead t.asid h) (c := c) (by simpa using ht) fun t => t.vaultWr v bs
  rw [State.modAct, State.cell_handleRead] at hmod
  rw [hmod]

end

/-! ### The strand's own accesses (R196, R197) -/

theorem whoIs_own (s : State) (c : Nat) (t : Team) (st : Stream) :
    (s.whoIs c t st).asid = t.asid ∧ (s.whoIs c t st).cell = c ∧ (s.whoIs c t st).stage = (s.cell c).active := ⟨rfl, rfl, rfl⟩

/-- With another state of its team an access goes where it went, if the allotment is the same. -/
theorem OwnVault.withTeam {s : State} {c : Nat} {t u : Team} {h off n v : Nat} {write : Bool} (hasid : u.asid = t.asid)
    (hvalloc : u.valloc = t.valloc) (hown : OwnVault s c t h off n write v) : OwnVault (s.withTeam c u) c u h off n write v := by
  obtain ⟨⟨e, hok, he⟩, hv, hin, hposted⟩ := hown
  rw [← hasid] at hok
  rw [← hvalloc] at hin
  exact ⟨⟨e, hok, he⟩, hv, hin, hposted⟩

/-- The stores that were posted since the first `n` are the strand's (R197). -/
def State.strandPosts (s : State) (n : Nat) : State :=
  { s with mem := { s.mem with posted := s.mem.posted.take n ++ (s.mem.posted.drop n).map fun p => { p with strand := true } } }

theorem State.strandPosts_length {s : State} {n : Nat} (h : s.mem.posted.length = n) : s.strandPosts n = s := by
  subst h
  simp only [State.strandPosts, List.take_length, List.drop_length, List.map_nil, List.append_nil]

section
variable {s s1 : State} {c : Nat} {u : Team} {h off n v : Nat} {bs : List Byte} (hc : s.cur = .stream c .strand)
  (ha : (s.cell c).act = some u)
include hc ha

/-- A store of the strand is the store of its bytes, once there is room for it. -/
theorem run_strandStore_store (hroom : StoreRoom s c) : (strandStore h off bs).run s =
    (do store (s.whoIs c u .strand) h off true bs; modify fun z => z.strandPosts s.mem.posted.length : M Unit).run s := by
  have hfree : (s.mem.posted.filter fun p => p.strand && p.src == c).length < 16 := hroom
  simp only [strandStore, EStateM.run_bind, run_theCell hc, run_get, run_waitFor, hfree, decide_true, if_true, run_theWho hc ha]
  rfl

theorem run_strandStore_ownVault (hn : bs.length = n) (hown : OwnVault s c u h off n true v) (hroom : StoreRoom s c) :
    (strandStore h off bs).run s = .ok () ((s.handleRead u.asid h).withTeam c (u.vaultWr v bs)) := by
  rw [run_strandStore_store hc ha hroom, run_bind_ok (run_store_ownVault ha (whoIs_own s c u .strand) hn true hown), run_modify,
    State.strandPosts_length (by rw [State.withTeam_mem, State.handleRead_posted])]

end

section
variable {s : State} {c : Nat} {t u : Team} {h off n v : Nat} (hc : s.cur = .stream c .strand) (hasid : u.asid = t.asid)
  (hvalloc : u.valloc = t.valloc)
include hc hasid hvalloc

theorem runw_load_ownVault {bs : List Byte} (hown : OwnVault s c t h off n false v) (hbs : u.vaultRd v n = some bs) :
    (theWho >>= fun w => load w h off n).run (s.withTeam c u) = .ok bs ((s.handleRead t.asid h).withTeam c u) := by
  rw [run_bind_ok (runw_theWho hc u),
    run_load_ownVault (State.act_withTeam ..) (by simpa using whoIs_own s c u .strand) (hown.withTeam hasid hvalloc) hbs, hasid,
    State.handleRead_withTeam]

theorem runw_strandStore_ownVault {bs : List Byte} (hn : bs.length = n) (hown : OwnVault s c t h off n true v) (hroom : StoreRoom s c) :
    (strandStore h off bs).run (s.withTeam c u) = .ok () ((s.handleRead t.asid h).withTeam c (u.vaultWr v bs)) := by
  rw [run_strandStore_ownVault (by simpa using hc) (State.act_withTeam s c u) hn (hown.withTeam hasid hvalloc) hroom, hasid,
    State.handleRead_withTeam, State.withTeam_withTeam]

end

/-! ### Registers as bytes (R146, R209) -/

theorem length_regBytes (n : Nat) (v : Word) : (regBytes n v).length = n := by simp [regBytes]

theorem leBytes_eq_regBytes (n : Nat) (v : Word) : leBytes n v.toNat = regBytes n v := by
  refine List.ext_getElem (by rw [length_leBytes, length_regBytes]) fun i h1 h2 => ?_
  rw [getElem_leBytes]
  simp only [regBytes, List.getElem_map, List.getElem_range]
  apply BitVec.eq_of_toNat_eq
  rw [BitVec.toNat_ofNat, BitVec.extractLsb'_toNat, Nat.shiftRight_eq_div_pow, show 256 = 2 ^ 8 by rfl, ← Nat.pow_mul]

theorem leNat_eq_sum : ∀ (bs : List Byte) (k : Nat),
    ((bs.zipIdx k).map fun p => p.1.toNat * 256 ^ p.2).sum = leNat bs * 256 ^ k
  | [], k => by simp [leNat]
  | b :: bs, k => by
    rw [List.zipIdx_cons, List.map_cons, List.sum_cons, leNat_eq_sum bs (k + 1), leNat, Nat.pow_succ]
    ring

theorem loaded_eq (n : Nat) (u : Bool) (bs : List Byte) :
    loaded n u bs = if u then wd (leNat bs) else (BitVec.ofNat (8 * n) (leNat bs)).signExtend 64 := by
  have hsum := leNat_eq_sum bs 0
  rw [Nat.pow_zero, Nat.mul_one] at hsum
  unfold loaded
  rw [hsum]
  rfl

theorem loadValue_eq_loaded (md : BitVec 3) (bs : List Byte) : loadValue md bs = loaded (sizeOf md) (md.getLsbD 2) bs := by
  rw [loaded_eq, loadValue, sext64_eq_signExtend_ofNat (by unfold sizeOf; positivity)]

/-- What a store to the vault leaves: its bytes, and every other byte as before (R197). -/
theorem Team.rd_vaultWr_regBytes (t : Team) (v k n : Nat) (w : Word) : (t.vaultWr v (regBytes n w)).vault.rd k =
    if v ≤ k ∧ k < v + n then w.extractLsb' (8 * (k - v)) 8 else t.vault.rd k := by
  show (t.vault.wrBytes v (regBytes n w)).rd k = _
  rw [Memory.rd_wrBytes]
  simp only [length_regBytes]
  split
  · simp [regBytes]
  · rfl

end Sys2Proof.Machine
end

section
/-! Proofs about the control flow of the strand: branches, loops, calls and returns (R214 to R216). -/
namespace Sys2Proof.Machine

section
variable {s s1 : State} {c : Nat} {t u : Team} {len : Nat} {pg : BitVec 3} {body : M Unit}

/-- An instruction of the strand that leaves its team and has read or stored something on its way. -/
theorem strandOp_after_from (h : Guarded s c t pg) (hb : body.run (s.withTeam c (t.past .strand len)) = .ok () (s1.withTeam c u))
    (hkey : u.key .strand = t.key .strand) : strandOp len pg body s = .next (s1.after c u) := by
  rw [strandOp_ok h hb, State.did, State.after, hkey]

end

/-! ### Branches (R214, R215) -/

theorem branchTo_eq (pc : Word) (imm : BitVec 32) : branchTo pc imm = pc + imm.signExtend 64 := by
  rw [branchTo, sext64_eq_signExtend]

section
variable {s : State} {c : Nat} {t : Team} (hc : s.cur = .stream c .strand)
include hc

theorem runw_pcHere_strand (len : Nat) : (pcHere len).run (s.withTeam c (t.past .strand len)) =
    .ok t.pc (s.withTeam c (t.past .strand len)) := by
  rw [runw_pcHere hc, Team.past_strand_pcOf]

theorem runw_jumpTo_strand (u : Team) (o : Word) : (jumpTo o).run (s.withTeam c u) = .ok () (s.withTeam c { u with pc := o }) :=
  runw_jumpTo hc u o

end

section
variable {s : State} {c : Nat} {t : Team} {x : S64} (h : Guarded s c t x.r.pg)
include h

theorem execBr_next : execBr x s = .next (s.after c { t.past .strand 8 with
    pc := if (t.pred x.r.md.toNat ^^ x.r.rd.getLsbD 0) then t.pc + x.imm.signExtend 64 else t.pc + 8 }) := by
  refine strandOp_after h ?_ rfl
  have hgo : ((t.past .strand 8).pred x.r.md.toNat != x.r.rd.getLsbD 0) = (t.pred x.r.md.toNat ^^ x.r.rd.getLsbD 0) := rfl
  simp only [EStateM.run_bind, runw_pcHere_strand h.1.1, runw_team h.1.1, hgo]
  generalize (t.pred x.r.md.toNat ^^ x.r.rd.getLsbD 0) = go
  cases go
  · rfl
  · simp only [if_true, runw_jumpTo_strand h.1.1, branchTo_eq]

theorem execJmp_next : execJmp x s = .next (s.after c { t.past .strand 8 with pc := t.pc + x.imm.signExtend 64 }) := by
  refine strandOp_after h ?_ rfl
  simp only [EStateM.run_bind, runw_pcHere_strand h.1.1, runw_jumpTo_strand h.1.1, branchTo_eq]

theorem execLoop_next : execLoop x s = .next (s.after c { (t.past .strand 8).setSreg x.r.rd.toNat (t.sreg x.r.rd.toNat - 1) with
    pc := if t.sreg x.r.rd.toNat - 1 ≠ 0 then t.pc + x.imm.signExtend 64 else t.pc + 8 }) := by
  refine strandOp_after h ?_ (Team.key_setSreg (t.past .strand 8) ..)
  have hpc : ((t.past .strand 8).setSreg x.r.rd.toNat (t.sreg x.r.rd.toNat - 1)).pc = t.pc + 8 := by
    rw [Team.setSreg_eq]
    rfl
  have hcount : (t.sreg x.r.rd.toNat != 1) = decide (t.sreg x.r.rd.toNat - 1 ≠ 0) :=
    (decide_not ..).symm.trans (decide_eq_decide.2 (not_congr sub_eq_zero.symm))
  simp only [EStateM.run_bind, runw_pcHere_strand h.1.1, runw_sreg h.1.1, runw_setSreg h.1.1, Team.sreg_past_strand, hcount]
  by_cases hgo : t.sreg x.r.rd.toNat - 1 ≠ 0
  · simp only [decide_eq_true hgo, if_true, if_pos hgo, runw_jumpTo_strand h.1.1, branchTo_eq]
  · simp only [decide_eq_false hgo, if_neg hgo, Bool.false_eq_true, if_false, run_pure, ← hpc]

end

/-! ### The return-address store (R216) -/

section
variable {s : State} {c : Nat} {t u : Team} (hc : s.cur = .stream c .strand)
include hc

theorem runw_pushRas (hroom : u.ras.length < 16) (ret : Word) :
    (pushRas ret).run (s.withTeam c u) = .ok () (s.withTeam c { u with ras := u.ras ++ [ret] }) := by
  simp only [pushRas, EStateM.run_bind, runw_team hc, if_neg (Nat.not_le.2 hroom), runw_modTeam hc]

/-- A push on a full store spills the oldest entry at RASP. -/
theorem runw_pushRas_spills {v : Nat} {old : Word} {rest : List Word} (hras : u.ras = old :: rest) (hfull : rest.length = 15)
    (hbase : u.rasbase ≤ u.rasp) (hlim : u.rasp.toNat + 8 ≤ u.raslim.toNat) (hasid : u.asid = t.asid) (hvalloc : u.valloc = t.valloc)
    (hown : OwnVault s c t u.spillh u.rasp.toNat 8 true v) (hroom : StoreRoom s c) (ret : Word) :
    (pushRas ret).run (s.withTeam c u) = .ok () ((s.handleRead t.asid u.spillh).withTeam c
      { u.vaultWr v (regBytes 8 old) with ras := rest ++ [ret], rasp := u.rasp + 8 }) := by
  have hlen : 16 ≤ u.ras.length := by rw [hras, List.length_cons]; omega
  have hstore := runw_strandStore_ownVault (u := u) hc hasid hvalloc (length_regBytes 8 old) hown hroom
  have hras' : (u.vaultWr v (regBytes 8 old)).ras.drop 1 = rest := congrArg (List.drop 1) hras
  rw [pushRas, run_bind_ok (runw_team hc u), if_pos hlen, run_bind_ok (by rw [run_need, if_pos (decide_eq_true ⟨hbase, hlim⟩)]),
    run_bind_ok (by rw [hras, List.headD_cons, leBytes_eq_regBytes]; exact hstore), runw_modTeam (by simpa using hc), hras']
  rfl

theorem runw_popRas {rest : List Word} {v : Word} (hras : u.ras = rest ++ [v]) :
    popRas.run (s.withTeam c u) = .ok v (s.withTeam c { u with ras := rest }) := by
  have hrev : u.ras.reverse = v :: rest.reverse := by rw [hras, List.reverse_append]; rfl
  simp only [popRas, EStateM.run_bind, runw_team hc, hrev, runw_modTeam hc, List.reverse_reverse, run_pure]

theorem runw_popRas_underflow (hras : u.ras = []) (hbase : u.rasp = u.rasbase) :
    popRas.run (s.withTeam c u) = .error (.trap .retUnderflow {}) (s.withTeam c u) := by
  simp [popRas, runw_team hc, hras, hbase, run_need]

/-- A pop of an empty store reads back the entry below RASP. -/
theorem runw_popRas_refills {v : Nat} {bs : List Byte} (hras : u.ras = []) (hne : u.rasp ≠ u.rasbase)
    (hbase : u.rasbase.toNat + 8 ≤ u.rasp.toNat) (hlim : u.rasp ≤ u.raslim) (hasid : u.asid = t.asid) (hvalloc : u.valloc = t.valloc)
    (hown : OwnVault s c t u.spillh (u.rasp.toNat - 8) 8 false v) (hbs : u.vaultRd v 8 = some bs) :
    popRas.run (s.withTeam c u) =
      .ok (loaded 8 true bs) ((s.handleRead t.asid u.spillh).withTeam c { u with rasp := u.rasp - 8 }) := by
  have hload := runw_load_ownVault hc hasid hvalloc hown hbs
  have hne' : (u.rasp != u.rasbase) = true := bne_iff_ne.2 hne
  simp only [EStateM.run_bind, runw_theWho hc] at hload
  simp only [popRas, EStateM.run_bind, runw_team hc, hras, List.reverse_nil, run_need, hne', decide_eq_true (And.intro hbase hlim),
    if_true, runw_theWho hc, hload, runw_modTeam (s := s.handleRead t.asid u.spillh) (by simpa using hc), run_pure, loaded_eq]

end

section
variable {s s1 : State} {c : Nat} {t u : Team} {x : S64} {y : S32}

/-- A call goes to its target once its return offset has been pushed. -/
theorem execCall_pushes (h : Guarded s c t x.r.pg)
    (hpush : (pushRas (t.pc + 8)).run (s.withTeam c (t.past .strand 8)) = .ok () (s1.withTeam c u)) (hcur : s1.cur = s.cur)
    (hkey : u.key .strand = t.key .strand) :
    execCall x s = .next (s1.after c { u with pc := t.pc + x.imm.signExtend 64 }) := by
  refine strandOp_after_from h ?_ hkey
  rw [run_bind_ok (runw_pcHere_strand h.1.1 8), run_bind_ok hpush, runw_jumpTo_strand (hcur.trans h.1.1), branchTo_eq]

theorem execJmpx_next (h : Guarded s c t y.pg) (hcall : y.md.getLsbD 0 = false) :
    execJmpx y s = .next (s.after c { t.past .strand 4 with pc := t.sreg y.rs1.toNat }) := by
  refine strandOp_after h ?_ rfl
  rw [run_bind_ok (runw_pcHere_strand h.1.1 4), run_bind_ok (runw_sreg h.1.1 _ y.rs1), hcall]
  exact runw_jumpTo_strand h.1.1 _ _

theorem execJmpx_pushes (h : Guarded s c t y.pg) (hcall : y.md.getLsbD 0 = true)
    (hpush : (pushRas (t.pc + 4)).run (s.withTeam c (t.past .strand 4)) = .ok () (s1.withTeam c u)) (hcur : s1.cur = s.cur)
    (hkey : u.key .strand = t.key .strand) :
    execJmpx y s = .next (s1.after c { u with pc := t.sreg y.rs1.toNat }) := by
  refine strandOp_after_from h ?_ hkey
  rw [run_bind_ok (runw_pcHere_strand h.1.1 4), run_bind_ok (runw_sreg h.1.1 _ y.rs1), hcall]
  exact (run_bind_ok hpush).trans (runw_jumpTo_strand (hcur.trans h.1.1) _ _)

/-- A return goes to the offset that it has popped. -/
theorem execRet_pops (h : Guarded s c t y.pg) {v : Word}
    (hpop : popRas.run (s.withTeam c (t.past .strand 4)) = .ok v (s1.withTeam c u)) (hcur : s1.cur = s.cur)
    (hkey : u.key .strand = t.key .strand) :
    execRet y s = .next (s1.after c { u with pc := v }) := by
  refine strandOp_after_from h ?_ hkey
  rw [run_bind_ok hpop, runw_jumpTo_strand (hcur.trans h.1.1)]

end

/-- Settles O7: where BR, JMP, LOOP, JMPX, CALL and RET lead, and what the return-address store and its spill area then hold. -/
theorem controlFlow : Obligations.ControlFlow := by
  refine ⟨fun s c t x y h h' => ⟨execBr_next h, execJmp_next h, fun _ => execLoop_next h, execJmpx_next h'⟩, fun s c t x y h h' => ?_⟩
  intro target
  refine ⟨fun hroom => ?_, fun v old rest hras hfull hbase hlim hown hroom => ?_, fun rest v hras => ?_, fun hras hbase => ?_,
    fun v bs hras hne hbase hlim hown hbs => ?_⟩
  · have hpush := fun len => runw_pushRas (u := t.past .strand len) h.1.1 hroom
    exact ⟨execCall_pushes h (hpush 8 _) rfl rfl, fun hcall => execJmpx_pushes h' hcall (hpush 4 _) rfl rfl⟩
  · have hcur := s.handleRead_cur t.asid t.spillh
    have hpush := fun len => runw_pushRas_spills (u := t.past .strand len) h.1.1 hras hfull hbase hlim rfl rfl hown hroom
    exact ⟨execCall_pushes h (hpush 8 _) hcur rfl, fun hcall => execJmpx_pushes h' hcall (hpush 4 _) hcur rfl⟩
  · exact execRet_pops h' (runw_popRas (u := t.past .strand 4) h.1.1 hras) rfl rfl
  · exact strandOp_trapAt_still h' (run_bind_error (runw_popRas_underflow h.1.1 hras hbase))
  · have hpop := runw_popRas_refills (u := t.past .strand 4) h.1.1 hras hne hbase hlim rfl rfl hown hbs
    exact execRet_pops h' hpop (s.handleRead_cur t.asid t.spillh) rfl

end Sys2Proof.Machine
end

section
/-! Proofs about accesses to local memory through a cached translation (R309 to R315, R329). -/
namespace Sys2Proof.Machine

theorem parts_one {fa n : Nat} (hn : 0 < n) (h : fa % 65536 + n ≤ 65536) : parts fa n = [(fa, n)] := by
  have hfirst : max fa (fa / 65536 * 65536) = fa := by omega
  have hend : min (fa + n) ((fa / 65536 + 1) * 65536) = fa + n := by omega
  have hspan : span (fa / 65536) ((fa % 65536 + n) / 65536 + 1) = [fa / 65536] ∨
      span (fa / 65536) ((fa % 65536 + n) / 65536 + 1) = [fa / 65536, fa / 65536 + 1] := by
    obtain h0 | h1 : (fa % 65536 + n) / 65536 = 0 ∨ (fa % 65536 + n) / 65536 = 1 := by omega
    · exact .inl (by rw [h0]; rfl)
    · exact .inr (by rw [h1]; rfl)
  have hnext : ¬ max fa ((fa / 65536 + 1) * 65536) < min (fa + n) ((fa / 65536 + 1 + 1) * 65536) := by omega
  obtain hs | hs := hspan <;> simp only [parts, hs, List.filterMap_cons, hfirst, hend, hnext, if_false, List.filterMap_nil] <;> simp [hn]

/-- An ordinary local page that a cell's TLB holds: what `LocalPage` asks of the translation of `fa`, in the state in which the access
is made. -/
structure PageAt (s : State) (w : Who) (fa : Nat) (write : Bool) (leaf : Word) (pa : Nat) : Prop where
  path : fa / 2 ^ 52 % 16 = 0
  cached : ∃ e, s.tlbAt w.cell w.asid fa = some e ∧ e.leaf = leaf
  valid : leafV leaf = true
  peer : leafPeer leaf = 1023
  rmode : leafRmode leaf ≠ 3
  ordk : leafOrdk leaf ≠ 3
  ms : leafMs leaf = false
  aligned : leafFrame leaf % 2 ^ (sizeLog (leafSize leaf) - 16) = 0
  frame : s.frameExists (leafFrame leaf) = true
  writable : write = true → leafRo leaf = false ∧ leafD leaf = true
  addr : pa = leafFrame leaf * 65536 + fa % 2 ^ sizeLog (leafSize leaf)
  free : s.swapBlocks (pa / 65536) = false
  open_ : s.boot.on = false

theorem run_lookupLeaf_cached {s : State} {cell a fa : Nat} {e : TlbE} (h : s.tlbAt cell a fa = some e) :
    (lookupLeaf cell a fa).run s = .ok (some e.leaf) s := by
  simp only [lookupLeaf, EStateM.run_bind, run_get, h, run_pure]

/-- The translation of an access to an ordinary local page; the access is counted. -/
theorem run_xlate_local {s : State} {w : Who} {fa pa : Nat} {write : Bool} {leaf : Word} (h : PageAt s w fa write leaf pa) :
    (xlate w fa write).run s = .ok (.loc pa (leafWithKey leaf (leafKey leaf))) (s.countAccess (pa / 65536)) := by
  obtain ⟨hpath, ⟨e, hcached, rfl⟩, hv, hpeer, hrm, hok, hms, hal, hframe, hwr, rfl, hfree, hon⟩ := h
  have hleafOk : s.leafOk 0 e.leaf = true := by
    simp [State.leafOk, hrm, hok, hal, hframe]
  have hagree : pathAgrees 0 e.leaf = true := by simp [pathAgrees, hms]
  have hclean : (write && !leafD e.leaf) = false := by cases write <;> simp_all
  have hro : (!write || !leafRo e.leaf) = true := by cases write <;> simp_all
  unfold xlate
  simp only [hpath, Nat.reduceBEq, Nat.reduceBNe, Bool.false_eq_true, if_false, if_true, EStateM.run_bind,
    run_lookupLeaf_cached hcached, run_get, hclean, hv, run_need, hpeer, bne_self_eq_false, Bool.and_false, Bool.and_true, Bool.or_false,
    Bool.or_self, hleafOk, hagree, hms, hro, hon, run_waitFor, hfree, run_modify, run_pure, Bool.not_false, Bool.true_or, Bool.false_and,
    Option.getD_none]

/-! ### Reads and writes of local memory -/

section
variable {s : State} {w : Who} {fa pa n : Nat} {write : Bool} {leaf : Word}

theorem PageAt.not_vault (h : PageAt s w fa write leaf pa) : ¬ (fa / 2 ^ 52 % 16 == 3) = true := by
  rw [h.path]
  decide

theorem PageAt.dest (h : PageAt s w fa write leaf pa) : (destOf w fa n write).run s =
    .ok (.loc pa (leafWithKey leaf (leafKey leaf))) (s.countAccess (pa / 65536)) := by
  rw [destOf, if_neg h.not_vault]
  exact run_xlate_local h

/-- A read of an ordinary local page through its flat address. -/
theorem run_loadFlat_local {bs : List Byte} (ord : Nat) (h : PageAt s w fa false leaf pa) (hn : 0 < n) (hunit : fa % 65536 + n ≤ 65536)
    (hbs : ∀ slot, (s.countAccess (pa / 65536)).locRd pa n slot = some bs) :
    (loadFlat w fa n ord).run s = .ok bs (s.countAccess (pa / 65536)) := by
  refine whole_run_ok ?_
  rw [if_neg h.not_vault, parts_one hn hunit]
  simp only [List.mapM_cons, List.mapM_nil, EStateM.run_bind, h.dest, readDest, run_get, hbs, run_pure, List.flatten_cons,
    List.flatten_nil, List.append_nil]

/-- A write of an ordinary local page through its flat address. -/
theorem run_storeFlat_local {bs : List Byte} (ord : Nat) (posted : Bool) (h : PageAt s w fa true leaf pa) (hn : 0 < bs.length)
    (hunit : fa % 65536 + bs.length ≤ 65536) : (storeFlat w fa ord posted bs).run s =
      .ok () ((s.countAccess (pa / 65536)).locWr pa bs (leafKey (leafWithKey leaf (leafKey leaf)))) := by
  refine whole_run_ok ?_
  rw [if_neg h.not_vault, parts_one hn hunit]
  simp only [destsTo, EStateM.run_bind, run_attempt_ok h.dest, run_pure, List.forM_eq_forM, List.forM_cons, List.forM_nil, readyDest,
    writeDest, run_modify, failWith, Nat.sub_self, List.drop_zero, List.take_length]

end

end Sys2Proof.Machine
end

section
/-! Proofs about LD, ST and LEA of the strand (R197, R209 to R213). -/
namespace Sys2Proof.Machine

section
variable {s s1 : State} {c : Nat} {t u : Team} {len : Nat} {pg : BitVec 3} {body : M Unit}

/-- The strand traps at its instruction from a state in which it has read something on its way. -/
theorem strandOp_trapAt_from {k : Cause} {i : Info} (h : Guarded s c t pg)
    (hb : body.run (s.withTeam c (t.past .strand len)) = .error (.trap k i) (s1.withTeam c (t.past .strand len))) :
    strandOp len pg body s = .next (s1.trapAt c .strand t.still k i) := by
  rw [strandOp_trap h hb, State.rewound_strand]
  rfl

end

/-! ### Operands (R209, R476) -/

theorem memOffset_eq (b : Word) (imm : BitVec 32) : b + sext64 20 imm.toNat = b + (imm.extractLsb' 0 20).signExtend 64 := by
  rw [sext64_eq_signExtend_ofNat (by omega)]
  congr 2

theorem memHandle_eq (imm : BitVec 32) : imm.toNat / 2 ^ 20 = (imm.extractLsb' 20 12).toNat := by
  have := imm.isLt
  rw [BitVec.extractLsb'_toNat, Nat.shiftRight_eq_div_pow]
  omega

theorem ordOf_eq (x : S64) : ordOf x = (x.r.rs2.extractLsb' 3 2).toNat := by
  have := x.r.rs2.isLt
  rw [ordOf, BitVec.extractLsb'_toNat, Nat.shiftRight_eq_div_pow]
  omega

theorem scopeOf_eq (x : S64) : scopeOf x = (x.r.rs2.extractLsb' 0 3).toNat := by
  rw [scopeOf, BitVec.extractLsb'_toNat, Nat.shiftRight_zero]

theorem sizeOf_pos (md : BitVec 3) : 0 < sizeOf md := Nat.two_pow_pos _

section
variable {s : State} {c : Nat} {t : Team} (hc : s.cur = .stream c .strand)
include hc

theorem runw_memOp32 (x : S32) (len : Nat) : (memOp32 x).run (s.withTeam c (t.past .strand len)) =
    .ok (x.rs2.toNat, (t.sreg x.rs1.toNat).toNat) (s.withTeam c (t.past .strand len)) := by
  simp only [memOp32, EStateM.run_bind, runw_sreg hc, Team.sreg_past_strand, run_pure]

theorem runw_memOp64 (x : S64) (len : Nat) : (memOp64 x).run (s.withTeam c (t.past .strand len)) =
    .ok ((x.imm.extractLsb' 20 12).toNat, (t.sreg x.r.rs1.toNat + (x.imm.extractLsb' 0 20).signExtend 64).toNat)
      (s.withTeam c (t.past .strand len)) := by
  simp only [memOp64, EStateM.run_bind, runw_sreg hc, Team.sreg_past_strand, run_pure, memOffset_eq, memHandle_eq]

end

theorem run_ordAligned {ord off n : Nat} (h : ord = 0 ∨ off % n = 0) (s : State) : (ordAligned ord off n).run s = .ok () s := by
  have haligned : (ord == 0 || off % n == 0) = true := by simpa using h
  rw [ordAligned, run_need, if_pos haligned]

theorem wholeOrNone_run_ok {α : Type} {m : M α} {s s' : State} {a : α} (h : m.run s = .ok a s') :
    (wholeOrNone m).run s = .ok a s' := by
  simp only [EStateM.run] at h ⊢
  simp only [wholeOrNone, h]

/-! ### Loads and stores once their operands are known (R197, R210) -/

section
variable {s s1 : State} {c : Nat} {u : Team} {md : BitVec 3} {rd : BitVec 5} {h off : Nat} (hc : s.cur = .stream c .strand)
  (ha : (s.cell c).act = some u)
include hc ha

/-- A load for which there is room is its access; the value is outstanding. -/
theorem run_doLoad_load (hroom : u.loads.length < 8) : (doLoad md rd h off).run s =
    (load (s.whoIs c u .strand) h off (sizeOf md) >>= fun bs => outstanding rd (loaded (sizeOf md) (md.getLsbD 2) bs)).run s := by
  simp only [doLoad, loadRoom, EStateM.run_bind, run_team hc ha, run_waitFor, hroom, decide_true, if_true, run_theWho hc ha,
    loadValue_eq_loaded]

theorem run_doStore_store : (doStore md rd h off).run s = (strandStore h off (regBytes (sizeOf md) (u.sreg rd.toNat))).run s := by
  simp only [doStore, EStateM.run_bind, run_sreg hc ha, leBytes_eq_regBytes]

theorem run_doLoad_ownVault {v : Nat} {bs : List Byte} (hroom : u.loads.length < 8) (hown : OwnVault s c u h off (sizeOf md) false v)
    (hbs : u.vaultRd v (sizeOf md) = some bs) : (doLoad md rd h off).run s =
      .ok () ((s.handleRead u.asid h).withTeam c (u.loading rd.toNat (loaded (sizeOf md) (md.getLsbD 2) bs))) := by
  rw [run_doLoad_load hc ha hroom, run_bind_ok (run_load_ownVault ha (whoIs_own s c u .strand) hown hbs), outstanding,
    run_modTeam (by simpa using hc), State.modAct_of_act (by simpa using ha)]
  rfl

theorem run_doStore_ownVault {v : Nat} (hown : OwnVault s c u h off (sizeOf md) true v) (hroom : StoreRoom s c) :
    (doStore md rd h off).run s =
      .ok () ((s.handleRead u.asid h).withTeam c (u.vaultWr v (regBytes (sizeOf md) (u.sreg rd.toNat)))) := by
  rw [run_doStore_store hc ha, run_strandStore_ownVault hc ha (length_regBytes ..) hown hroom]

end

/-! ### The own vault -/

section
variable {s : State} {c : Nat} {t : Team} {v : Nat} {bs : List Byte}

theorem execLd_ownVault {x : S32} (hg : Guarded s c t x.pg) (hroom : t.loads.length < 8)
    (hown : OwnVault s c t x.rs2.toNat (t.sreg x.rs1.toNat).toNat (sizeOf x.md) false v) (hbs : t.vaultRd v (sizeOf x.md) = some bs) :
    execLd x s = .next ((s.handleRead t.asid x.rs2.toNat).after c
      ((t.past .strand 4).loading x.rd.toNat (loaded (sizeOf x.md) (x.md.getLsbD 2) bs))) := by
  have hload := run_doLoad_ownVault (u := t.past .strand 4) (md := x.md) (rd := x.rd) (by simpa using hg.1.1) (State.act_withTeam ..)
    hroom (hown.withTeam rfl rfl) hbs
  rw [State.handleRead_withTeam, State.withTeam_withTeam] at hload
  refine strandOp_after_from hg ?_ rfl
  rw [run_bind_ok (runw_memOp32 hg.1.1 x 4)]
  exact hload

theorem execSt_ownVault {x : S32} (hg : Guarded s c t x.pg) (hroom : StoreRoom s c)
    (hown : OwnVault s c t x.rs2.toNat (t.sreg x.rs1.toNat).toNat (sizeOf x.md) true v) :
    execSt x s = .next ((s.handleRead t.asid x.rs2.toNat).after c
      ((t.past .strand 4).vaultWr v (regBytes (sizeOf x.md) (t.sreg x.rd.toNat)))) := by
  have hstore := run_doStore_ownVault (u := t.past .strand 4) (md := x.md) (rd := x.rd) (by simpa using hg.1.1) (State.act_withTeam ..)
    (hown.withTeam rfl rfl) hroom
  rw [State.handleRead_withTeam, State.withTeam_withTeam] at hstore
  refine strandOp_after_from hg ?_ rfl
  rw [run_bind_ok (runw_memOp32 hg.1.1 x 4)]
  exact hstore

end

section
variable {s s0 : State} {c : Nat} {t t0 : Team} {v : Nat} {bs : List Byte} {x : S64} (hg : Guarded s c t x.r.pg)
  (hal : (x.r.rs2.extractLsb' 3 2).toNat = 0 ∨
    (t.sreg x.r.rs1.toNat + (x.imm.extractLsb' 0 20).signExtend 64).toNat % sizeOf x.r.md = 0)
  (hact : (s0.cell c).act = some t0) (hcur : s0.cur = s.cur) (hkey : t0.key .strand = t.key .strand)
include hg hal hact hcur hkey

theorem execLdImm_ownVault (hroom : t0.loads.length < 8)
    (h0 : (x.r.rs2.extractLsb' 3 2).toNat = 0 ∧ s0 = s.withTeam c (t.past .strand 8) ∨ (x.r.rs2.extractLsb' 3 2).toNat = 1 ∧
      (acquire (s.whoIs c t) (x.r.rs2.extractLsb' 0 3).toNat).run (s.withTeam c (t.past .strand 8)) = .ok () s0)
    (hown : OwnVault s0 c t0 (x.imm.extractLsb' 20 12).toNat (t.sreg x.r.rs1.toNat + (x.imm.extractLsb' 0 20).signExtend 64).toNat
      (sizeOf x.r.md) false v) (hbs : t0.vaultRd v (sizeOf x.r.md) = some bs) :
    execLdImm x s = .next ((s0.handleRead t0.asid (x.imm.extractLsb' 20 12).toNat).after c
      (t0.loading x.r.rd.toNat (loaded (sizeOf x.r.md) (x.r.md.getLsbD 2) bs))) := by
  have hload := run_doLoad_ownVault (md := x.r.md) (rd := x.r.rd) (hcur.trans hg.1.1) hact hroom hown hbs
  refine strandOp_after_from hg ?_ hkey
  rw [run_bind_ok (runw_memOp64 hg.1.1 x 8), ordOf_eq, scopeOf_eq, run_bind_ok (run_ordAligned hal _)]
  obtain ⟨hord, rfl⟩ | ⟨hord, hacq⟩ := h0
  · rw [hord]
    exact hload
  · rw [hord]
    refine wholeOrNone_run_ok ?_
    rw [run_bind_ok (runw_theWho hg.1.1 _)]
    exact (run_bind_ok hacq).trans hload

theorem execStImm_ownVault (hroom : StoreRoom s0 c)
    (h0 : (x.r.rs2.extractLsb' 3 2).toNat = 0 ∧ s0 = s.withTeam c (t.past .strand 8) ∨ (x.r.rs2.extractLsb' 3 2).toNat = 2 ∧
      (release (s.whoIs c t) (x.r.rs2.extractLsb' 0 3).toNat).run (s.withTeam c (t.past .strand 8)) = .ok () s0)
    (hown : OwnVault s0 c t0 (x.imm.extractLsb' 20 12).toNat (t.sreg x.r.rs1.toNat + (x.imm.extractLsb' 0 20).signExtend 64).toNat
      (sizeOf x.r.md) true v) :
    execStImm x s = .next ((s0.handleRead t0.asid (x.imm.extractLsb' 20 12).toNat).after c
      (t0.vaultWr v (regBytes (sizeOf x.r.md) (t0.sreg x.r.rd.toNat)))) := by
  have hstore := run_doStore_ownVault (md := x.r.md) (rd := x.r.rd) (hcur.trans hg.1.1) hact hown hroom
  refine strandOp_after_from hg ?_ hkey
  rw [run_bind_ok (runw_memOp64 hg.1.1 x 8), ordOf_eq, scopeOf_eq, run_bind_ok (run_ordAligned hal _)]
  obtain ⟨hord, rfl⟩ | ⟨hord, hrel⟩ := h0
  · rw [hord]
    exact hstore
  · rw [hord]
    refine Eq.trans ?_ hstore
    simp only [beq_self_eq_true, if_true, EStateM.run_bind, runw_theWho hg.1.1]
    exact run_bind_ok hrel

end

theorem execLea_next {s : State} {c : Nat} {t : Team} {x : S64} {e : HEntry} (hg : Guarded s c t x.r.pg)
    (hok : HandleOk s t.asid (x.imm.extractLsb' 20 12).toNat (t.sreg x.r.rs1.toNat + (x.imm.extractLsb' 0 20).signExtend 64).toNat
      (sizeOf x.r.md) false e) :
    execLea x s = .next ((s.handleRead t.asid (x.imm.extractLsb' 20 12).toNat).after c ((t.past .strand 8).setSreg x.r.rd.toNat
      (if x.r.md.getLsbD 2 then
        wd (e.flat (t.sreg x.r.rs1.toNat + (x.imm.extractLsb' 0 20).signExtend 64).toNat)
      else t.sreg x.r.rs1.toNat + (x.imm.extractLsb' 0 20).signExtend 64))) := by
  have hat := run_handleAt_ok (s := s.withTeam c (t.past .strand 8)) hok
  rw [State.handleRead_withTeam] at hat
  refine strandOp_after_from hg ?_ (Team.key_setSreg (t.past .strand 8) ..)
  rw [run_bind_ok (runw_memOp64 hg.1.1 x 8)]
  refine (run_bind_ok (runw_theWho hg.1.1 _)).trans ((run_bind_ok hat).trans ?_)
  rw [runw_setSreg (by simpa using hg.1.1)]
  simp only [wd, BitVec.ofNat_toNat, BitVec.setWidth_eq]

/-! ### Local memory (R309, R340) -/

section
variable {s : State} {c a h off n pa : Nat} {write : Bool}

/-- The entry and the page of an access to local memory, in the state in which the entry has been read. -/
theorem LocalPage.page (hp : LocalPage s c a h off n write pa) (hn : 0 < n) (u : Team) : ∃ e leaf, HandleOk s a h off n write e ∧
    e.flat off % 65536 + n ≤ 65536 ∧ ∀ w : Who, w.asid = a → w.cell = c →
      PageAt ((s.handleRead a h).withTeam c u) w (e.flat off) write leaf pa := by
  obtain ⟨e, p, hok, hpath, htlb, hv, hpeer, hrm, hordk, hms, hal, hframe, hwr, hpa, hfree, hunit, hon, -⟩ := hp
  have hflat : e.flat off = e.base + off := by rw [HEntry.flat, hpath, Nat.zero_mul, Nat.zero_add]
  have hfits : off + n ≤ e.bound ∧ e.base + off + n ≤ 2 ^ 52 := of_decide_eq_true hok.2.1
  obtain ⟨cs, sw, hread⟩ := s.handleRead_eq a h
  refine ⟨e, p.leaf, hok, by rw [hflat]; exact hunit, ?_⟩
  rintro w rfl rfl
  rw [hflat]
  refine ⟨by omega, ⟨p, ?_, rfl⟩, hv, hpeer, hrm, hordk, hms, hal, ?_, hwr, hpa, hfree, ?_⟩ <;> rw [hread] <;> assumption

theorem LocalPage.outside_confidential (hp : LocalPage s c a h off n write pa) :
    s.boot.on = false ∧ (s.keyMapOf (pa / 65536)).clr = false := by
  obtain ⟨_, _, _, _, _, _, _, _, _, _, _, _, _, _, _, _, hon, hclr⟩ := hp
  exact ⟨hon, hclr⟩

end

/-- Counted accesses leave the bytes of local memory, and what the rest of memory holds, alone. -/
theorem State.counted_eq (s : State) (a h f : Nat) : ∃ cs sw, (s.handleRead a h).countAccess f =
    { s with mem := { s.mem with counts := cs, swaps := sw } } := by
  obtain ⟨cs, sw, hread⟩ := s.handleRead_eq a h
  obtain ⟨cs', sw', hcount⟩ := (s.handleRead a h).countAccess_eq f
  exact ⟨cs', sw', by rw [hcount, hread]⟩

theorem State.locRd_clean {s : State} {pa n : Nat} (hon : s.boot.on = false) (hclr : (s.keyMapOf (pa / 65536)).clr = false)
    (hclean : CleanLines s pa n) (slot : Nat) : s.locRd pa n slot = some (s.mem.phys.rdBytes pa n) := by
  have hlines : ((linesOf pa n).all (s.lineOk (Sparse.get 0 s.mem.slotKey slot))) = true :=
    List.all_eq_true.2 fun l hl => by simp [State.lineOk, hclean l hl, hon]
  simp only [State.locRd, hclr, Bool.false_eq_true, if_false, hlines, if_true]

theorem whoIs_withTeam (s : State) (c : Nat) (u t : Team) (st : Stream) : (s.withTeam c u).whoIs c t st = s.whoIs c t st := by
  simp [State.whoIs]

section
variable {s : State} {c h off pa : Nat} {u : Team}

theorem runw_load_local {n : Nat} (hn : 0 < n) (hp : LocalPage s c u.asid h off n false pa) (hclean : CleanLines s pa n) :
    (load (s.whoIs c u .strand) h off n).run (s.withTeam c u) = .ok (s.mem.phys.rdBytes pa n)
      (((s.handleRead u.asid h).countAccess (pa / 65536)).withTeam c u) := by
  obtain ⟨e, leaf, hok, hunit, hpage⟩ := hp.page hn u
  obtain ⟨hon, hclr⟩ := hp.outside_confidential
  have hat := run_handleAt_ok (s := s.withTeam c u) hok
  rw [State.handleRead_withTeam] at hat
  obtain ⟨cs, sw, hcounted⟩ := s.counted_eq u.asid h (pa / 65536)
  have hrd : ∀ slot, (((s.handleRead u.asid h).withTeam c u).countAccess (pa / 65536)).locRd pa n slot =
      some (s.mem.phys.rdBytes pa n) := fun slot => by
    rw [State.countAccess_withTeam, hcounted]
    exact State.locRd_clean (s := { s with mem := { s.mem with counts := cs, swaps := sw } }) hon hclr hclean slot
  refine whole_run_ok ((run_bind_ok hat).trans ?_)
  rw [run_loadFlat_local e.ord (hpage _ rfl rfl) hn hunit hrd, State.countAccess_withTeam]

/-- A store of the strand to local memory changes the bytes there: of all else, counters, swaps and poison. -/
theorem runw_strandStore_local {bs : List Byte} (hc : s.cur = .stream c .strand) (hn : 0 < bs.length)
    (hp : LocalPage s c u.asid h off bs.length true pa) (hroom : StoreRoom s c) : ∃ m,
      (strandStore h off bs).run (s.withTeam c u) = .ok () (({ s with mem := m } : State).withTeam c u) ∧
      m.phys = s.mem.phys.wrBytes pa bs ∧ m.host = s.mem.host ∧ m.peer = s.mem.peer := by
  obtain ⟨e, leaf, hok, hunit, hpage⟩ := hp.page hn u
  obtain ⟨hon, -⟩ := hp.outside_confidential
  have hat := run_handleAt_ok (s := s.withTeam c u) hok
  rw [State.handleRead_withTeam] at hat
  obtain ⟨cs, sw, hcounted⟩ := s.counted_eq u.asid h (pa / 65536)
  have hstore : (store (s.whoIs c u .strand) h off true bs).run (s.withTeam c u) = .ok () _ :=
    whole_run_ok ((run_bind_ok hat).trans (run_storeFlat_local e.ord true (hpage _ rfl rfl) hn hunit))
  rw [State.countAccess_withTeam, hcounted, State.locWr, State.wrLines_eq (by exact hon)] at hstore
  have hrun := run_strandStore_store (bs := bs) (h := h) (off := off) (s := s.withTeam c u) (by simpa using hc)
    (State.act_withTeam s c u) hroom
  rw [whoIs_withTeam, run_bind_ok hstore, run_modify] at hrun
  exact ⟨_, hrun, rfl, rfl, rfl⟩

end

section
variable {s : State} {c pa : Nat} {t : Team} {x : S32} (hg : Guarded s c t x.pg)
include hg

theorem execLd_local (hroom : t.loads.length < 8)
    (hp : LocalPage s c t.asid x.rs2.toNat (t.sreg x.rs1.toNat).toNat (sizeOf x.md) false pa) (hclean : CleanLines s pa (sizeOf x.md)) :
    execLd x s = .next (((s.handleRead t.asid x.rs2.toNat).countAccess (pa / 65536)).after c
      ((t.past .strand 4).loading x.rd.toNat
        (loaded (sizeOf x.md) (x.md.getLsbD 2) (s.mem.phys.rdBytes pa (sizeOf x.md))))) := by
  have hload := runw_load_local (u := t.past .strand 4) (sizeOf_pos _) hp hclean
  obtain ⟨_, _, hcounted⟩ := s.counted_eq t.asid x.rs2.toNat (pa / 65536)
  have hcur : ((s.handleRead t.asid x.rs2.toNat).countAccess (pa / 65536)).cur = s.cur := by rw [hcounted]
  refine strandOp_after_from hg ?_ rfl
  rw [run_bind_ok (runw_memOp32 hg.1.1 x 4)]
  refine (run_doLoad_load (u := t.past .strand 4) (by simpa using hg.1.1) (State.act_withTeam ..) hroom).trans ?_
  rw [whoIs_withTeam, run_bind_ok hload]
  exact runw_modTeam (hcur.trans hg.1.1) _ _

/-- A store to local memory changes its bytes there, and no byte of another memory or another cell. -/
theorem execSt_local (hroom : StoreRoom s c)
    (hp : LocalPage s c t.asid x.rs2.toNat (t.sreg x.rs1.toNat).toNat (sizeOf x.md) true pa) :
    ∃ s', execSt x s = .next s' ∧ (s'.cell c).act = some (t.past .strand 4) ∧
      (∀ a, s'.mem.phys.rd a =
        if pa ≤ a ∧ a < pa + sizeOf x.md then (t.sreg x.rd.toNat).extractLsb' (8 * (a - pa)) 8 else s.mem.phys.rd a) ∧
      s'.mem.host = s.mem.host ∧ s'.mem.peer = s.mem.peer ∧ s'.out = s.out ∧ s'.ctxs = s.ctxs ∧
      ∀ k, k ≠ c → s'.cell k = s.cell k := by
  obtain ⟨m, hstore, hphys, hhost, hpeer⟩ := runw_strandStore_local (u := t.past .strand 4)
    (bs := regBytes (sizeOf x.md) (t.sreg x.rd.toNat)) hg.1.1 (by rw [length_regBytes]; exact sizeOf_pos _)
    (by rw [length_regBytes]; exact hp) hroom
  refine ⟨_, strandOp_after_from (s1 := { s with mem := m }) (u := t.past .strand 4) hg ?_ rfl, State.act_after .., fun a => ?_, ?_, ?_,
    ?_, ?_, fun k hk => ?_⟩
  · rw [run_bind_ok (runw_memOp32 hg.1.1 x 4)]
    exact (run_doStore_store (by simpa using hg.1.1) (State.act_withTeam ..)).trans hstore
  · have hmem : (({ s with mem := m } : State).after c (t.past .strand 4)).mem.phys = m.phys := by simp [State.after]
    rw [hmem, hphys, Memory.rd_wrBytes]
    simp only [length_regBytes]
    split
    · simp [regBytes]
    · rfl
  · simpa [State.after] using hhost
  · simpa [State.after] using hpeer
  · simp [State.after]
  · simp [State.after]
  · rw [State.after, State.cell_usedReplies, State.cell_withTeam_ne _ _ _ _ hk]
    rfl

end

/-! ### Accesses whose checks fail (R27, R211) -/

section
variable {s : State} {c : Nat} {t : Team} {x : S64} (hg : Guarded s c t x.r.pg)
include hg

theorem execLdImm_unaligned (hord : ordOf x ≠ 0)
    (hal : (t.sreg x.r.rs1.toNat + (x.imm.extractLsb' 0 20).signExtend 64).toNat % sizeOf x.r.md ≠ 0) :
    execLdImm x s = .next (s.trapAt c .strand t.still .ldstAlign
      { addr := some (t.sreg x.r.rs1.toNat + (x.imm.extractLsb' 0 20).signExtend 64).toNat }) := by
  refine strandOp_trapAt_still hg ?_
  rw [run_bind_ok (runw_memOp64 hg.1.1 x 8)]
  refine run_bind_error ?_
  rw [ordAligned, run_need, if_neg (by simpa [hord] using hal)]

section
variable {k : Cause} {i : Info} (hord : ordOf x = 0)
include hord

/-- A load whose handle fails a check traps there. -/
theorem execLdImm_traps (hroom : t.loads.length < 8)
    (hat : (handleAt t.asid (x.imm.extractLsb' 20 12).toNat
        (t.sreg x.r.rs1.toNat + (x.imm.extractLsb' 0 20).signExtend 64).toNat (sizeOf x.r.md) false).run
      (s.withTeam c (t.past .strand 8)) = .error (.trap k i) ((s.withTeam c (t.past .strand 8)).handleRead t.asid
        (x.imm.extractLsb' 20 12).toNat)) :
    execLdImm x s = .next ((s.handleRead t.asid (x.imm.extractLsb' 20 12).toNat).trapAt c .strand t.still k i) := by
  rw [State.handleRead_withTeam] at hat
  refine strandOp_trapAt_from hg ?_
  rw [run_bind_ok (runw_memOp64 hg.1.1 x 8)]
  simp only
  rw [run_bind_ok (run_ordAligned (.inl hord) _), hord, if_neg (by decide)]
  exact (run_doLoad_load (u := t.past .strand 8) (by simpa using hg.1.1) (State.act_withTeam ..) hroom).trans
    (run_bind_error (whole_run_trap (run_bind_error hat)))

/-- A store whose handle fails a check traps there. -/
theorem execStImm_traps (hroom : StoreRoom s c)
    (hat : (handleAt t.asid (x.imm.extractLsb' 20 12).toNat
        (t.sreg x.r.rs1.toNat + (x.imm.extractLsb' 0 20).signExtend 64).toNat (sizeOf x.r.md) true).run
      (s.withTeam c (t.past .strand 8)) = .error (.trap k i) ((s.withTeam c (t.past .strand 8)).handleRead t.asid
        (x.imm.extractLsb' 20 12).toNat)) :
    execStImm x s = .next ((s.handleRead t.asid (x.imm.extractLsb' 20 12).toNat).trapAt c .strand t.still k i) := by
  rw [State.handleRead_withTeam] at hat
  refine strandOp_trapAt_from hg ?_
  rw [run_bind_ok (runw_memOp64 hg.1.1 x 8)]
  simp only
  rw [run_bind_ok (run_ordAligned (.inl hord) _), hord, if_neg (by decide)]
  refine (run_doStore_store (u := t.past .strand 8) (by simpa using hg.1.1) (State.act_withTeam ..)).trans
    ((run_strandStore_store (by simpa using hg.1.1) (State.act_withTeam ..) hroom).trans (run_bind_error ?_))
  refine whole_run_trap (run_bind_error ?_)
  rw [length_regBytes]
  exact hat

end

end

/-- Settles O8: LD, ST and LEA on the own vault and on local memory, and their traps. -/
theorem loadsAndStores : Obligations.LoadsAndStores := by
  refine ⟨⟨fun s c t x v bs hg => ⟨execLd_ownVault hg, fun hown hroom => execSt_ownVault hg hroom hown⟩, ?_,
    fun s c t x e hg hok => execLea_next hg hok, fun t v k n w => t.rd_vaultWr_regBytes v k n w⟩, ?_, ?_⟩
  · rintro s s0 c t t0 x v bs hg n off h ord scope t' own hal
    refine ⟨fun hroom h0 hown hv hbs => ?_, fun h0 hown hsreg hv hroom => ?_⟩ <;>
      obtain ⟨hact, -, hcur, hasid, hgrid, hno⟩ := hown <;>
      have hkey : t0.key .strand = t.key .strand := by rw [Team.key, hgrid, hno]; rfl
    · rw [← hasid]
      exact execLdImm_ownVault hg hal hact hcur hkey hroom h0 hv hbs
    · rw [← hasid, ← hsreg]
      exact execStImm_ownVault hg hal hact hcur hkey hroom h0 hv
  · intro s c t x pa hg n off counted
    obtain ⟨cs, sw, hcounted⟩ := s.counted_eq t.asid x.rs2.toNat (pa / 65536)
    exact ⟨fun hroom hp hclean => ⟨execLd_local hg hroom hp hclean, (congrArg (fun z : State => z.mem.phys) hcounted :)⟩,
      fun hp hroom => execSt_local hg hroom hp⟩
  · intro s c t x hg hroom _ n off h traps
    refine ⟨fun hord hal => execLdImm_unaligned hg (by rw [ordOf, hord]; decide) hal, fun hord hloads hfree => ⟨fun hnone => ?_,
      fun e he hfits => ?_, fun e he hfits hwp => ?_⟩⟩
    · exact ⟨execLdImm_traps hg hord hloads (run_handleAt_invalid hfree hnone),
        execStImm_traps hg hord hroom (run_handleAt_invalid hfree hnone)⟩
    · exact ⟨execLdImm_traps hg hord hloads (run_handleAt_bound hfree he hfits),
        execStImm_traps hg hord hroom (run_handleAt_bound hfree he hfits)⟩
    · exact execStImm_traps hg hord hroom (run_handleAt_ro hfree he hfits hwp)

end Sys2Proof.Machine
end

section
/-! Proofs about event queues and semaphores (R223 to R227). -/
namespace Sys2Proof.Machine

/-! ### An acquire neither waits nor traps (R382) -/

/-- A meaning that succeeds in every state and leaves the agent that runs as it is. -/
def KeepsAgent (m : M Unit) : Prop := ∀ s, ∃ s', m.run s = .ok () s' ∧ s'.cur = s.cur

theorem KeepsAgent.bind {m k : M Unit} (hm : KeepsAgent m) (hk : KeepsAgent k) : KeepsAgent (m >>= fun _ => k) := by
  intro s
  obtain ⟨s1, h1, hcur1⟩ := hm s
  obtain ⟨s2, h2, hcur2⟩ := hk s1
  exact ⟨s2, (run_bind_ok h1).trans h2, hcur2.trans hcur1⟩

theorem KeepsAgent.forM {α : Type} {f : α → M Unit} (hf : ∀ x, KeepsAgent (f x)) : ∀ xs : List α, KeepsAgent (xs.forM f)
  | [] => fun s => ⟨s, rfl, rfl⟩
  | x :: xs => (hf x).bind (KeepsAgent.forM hf xs)

theorem KeepsAgent.modify {f : State → State} (hf : ∀ s, (f s).cur = s.cur) : KeepsAgent (modify f) := fun s => ⟨f s, rfl, hf s⟩

theorem State.enqueue_cur (s : State) (d : Nat) (p : Packet) : (s.enqueue d p).cur = s.cur := by
  unfold State.enqueue State.creditWait
  dsimp only
  split
  · split <;> rfl
  · rfl

theorem sendPacket_keepsAgent (w : Who) (d ord : Nat) (op : PktOp) : KeepsAgent (sendPacket w d ord op) :=
  fun s => ⟨_, rfl, s.enqueue_cur d _⟩

theorem writeBackLines_keepsAgent (w : Who) (p : PeerLine → Bool) : KeepsAgent (writeBackLines w p) := by
  intro s
  have hlines : KeepsAgent ((s.mem.lines.filter fun x => x.dirty && p x).forM fun x => do
      writeBackLine w x
      modify fun s => s.putLine { x with dirty := false }) :=
    .forM (fun x => .bind (sendPacket_keepsAgent _ _ _ _) (.modify fun s => State.putLine_cur s _)) _
  exact hlines s

theorem acquire_keepsAgent (w : Who) (scope : Nat) : KeepsAgent (acquire w scope) := by
  unfold acquire
  split
  · exact (writeBackLines_keepsAgent w _).bind (.modify fun _ => rfl)
  · exact fun s => ⟨s, rfl, rfl⟩

theorem run_acquire (w : Who) (scope : Nat) (s : State) : (acquire w scope).run s = .ok () (s.acquired w scope) := by
  obtain ⟨s', hrun, -⟩ := acquire_keepsAgent w scope s
  rw [State.acquired, hrun]

theorem State.acquired_cur (w : Who) (scope : Nat) (s : State) : (s.acquired w scope).cur = s.cur := by
  obtain ⟨s', hrun, hcur⟩ := acquire_keepsAgent w scope s
  rw [State.acquired, hrun, hcur]

/-! ### A strand that blocks (R199) -/

section
variable {s : State} {c : Nat} {t u : Team} (hc : s.cur = .stream c .strand)
include hc

theorem runw_drained (i : Nat) : (drained i).run (s.withTeam c u) =
    .ok (!u.waiters.any (fun w => w.1 == i && w.2.1 == .strand) || !(s.cell c).sh.landings.any (·.drain)) (s.withTeam c u) := by
  simp only [drained, EStateM.run_bind, runw_team hc, runw_shared hc, run_pure]

omit hc in
/-- A strand that has not blocked, or whose results have landed, goes on. -/
theorem drained_of_landed {b : Bool} {ls : List Landing} (h : b = false ∨ ∀ l ∈ ls, l.drain = false) :
    (!b || !ls.any (·.drain)) = true := by
  obtain rfl | h := h
  · rfl
  · have hnone : ls.any (·.drain) = false := List.any_eq_false.2 fun l hl => by simp [h l hl]
    rw [hnone, Bool.not_false, Bool.or_true]

/-- A strand that blocks joins the waiters, once. -/
theorem runw_blockOn (i : Nat) (n : BitVec 32) : ∃ s1, (blockOn i n).run (s.withTeam c u) = .error (.wait none) s1 ∧
    (s1.cell c).act = some { u with waiters := u.waiters ++
      if (u.waiters.any fun w => w.1 == i && w.2.1 == .strand) then [] else [(i, .strand, n)] } := by
  unfold blockOn
  rw [run_bind_ok (runw_team hc u)]
  cases u.waiters.any fun w => w.1 == i && w.2.1 == .strand
  case true => exact ⟨_, rfl, by simp only [if_true, List.append_nil, State.act_withTeam]⟩
  case false =>
    have hmark := runw_changeShared hc u fun x => { x with landings := x.landings.map fun l => { l with drain := true } }
    have hact := State.act_withShared (State.act_withTeam s c u)
      { (s.cell c).sh with landings := (s.cell c).sh.landings.map fun l => { l with drain := true } }
    refine ⟨_, (run_bind_ok hmark).trans ((run_bind_ok (run_modTeam (by simpa using hc) _)).trans rfl), ?_⟩
    rw [State.modAct_of_act hact, State.act_withTeam]
    rfl

end

/-- The strand stands at an instruction on which it has blocked. -/
theorem strandOp_blocks {s : State} {c : Nat} {t : Team} {len i : Nat} {n : BitVec 32} {pg : BitVec 3} {body : M Unit}
    (h : Guarded s c t pg)
    (hb : body.run (s.withTeam c (t.past .strand len)) = (blockOn i n).run (s.withTeam c (t.past .strand len))) :
    ∃ s', strandOp len pg body s = .next s' ∧ (s'.cell c).act = some { t.still with waiters := t.waiters ++
      if (t.waiters.any fun w => w.1 == i && w.2.1 == .strand) then [] else [(i, .strand, n)] } := by
  obtain ⟨s1, hrun, hact⟩ := runw_blockOn (u := t.past .strand len) h.1.1 i n
  refine ⟨_, strandOp_wait h (hb.trans hrun), ?_⟩
  rw [State.rewound, State.modAct_of_act hact, State.modAct_withTeam, State.act_withTeam]
  rfl

/-! ### Eight registers at once (R224) -/

/-- Writes to registers change registers and what loads still write, and nothing else of a team. -/
def Team.OnlyRegs (t u : Team) : Prop := ∃ ls rs ps, u = { t with loads := ls, regs := rs, pregs := ps }

theorem Team.foldl_setSreg_onlyRegs (g : Nat → Nat) (f : Nat → Word) : ∀ (ks : List Nat) (t : Team),
    t.OnlyRegs (ks.foldl (fun u i => u.setSreg (g i) (f i)) t)
  | [], t => ⟨t.loads, t.regs, t.pregs, rfl⟩
  | k :: ks, t => by
    obtain ⟨ls, rs, ps, h⟩ := Team.foldl_setSreg_onlyRegs g f ks (t.setSreg (g k) (f k))
    refine ⟨ls, rs, ps, ?_⟩
    rw [List.foldl_cons, h, Team.setSreg_eq t]

theorem Team.sreg_foldl_setSreg (t : Team) {rd k : Nat} (hrd : rd ≠ 0) (f : Nat → Word) : ∀ n, k < n →
    ((List.range n).foldl (fun u i => u.setSreg (rd + i) (f i)) t).sreg (rd + k) = f k
  | n + 1, hk => by
    rw [List.range_succ, List.foldl_append, List.foldl_cons, List.foldl_nil, Team.sreg_setSreg, if_neg (by omega)]
    by_cases hlast : k = n
    · rw [if_pos (by rw [hlast]), hlast]
    · rw [if_neg (by omega), Team.sreg_foldl_setSreg t hrd f n (by omega)]

/-! ### Event queues (R223, R224) -/

section
variable {s : State} {c : Nat} {t u : Team}

/-- The team whose strand has popped `r`: its words stand in eight registers from `rd`. -/
def Team.popped (u : Team) (rd : Nat) (r : CRec) (rest : List CRec) : Team :=
  (List.range 8).foldl (fun u i => u.setSreg (rd + i) (r.getD i 0)) ({ u with evq := rest } : Team).dropStrand256

theorem runw_popEvent_empty (hc : s.cur = .stream c .strand) (hq : u.evq = []) (rd : Nat) :
    (popEvent rd).run (s.withTeam c u) = .ok false (s.withTeam c u) := by
  simp only [popEvent, EStateM.run_bind, run_get, runw_team hc, Team.popEv, hq, run_pure]

/-- A pop of a queue behind which nothing waits. -/
theorem runw_popEvent (hc : s.cur = .stream c .strand) {r : CRec} {rest : List CRec} (hq : u.evq = r :: rest) (hce : u.evCe = [])
    (hhub : u.evHub = []) (rd : Nat) : (popEvent rd).run (s.withTeam c u) =
      .ok true ((s.withTeam c (u.popped rd r rest)).acquired (s.whoIs c u) (recScope r)) := by
  have hwho : s.whoIs c (u.popped rd r rest) .strand = s.whoIs c u .strand := by
    obtain ⟨_, _, _, hregs⟩ := Team.foldl_setSreg_onlyRegs (rd + ·) (fun i => r.getD i 0) (List.range 8)
      ({ u with evq := rest } : Team).dropStrand256
    rw [Team.popped, hregs]
    rfl
  simp only [popEvent, EStateM.run_bind, run_get, runw_team hc, Team.popEv, hq, Team.admitEv, hce, hhub, runw_modTeam hc, run_modify,
    State.applyAfter]
  have hpop : s.withTeam c ((List.range 8).foldl (fun t i => t.setSreg (rd + i) (nth r i))
    (({ u with evq := rest } : Team).dropWaiter 256 .strand)) = s.withTeam c (u.popped rd r rest) := rfl
  simp only [← hce, ← hhub, hpop, runw_theWho hc, hwho, run_acquire, run_pure]

end

/-! ### Semaphores (R225 to R227) -/

theorem countOf_eq (v : Word) : countOf v = BitVec.ofNat 32 (v.toNat % 2 ^ 32) := by
  apply BitVec.eq_of_toNat_eq
  simp [countOf]

theorem immCount_eq (imm : BitVec 32) : imm &&& 0xFFFFFF = BitVec.ofNat 32 (imm.toNat % 2 ^ 24) := by
  have hmask : imm.toNat &&& 0xFFFFFF = imm.toNat % 2 ^ 24 := Nat.and_two_pow_sub_one_eq_mod _ 24
  apply BitVec.eq_of_toNat_eq
  rw [BitVec.toNat_and, BitVec.toNat_ofNat, Nat.mod_eq_of_lt (show imm.toNat % 2 ^ 24 < 2 ^ 32 by omega), ← hmask]
  rfl

/-- No one waits on semaphore `i`. -/
def Team.noWaiter (t : Team) (i : Nat) : Prop := ∀ w ∈ t.waiters, w.1 ≠ i

/-- Whoever waits on semaphore `i` is the strand. -/
def Team.strandWaits (t : Team) (i : Nat) : Prop := ∀ w ∈ t.waiters, w.1 = i → w.2.1 = .strand

section
variable {t : Team} {i : Nat}

theorem Team.oldestWaiter_none (h : t.noWaiter i) : t.oldestWaiter i = none := by
  rw [Team.oldestWaiter, List.find?_eq_none.2 fun w hw => by simp [h w hw], Option.map_none]

/-- Without job cards that wait, a count that has come serves no one. -/
theorem Team.serveSem_noWaiter (h : t.noWaiter i) : ∀ fuel, t.serveSem i fuel = t
  | 0 => rfl
  | fuel + 1 => by rw [Team.serveSem, Team.oldestWaiter_none h]

theorem Team.oldestWaiter_strand (h : t.strandWaits i) : t.oldestWaiter i = none ∨ ∃ n, t.oldestWaiter i = some (.strand, n) := by
  cases hw : t.waiters.find? fun w => w.1 == i with
  | none => exact .inl (by rw [Team.oldestWaiter, hw, Option.map_none])
  | some w =>
    have hi := List.find?_some hw
    have hstrand := h w (List.mem_of_find?_eq_some hw) (beq_iff_eq.1 hi)
    exact .inr ⟨w.2.2, by rw [Team.oldestWaiter, hw, Option.map_some, ← hstrand]⟩

theorem Team.noWaiter_dropWaiter (h : t.strandWaits i) : (t.dropWaiter i .strand).noWaiter i := by
  intro w hw hi
  obtain ⟨hmem, hkept⟩ := List.mem_filter.1 hw
  simp [hi, h w hmem hi] at hkept

/-- The strand has waited on semaphore `i` only where it stands among its waiters. -/
theorem Team.noWaiter.strand (h : t.noWaiter i) : (t.waiters.any fun w => w.1 == i && w.2.1 == .strand) = false :=
  List.any_eq_false.2 fun w hw => by simp [h w hw]

end

section
variable {s s2 : State} {c : Nat} {t u : Team} {i scope : Nat} {n : BitVec 32}

/-- A signal to the active team of a cell: the count saturates, with an overflow (R226). -/
theorem State.semSignal_noWaiter (hact : (s.cell c).act = some u) (hfree : u.noWaiter i) :
    s.semSignal (.here c (s.cell c).active) i n =
      let v := s.withTeam c (u.setSem i (BitVec.ofNat 32 (min ((u.sem i).toNat + n.toNat) (2 ^ 32 - 1))))
      if 2 ^ 32 ≤ (u.sem i).toNat + n.toNat then v.raiseAsync (.here c (s.cell c).active) .semOverflow else v := by
  have hteam : s.teamAt (.here c (s.cell c).active) = some u := hact
  have hserve : ∀ v, (u.setSem i v).serveSem i 65 = u.setSem i v := fun v => Team.serveSem_noWaiter (t := u.setSem i v) hfree 65
  simp only [State.semSignal, hteam, Team.addSem, hserve, decide_eq_true_eq]
  by_cases hsat : 2 ^ 32 ≤ (u.sem i).toNat + n.toNat
  · rw [if_pos hsat, if_pos hsat, if_pos hsat, Nat.min_eq_right (by omega)]
    rfl
  · rw [if_neg hsat, if_neg hsat, if_neg hsat, Nat.min_eq_left (by omega)]
    rfl

/-- A team that has retired loses a signal of its grid (R227). -/
theorem State.semRemote_gone {g no : Nat} {gr : Grid} (hg : s.grid g = some gr) (h : gr.gone.mem no = true) :
    s.semRemote g no i n = s := by
  simp only [State.semRemote, hg, h, if_true]

/-- The hub keeps a signal for a team that is not yet placed (R227). -/
theorem State.semRemote_kept {g no : Nat} {gr : Grid} (hg : s.grid g = some gr) (h : gr.gone.mem no = false)
    (hplaced : gr.placed.mem no = false) :
    s.semRemote g no i n = s.modGrid g fun gr => { gr with kept := gr.kept ++ [(no, i, n)] } := by
  simp only [State.semRemote, hg, h, hplaced, Bool.false_eq_true, if_false]

section
variable (hc : s.cur = .stream c .strand)
include hc

theorem runw_doSig (hrel : (release (s.whoIs c u) scope).run (s.withTeam c u) = .ok () s2) (hcur : s2.cur = s.cur) :
    (doSig scope i n).run (s.withTeam c u) = .ok () (s2.semSignal (.here c (s2.cell c).active) i n) := by
  simp only [doSig, EStateM.run_bind, runw_theWho hc, hrel, run_theLoc (hcur.trans hc), run_modify]

/-- What follows a wait that is over. -/
theorem runw_semTaken (hn : n ≠ 0) (hwait : u.strandWaits i) :
    (do modTeam fun t => if n = 0 then t else ((t.setSem i (t.sem i - n)).dropWaiter i .strand).serveSem i 65
        acquire (<- theWho) scope : M Unit).run (s.withTeam c u) =
      .ok () ((s.withTeam c ((u.setSem i (u.sem i - n)).dropWaiter i .strand)).acquired (s.whoIs c u) scope) := by
  have hserve : ((u.setSem i (u.sem i - n)).dropWaiter i .strand).serveSem i 65 = (u.setSem i (u.sem i - n)).dropWaiter i .strand :=
    Team.serveSem_noWaiter (Team.noWaiter_dropWaiter (t := u.setSem i (u.sem i - n)) hwait) 65
  simp only [EStateM.run_bind, runw_modTeam hc, if_neg hn, hserve, runw_theWho hc, run_acquire]
  rfl

/-- SEM.WAIT takes a count that is there when the strand is the first to wait and what it waited with has landed. -/
theorem runw_doWait_takes (hn : n ≠ 0) (hwait : u.strandWaits i) (hle : n ≤ u.sem i)
    (hland : u.noWaiter i ∨ ∀ l ∈ (s.cell c).sh.landings, l.drain = false) : (doWait scope i n).run (s.withTeam c u) =
      .ok () ((s.withTeam c ((u.setSem i (u.sem i - n)).dropWaiter i .strand)).acquired (s.whoIs c u) scope) := by
  have hdrained := drained_of_landed (hland.imp_left Team.noWaiter.strand)
  have htaken := runw_semTaken (scope := scope) hc hn hwait
  rw [doWait, run_bind_ok (runw_team hc u)]
  simp only [bne_iff_ne.2 hn, if_true]
  rw [run_bind_ok (runw_drained hc i), hdrained]
  obtain hfirst | ⟨m, hfirst⟩ := Team.oldestWaiter_strand hwait <;> rw [hfirst] <;>
    simpa only [decide_eq_true hle, beq_self_eq_true, Bool.and_self, Bool.not_true, Bool.false_eq_true, if_false] using htaken

theorem runw_doWait_zero : (doWait scope i 0).run (s.withTeam c u) = .ok () ((s.withTeam c u).acquired (s.whoIs c u) scope) := by
  simp only [doWait, EStateM.run_bind, runw_team hc, bne_self_eq_false, Bool.false_eq_true, if_false, runw_modTeam hc, if_true,
    runw_theWho hc, run_acquire]

theorem runw_doWait_blocks (hfree : u.noWaiter i) (hlt : u.sem i < n) :
    (doWait scope i n).run (s.withTeam c u) = (blockOn i n).run (s.withTeam c u) := by
  have hn : n ≠ 0 := by bv_omega
  obtain ⟨s1, hblock, -⟩ := runw_blockOn (u := u) hc i n
  rw [doWait, run_bind_ok (runw_team hc u)]
  simp only [bne_iff_ne.2 hn, if_true]
  rw [run_bind_ok (runw_drained hc i), Team.oldestWaiter_none hfree]
  simp only [decide_eq_false (BitVec.not_le.2 hlt), Bool.and_false, Bool.false_and, Bool.not_false, if_true]
  rw [run_bind_error hblock, hblock]

end

end

/-! ### The instructions -/

section
variable {s : State} {c : Nat} {t : Team} {x : S32} (h : Guarded s c t x.pg)
include h

theorem execEvqPop_empty (hq : t.evq = []) : execEvqPop x s = .next (s.after c ((t.past .strand 4).setPred x.md.toNat false)) := by
  refine strandOp_setPred h ?_
  rw [run_bind_ok (runw_popEvent_empty (u := t.past .strand 4) h.1.1 hq x.rd.toNat), runw_setPred h.1.1]

theorem execEvqWait_empty (hq : t.evq = []) : ∃ s', execEvqWait x s = .next s' ∧ (s'.cell c).act = some { t.still with waiters :=
    t.waiters ++ if (t.waiters.any fun w => w.1 == 256 && w.2.1 == .strand) then [] else [(256, .strand, 0)] } := by
  refine strandOp_blocks h ?_
  have hempty : (t.past .strand 4).evq.isEmpty = true := List.isEmpty_iff.2 hq
  rw [run_bind_ok (runw_team h.1.1 _), run_bind_ok (runw_drained h.1.1 256), hempty]
  rfl

section
variable {r : CRec} {rest : List CRec} (hq : t.evq = r :: rest) (hce : t.evCe = []) (hhub : t.evHub = [])
include hq hce hhub

theorem execEvqPop_pops : execEvqPop x s = .next ((((s.withTeam c ((t.past .strand 4).popped x.rd.toNat r rest)).acquired (s.whoIs c t)
    (recScope r)).modAct c fun u => u.setPred x.md.toNat true).did t) := by
  have hcur := (State.acquired_cur (s.whoIs c t) (recScope r) (s.withTeam c ((t.past .strand 4).popped x.rd.toNat r rest))).trans h.1.1
  refine strandOp_ok h ?_
  rw [run_bind_ok (runw_popEvent (u := t.past .strand 4) h.1.1 hq hce hhub x.rd.toNat)]
  exact run_setPred hcur ..

theorem execEvqWait_pops (hland : (t.waiters.any fun w => w.1 == 256 && w.2.1 == .strand) = false ∨
    ∀ l ∈ (s.cell c).sh.landings, l.drain = false) : execEvqWait x s =
      .next (((s.withTeam c ((t.past .strand 4).popped x.rd.toNat r rest)).acquired (s.whoIs c t) (recScope r)).did t) := by
  refine strandOp_ok h ?_
  have hnonempty : (t.past .strand 4).evq.isEmpty = false := by rw [show (t.past .strand 4).evq = r :: rest from hq]; rfl
  have hdrained : (!(t.past .strand 4).waiters.any (fun w => w.1 == 256 && w.2.1 == .strand) ||
      !(s.cell c).sh.landings.any (·.drain)) = true := drained_of_landed hland
  rw [run_bind_ok (runw_team h.1.1 _), run_bind_ok (runw_drained h.1.1 256), hnonempty, hdrained]
  exact (run_bind_ok (runw_popEvent (u := t.past .strand 4) h.1.1 hq hce hhub x.rd.toNat)).trans rfl

end

end

section
variable {s s2 : State} {c len i m scope : Nat} {t t2 : Team} {n : BitVec 32} {pg : BitVec 3} {body : M Unit} (h : Guarded s c t pg)
include h

/-- A signal of the strand to a semaphore of its team on which no one waits. -/
theorem strandOp_doSig (hb : body.run (s.withTeam c (t.past .strand len)) = (doSig scope i n).run (s.withTeam c (t.past .strand len)))
    (hrel : (release (s.whoIs c t) scope).run (s.withTeam c (t.past .strand len)) = .ok () s2) (hcur : s2.cur = s.cur)
    (hact : (s2.cell c).act = some t2) (hsems : t2.sems = t.sems) (hwaiters : t2.waiters = t.waiters) (hfree : t.noWaiter i)
    (hm : n.toNat = m) : strandOp len pg body s = .next ((
      let u := s2.withTeam c (t2.setSem i (BitVec.ofNat 32 (min ((t.sem i).toNat + m) (2 ^ 32 - 1))))
      if 2 ^ 32 ≤ (t.sem i).toNat + m then u.raiseAsync (.here c (s2.cell c).active) .semOverflow else u).did t) := by
  have hsem : t2.sem i = t.sem i := by rw [Team.sem, hsems]; rfl
  have hfree2 : t2.noWaiter i := by rw [Team.noWaiter, hwaiters]; exact hfree
  rw [strandOp_ok h (hb.trans (runw_doSig h.1.1 hrel hcur)), State.semSignal_noWaiter hact hfree2, hsem, hm]

theorem strandOp_doWait_takes
    (hb : body.run (s.withTeam c (t.past .strand len)) = (doWait scope i n).run (s.withTeam c (t.past .strand len)))
    (hwait : t.strandWaits i) (hland : t.noWaiter i ∨ ∀ l ∈ (s.cell c).sh.landings, l.drain = false) (hle : n ≤ t.sem i) (hn : n ≠ 0) :
    strandOp len pg body s = .next (((s.withTeam c
      (((t.past .strand len).setSem i (t.sem i - n)).dropWaiter i .strand)).acquired (s.whoIs c t) scope).did t) :=
  strandOp_ok h (hb.trans (runw_doWait_takes (u := t.past .strand len) h.1.1 hn hwait hle hland))

end

section
variable {s : State} {c : Nat} {t : Team} {x : S32} {y : S64}

theorem runw_semOperands (hc : s.cur = .stream c .strand) (f : Nat → BitVec 32 → M Unit) :
    (do let i <- sreg x.rs1
        let n <- sreg x.rs2
        f (i.toNat % 256) (countOf n) : M Unit).run (s.withTeam c (t.past .strand 4)) =
      (f ((t.sreg x.rs1.toNat).toNat % 256) (BitVec.ofNat 32 ((t.sreg x.rs2.toNat).toNat % 2 ^ 32))).run
        (s.withTeam c (t.past .strand 4)) := by
  simp only [EStateM.run_bind, runw_sreg hc, Team.sreg_past_strand, countOf_eq]

end

section
variable {s s2 : State} {c : Nat} {t t2 : Team} {x : S64} (h : Guarded s c t x.r.pg)
include h

/-- SEM.SET of a semaphore on which no one waits (R225). -/
theorem execSemSet_sets (hrel : (release (s.whoIs c t) 0).run (s.withTeam c (t.past .strand 8)) = .ok () s2) (hcur : s2.cur = s.cur)
    (hact : (s2.cell c).act = some t2) (hwaiters : t2.waiters = t.waiters) (hfree : t.noWaiter (x.imm.toNat / 2 ^ 24)) :
    execSemSet x s = .next ((s2.withTeam c (t2.setSem (x.imm.toNat / 2 ^ 24)
      (BitVec.ofNat 32 ((t.sreg x.r.rs1.toNat).toNat + x.imm.toNat % 2 ^ 24)))).did t) := by
  have hsum : countOf (t.sreg x.r.rs1.toNat) + (x.imm &&& 0xFFFFFF) =
      BitVec.ofNat 32 ((t.sreg x.r.rs1.toNat).toNat + x.imm.toNat % 2 ^ 24) := by
    rw [countOf_eq, immCount_eq, ← BitVec.ofNat_add]
    apply BitVec.eq_of_toNat_eq
    rw [BitVec.toNat_ofNat, BitVec.toNat_ofNat, Nat.mod_add_mod]
  have hserve : ∀ v, (t2.setSem (x.imm.toNat / 2 ^ 24) v).serveSem (x.imm.toNat / 2 ^ 24) 65 = t2.setSem (x.imm.toNat / 2 ^ 24) v :=
    fun v => Team.serveSem_noWaiter (t := t2.setSem (x.imm.toNat / 2 ^ 24) v) (by
      rw [Team.noWaiter, show (t2.setSem (x.imm.toNat / 2 ^ 24) v).waiters = t.waiters from hwaiters]
      exact hfree) 65
  refine strandOp_ok h ?_
  rw [run_bind_ok (runw_sreg h.1.1 _ x.r.rs1)]
  refine (run_bind_ok (runw_theWho h.1.1 _)).trans ((run_bind_ok hrel).trans ?_)
  rw [run_modTeam (hcur.trans h.1.1), State.modAct_of_act hact, hserve, Team.sreg_past_strand, hsum]

section
variable {g : Grid} (hepi : t.epilogue = none) (hgrid : s.grid t.grid = some g)
include hepi hgrid

theorem execSemRsig_target (hno : g.total ≤ (t.sreg x.r.rs1.toNat).toNat % 2 ^ 32) :
    execSemRsig x s = .next (s.trapAt c .strand t.still .semTarget {}) := by
  have hbound : decide ((t.sreg x.r.rs1.toNat).toNat % 2 ^ 32 < g.total) = false := decide_eq_false (Nat.not_lt.2 hno)
  have hepi' : (t.past .strand 8).epilogue = none := hepi
  have hgrid' : (s.withTeam c (t.past .strand 8)).grid (t.past .strand 8).grid = some g := hgrid
  refine strandOp_trapAt_still h ?_
  simp only [EStateM.run_bind, runw_sreg h.1.1, runw_team h.1.1, run_get, hepi', hgrid', Team.sreg_past_strand, hbound, run_need,
    Bool.false_eq_true, if_false]

/-- A signal to a team of the grid is sent once what precedes it has been released (R227). -/
theorem execSemRsig_sends (hrel : (release (s.whoIs c t) 3).run (s.withTeam c (t.past .strand 8)) = .ok () s2)
    (hno : (t.sreg x.r.rs1.toNat).toNat % 2 ^ 32 < g.total) : execSemRsig x s = .next ((s2.semRemote t.grid
      ((t.sreg x.r.rs1.toNat).toNat % 2 ^ 32) (x.imm.toNat / 2 ^ 24) (BitVec.ofNat 32 (x.imm.toNat % 2 ^ 24))).did t) := by
  have hepi' : (t.past .strand 8).epilogue = none := hepi
  have hgrid' : (s.withTeam c (t.past .strand 8)).grid (t.past .strand 8).grid = some g := hgrid
  have hwho : s.whoIs c (t.past .strand 8) .strand = s.whoIs c t := rfl
  refine strandOp_ok h ?_
  simp only [EStateM.run_bind, runw_sreg h.1.1, runw_team h.1.1, run_get, hepi', hgrid', Team.sreg_past_strand, decide_eq_true hno,
    run_need, if_true, runw_theWho h.1.1, hwho, hrel, run_modify, immCount_eq]
  rfl

end

end

/-- Settles O12: what EVQ.POP, EVQ.WAIT, SEM.SIG, SEM.WAIT, SEM.SET and SEM.RSIG do, wait for and trap on. -/
theorem eventsAndSemaphores : Obligations.EventsAndSemaphores := by
  refine ⟨fun s c t x h hrd => ⟨fun hq => ⟨execEvqPop_empty h hq, execEvqWait_empty h hq⟩,
    fun r rest hq hce hhub => ⟨execEvqPop_pops h hq hce hhub, execEvqWait_pops h hq hce hhub⟩,
    fun u r k hk => Team.sreg_foldl_setSreg u (by rintro h0; simp [h0] at hrd) _ 8 hk⟩, ?_⟩
  intro s s2 c t t2 x y h hy hcur hact hsems hwaiters i n iy ny rel free first sum
  have hn32 : n < 2 ^ 32 := Nat.mod_lt _ (by decide)
  have hny32 : ny < 2 ^ 32 := (Nat.mod_lt _ (by decide)).trans (by decide)
  have hn : (BitVec.ofNat 32 n).toNat = n := by rw [BitVec.toNat_ofNat, Nat.mod_eq_of_lt hn32]
  have hny : (BitVec.ofNat 32 ny).toNat = ny := by rw [BitVec.toNat_ofNat, Nat.mod_eq_of_lt hny32]
  have himm : y.imm &&& 0xFFFFFF = BitVec.ofNat 32 ny := immCount_eq y.imm
  refine ⟨?_, ?_, ?_, ?_, ?_, ?_, ?_, ?_⟩
  · exact fun hrel hfree => strandOp_doSig h (runw_semOperands h.1.1 _) hrel hcur hact hsems hwaiters hfree hn
  · exact fun hrel hfree => strandOp_doSig hy (by rw [himm]) hrel hcur hact hsems hwaiters hfree hny
  · exact fun ⟨hwait, hland⟩ hle hpos => strandOp_doWait_takes h (runw_semOperands h.1.1 _) hwait hland
      (BitVec.le_def.2 (by rw [hn]; exact hle)) (fun h0 => by rw [h0] at hn; exact absurd hn hpos.ne)
  · intro h0
    refine strandOp_ok h ((runw_semOperands h.1.1 _).trans ?_)
    rw [show (t.sreg x.rs2.toNat).toNat % 2 ^ 32 = 0 from h0]
    exact runw_doWait_zero h.1.1
  · intro hfree hlt
    have hfree' : t.noWaiter i := hfree
    have hblocks := strandOp_blocks h ((runw_semOperands h.1.1 (doWait x.md.toNat)).trans
      (runw_doWait_blocks (u := t.past .strand 4) h.1.1 hfree (BitVec.lt_def.2 (by rw [hn]; exact hlt))))
    rw [hfree'.strand] at hblocks
    exact hblocks
  · exact fun ⟨hwait, hland⟩ hle hpos => strandOp_doWait_takes hy (by rw [himm]) hwait hland
      (BitVec.le_def.2 (by rw [hny]; exact hle)) (fun h0 => by rw [h0] at hny; exact absurd hny hpos.ne)
  · exact fun hrel hfree => execSemSet_sets hy hrel hcur hact hwaiters hfree
  · refine fun g hepi hgrid => ⟨execSemRsig_target hy hepi hgrid, fun hrel hno => ?_⟩
    have hsends := execSemRsig_sends hy hepi hgrid hrel hno
    refine ⟨hsends, fun g2 hgrid2 => ⟨fun hgone => ?_, fun hgone hplaced => ?_⟩⟩
    · exact hsends.trans (by rw [State.semRemote_gone hgrid2 hgone])
    · exact hsends.trans (by rw [State.semRemote_kept hgrid2 hgone hplaced])

end Sys2Proof.Machine
end

section
/-! Proofs about control registers (R228 to R230, R458 to R460). -/
namespace Sys2Proof.Machine

/-! ### Fields -/

theorem bitAt_eq_getLsbD (w : Word) (i : Nat) : bitAt w i = w.getLsbD i := by
  rw [bitAt, BitVec.getLsbD, Nat.testBit_eq_decide_div_mod_eq, Nat.shiftRight_eq_div_pow]
  rfl

/-- The fields of `fs`, by low bit and width, are zero. -/
def zeroFields (v : Word) (fs : List (Nat × Nat)) : Prop := ∀ f ∈ fs, (v.extractLsb' f.1 f.2).toNat = 0

theorem resSet_eq_false_iff (v : Word) (fs : List (Nat × Nat)) : resSet v fs = false ↔ zeroFields v fs := by
  simp only [resSet, List.any_eq_false, bne_iff_ne, ne_eq, not_not, fld_eq_toNat, zeroFields]

theorem at_eq (v lo : Nat) : at_ v lo = v * 2 ^ lo := Nat.shiftLeft_eq v lo

/-! ### What CTL.RD reads -/

section
variable (s : State) (c : Nat) (b : Bool) (t : Team)

theorem toNat_eq_ite (v : Bool) : v.toNat = if v then 1 else 0 := by cases v <;> rfl

theorem stream_busy (e : EStream) : (e.st != .idle).toNat = if e.st = .idle then 0 else 1 := by
  by_cases h : e.st = .idle <;> simp [h]

theorem Team.strstat_eq : t.strstat b = BitVec.ofNat 64 (t.ras.length * 2 ^ 27 + t.evq.length * 2 ^ 20 + (if b then 1 else 0) * 2 ^ 19 +
    (if t.priv then 1 else 0) * 2 ^ 18 + slotCode t.nt1.st * 2 ^ 16 + slotCode t.nt0.st * 2 ^ 14 +
    (if t.cpy.st = .idle then 0 else 1) * 2 ^ 13 + (if t.mat.st = .idle then 0 else 1) * 2 ^ 12 +
    (if t.vec.st = .idle then 0 else 1) * 2 ^ 11) := by
  simp only [Team.strstat, at_eq, stream_busy, toNat_eq_ite b, toNat_eq_ite t.priv, wd]

theorem Team.tstate_eq : t.tstate = BitVec.ofNat 64 (t.tstrm * 2 ^ 10 + (if t.priv then 1 else 0) * 2 ^ 9 +
    (if t.cpy.held then 1 else 0) * 2 ^ 6 + (if t.mat.held then 1 else 0) * 2 ^ 5 + (if t.vec.held then 1 else 0) * 2 ^ 4) := by
  simp only [Team.tstate, at_eq, toNat_eq_ite, wd]

theorem Ctx.fqctl_eq (x : Ctx) : x.fqctl =
    BitVec.ofNat 64 ((if x.pend.fqv then 1 else 0) * 2 ^ 63 + x.pend.fqlogd.toNat * 2 ^ 59 + x.drop.toNat) := by
  simp only [Ctx.fqctl, at_eq, toNat_eq_ite, wd]

/-- The control registers that are read in every mode, by number (R228, R230). -/
def userRegs : List (Nat × Word) :=
  [(0x00, s.caps.setWidth 64), (0x01, wd c), (0x02, wd t.no), (0x10, t.vflags.setWidth 64), (0x11, t.rasp), (0x12, t.rasbase),
    (0x13, t.raslim), (0x14, t.strstat b), (0x15, t.vrstidx.setWidth 64)] ++
    (List.range 8).map fun i => (8 + i, (t.lvl.getD i 0x10000).setWidth 64)

/-- Those that are read in privileged mode alone (R458, R460). -/
def privRegs : List (Nat × Word) :=
  let k := (s.ctx t.asid).pend
  [(0x80, k.htbase), (0x81, k.htsize), (0x82, k.ptroot), (0x83, (s.ctx t.asid).fqctl), (0x84, k.fqbase), (0x85, k.spillqbase),
    (0x86, k.spillqsize), (0x87, k.swapbase), (0x88, k.swapstride), (0x89, k.pinlim), (0x8A, k.collallot), (0x8B, k.tvec),
    (0x8C, wd t.asid), (0x90, (s.ctx t.asid).fqhead.setWidth 64), (0x91, (s.ctx t.asid).fqtail.setWidth 64), (0xA0, t.epc),
    (0xA1, t.epcv), (0xA2, t.epcm), (0xA3, t.epcc), (0xA4, t.tstate), (0xAD, wd t.apend.length), (0xAE, t.scratch0),
    (0xAF, t.scratch1)] ++ (List.range 8).map fun i => (0xA5 + i, t.frec.getD i 0)

theorem State.ctlRead_level {i : Nat} (hi : i < 8) : s.ctlRead c b t (8 + i) = some ((t.lvl.getD i 0x10000).setWidth 64) := by
  rw [State.ctlRead, if_neg (by omega), if_neg (by omega), if_neg (by omega), if_pos (by omega), Nat.add_sub_cancel_left]
  exact congrArg some (BitVec.ofNat_toNat ..)

theorem State.ctlRead_frec {i : Nat} (hi : i < 8) : s.ctlRead c b t (0xA5 + i) = some (t.frec.getD i 0) := by
  simp (disch := omega) only [State.ctlRead, if_neg, if_pos, Nat.add_sub_cancel_left]
  rfl

theorem State.ctlRead_userRegs (he : t.epilogue = none) : ∀ p ∈ userRegs s c b t, s.ctlRead c b t p.1 = some p.2 := by
  have hno : t.teamno = t.no := by rw [Team.teamno, he]; rfl
  have hwide : ∀ {n : Nat} (v : BitVec n), some (wd v.toNat) = some (v.setWidth 64) := fun v => congrArg some (BitVec.ofNat_toNat ..)
  refine List.forall_mem_append.2 ⟨?_, List.forall_mem_map.2 fun i hi => s.ctlRead_level c b t (List.mem_range.1 hi)⟩
  simp only [List.forall_mem_cons]
  exact ⟨hwide _, rfl, congrArg (fun k => some (wd k)) hno, hwide _, rfl, rfl, rfl, rfl, hwide _, List.forall_mem_nil _⟩

theorem userRegs_lt : ∀ p ∈ userRegs s c b t, p.1 < 0x80 := by
  refine List.forall_mem_append.2 ⟨?_, List.forall_mem_map.2 fun i hi => ?_⟩
  · simp only [List.forall_mem_cons]
    decide
  · have hlt : i < 8 := List.mem_range.1 hi
    omega

theorem State.ctlRead_privRegs : ∀ p ∈ privRegs s t, s.ctlRead c b t p.1 = some p.2 := by
  have hwide : ∀ {n : Nat} (v : BitVec n), some (wd v.toNat) = some (v.setWidth 64) := fun v => congrArg some (BitVec.ofNat_toNat ..)
  refine List.forall_mem_append.2 ⟨?_, ?_⟩
  · simp only [List.forall_mem_cons]
    exact ⟨rfl, rfl, rfl, rfl, rfl, rfl, rfl, rfl, rfl, rfl, rfl, rfl, rfl, hwide _, hwide _, rfl, rfl, rfl, rfl, rfl, rfl, rfl, rfl,
      List.forall_mem_nil _⟩
  · exact List.forall_mem_map.2 fun i hi => s.ctlRead_frec c b t (List.mem_range.1 hi)

/-- The numbers that are not assigned. -/
theorem State.ctlRead_none {n : Nat} (h : 3 ≤ n ∧ n ≤ 7 ∨ 0x16 ≤ n ∧ n ≤ 0x7F ∨ 0x8D ≤ n ∧ n ≤ 0x8F ∨ 0x92 ≤ n ∧ n ≤ 0x9F ∨ 0xB0 ≤ n) :
    s.ctlRead c b t n = none := by
  simp (disch := omega) only [State.ctlRead, if_neg]

end

/-! ### The checks of CTL.RD and CTL.WR -/

section
variable {s : State} {c : Nat} {t : Team} {x : S32} (h : Guarded s c t x.pg)
include h

theorem runw_ctlCheck (hpriv : ctlNo x < 0x80 ∨ t.priv = true) : (ctlCheck (ctlNo x)).run (s.withTeam c (t.past .strand 4)) =
    ((s.ctlRead c (s.cell c).active t (ctlNo x)).elim (trap .ctlInvalid) pure : M Word).run (s.withTeam c (t.past .strand 4)) := by
  have hallowed : (decide (ctlNo x < 0x80) || (t.past .strand 4).priv) = true :=
    Bool.or_eq_true_iff.2 (hpriv.imp_left decide_eq_true)
  have hread : (s.withTeam c (t.past .strand 4)).ctlRead c (s.cell c).active (t.past .strand 4) (ctlNo x) =
      s.ctlRead c (s.cell c).active t (ctlNo x) := rfl
  simp only [ctlCheck, EStateM.run_bind, runw_team h.1.1, run_need, hallowed, if_true, runw_theCell h.1.1, run_get, State.cell_withTeam,
    Cell.active_setTeam, hread]
  cases s.ctlRead c (s.cell c).active t (ctlNo x) <;> rfl

theorem runw_ctlCheck_illPriv (hn : 0x80 ≤ ctlNo x) (hpriv : t.priv = false) :
    (ctlCheck (ctlNo x)).run (s.withTeam c (t.past .strand 4)) = .error (.trap .illPriv {}) (s.withTeam c (t.past .strand 4)) := by
  have hdenied : (decide (ctlNo x < 0x80) || (t.past .strand 4).priv) = false := by
    rw [decide_eq_false (Nat.not_lt.2 hn)]
    exact hpriv
  rw [ctlCheck, run_bind_ok (runw_team h.1.1 _)]
  refine run_bind_error ?_
  rw [run_need, hdenied]
  rfl

theorem execCtlRd_reads {v : Word} (hpriv : ctlNo x < 0x80 ∨ t.priv = true)
    (hv : s.ctlRead c (s.cell c).active t (ctlNo x) = some v) :
    execCtlRd x s = .next (s.after c ((t.past .strand 4).setSreg x.rd.toNat v)) := by
  refine strandOp_setSreg h ?_
  rw [run_bind_ok ((runw_ctlCheck h hpriv).trans (by rw [hv]; rfl)), runw_setSreg h.1.1]

/-- A check that fails is the trap of both instructions. -/
theorem execCtl_traps {k : Cause} (hk : (ctlCheck (ctlNo x)).run (s.withTeam c (t.past .strand 4)) =
    .error (.trap k {}) (s.withTeam c (t.past .strand 4))) :
    execCtlRd x s = .next (s.trapAt c .strand t.still k {}) ∧ execCtlWr x s = .next (s.trapAt c .strand t.still k {}) :=
  ⟨strandOp_trapAt_still h (run_bind_error hk), strandOp_trapAt_still h (run_bind_error hk)⟩

end

/-! ### What CTL.WR writes -/

section
variable {s : State} {c : Nat} {t : Team} {x : S32} {n : Nat} (h : Guarded s c t x.pg) (hn : ctlNo x = n)
  (hpriv : n < 0x80 ∨ t.priv = true) (hassigned : (s.ctlRead c (s.cell c).active t n).isSome = true)
include h hn hpriv hassigned

/-- Past its checks CTL.WR is its write. -/
theorem runw_execCtlWr : (do
      let _ <- ctlCheck (ctlNo x)
      ctlWrite (ctlNo x) (<- sreg x.rs1) : M Unit).run (s.withTeam c (t.past .strand 4)) =
    (ctlWrite n (t.sreg x.rs1.toNat)).run (s.withTeam c (t.past .strand 4)) := by
  subst hn
  obtain ⟨v, hv⟩ := Option.isSome_iff_exists.1 hassigned
  rw [run_bind_ok ((runw_ctlCheck h hpriv).trans (by rw [hv]; rfl)), run_bind_ok (runw_sreg h.1.1 _ x.rs1), Team.sreg_past_strand]

/-- A register that takes what is written changes the team. -/
theorem execCtlWr_sets {f : Team → Team} (hw : ctlWrite n (t.sreg x.rs1.toNat) = team >>= fun _ => modTeam f)
    (hkey : (f (t.past .strand 4)).key .strand = t.key .strand) : execCtlWr x s = .next (s.after c (f (t.past .strand 4))) := by
  refine strandOp_after h ((runw_execCtlWr h hn hpriv hassigned).trans ?_) hkey
  rw [hw, run_bind_ok (runw_team h.1.1 _), runw_modTeam h.1.1]

/-- Reserved fields are checked before the write: `k` is what the register then does. -/
theorem execCtlWr_fields {k : M Unit} {u : Team} {fs : List (Nat × Nat)}
    (hw : ctlWrite n (t.sreg x.rs1.toNat) = team >>= fun _ => need (!resSet (t.sreg x.rs1.toNat) fs) .illRes >>= fun _ => k)
    (hk : k.run (s.withTeam c (t.past .strand 4)) = .ok () (s.withTeam c u)) (hkey : u.key .strand = t.key .strand) :
    (zeroFields (t.sreg x.rs1.toNat) fs → execCtlWr x s = .next (s.after c u)) ∧
    (¬ zeroFields (t.sreg x.rs1.toNat) fs → execCtlWr x s = .next (s.trapAt c .strand t.still .illRes {})) := by
  have hrun := runw_execCtlWr h hn hpriv hassigned
  rw [hw, run_bind_ok (runw_team h.1.1 _)] at hrun
  constructor <;> intro hz <;> rw [← resSet_eq_false_iff] at hz
  · refine strandOp_after h (hrun.trans ?_) hkey
    rw [run_bind_ok (by rw [hz]; rfl), hk]
  · refine strandOp_trapAt_still h (hrun.trans (run_bind_error ?_))
    rw [Bool.eq_true_of_not_eq_false hz]
    rfl

end

/-! ### Context registers (R459) -/

section
variable {s : State} {c n : Nat} {t : Team} {v : Word} (hc : s.cur = .stream c .strand) (hctx : 0x80 ≤ n ∧ n ≤ 0x8B)
include hc hctx

/-- A write of a context register is its pending value, where the register allows it. -/
theorem runw_ctlWrite_ok {r : CtxRegs} (hr : ctlWriteCtx n v (s.ctx t.asid).pend = .ok r) : (ctlWrite n v).run (s.withTeam c t) =
    (do if n = 0x8B && !bitAt v 63 then
          modify fun s => s.modCtx t.asid fun y => { y with regs := { y.regs with tvec := v } } : M Unit).run
      ((s.withTeam c t).modCtx t.asid fun y => { y with pend := r }) := by
  have hr' : ctlWriteCtx n v ((s.withTeam c t).ctx t.asid).pend = .ok r := hr
  simp (disch := omega) only [ctlWrite, if_neg, if_pos]
  rw [run_bind_ok (runw_team hc t), run_bind_ok (run_get _), hr']
  exact run_bind_ok (run_modify ..)

theorem runw_ctlWrite_error {k : Cause} (hr : ctlWriteCtx n v (s.ctx t.asid).pend = .error k) :
    (ctlWrite n v).run (s.withTeam c t) = .error (.trap k {}) (s.withTeam c t) := by
  have hr' : ctlWriteCtx n v ((s.withTeam c t).ctx t.asid).pend = .error k := hr
  simp (disch := omega) only [ctlWrite, if_neg, if_pos]
  rw [run_bind_ok (runw_team hc t), run_bind_ok (run_get _), hr']
  rfl

end

/-- What CTL.WR of a context register does when the register answers so (R459). -/
def CtlPends (s : State) (c : Nat) (t : Team) (x : S32) : Except Cause CtxRegs → Prop
  | .ok r => execCtlWr x s = .next (((s.withTeam c (t.past .strand 4)).modCtx t.asid fun y => { y with pend := r }).did t)
  | .error k => execCtlWr x s = .next (s.trapAt c .strand t.still k {})

section
variable {s : State} {c : Nat} {t : Team} {x : S32} {n : Nat} (h : Guarded s c t x.pg) (hpriv : t.priv = true) (hn : ctlNo x = n)
  (hassigned : (s.ctlRead c (s.cell c).active t n).isSome = true)
include h hpriv hn hassigned

theorem execCtlWr_ctx (hctx : 0x80 ≤ n ∧ n ≤ 0x8B) (hplain : n ≠ 0x8B ∨ (t.sreg x.rs1.toNat).getLsbD 63 = true) :
    CtlPends s c t x (ctlWriteCtx n (t.sreg x.rs1.toNat) (s.ctx t.asid).pend) := by
  have hrun := runw_execCtlWr h hn (.inr hpriv) hassigned
  cases hr : ctlWriteCtx n (t.sreg x.rs1.toNat) (s.ctx t.asid).pend with
  | error k => exact strandOp_trapAt_still h (hrun.trans (runw_ctlWrite_error (t := t.past .strand 4) h.1.1 hctx hr))
  | ok r =>
    have hnot : (decide (n = 0x8B) && !bitAt (t.sreg x.rs1.toNat) 63) = false := by
      obtain hne | hset := hplain
      · rw [decide_eq_false hne, Bool.false_and]
      · rw [bitAt_eq_getLsbD, hset, Bool.not_true, Bool.and_false]
    refine strandOp_ok h ((hrun.trans (runw_ctlWrite_ok (t := t.past .strand 4) h.1.1 hctx hr)).trans ?_)
    rw [hnot]
    rfl

end

/-- TVEC without its valid bit is in force at once (R459, R461). -/
theorem execCtlWr_tvecOff {s : State} {c : Nat} {t : Team} {x : S32} (h : Guarded s c t x.pg) (hpriv : t.priv = true)
    (hn : ctlNo x = 0x8B) {r : CtxRegs} (hr : ctlWriteCtx 0x8B (t.sreg x.rs1.toNat) (s.ctx t.asid).pend = .ok r)
    (hoff : (t.sreg x.rs1.toNat).getLsbD 63 = false) : execCtlWr x s = .next ((((s.withTeam c (t.past .strand 4)).modCtx t.asid
      fun y => { y with pend := r }).modCtx t.asid fun y => { y with regs := { y.regs with tvec := t.sreg x.rs1.toNat } }).did t) := by
  refine strandOp_ok h (((runw_execCtlWr h hn (.inr hpriv) rfl).trans
    (runw_ctlWrite_ok (t := t.past .strand 4) h.1.1 (by decide) hr)).trans ?_)
  rw [bitAt_eq_getLsbD, hoff]
  rfl

/-- What the register answers, condition by condition. -/
theorem ctlPends_ite {s : State} {c : Nat} {t : Team} {x : S32} {p : Prop} [Decidable p] {a b : Except Cause CtxRegs} :
    CtlPends s c t x (if p then a else b) = if p then CtlPends s c t x a else CtlPends s c t x b := apply_ite ..

section
variable (v : Word) (r : CtxRegs)

/-- A system address of the host or of local memory (R522). -/
def onPath (v : Word) (r : CtxRegs) : Except Cause CtxRegs :=
  if (v.extractLsb' 52 4).toNat = 0 ∨ (v.extractLsb' 52 4).toNat = 6 then .ok r else .error .pathRes

theorem ctlWriteCtx_htbase : ctlWriteCtx 0x80 v r =
    if (v.extractLsb' 0 6).toNat ≠ 0 then .error .illRes else onPath v { r with htbase := v } := by
  simp [ctlWriteCtx, fld_eq_toNat, onPath]

theorem ctlWriteCtx_htsize : ctlWriteCtx 0x81 v r =
    if v = 0 ∨ 4096 < v.toNat then .error .illRes else .ok { r with htsize := v } := by
  simp [ctlWriteCtx]

theorem ctlWriteCtx_ptroot : ctlWriteCtx 0x82 v r =
    if (v.extractLsb' 52 4).toNat = 0 then .ok { r with ptroot := v } else .error .pathRes := by
  simp [ctlWriteCtx, fld_eq_toNat]

theorem ctlWriteCtx_fqctl : ctlWriteCtx 0x83 v r =
    if (v.extractLsb' 32 27).toNat ≠ 0 ∨ 13 ≤ (v.extractLsb' 59 4).toNat then .error .illRes
    else .ok { r with fqv := v.getLsbD 63, fqlogd := v.extractLsb' 59 4 } := by
  simp [ctlWriteCtx, resSet, fld_eq_toNat, bitAt_eq_getLsbD, -BitVec.extractLsb'_toNat]

theorem ctlWriteCtx_fqbase : ctlWriteCtx 0x84 v r =
    if (v.extractLsb' 0 6).toNat ≠ 0 then .error .illRes else onPath v { r with fqbase := v } := by
  simp [ctlWriteCtx, fld_eq_toNat, onPath]

theorem ctlWriteCtx_spillqbase : ctlWriteCtx 0x85 v r = onPath v { r with spillqbase := v } := by
  simp [ctlWriteCtx, fld_eq_toNat, onPath]

theorem ctlWriteCtx_swapbase : ctlWriteCtx 0x87 v r =
    if (v.extractLsb' 0 16).toNat ≠ 0 then .error .illRes else onPath v { r with swapbase := v } := by
  simp [ctlWriteCtx, fld_eq_toNat, onPath]

theorem ctlWriteCtx_swapstride : ctlWriteCtx 0x88 v r =
    if v.toNat < 10 ∨ 138 < v.toNat then .error .illRes else .ok { r with swapstride := v } := by
  simp [ctlWriteCtx]

theorem ctlWriteCtx_collallot : ctlWriteCtx 0x8A v r = if 16 < v.toNat then .error .illRes else .ok { r with collallot := v } := by
  simp [ctlWriteCtx]

theorem ctlWriteCtx_tvec : ctlWriteCtx 0x8B v r =
    if (v.extractLsb' 32 31).toNat ≠ 0 ∨ (v.extractLsb' 0 2).toNat ≠ 0 then .error .illRes else .ok { r with tvec := v } := by
  simp [ctlWriteCtx, resSet, fld_eq_toNat]

end

/-! ### Read-only registers and reserved fields -/

theorem zeroFields_one {v : Word} {lo w : Nat} : zeroFields v [(lo, w)] ↔ (v.extractLsb' lo w).toNat = 0 := List.forall_mem_singleton

theorem zeroFields_two {v : Word} {lo w lo' w' : Nat} :
    zeroFields v [(lo, w), (lo', w')] ↔ (v.extractLsb' lo w).toNat = 0 ∧ (v.extractLsb' lo' w').toNat = 0 := by
  rw [zeroFields, List.forall_mem_cons, List.forall_mem_singleton]

theorem zeroFields_three {v : Word} {lo w lo' w' lo'' w'' : Nat} : zeroFields v [(lo, w), (lo', w'), (lo'', w'')] ↔
    (v.extractLsb' lo w).toNat = 0 ∧ (v.extractLsb' lo' w').toNat = 0 ∧ (v.extractLsb' lo'' w'').toNat = 0 := by
  rw [zeroFields, List.forall_mem_cons, List.forall_mem_cons, List.forall_mem_singleton]

/-- A check of reserved fields, said with the fields themselves. -/
theorem zeroFields_ite {v : Word} {fs : List (Nat × Nat)} {p a b : Prop} [Decidable p] (hp : zeroFields v fs ↔ p)
    (h : (zeroFields v fs → a) ∧ (¬ zeroFields v fs → b)) : if p then a else b :=
  ite_prop_iff_and.2 ⟨fun hz => h.1 (hp.2 hz), fun hz => h.2 (mt hp.1 hz)⟩

/-- A read-only register keeps its value; its reserved fields are checked all the same (R9, R10). -/
theorem execCtlWr_readOnly {s : State} {c : Nat} {t : Team} {x : S32} {n : Nat} (h : Guarded s c t x.pg) (hn : ctlNo x = n)
    (hpriv : n < 0x80 ∨ t.priv = true) (hassigned : (s.ctlRead c (s.cell c).active t n).isSome = true)
    (hw : ctlWrite n (t.sreg x.rs1.toNat) = team >>= fun _ => need (!resSet (t.sreg x.rs1.toNat) (roRes n)) .illRes) :
    if ∀ f ∈ roRes n, ((t.sreg x.rs1.toNat).extractLsb' f.1 f.2).toNat = 0 then execCtlWr x s = .next (s.after c (t.past .strand 4))
    else execCtlWr x s = .next (s.trapAt c .strand t.still .illRes {}) :=
  zeroFields_ite Iff.rfl (execCtlWr_fields (k := pure ()) h hn hpriv hassigned (by rw [hw, bind_pure_unit]) rfl rfl)

/-- Settles O13: what CTL.RD reads and CTL.WR writes, register by register, and where they trap. -/
theorem controlRegisters : Obligations.ControlRegisters := by
  refine ⟨fun s c t x h he => ?_, fun s c t x h => ?_⟩
  · intro n b k bit word busy slot
    refine ⟨fun p hp hn => ?_, fun p hp hn hpriv => ?_, fun hn hpriv => execCtl_traps h (runw_ctlCheck_illPriv h hn hpriv), fun hn => ?_⟩
    · have hp' : p ∈ userRegs s c b t := by
        rw [userRegs, Team.strstat_eq]
        exact hp
      have hlow : n < 0x80 := hn ▸ userRegs_lt s c b t p hp'
      exact execCtlRd_reads h (.inl hlow) ((congrArg _ hn).trans (s.ctlRead_userRegs c b t he p hp'))
    · have hp' : p ∈ privRegs s t := by
        simp only [privRegs, Team.tstate_eq, Ctx.fqctl_eq]
        exact hp
      exact execCtlRd_reads h (.inr hpriv) ((congrArg _ hn).trans (s.ctlRead_privRegs c b t p hp'))
    · have hnone : s.ctlRead c b t n = none := s.ctlRead_none c b t (by omega)
      have hpriv : n < 0x80 ∨ t.priv = true := by
        obtain hn | hn | ⟨hpriv, -⟩ := hn
        · exact .inl (by omega)
        · exact .inl (by omega)
        · exact .inr hpriv
      exact execCtl_traps h ((runw_ctlCheck h hpriv).trans (by rw [show s.ctlRead c (s.cell c).active t (ctlNo x) = none from hnone]; rfl))
  · intro n v t' bits path done traps pends r
    refine ⟨fun hn => ?_, fun hn => ?_, fun hn => ?_, fun p hp hn => ?_, fun hpriv => ?_⟩
    · exact zeroFields_ite zeroFields_one (execCtlWr_fields h hn (.inl (by decide)) rfl rfl (runw_modTeam h.1.1 ..) rfl)
    · exact zeroFields_ite zeroFields_two (execCtlWr_fields h hn (.inl (by decide)) rfl rfl (runw_modTeam h.1.1 ..) rfl)
    · exact zeroFields_ite zeroFields_one (execCtlWr_fields h hn (.inl (by decide)) rfl rfl (runw_modTeam h.1.1 ..) rfl)
    · simp only [List.mem_cons, List.not_mem_nil, or_false] at hp
      obtain rfl | rfl | rfl | rfl | rfl | rfl | rfl | rfl | rfl | rfl | rfl | rfl | rfl | rfl := hp <;>
        exact execCtlWr_readOnly h hn (.inl (by decide)) rfl rfl
    · have hctx : ∀ {n : Nat}, ctlNo x = n → (s.ctlRead c (s.cell c).active t n).isSome = true → 0x80 ≤ n ∧ n ≤ 0x8B → n ≠ 0x8B →
          CtlPends s c t x (ctlWriteCtx n v r) := fun hn ha hctx hne => execCtlWr_ctx h hpriv hn ha hctx (.inl hne)
      refine ⟨fun p hp hn => ?_, fun hn => execCtlWr_sets h hn (.inr hpriv) rfl rfl rfl,
        fun hn => execCtlWr_sets h hn (.inr hpriv) rfl rfl rfl, fun hn => execCtlWr_sets h hn (.inr hpriv) rfl rfl rfl,
        fun hn => execCtlWr_sets h hn (.inr hpriv) rfl rfl rfl, fun hn => execCtlWr_sets h hn (.inr hpriv) rfl rfl rfl,
        fun hn => execCtlWr_sets h hn (.inr hpriv) rfl rfl rfl, fun hn => ?_, fun hn => ?_, fun hn => ?_, fun hn => ?_, fun hn => ?_,
        fun hn => ?_, fun hn => ?_, fun hn => ?_, fun hn => ?_, fun hn => ?_, fun hn => ?_, fun hn => ?_, fun hn => ?_, fun hn => ?_⟩
      · simp only [List.mem_cons, List.not_mem_nil, or_false] at hp
        obtain rfl | rfl | rfl | rfl | rfl | rfl | rfl | rfl | rfl | rfl | rfl := hp <;>
          exact execCtlWr_readOnly h hn (.inr hpriv) rfl rfl
      · refine zeroFields_ite zeroFields_three (execCtlWr_fields h hn (.inr hpriv) rfl rfl ((runw_modTeam h.1.1 ..).trans ?_) rfl)
        simp only [bitAt_eq_getLsbD]
        rfl
      · exact strandOp_ok h ((runw_execCtlWr h hn (.inr hpriv) rfl).trans ((run_bind_ok (runw_team h.1.1 _)).trans rfl))
      · have hw := hctx hn rfl (by decide) (by decide)
        rwa [ctlWriteCtx_htbase, ctlPends_ite, onPath, ctlPends_ite] at hw
      · have hw := hctx hn rfl (by decide) (by decide)
        rwa [ctlWriteCtx_htsize, ctlPends_ite] at hw
      · have hw := hctx hn rfl (by decide) (by decide)
        rwa [ctlWriteCtx_ptroot, ctlPends_ite] at hw
      · have hw := hctx hn rfl (by decide) (by decide)
        rwa [ctlWriteCtx_fqctl, ctlPends_ite] at hw
      · have hw := hctx hn rfl (by decide) (by decide)
        rwa [ctlWriteCtx_fqbase, ctlPends_ite, onPath, ctlPends_ite] at hw
      · have hw := hctx hn rfl (by decide) (by decide)
        rwa [ctlWriteCtx_spillqbase, onPath, ctlPends_ite] at hw
      · exact hctx hn rfl (by decide) (by decide)
      · have hw := hctx hn rfl (by decide) (by decide)
        rwa [ctlWriteCtx_swapbase, ctlPends_ite, onPath, ctlPends_ite] at hw
      · have hw := hctx hn rfl (by decide) (by decide)
        rwa [ctlWriteCtx_swapstride, ctlPends_ite] at hw
      · exact hctx hn rfl (by decide) (by decide)
      · have hw := hctx hn rfl (by decide) (by decide)
        rwa [ctlWriteCtx_collallot, ctlPends_ite] at hw
      · have hanswer := ctlWriteCtx_tvec v r
        by_cases hres : bits 32 31 ≠ 0 ∨ bits 0 2 ≠ 0
        · rw [if_pos hres] at hanswer ⊢
          exact strandOp_trapAt_still h ((runw_execCtlWr h hn (.inr hpriv) rfl).trans
            (runw_ctlWrite_error (t := t.past .strand 4) h.1.1 (by decide) hanswer))
        · rw [if_neg hres] at hanswer ⊢
          cases hon : v.getLsbD 63 with
          | false => exact execCtlWr_tvecOff h hpriv hn hanswer hon
          | true =>
            have hw := execCtlWr_ctx h hpriv hn rfl (by decide) (.inr hon)
            rwa [hanswer] at hw

end Sys2Proof.Machine
end

section
/-! Proofs about TRAP and ERET (R233, R234, R461, R466). -/
namespace Sys2Proof.Machine

/-! ### Entry into the handler (R461) -/

theorem FRec.cause_words (r : FRec) (seq : BitVec 32) (hcode : r.cause.code < 1024) (hstrm : r.strm < 4) :
    ((r.words seq).getD 0 0).toNat / 2 ^ 54 = r.cause.code := by
  have hstage := Bool.toNat_le r.stage
  have hprec := Bool.toNat_le r.prec
  have hteam := r.team.isLt
  have hasid : r.asid % 1024 < 1024 := Nat.mod_lt _ (by decide)
  show (wd _).toNat / 2 ^ 54 = _
  simp only [wd, at_eq, BitVec.toNat_ofNat]
  omega

theorem Cause.code_soft (n : BitVec 5) : (Cause.soft n).code = 224 + n.toNat := rfl

/-- Answers that are used are no longer due. -/
theorem State.answersDue_usedReplies {s : State} {t : Team} {x : Option Stream} (k : AgentKey) (h : s.answersDue t x = false) :
    (s.usedReplies k).answersDue t x = false := by
  have hasking : ∀ q, s.asking q = false → (s.usedReplies k).asking q = false := by
    intro q hq
    obtain ⟨hreplies, hpeers⟩ := Bool.or_eq_false_iff.1 hq
    unfold State.usedReplies
    split
    · exact hq
    · refine Bool.or_eq_false_iff.2 ⟨List.any_eq_false.2 fun r hr => ?_, hpeers⟩
      exact List.any_eq_false.1 hreplies r (List.mem_filter.1 hr).1
  simp only [State.answersDue, List.any_cons, List.any_nil, Bool.or_eq_false_iff, Bool.and_eq_false_iff] at h ⊢
  obtain ⟨h0, h1, h2, h3, -⟩ := h
  exact ⟨h0.imp_right (hasking _), h1.imp_right (hasking _), h2.imp_right (hasking _), h3.imp_right (hasking _), trivial⟩

theorem State.act_putTeam_withSh (s : State) (c : Nat) (u : Team) (f : Shared → Shared) :
    (((s.putTeam (.here c (s.cell c).active) u).modCell c fun y => { y with sh := f y.sh }).cell c).act = some u := by
  have hact := State.act_withTeam s c u
  rw [State.withTeam] at hact
  rw [State.modCell, State.cell_setCell_self]
  exact hact

/-- A precise trap of the strand enters the handler when no engine must first reach a boundary. -/
theorem State.takeTrap_enters {s : State} {c : Nat} {t : Team} (k : Cause) (pc : Word) (i : Info) (hact : (s.cell c).act = some t)
    (hpriv : t.priv = false) (hepi : t.epilogue = none) (hmid : t.midVamo = false) (hdue : s.answersDue t (some .strand) = false)
    (htvec : (s.ctx t.asid).regs.tvec.getLsbD 63 = true) : ∃ t' r seq, ((s.takeTrap c .strand k true pc i).cell c).act = some t' ∧
      t'.priv = true ∧ t'.epc = i.epc.elim pc wd ∧ t'.pc = wd (fld (s.ctx t.asid).regs.tvec 0 32) ∧ t'.frec = FRec.words r seq ∧
      r.cause = k ∧ r.strm = 0 := by
  have hteam : (s.cell c).team (s.cell c).active = some t := hact
  have hvalid : (!bitAt (s.regsOf t.asid).tvec 63) = false := by rw [State.regsOf, bitAt_eq_getLsbD, htvec]; rfl
  have hwait : ((Stream.strand != .vector && t.midVamo) || s.answersDue t (if (Stream.strand == .strand && !true) = true then none
    else some .strand)) = false := by rw [hmid]; exact hdue
  unfold State.takeTrap
  simp only [hteam, hepi, hpriv, hvalid, Bool.false_eq_true, if_false, hwait]
  exact ⟨_, _, _, State.act_putTeam_withSh .., rfl, by cases i.epc <;> rfl, rfl, rfl, rfl, rfl⟩

/-! ### Outstanding loads that return (R196, R197) -/

/-- One outstanding load writes its register. -/
def Team.landLoad (t : Team) (l : Load) : Team :=
  match l.reg with
  | some r => t.putReg r l.value
  | none => t

/-- Only the registers of the user and of the handler have changed. -/
def Team.OnlyRegFile (t u : Team) : Prop := ∃ rs ps, u = { t with regs := rs, pregs := ps }

theorem Team.landLoad_onlyRegFile (t : Team) (l : Load) : t.OnlyRegFile (t.landLoad l) := by
  unfold Team.landLoad
  split
  · exact ⟨_, _, t.putReg_eq _ _⟩
  · exact ⟨t.regs, t.pregs, rfl⟩

theorem Team.foldl_landLoad_onlyRegFile : ∀ (ls : List Load) (t : Team), t.OnlyRegFile (ls.foldl Team.landLoad t)
  | [], t => ⟨t.regs, t.pregs, rfl⟩
  | l :: ls, t => by
    obtain ⟨rs, ps, hland⟩ := t.landLoad_onlyRegFile l
    obtain ⟨rs', ps', hrest⟩ := Team.foldl_landLoad_onlyRegFile ls (t.landLoad l)
    exact ⟨rs', ps', by rw [List.foldl_cons, hrest, hland]⟩

theorem Team.regOf_landLoad (t : Team) (l : Load) {r : Nat} (hr : r ≠ 0) :
    (t.landLoad l).regOf r = if l.reg == some r then l.value else t.regOf r := by
  unfold Team.landLoad
  cases hl : l.reg with
  | none => rfl
  | some k =>
    by_cases hk : r = k
    · rw [if_pos (by simp [hk]), ← hk, t.regOf_putReg_self hr]
    · rw [if_neg (by simpa using Ne.symm hk), Team.regOf_putReg_ne hk]

/-- After loads have returned in order, a register reads what the newest of them brought. -/
theorem Team.regOf_foldl_landLoad {r : Nat} (hr : r ≠ 0) : ∀ (ls : List Load) (t : Team),
    (ls.foldl Team.landLoad t).regOf r = (ls.reverse.find? fun l => l.reg == some r).elim (t.regOf r) (·.value)
  | [], t => rfl
  | l :: ls, t => by
    rw [List.foldl_cons, Team.regOf_foldl_landLoad hr ls, t.regOf_landLoad l hr, List.reverse_cons, List.find?_append,
      List.find?_singleton]
    cases ls.reverse.find? fun l => l.reg == some r with
    | some m => rfl
    | none => split <;> rfl

theorem Team.sreg_eq_elim (t : Team) {r : Nat} (hr : r ≠ 0) :
    t.sreg r = (t.loads.reverse.find? fun l => l.reg == some r).elim (t.regOf r) (·.value) := by
  rw [Team.sreg, if_neg hr]
  cases t.loads.reverse.find? fun l => l.reg == some r <;> rfl

/-- A team whose loads have all returned: its registers hold what they read before. -/
theorem Team.flushLoads_eq (t : Team) : ∃ rs ps, t.flushLoads = { t with loads := [], regs := rs, pregs := ps } ∧
    ∀ r, r ≠ 0 → ({ t with regs := rs, pregs := ps } : Team).regOf r = t.sreg r := by
  obtain ⟨rs, ps, hland⟩ := Team.foldl_landLoad_onlyRegFile t.loads t
  have hflush : t.flushLoads = { t.loads.foldl Team.landLoad t with loads := [] } := rfl
  refine ⟨rs, ps, by rw [hflush, hland], fun r hr => ?_⟩
  rw [← hland, Team.regOf_foldl_landLoad hr, t.sreg_eq_elim hr]

/-! ### Return from the handler (R466) -/

/-- An engine stream as the return leaves it; `epc` is where the handler sends it. -/
def EStream.resumed (z : EStream) (epc : Word) : EStream :=
  if z.held = true then
    if z.pc = epc then { z with held := false } else { z with held := false, pc := epc, nest := none, stopped := false }
  else if z.st = .run then {} else z

theorem Team.resumeEngine_eq (t : Team) (e : Engine) (epc : Word) : ∃ n0 n1, t.resumeEngine e epc =
    ({ t with nt0 := n0, nt1 := n1 } : Team).setEng e ((t.eng e).resumed epc) := by
  unfold Team.resumeEngine EStream.resumed
  by_cases hheld : (t.eng e).held = true
  · by_cases hpc : (t.eng e).pc = epc
    · exact ⟨t.nt0, t.nt1, by simp only [hheld, hpc, beq_self_eq_true, if_true]⟩
    · refine ⟨(t.dropNest e).nt0, (t.dropNest e).nt1, ?_⟩
      simp only [hheld, if_true, beq_false_of_ne hpc, Bool.false_eq_true, if_false, if_neg hpc]
      rfl
  · by_cases hrun : (t.eng e).st = .run
    · refine ⟨(t.dropNest e).nt0, (t.dropNest e).nt1, ?_⟩
      simp only [if_neg hheld, hrun, beq_self_eq_true, if_true]
      rfl
    · refine ⟨t.nt0, t.nt1, ?_⟩
      simp only [if_neg hheld, if_neg hrun, beq_false_of_ne hrun, Bool.false_eq_true, if_false]
      cases e <;> rfl

theorem Team.resumeEngines_eq (t : Team) (ev em ec : Word) : ∃ n0 n1,
    ((t.resumeEngine .vector ev).resumeEngine .matrix em).resumeEngine .copy ec = { t with
      nt0 := n0, nt1 := n1, vec := t.vec.resumed ev, mat := t.mat.resumed em, cpy := t.cpy.resumed ec } := by
  obtain ⟨v0, v1, hvec⟩ := t.resumeEngine_eq .vector ev
  obtain ⟨m0, m1, hmat⟩ := (t.resumeEngine .vector ev).resumeEngine_eq .matrix em
  obtain ⟨k0, k1, hcpy⟩ := ((t.resumeEngine .vector ev).resumeEngine .matrix em).resumeEngine_eq .copy ec
  exact ⟨k0, k1, by rw [hcpy, hmat, hvec]; rfl⟩

/-- The team that a return leaves: its registers read as before, its engines resume where the handler says. -/
theorem Team.returned_eq (t : Team) : ∃ rs ps n0 n1, t.returned = ({ t with
      loads := [], regs := rs, pregs := ps, nt0 := n0, nt1 := n1, vec := t.vec.resumed t.epcv, mat := t.mat.resumed t.epcm,
      cpy := t.cpy.resumed t.epcc, priv := false, pc := t.epc }, t.vec.st == .run && !t.vec.held) ∧
    ∀ r, r ≠ 0 → ({ t with regs := rs, pregs := ps } : Team).regOf r = t.sreg r := by
  obtain ⟨rs, ps, hflush, hregs⟩ := t.flushLoads_eq
  obtain ⟨n0, n1, hresume⟩ := t.flushLoads.resumeEngines_eq t.epcv t.epcm t.epcc
  refine ⟨rs, ps, n0, n1, ?_, hregs⟩
  rw [hflush] at hresume
  simp only [Team.returned, hflush, hresume]

/-- User registers below 24 are no other ones outside the mode (R467). -/
theorem Team.regOf_low (t : Team) {r : Nat} (hr : r < 24) : t.regOf r = Sparse.get 0 t.regs r := by
  rw [Team.regOf, decide_eq_false (Nat.not_le.2 hr), Bool.and_false]
  rfl

section
variable {s : State} {c : Nat} {t : Team}

/-- The state after a return of the active team (R466). -/
theorem State.eret_eq (hact : (s.cell c).act = some t) : s.eret c =
    (if t.returned.2 then (s.withTeam c t.returned.1).modCell c fun x => { x with sh := { x.sh with landings := [] } }
    else s.withTeam c t.returned.1) := by
  have hteam : s.teamAt (.here c (s.cell c).active) = some t := hact
  simp only [State.eret, hteam]
  rfl

theorem State.eret_frame (hact : (s.cell c).act = some t) : ((s.eret c).cell c).act = some t.returned.1 ∧ (s.eret c).mem = s.mem ∧
    ((s.eret c).cell c).sh.landings = if t.returned.2 then [] else (s.cell c).sh.landings := by
  rw [State.eret_eq hact]
  cases t.returned.2
  · exact ⟨State.act_withTeam .., rfl, by simp⟩
  · exact ⟨State.act_putTeam_withSh s c t.returned.1 fun x => { x with landings := [] }, rfl, by simp⟩

end

section
variable {s : State} {c : Nat} {t : Team} {x : S32} (h : Guarded s c t x.pg)
include h

theorem execTrap_traps : execTrap x s = .next (s.trapAt c .strand t.still (.soft x.rs1) { epc := some (t.pc + 4).toNat }) := by
  refine strandOp_trapAt_still h ?_
  rw [run_bind_ok (runw_pcHere_strand h.1.1 4)]
  rfl

theorem execTrap_enters (hpriv : t.priv = false) (hepi : t.epilogue = none) (hmid : t.midVamo = false)
    (hdue : s.answersDue t (some .strand) = false) (htvec : (s.ctx t.asid).regs.tvec.getLsbD 63 = true) :
    ∃ s' t', execTrap x s = .next s' ∧ (s'.cell c).act = some t' ∧ t'.priv = true ∧ t'.epc = t.pc + 4 ∧
      t'.pc = ((s.ctx t.asid).regs.tvec.extractLsb' 0 32).setWidth 64 ∧ (t'.frec.getD 0 0).toNat / 2 ^ 54 = 224 + x.rs1.toNat := by
  have htvec' : (((s.withTeam c t.still).usedReplies (t.still.key .strand)).ctx t.asid).regs.tvec = (s.ctx t.asid).regs.tvec := by
    rw [State.ctx, State.usedReplies_ctxs]
    rfl
  obtain ⟨t', r, seq, hact, hp, hepc, hpc, hfrec, hcause, hstrm⟩ := State.takeTrap_enters
    (s := (s.withTeam c t.still).usedReplies (t.still.key .strand)) (c := c) (t := t.still) (.soft x.rs1) t.pc
    { epc := some (t.pc + 4).toNat } (by rw [State.cell_usedReplies, State.act_withTeam]) hpriv hepi hmid
    (State.answersDue_usedReplies _ hdue) ((congrArg (·.getLsbD 63) htvec').trans htvec)
  refine ⟨_, t', execTrap_traps h, hact, hp, hepc.trans (BitVec.ofNat_toNat ..), hpc.trans ?_, ?_⟩
  · rw [fld_eq_toNat, wd, BitVec.ofNat_toNat]
    exact congrArg (fun v : Word => (v.extractLsb' 0 32).setWidth 64) htvec'
  · rw [hfrec, FRec.cause_words r seq (by rw [hcause, Cause.code_soft]; omega) (by omega), hcause, Cause.code_soft]

theorem execEret_illPriv (hpriv : t.priv = false) : execEret x s = .next (s.trapAt c .strand t.still .illPriv {}) := by
  refine strandOp_trapAt_still h ?_
  rw [run_bind_ok (runw_team h.1.1 _)]
  refine run_bind_error ?_
  rw [run_need, show (t.past .strand 4).priv = false from hpriv]
  rfl

theorem execEret_returns (hpriv : t.priv = true) : execEret x s = .next (((s.withTeam c (t.past .strand 4)).eret c).did t) := by
  refine strandOp_ok h ?_
  rw [run_bind_ok (runw_team h.1.1 _), run_bind_ok (by rw [run_need, show (t.past .strand 4).priv = true from hpriv]; rfl),
    run_bind_ok (runw_theCell h.1.1 _), run_modify]

end

/-- Settles O17: TRAP enters the handler after itself with its cause; ERET leaves the mode, and its team reads as before. -/
theorem trapAndReturn : Obligations.TrapAndReturn := by
  refine ⟨fun s c t x h => ⟨execTrap_traps h, rfl, execTrap_enters h⟩, fun s c t x h => ⟨execEret_illPriv h, fun hpriv => ?_⟩⟩
  obtain ⟨hact, hmem, hland⟩ := (State.eret_frame (State.act_withTeam s c (t.past .strand 4)))
  obtain ⟨rs, ps, n0, n1, hreturned, hregs⟩ := (t.past .strand 4).returned_eq
  rw [hreturned] at hact hland
  refine ⟨_, _, execEret_returns h hpriv, (State.act_did ..).trans hact, rfl, rfl, fun e => ?_, fun r hr => ?_, rfl, rfl, rfl, ?_, ?_⟩
  · cases e <;> rfl
  · by_cases hr0 : r = 0
    · rw [hr0]
      rfl
    · rw [Team.sreg_eq_elim _ hr0]
      have hread := hregs r hr0
      rw [Team.regOf_low _ hr, Team.sreg_past_strand] at hread
      exact (Team.regOf_low _ hr).trans hread
  · exact (State.usedReplies_mem ..).trans hmem
  · have hdrop : ((t.past .strand 4).vec.st == .run && !(t.past .strand 4).vec.held) = true ↔ t.vec.st = .run ∧ t.vec.held = false := by
      rw [Bool.and_eq_true, beq_iff_eq, Bool.not_eq_true']
      rfl
    rw [State.did, State.cell_usedReplies, hland, if_congr hdrop rfl rfl]
    simp

end Sys2Proof.Machine
end

section
/-! Proofs about what the memory system and the Carousel do by themselves (R197, R238, R311, R315, R322 to R336, R342, R425). -/
namespace Sys2Proof.Machine

/-! ### Results and loads that land -/

theorem execVeResultLand_eq {s : State} {t : Team} (hact : (s.cell s.arg.a).act = some t) (hup : s.cellUp s.arg.a = true) :
    execVeResultLand s = .next (if t.vec.st = .run ∧ t.vec.held = false ∧ t.vec.stopped = false ∧ t.priv = false ∧ t.halted = false ∧
      t.ended = false ∧ t.firstFetch = true then s.streamCycle s.arg.a else s) := by
  have hcounts : (s.vecCounts s.arg.a && (s.cell s.arg.a).act.any Team.firstFetch) = true ↔ t.vec.st = .run ∧ t.vec.held = false ∧
      t.vec.stopped = false ∧ t.priv = false ∧ t.halted = false ∧ t.ended = false ∧ t.firstFetch = true := by
    simp [State.vecCounts, hact, hup, and_assoc]
  exact congrArg _ (if_congr hcounts rfl rfl)

/-- Which registers the loads left return to when number `i` has, the only one to its register. -/
theorem find_eraseIdx {r : Nat} : ∀ (ls : List Load) (i : Nat) (x : Load), ls[i]? = some x → x.reg ≠ some r →
    (ls.eraseIdx i).reverse.find? (fun l => l.reg == some r) = ls.reverse.find? (fun l => l.reg == some r)
  | [], _, _, h, _ => by simp at h
  | l :: ls, 0, x, h, hx => by
    have hl : l = x := by simpa using h
    subst hl
    simp [List.find?_append, hx]
  | l :: ls, i + 1, x, h, hx => by
    have hrest := find_eraseIdx ls i x (by simpa using h) hx
    simp only [List.eraseIdx_cons_succ, List.reverse_cons, List.find?_append, hrest]

theorem find_only {r : Nat} {ls : List Load} {i : Nat} {x : Load} (hi : ls[i]? = some x) (hr : x.reg = some r)
    (honly : ∀ j y, ls[j]? = some y → y.reg = x.reg → x.reg ≠ none → j = i) :
    ls.reverse.find? (fun l => l.reg == some r) = some x ∧ (ls.eraseIdx i).reverse.find? (fun l => l.reg == some r) = none := by
  constructor
  · cases hfind : ls.reverse.find? fun l => l.reg == some r with
    | none =>
      have hx := List.find?_eq_none.1 hfind x (List.mem_reverse.2 (List.mem_of_getElem? hi))
      simp [hr] at hx
    | some y =>
      have hy : y.reg = some r := by simpa using List.find?_some hfind
      obtain ⟨j, hj⟩ := List.mem_iff_getElem?.1 (List.mem_reverse.1 (List.mem_of_find?_eq_some hfind))
      have hji : j = i := honly j y hj (hy.trans hr.symm) (by rw [hr]; simp)
      rw [hji, hi] at hj
      exact hj.symm
  · refine List.find?_eq_none.2 fun y hy => ?_
    obtain ⟨j, hne, hj⟩ := List.mem_eraseIdx_iff_getElem?.1 (List.mem_reverse.1 hy)
    intro hyr
    exact hne (honly j y hj ((beq_iff_eq.1 hyr).trans hr.symm) (by rw [hr]; simp))

/-- The team whose outstanding load number `i` has returned. -/
def Team.loadReturned (t : Team) (i : Nat) (x : Load) : Team := { t.landLoad x with loads := t.loads.eraseIdx i }

section
variable {t : Team} {i : Nat} {x : Load}

theorem Team.loadReturned_eq (t : Team) (i : Nat) (x : Load) :
    ∃ rs ps, t.loadReturned i x = { t with regs := rs, pregs := ps, loads := t.loads.eraseIdx i } := by
  obtain ⟨rs, ps, hland⟩ := t.landLoad_onlyRegFile x
  exact ⟨rs, ps, by rw [Team.loadReturned, hland]⟩

theorem Team.regOf_loadReturned {r : Nat} (hr : r ≠ 0) :
    (t.loadReturned i x).regOf r = if x.reg == some r then x.value else t.regOf r := t.regOf_landLoad x hr

/-- A load that returns changes no register as it is read (R197). -/
theorem Team.sreg_loadReturned (hi : t.loads[i]? = some x)
    (honly : ∀ j y, t.loads[j]? = some y → y.reg = x.reg → x.reg ≠ none → j = i) (r : Nat) : (t.loadReturned i x).sreg r = t.sreg r := by
  by_cases hr : r = 0
  · rw [hr]
    rfl
  · have hloads : (t.loadReturned i x).loads = t.loads.eraseIdx i := rfl
    rw [Team.sreg_eq_elim _ hr, Team.sreg_eq_elim _ hr, hloads, Team.regOf_loadReturned hr]
    by_cases hx : x.reg = some r
    · obtain ⟨hfind, hrest⟩ := find_only hi hx honly
      rw [hfind, hrest, if_pos (beq_iff_eq.2 hx)]
      rfl
    · rw [find_eraseIdx _ _ _ hi hx, if_neg (by simpa using hx)]

end

theorem execLoadReturn_eq {s : State} {b : Bool} {t : Team} {x : Load} (hb : s.arg.b = b.toNat) (hteam : (s.cell s.arg.a).team b = some t)
    (hi : t.loads[s.arg.c]? = some x) :
    execLoadReturn s = .next (s.putTeam (.here s.arg.a b) (t.loadReturned s.arg.c x)) := by
  have hteam' : s.teamAt (.here s.arg.a b) = some t := hteam
  have hloads : (t.landLoad x).loads = t.loads := by
    obtain ⟨_, _, hland⟩ := t.landLoad_onlyRegFile x
    rw [hland]
  unfold execLoadReturn
  simp only [argLoc_here hb, hteam', Option.bind_some, hi, State.modTeam]
  rw [Team.loadReturned, ← hloads]
  rfl

/-! ### Posted stores (R322) -/

section
variable {s : State} {p : Posted}

theorem State.performPosted_stores {t : Team} (hact : (s.cell p.cell).act = some t) (hasid : t.asid = p.asid)
    (hfits : p.off + p.bytes.length ≤ t.valloc * 65536) : s.performPosted p = s.withTeam p.cell (t.vaultWr p.off p.bytes) := by
  have hteam : s.teamAt (.here p.cell (s.cell p.cell).active) = some t := hact
  simp only [State.performPosted, hteam, hasid, beq_self_eq_true, decide_eq_true hfits, Bool.and_self, if_true]
  rfl

/-- Bytes whose team has left, or no longer has the allotment, are discarded (R322). -/
theorem State.performPosted_discards
    (hgone : ∀ t, (s.cell p.cell).act = some t → t.asid ≠ p.asid ∨ t.valloc * 65536 < p.off + p.bytes.length) :
    s.performPosted p = s := by
  cases hteam : s.teamAt (.here p.cell (s.cell p.cell).active) with
  | none => simp only [State.performPosted, hteam]
  | some t =>
    have hno : (t.asid == p.asid && decide (p.off + p.bytes.length ≤ t.valloc * 65536)) = false := by
      obtain hasid | hsize := hgone t hteam
      · rw [beq_false_of_ne hasid, Bool.false_and]
      · rw [decide_eq_false (Nat.not_le.2 hsize), Bool.and_false]
    simp only [State.performPosted, hteam, hno, Bool.false_eq_true, if_false]

theorem execPostedStorePerform_eq (h : s.mem.posted.find? (fun y => y.cell == s.arg.a) = some p) : execPostedStorePerform s = .next
    (({ s with mem := { s.mem with posted := s.mem.posted.eraseP fun y => y.cell == s.arg.a } } : State).performPosted p) := by
  simp only [execPostedStorePerform, h]

end

/-! ### Walks and swaps (R311, R315, R328, R329) -/

theorem execPageWalkComplete_none {s : State}
    (h : (s.walking s.arg.c).find? (fun y => y.asid == s.arg.a && y.page == s.arg.b / 65536 * 65536) = none) :
    execPageWalkComplete s = .next s := by
  simp only [execPageWalkComplete, h]

theorem execPageWalkComplete_some {s : State} {x : Walk}
    (h : (s.walking s.arg.c).find? (fun y => y.asid == s.arg.a && y.page == s.arg.b / 65536 * 65536) = some x) :
    execPageWalkComplete s =
      let s1 : State := { s with mem := { s.mem with walks := s.mem.walks.filter (· != x) } }
      .next ((s1.walkRest x s.arg.b).elim s1 fun p => s1.remember x.cells s.arg.a s.arg.b p.1) := by
  simp only [execPageWalkComplete, h]
  cases ({ s with mem := { s.mem with walks := s.mem.walks.filter (· != x) } } : State).walkRest x s.arg.b <;> rfl

/-- The state in which the swap of group `g` is over and `x` has become its fast member (R328). -/
def State.swapped (s : State) (g : Nat) (x : TierSwap) : State :=
  { s with mem := { s.mem with
      remap := Sparse.set 0 s.mem.remap g x.member,
      slotOf := Tab.put (Tab.del s.mem.slotOf (5 * g + x.member)) (5 * g + s.fastOf g) (s.capSlot g x.member),
      swaps := s.mem.swaps.filter fun y => y.group != g } }

/-- A locked member that is still not fast is swapped in next (R331). -/
def State.lockedNext (s : State) (g : Nat) (x : TierSwap) : State :=
  match s.lockOf g with
  | some k => if k.member == x.member then s else s.startSwap g k.member true
  | none => s

/-- A line of a group that was answered late may go from `start` on (R336). -/
def CpcLine.goFrom (g start : Nat) (y : CpcLine) : CpcLine :=
  if groupOf (y.pa / 65536) == g && y.late.isSome && !y.cap then { y with from_ := max y.from_ start } else y

def State.linesFrom (s : State) (g start : Nat) : State :=
  (s.teams.map (·.1)).foldl (fun s l => s.modTeam l fun t =>
    { t with cards := t.cards.map fun c => { c with lines := c.lines.map (CpcLine.goFrom g start) } }) s

theorem State.modTeam_mem (s : State) (l : Loc) (f : Team → Team) : (s.modTeam l f).mem = s.mem := by
  unfold State.modTeam
  split
  · cases l <;> rfl
  · rfl

theorem State.linesFrom_mem (s : State) (g start : Nat) : (s.linesFrom g start).mem = s.mem := by
  refine (foldl_keeps (R := fun s u : State => s.mem = u.mem) (fun _ => rfl) Eq.trans (fun s l => ?_) _ s).symm
  exact (s.modTeam_mem l _).symm

theorem execTierSwapComplete_eq {s : State} {x : TierSwap} (h : s.swapOf s.arg.a = some x) : execTierSwapComplete s =
    let u := (s.swapped s.arg.a x).lockedNext s.arg.a x
    .next (u.linesFrom s.arg.a (cyclesOf u.now + 4)).drainAll := by
  simp only [execTierSwapComplete, h]
  rfl

section
variable (s : State) (g : Nat) (x : TierSwap)

theorem State.swapOf_swapped : (s.swapped g x).swapOf g = none :=
  List.find?_eq_none.2 fun y hy => by simpa using (List.mem_filter.1 hy).2

theorem State.lockedNext_free (h : s.lockOf g = none) : (s.swapped g x).lockedNext g x = s.swapped g x := by
  have h' : (s.swapped g x).lockOf g = none := h
  simp only [State.lockedNext, h']

theorem State.lockedNext_locked {k : Lock} (h : s.lockOf g = some k) (hmin : s.boot.minimal = false) :
    ((s.swapped g x).lockedNext g x).mem.swaps = if k.member = x.member then (s.swapped g x).mem.swaps
      else (s.swapped g x).mem.swaps ++ [{ group := g, member := k.member, priority := true }] := by
  have h' : (s.swapped g x).lockOf g = some k := h
  have hmin' : (s.swapped g x).boot.minimal = false := hmin
  by_cases hk : k.member = x.member
  · simp only [State.lockedNext, h', hk, beq_self_eq_true, if_true]
  · simp only [State.lockedNext, h', beq_false_of_ne hk, Bool.false_eq_true, if_false, if_neg hk, State.startSwap,
      State.swapOf_swapped, hmin', Option.isSome_none, Bool.or_self]

/-- The next swap of the group leaves what the members hold. -/
theorem State.lockedNext_eq (u : State) : ∃ sw, u.lockedNext g x = { u with mem := { u.mem with swaps := sw } } := by
  unfold State.lockedNext State.startSwap
  split
  · split_ifs <;> exact ⟨_, rfl⟩
  · exact ⟨_, rfl⟩

end

/-- What a swap that is over leaves: the member is the fast one, the one that leaves has its capacity slot (R328, R329). -/
theorem execTierSwapComplete_swaps {s : State} {x : TierSwap} (h : s.swapOf s.arg.a = some x) : ∃ s' : State,
    execTierSwapComplete s = .next s'.drainAll ∧ s'.mem.swaps = ((s.swapped s.arg.a x).lockedNext s.arg.a x).mem.swaps ∧
      s'.mem.remap = (s.swapped s.arg.a x).mem.remap ∧ s'.mem.slotOf = (s.swapped s.arg.a x).mem.slotOf ∧
      s'.mem.phys = s.mem.phys := by
  obtain ⟨sw, hlocked⟩ := State.lockedNext_eq s.arg.a x (s.swapped s.arg.a x)
  refine ⟨_, execTierSwapComplete_eq h, ?_⟩
  rw [State.linesFrom_mem, hlocked]
  exact ⟨rfl, rfl, rfl, rfl⟩

/-! ### Counters (R329, R330) -/

/-- Values of a store that are halved `k` times, with those that reach 0 left out. -/
theorem Sparse.get_halved (k f : Nat) : ∀ {m : Sparse Nat} {lo : Nat}, keysFrom lo m = true →
    Sparse.get 0 ((m.map fun p => (p.1, p.2 / 2 ^ k)).filter fun p => p.2 != 0) f = Sparse.get 0 m f / 2 ^ k
  | [], _, _ => by simp
  | (a, v) :: m, lo, h => by
    obtain ⟨-, hrest⟩ := Bool.and_eq_true_iff.1 h
    have ih := Sparse.get_halved k f hrest
    by_cases hf : f = a
    · by_cases hv : v / 2 ^ k = 0
      · have hnone := Sparse.get_below 0 hrest f (by omega)
        rw [hnone, Nat.zero_div] at ih
        simpa [Sparse.get, hf, hv] using hf ▸ ih
      · simp [Sparse.get, hf, hv]
    · by_cases hv : v / 2 ^ k = 0
      · simpa [Sparse.get, hf, hv] using ih
      · simpa [Sparse.get, hf, hv] using ih

theorem State.decayTo_next (s : State) (hwf : Sparse.wf 0 s.mem.counts = true) : let k := (s.now - s.tier.lastDecay) / s.tier.period
    (∀ f, Sparse.get 0 (s.decayTo (s.now + 1)).mem.counts f = Sparse.get 0 s.mem.counts f / 2 ^ k) ∧
    (s.decayTo (s.now + 1)).tier.lastDecay = s.tier.lastDecay + k * s.tier.period ∧
    (s.decayTo (s.now + 1)).mem.phys = s.mem.phys ∧ (s.decayTo (s.now + 1)).cells = s.cells := by
  intro k
  have hk : (s.now + 1 - s.tier.lastDecay - 1) / s.tier.period = k := congrArg (· / s.tier.period) (by omega)
  have hkeys : keysFrom 0 s.mem.counts = true := (Bool.and_eq_true_iff.1 hwf).1
  by_cases h0 : k = 0
  · have hsame : s.decayTo (s.now + 1) = s := by simp only [State.decayTo, hk, if_pos h0]
    rw [hsame, h0]
    exact ⟨fun f => by rw [Nat.pow_zero, Nat.div_one], by omega, rfl, rfl⟩
  · simp only [State.decayTo, hk, if_neg h0]
    exact ⟨fun f => Sparse.get_halved k f hkeys, trivial, trivial, trivial⟩

/-! ### The Carousel (R332 to R336) -/

theorem State.modLines_team (s : State) (cell : Nat) (pc : Nat × Nat) (f : CpcLine → CpcLine) (b : Bool) :
    ((s.modLines cell pc f).cell cell).team b = ((s.cell cell).team b).map fun t => { t with cards := t.cards.map fun c =>
      { c with lines := c.lines.map fun x => if pseudoOf x.pa == pc then f x else x } } := by
  simp only [State.modLines, List.foldl_cons, List.foldl_nil, State.cell_modTeam_here]
  cases b <;> rfl

/-- Lines later on the pseudo-channel of a line that misses its slot (R335, log 111). -/
def CpcLine.missed (x y : CpcLine) : CpcLine :=
  if pseudoOf y.pa = pseudoOf x.pa ∧ y.got = none ∧ x.time ≤ y.time then { y with time := y.time + 128 } else y

theorem State.missSlot_team (s : State) (cell : Nat) (x : CpcLine) (b : Bool) :
    ((s.missSlot cell x).cell cell).team b = ((s.cell cell).team b).map fun t => { t with cards := t.cards.map fun c =>
      { c with lines := c.lines.map x.missed } } := by
  have hmissed : (fun y : CpcLine => if (pseudoOf y.pa == pseudoOf x.pa) = true then
      (if (y.got.isNone && decide (x.time ≤ y.time)) = true then { y with time := y.time + 128 } else y) else y) = x.missed := by
    funext y
    by_cases hp : pseudoOf y.pa = pseudoOf x.pa <;> simp [CpcLine.missed, hp, Option.isNone_iff_eq_none]
  rw [State.missSlot, State.modLines_team, hmissed]

theorem CpcLine.due_eq (x : CpcLine) : (x.got = none → x.due = x.time) ∧
    (x.got.isSome → x.time * 7 / 10 + 200 ≤ x.due * 7 / 10 ∧ ∀ d, d < x.due → d * 7 / 10 < x.time * 7 / 10 + 200) := by
  refine ⟨fun h => by rw [CpcLine.due, h]; rfl, fun h => ?_⟩
  have hdue : x.due = (10 * (x.time * 7 / 10 + 200) + 6) / 7 := by rw [CpcLine.due, if_pos h, cyclesOf]
  rw [hdue]
  exact ⟨by omega, fun d hd => by omega⟩

section
variable {s : State} {cell : Nat} {l : Loc} {k : Card} {x : CpcLine}

/-- A line whose slot is still its cell's. -/
theorem State.serveLine_owned (hown : s.slotOwner (pseudoOf x.pa).1 (x.time % 128 / 2) = some cell) : s.serveLine cell l k x =
    if cyclesOf x.time < x.from_ ∨ (s.swapOf (groupOf (x.pa / 65536))).isSome then s.missSlot cell x
    else if x.cap = true ∨ s.fastOf (groupOf (x.pa / 65536)) = memberOf (x.pa / 65536) then s.carryLine l k x
    else if (s.lockOf (groupOf (x.pa / 65536))).isSome then
      (s.setLine l k x (if x.late.isNone then 1 else 0) fun y => some { y with
        late := some (y.late.getD (cyclesOf x.time)), cap := true, from_ := y.late.getD (cyclesOf x.time) + 600 }).missSlot cell x
    else ((s.startSwap (groupOf (x.pa / 65536)) (memberOf (x.pa / 65536)) true).setLine l k x (if x.late.isNone then 1 else 0) fun y =>
      some { y with late := some (y.late.getD (cyclesOf x.time)) }).missSlot cell x := by
  have hlate : ∀ (o : Option Nat) n, (o.orElse fun _ => some n) = some (o.getD n) := fun o n => by cases o <;> rfl
  simp only [State.serveLine, hown, bne_self_eq_false, Bool.false_eq_true, if_false, hlate, Option.getD_some, id_eq, Bool.or_eq_true,
    decide_eq_true_eq, beq_iff_eq]

theorem State.carryLine_reads {bs : List Byte} (h : (s.countAccess (x.pa / 65536)).locRd x.pa 64 x.slot = some bs) :
    s.carryLine l k x = (s.countAccess (x.pa / 65536)).setLine l k x 0 fun y => some { y with got := some bs } := by
  simp only [State.carryLine, h]

end

/-! ### Near-bank units (R342, R425) -/

theorem State.stopUnit_alone {s : State} {n : Nat} (code : Nat) (h : (s.unit n).run = none) :
    s.stopUnit n code = s.setUnit n { s.unit n with st := .stopped, stop := code } := by
  simp [State.stopUnit, State.unitEnds, h]

/-- Settles O48: what the memory system, the Carousel and the near-bank units do by themselves. -/
theorem memoryEvents : Obligations.MemoryEvents := by
  refine ⟨fun s t => ?_, fun s b t x => ?_, fun s p => ?_, fun s => ?_, fun s x => ?_, fun s hwf => ?_, fun s => rfl, fun s hup => ?_,
    fun s cell l k x => ?_, fun s cell x b => s.missSlot_team cell x b, fun s l k x bs => rfl, CpcLine.due_eq, fun s => ?_⟩
  · intro c fetching hact hup
    have heq := execVeResultLand_eq hact hup
    exact ⟨fun hf => heq.trans (by rw [if_pos hf]), fun hf => heq.trans (by rw [if_neg hf])⟩
  · intro c i hb hteam hi honly
    obtain ⟨rs, ps, hreturned⟩ := t.loadReturned_eq i x
    refine ⟨_, t.loadReturned i x, execLoadReturn_eq hb hteam hi, ?_, rfl, fun r _ => Team.sreg_loadReturned hi honly r, fun r hr hr0 => ?_,
      by rw [hreturned], by rw [hreturned], rfl⟩
    · rw [State.putTeam, State.cell_modCell_self, Cell.team_setTeam_self]
    · rw [Team.regOf_loadReturned hr0, if_pos (beq_iff_eq.2 hr)]
  · intro here hfind s1
    have hcell : p.cell = s.arg.a := by simpa [here] using List.find?_some hfind
    have heq := execPostedStorePerform_eq hfind
    refine ⟨fun t hact hasid hfits => ?_, fun hgone => ?_⟩
    · rw [← hcell] at hact ⊢
      exact heq.trans (congrArg _ (State.performPosted_stores (s := s1) hact hasid hfits))
    · rw [← hcell] at hgone
      exact heq.trans (congrArg _ (State.performPosted_discards (s := s1) hgone))
  · intro w asked
    refine ⟨execPageWalkComplete_none, fun x hx => ?_⟩
    intro s1
    have heq : execPageWalkComplete s = .next ((s1.walkRest x w.b).elim s1 fun p => s1.remember x.cells w.a w.b p.1) :=
      execPageWalkComplete_some hx
    refine ⟨fun leaf pa hrest => ?_, fun hrest => heq.trans (by rw [hrest]; rfl)⟩
    rw [hrest, Option.elim_some] at heq
    exact ⟨fun hok => heq.trans (congrArg _ (if_pos hok)),
      fun hok => heq.trans (congrArg _ (if_neg (by rw [hok]; exact Bool.false_ne_true)))⟩
  · intro g left hswap
    obtain ⟨s', hexec, hswaps, hremap, hslot, hphys⟩ := execTierSwapComplete_swaps hswap
    refine ⟨s', hexec, fun h => ?_, ?_, hphys, fun hlock => ?_, fun k hlock hmin => ?_⟩
    · rw [hremap]
      exact Sparse.get_set ..
    · rw [State.capSlot, hslot, State.swapped, Tab.find_put_self, Option.getD_some]
    · rw [hswaps, State.lockedNext_free _ _ _ hlock]
      rfl
    · rw [hswaps, State.lockedNext_locked _ _ _ hlock hmin]
      rfl
  · exact ⟨_, rfl, s.decayTo_next hwf⟩
  · exact congrArg _ (if_pos (beq_iff_eq.2 hup))
  · intro g m cycle s1 late hown
    have heq := State.serveLine_owned (l := l) (k := k) hown
    refine ⟨fun hmiss => heq.trans (if_pos hmiss), fun hfrom hswap => ?_⟩
    have hgo : ¬ (cyclesOf x.time < x.from_ ∨ (s.swapOf g).isSome) := by
      rw [hswap]
      exact fun h => h.elim (Nat.not_lt.2 hfrom) (by simp)
    rw [if_neg hgo] at heq
    refine ⟨fun bs hfast hrd => ?_, fun hcap hfast hlock => ?_, fun hcap hfast hlock => ?_⟩
    · exact heq.trans ((if_pos hfast).trans (State.carryLine_reads hrd))
    · have hslow : ¬ (x.cap = true ∨ s.fastOf g = m) := fun h => h.elim (by rw [hcap]; exact Bool.false_ne_true) hfast
      exact heq.trans ((if_neg hslow).trans (if_neg (by rw [hlock]; exact Bool.false_ne_true)))
    · have hslow : ¬ (x.cap = true ∨ s.fastOf g = m) := fun h => h.elim (by rw [hcap]; exact Bool.false_ne_true) hfast
      exact heq.trans ((if_neg hslow).trans (if_pos hlock))
  · intro n u
    refine ⟨fun hst hw => ?_, fun hst => ?_, fun hst hword => ⟨?_, fun hrun => s.stopUnit_alone _ hrun⟩⟩
    · exact if_pos (show (u.st == .suspended && !u.waiting) = true by rw [hst, hw]; rfl)
    · exact if_neg (show ¬ (u.st == .suspended && !u.waiting) = true by simpa [or_iff_not_imp_left] using hst)
    · exact if_pos (show (u.st == .run && (decodeUnitOp u.words).isNone) = true by rw [hst, hword]; rfl)

end Sys2Proof.Machine
end


section
/-! Proofs about results of the vector stream that name their places one by one: whole lanes of several registers, parts of lanes and
bits of masks (R177, R237, R238). -/
namespace Sys2Proof.Machine

/-! ### Lanes and masks as lists -/

theorem Shared.maskOf_eq (x : Shared) (m : Nat) : x.maskOf m = (List.range 128).map (x.maskAt m) := rfl

theorem getD_srcA (x : Shared) (v : V64) {i : Nat} (hi : i < 128) : (srcA x v).getD i 0 = srcLane v x i := by
  simp [srcA_eq, hi]

theorem map_product_eq_flatMap {α β γ : Type} (f : α × β → γ) (as : List α) (bs : List β) :
    (as ×ˢ bs).map f = as.flatMap fun a => bs.map fun b => f (a, b) := by
  simp [SProd.sprod, List.product, List.map_flatMap, Function.comp_def]

/-! ### What a result writes (R238) -/

section
variable {l : Landing}

theorem Landing.writes_congr {w w' : Nat → Nat → Option (BitVec 32)} (hl : l.writes w) (hw : ∀ r i, i < 128 → w r i = w' r i) :
    l.writes w' :=
  fun z => ⟨fun r i hi => hw r i hi ▸ (hl z).1 r i hi, (hl z).2⟩

/-- A result that writes whole lanes, each at its register and lane. -/
theorem Landing.writes_of_places {ps : List (Nat × Nat)} {g : Nat → Nat → BitVec 32} (hbits : l.bits = [])
    (hl : l.lanes = ps.map fun p => (laneKey p.1 p.2, 0xFFFFFFFF, g p.1 p.2)) (hnd : ps.Nodup) (hlt : ∀ p ∈ ps, p.2 < 128) :
    l.writes fun r i => if (r, i) ∈ ps then some (g r i) else none := by
  refine Landing.writes_of_lanes hbits ?_ (fun r i v hi hv => ?_) fun r i hi hv p hp hkey => ?_
  · rw [hl, List.map_map]
    exact hnd.map_on fun p hp q hq h => Prod.ext_iff.2 ((laneKey_inj (hlt p hp) (hlt q hq)).1 h)
  · obtain ⟨hmem, hv⟩ := Option.ite_some_none_eq_some.1 hv
    exact hl ▸ List.mem_map.2 ⟨(r, i), hmem, by rw [hv]⟩
  · obtain ⟨q, hq, rfl⟩ := List.mem_map.1 (hl ▸ hp)
    obtain ⟨rfl, rfl⟩ := (laneKey_inj hi (hlt q hq)).1 hkey
    simp [hq] at hv

/-- A result that writes some lanes of `k` registers from `d` on, lane by lane. -/
theorem Landing.writes_of_columns {d k : Nat} {is : List Nat} {g : Nat → Nat → BitVec 32} (hbits : l.bits = []) (hnd : is.Nodup)
    (hlt : ∀ i ∈ is, i < 128)
    (hl : l.lanes = is.flatMap fun i => (List.range k).map fun j => (laneKey (d + j) i, 0xFFFFFFFF, g i j)) :
    l.writes fun r i => if i ∈ is ∧ d ≤ r ∧ r - d < k then some (g i (r - d)) else none := by
  have hplaces := Landing.writes_of_places (l := l) (ps := (is ×ˢ List.range k).map fun p => (d + p.2, p.1))
    (g := fun r i => g i (r - d)) hbits (by rw [hl, List.map_map, map_product_eq_flatMap]; simp) ?_ ?_
  · refine Landing.writes_congr hplaces fun r i _ => if_congr ?_ rfl rfl
    simp only [List.mem_map, List.mem_product, List.mem_range, Prod.exists, Prod.mk.injEq]
    constructor
    · rintro ⟨i, j, ⟨hi, hj⟩, rfl, rfl⟩
      exact ⟨hi, by omega, by omega⟩
    · rintro ⟨hi, hle, hr⟩
      exact ⟨i, r - d, ⟨hi, hr⟩, by omega, rfl⟩
  · refine (hnd.product List.nodup_range).map fun p q h => ?_
    obtain ⟨hr, hi⟩ := Prod.mk.inj h
    exact Prod.ext hi (by omega)
  · intro p hp
    obtain ⟨q, hq, rfl⟩ := List.mem_map.1 hp
    exact hlt q.1 (List.mem_product.1 hq).1

/-- Whole lanes, seen as the elements that make them up. -/
theorem Landing.writesElems_of_writes {d : Nat} {act : Nat → Bool} {g : Nat → BitVec 32} {es : List (Nat × Nat)}
    {f : Nat → Nat → Nat → Nat} (hl : l.writes fun r i => if r = d ∧ i < 128 ∧ act i = true then some (g i) else none)
    (hcover : ∀ j, j < 32 → ∃ e ∈ es, e.1 ≤ j ∧ j < e.1 + e.2)
    (hval : ∀ i, ∀ e ∈ es, (g i).extractLsb' e.1 e.2 = BitVec.ofNat e.2 (f i e.1 e.2)) : l.writesElems d act es f := by
  refine fun z => ⟨(hl z).2, fun r i hi => ⟨?_, fun hnot => ?_⟩⟩
  · rintro rfl hact
    have hlane : (z.land l).laneAt r i = g i := by simp [(hl z).1 r i hi, hi, hact]
    refine ⟨fun e he => by rw [hlane, hval i e he], fun j hout => ?_⟩
    by_cases hj : j < 32
    · obtain ⟨e, he, hlo, hhi⟩ := hcover j hj
      have := hout e he
      omega
    · rw [BitVec.getLsbD_of_ge _ _ (by omega), BitVec.getLsbD_of_ge _ _ (by omega)]
  · have hoff : ¬ (r = d ∧ i < 128 ∧ act i = true) := by
      rintro ⟨hr, -, hact⟩
      simp [hr, hact] at hnot
    simp [(hl z).1 r i hi, hoff]

/-- A result of mask bits, one for each lane of a list. -/
theorem Landing.writesMask_of_bits {d : Nat} {act f : Nat → Bool} {is : List Nat} (hlanes : l.lanes = []) (hnd : is.Nodup)
    (his : ∀ i, i ∈ is ↔ i < 128 ∧ act i = true) (hl : l.bits = is.map fun i => (128 * d + i, f i)) : l.writesMask d act f := by
  have hstep : ∀ (m : Sparse Bool) (i k : Nat), Sparse.get false (Sparse.set false m (128 * d + i) (f i)) k =
      if k = 128 * d + i then f i else Sparse.get false m k := fun m i k => Sparse.get_set ..
  refine fun z => ⟨by rw [Shared.land, hlanes]; rfl, fun m i hi => ?_⟩
  have hland : (z.land l).maskAt m i =
      Sparse.get false (is.foldl (fun m i => Sparse.set false m (128 * d + i) (f i)) z.m) (128 * m + i) := by
    rw [Shared.maskAt, Shared.land, hl, List.foldl_map]
  rw [hland]
  split
  · next h =>
    obtain ⟨rfl, hact⟩ := h
    exact get_foldl_of_mem (val := fun i _ => f i) hstep z.m ((his i).2 ⟨hi, hact⟩) hnd fun j _ hkey => by omega
  · next h =>
    refine get_foldl_of_ne (val := fun i _ => f i) hstep z.m fun j hj hkey => h ?_
    obtain ⟨hj, hact⟩ := (his j).1 hj
    obtain ⟨rfl, rfl⟩ : m = d ∧ i = j := by omega
    exact ⟨rfl, hact⟩

end

/-! ### Parts of a lane (R178) -/

section
variable (old w : BitVec 32) {e : Nat × Nat}

/-- Merging under an element's bits gives the element. -/
theorem extract_mergeBits_elemMask (hle : e.1 + e.2 ≤ 32) :
    (mergeBits old (elemMask e) w).extractLsb' e.1 e.2 = w.extractLsb' e.1 e.2 := by
  apply BitVec.eq_of_getLsbD_eq
  intro k hk
  have hj : e.1 + k < 32 := by omega
  have hm : (elemMask e).getLsbD (e.1 + k) = true := (getLsbD_elemMask hj).2 (by omega)
  simp [BitVec.getLsbD_extractLsb', getLsbD_mergeBits _ _ _ hj, hm]

/-- Merging under an element's bits leaves the others. -/
theorem getLsbD_mergeBits_elemMask {j : Nat} (hout : j < e.1 ∨ e.1 + e.2 ≤ j) :
    (mergeBits old (elemMask e) w).getLsbD j = old.getLsbD j := by
  by_cases hj : j < 32
  · have hm : (elemMask e).getLsbD j = false := by
      rw [← Bool.not_eq_true, getLsbD_elemMask hj]
      omega
    simp [getLsbD_mergeBits _ _ _ hj, hm]
  · rw [BitVec.getLsbD_of_ge _ _ (by omega), BitVec.getLsbD_of_ge _ _ (by omega)]

/-- An element read from a value shifted to its place. -/
theorem extract_ofNat_mul_two_pow (hle : e.1 + e.2 ≤ 32) (r : Nat) :
    (BitVec.ofNat 32 (r * 2 ^ e.1)).extractLsb' e.1 e.2 = BitVec.ofNat e.2 r := by
  apply BitVec.eq_of_getLsbD_eq
  intro k hk
  have hj : e.1 + k < 32 := by omega
  rw [BitVec.getLsbD_extractLsb', BitVec.getLsbD_ofNat, BitVec.getLsbD_ofNat]
  simp [Nat.testBit_mul_two_pow, hk, hj]

end

/-! ### Instructions that issue a result (R237) -/

/-- Instruction `i` of `len` bytes issues one pending result of latency `lat`, and `p` holds of it. -/
def Issuing (s : State) (c : Nat) (t : Team) (x : V64) (i : Instr) (len lat : Nat) (p : Landing → Prop) : Prop :=
  ∃ l : Landing, exec i s = .next (s.issuing c t len l) ∧ l.plain x lat ∧ p l

/-- A result of whole lanes of one register. -/
def wholeLanding (v : V64) (lat d : Nat) (is : List Nat) (g : Nat → BitVec 32) (fl : Flags) : Landing :=
  { rem := lat, sq := v.sq == 1, lanes := is.map fun i => (laneKey d i, 0xFFFFFFFF, g i), flags := fl }

/-- A result of whole lanes of registers `d` and `d + 1`, register by register. -/
def rowPairLanding (v : V64) (lat d : Nat) (is : List Nat) (f g : Nat → BitVec 32) (fl : Flags) : Landing :=
  { rem := lat, sq := v.sq == 1,
    lanes := (is.map fun i => (laneKey d i, 0xFFFFFFFF, f i)) ++ is.map fun i => (laneKey (d + 1) i, 0xFFFFFFFF, g i), flags := fl }

/-- A result that gives each active lane of the destination a value. -/
def activeLanding (v : V64) (lat : Nat) (x : Shared) (g : Nat → BitVec 32) (fl : Flags) : Landing :=
  wholeLanding v lat (dstReg v.r) (x.active v) g fl

section
variable (v : V64) (lat : Nat) (x : Shared) (g : Nat → BitVec 32) (fl : Flags)

theorem wholeLanding_writes (d : Nat) {is : List Nat} (hnd : is.Nodup) (hlt : ∀ i ∈ is, i < 128) :
    (wholeLanding v lat d is g fl).writes fun r i => if r = d ∧ i ∈ is then some (g i) else none :=
  Landing.writes_of_whole rfl hnd hlt rfl

theorem rowPairLanding_writes (d : Nat) {is : List Nat} (f : Nat → BitVec 32) (hnd : is.Nodup) (hlt : ∀ i ∈ is, i < 128) :
    (rowPairLanding v lat d is f g fl).writes fun r i =>
      if i ∈ is then (if r = d then some (f i) else if r = d + 1 then some (g i) else none) else none := by
  have hplaces := Landing.writes_of_places (l := rowPairLanding v lat d is f g fl) (ps := [d, d + 1] ×ˢ is)
    (g := fun r i => if r = d then f i else g i) rfl
    (by simp [rowPairLanding, Function.comp_def]) (List.Nodup.product (by simp) hnd) fun p hp => hlt p.2 (List.mem_product.1 hp).2
  refine Landing.writes_congr hplaces fun r i _ => ?_
  simp only [List.mem_product, List.mem_cons, List.not_mem_nil, or_false]
  split_ifs <;> simp_all

theorem wholeLanes_map (d : Nat) (is : List Nat) :
    wholeLanes v lat d (is.map fun i => (i, g i)) fl = addLanding (wholeLanding v lat d is g fl) := by
  rw [wholeLanes, List.map_map]
  rfl

theorem wholeLanes_active : wholeLanes v lat (dstReg v.r) (keepActive (activeLanes x v) ((List.range 128).map g)) fl =
    addLanding (activeLanding v lat x g fl) := by
  rw [keepActive_eq, wholeLanes_map]
  rfl

theorem activeLanding_plain : (activeLanding v lat x g fl).plain v lat := ⟨rfl, rfl, rfl⟩

theorem activeLanding_writes : (activeLanding v lat x g fl).writes fun r i =>
    if r = dstReg v.r ∧ i < 128 ∧ laneActive v x i = true then some (g i) else none := by
  have h := wholeLanding_writes v lat g fl (dstReg v.r) (x.nodup_active v) fun i hi => (Shared.mem_active.1 hi).1
  simp only [Shared.mem_active] at h
  exact h

end

section
variable {s : State} {c : Nat} {t : Team} {x : V64} {i : Instr} {len lat : Nat}

/-- An instruction whose meaning reads the shared part and adds one result. -/
theorem issuing_of_body {p : Landing → Prop} {body : Shared → M Unit} {l : Landing} (h : EngineIssues s c .vector t)
    (hi : exec i s = vecOp len (do body (← shared)) s) (hb : body (s.cell c).sh = addLanding l) (hl : l.plain x lat) (hp : p l) :
    Issuing s c t x i len lat p :=
  ⟨l, hi.trans (vecOp_issuing h ((run_bind_ok (runw_shared h.1.1 _)).trans (by rw [hb]))), hl, hp⟩

/-- An instruction that gives each active lane a value, without flags. -/
theorem issuing_active {ls : Shared → List (BitVec 32)} {g : Nat → BitVec 32} (h : EngineIssues s c .vector t)
    (hi : exec i s = vecOp len (do
      let sh ← shared
      wholeLanes x lat (dstReg x.r) (keepActive (activeLanes sh x) (ls sh))) s)
    (hls : ls (s.cell c).sh = (List.range 128).map g) : Issuing s c t x i len lat fun l => l.flags = 0 ∧ l.writes fun r i =>
      if r = dstReg x.r ∧ i < 128 ∧ laneActive x (s.cell c).sh i = true then some (g i) else none :=
  issuing_of_body h hi (by rw [hls, wholeLanes_active]) (activeLanding_plain ..) ⟨rfl, activeLanding_writes x lat (s.cell c).sh g 0⟩

/-- An instruction that gives each active bit of a mask a value. -/
theorem issuing_mask {bs : Shared → List Bool} {f : Nat → Bool} (h : EngineIssues s c .vector t)
    (hi : exec i s = vecOp len (do
      let sh ← shared
      maskResult x lat (activeLanes sh x) (bs sh)) s)
    (hbs : bs (s.cell c).sh = (List.range 128).map f) : Issuing s c t x i len lat fun l =>
      l.flags = 0 ∧ l.writesMask (x.r.vd.toNat % 16) (laneActive x (s.cell c).sh) f := by
  refine issuing_of_body h hi (by rw [hbs, maskResult, keepActive_eq]) ⟨rfl, rfl, rfl⟩ ⟨rfl, ?_⟩
  exact Landing.writesMask_of_bits rfl ((s.cell c).sh.nodup_active x) (fun _ => Shared.mem_active) (List.map_map ..)

end

end Sys2Proof.Machine
end


section
/-! Proofs about comparison, selection, literals and packing in the vector stream (R249 to R251, R254 to R256). -/
namespace Sys2Proof.Machine

/-! ### VCMP, VSEL and VLI (R249 to R251) -/

theorem exists_elemsOf_eq_cons (ty : BitVec 4) (hs : BitVec 2) : ∃ e es, elemsOf ty hs = e :: es := by
  unfold elemsOf
  split
  · exact ⟨_, _, rfl⟩
  · split_ifs <;> exact ⟨_, _, rfl⟩
  · exact ⟨_, _, rfl⟩

section
variable {s : State} {c : Nat} {t : Team}

theorem vcmp_issuing {x : V64} (h : EngineIssues s c .vector t) : Issuing s c t x (.vcmp x) 8 2 fun l => l.flags = 0 ∧
    l.writesMask (x.r.vd.toNat % 16) (laneActive x (s.cell c).sh) fun i =>
      let e := (elemsOf x.ty x.hs).headD (0, 32)
      if ty64 x.ty then vCond x.fn x.ty ((s.cell c).sh.pairAt x.r.vs1.toNat i) ((s.cell c).sh.pairAt x.r.vs2.toNat i)
      else vCond x.fn x.ty ((srcLane x (s.cell c).sh i).extractLsb' e.1 e.2).toNat
        (((s.cell c).sh.laneAt x.r.vs2.toNat i).extractLsb' e.1 e.2).toNat := by
  refine issuing_mask h rfl ?_
  cases ty64 x.ty
  · obtain ⟨e, es, he⟩ := exists_elemsOf_eq_cons x.ty x.hs
    simp only [Bool.false_eq_true, if_false, if_true, srcA_eq, Shared.lanesOf_eq, List.map_map, List.zip_map', he, List.headD_cons,
      toNat_ext]
    rfl
  · simp only [if_true, pairs_eq, List.zip_map', List.map_map]
    rfl

/-- What VSEL chooses for a lane (R250). -/
def selLane (sh : Shared) (x : V64) (a b : Nat → BitVec 32) (i : Nat) : BitVec 32 :=
  if sh.maskAt (x.vs3.toNat % 16) i then a i else b i

theorem map_zip_select (sh : Shared) (x : V64) (a b : Nat → BitVec 32) :
    ((sh.maskOf (x.vs3.toNat % 16)).zip (((List.range 128).map a).zip ((List.range 128).map b))).map
      (fun p => if p.1 then p.2.1 else p.2.2) = (List.range 128).map (selLane sh x a b) := by
  rw [Shared.maskOf_eq, List.zip_map', List.zip_map', List.map_map]
  rfl

theorem vsel_issuing {x : V64} (h : EngineIssues s c .vector t) :
    Issuing s c t x (.vsel x) 8 (if ty64 x.ty then 2 else 1) fun l => l.flags = 0 ∧ l.writes fun r i =>
      if laneActive x (s.cell c).sh i = false then none
      else if r = dstReg x.r then
        some (selLane (s.cell c).sh x (srcLane x (s.cell c).sh) ((s.cell c).sh.laneAt x.r.vs2.toNat) i)
      else if r = dstReg x.r + 1 ∧ ty64 x.ty = true then some (selLane (s.cell c).sh x
        ((s.cell c).sh.laneAt (x.r.vs1.toNat + 1)) ((s.cell c).sh.laneAt (x.r.vs2.toNat + 1)) i)
      else none := by
  cases hty : ty64 x.ty
  · refine issuing_of_body h rfl (l := activeLanding x 1 (s.cell c).sh
      (selLane (s.cell c).sh x (srcLane x (s.cell c).sh) ((s.cell c).sh.laneAt x.r.vs2.toNat)) 0) ?_ (activeLanding_plain ..) ⟨rfl, ?_⟩
    · simp only [hty, Bool.false_eq_true, if_false, srcA_eq, Shared.lanesOf_eq, map_zip_select, wholeLanes_active]
    · refine Landing.writes_congr (activeLanding_writes x 1 (s.cell c).sh _ 0) fun r i hi => ?_
      split_ifs <;> simp_all
  · refine issuing_of_body h rfl (l := rowPairLanding x 2 (dstReg x.r) ((s.cell c).sh.active x)
      (selLane (s.cell c).sh x (srcLane x (s.cell c).sh) ((s.cell c).sh.laneAt x.r.vs2.toNat))
      (selLane (s.cell c).sh x ((s.cell c).sh.laneAt (x.r.vs1.toNat + 1)) ((s.cell c).sh.laneAt (x.r.vs2.toNat + 1))) 0) ?_
      ⟨rfl, rfl, rfl⟩ ⟨rfl, ?_⟩
    · simp only [hty, if_true, srcA_eq, Shared.lanesOf_eq, map_zip_select, keepActive_eq, List.map_map]
      rfl
    · refine Landing.writes_congr (rowPairLanding_writes x 2 _ 0 (dstReg x.r) _ ((s.cell c).sh.nodup_active x)
        fun i hi => (Shared.mem_active.1 hi).1) fun r i hi => ?_
      simp only [Shared.mem_active]
      split_ifs <;> simp_all

/-- The part of a lane that VLI writes (R251). -/
def liElem (x : V96) : Nat × Nat := if x.v.hs = 1 then (0, 16) else if x.v.hs = 2 then (16, 16) else (0, 32)

/-- The literal at its place in a lane (R251). -/
def liWord (x : V96) : BitVec 32 := if x.v.hs = 1 then x.lit &&& 0xFFFF else if x.v.hs = 2 then x.lit <<< 16 else x.lit

theorem liElem_le (x : V96) : (liElem x).1 + (liElem x).2 ≤ 32 := by
  unfold liElem
  split_ifs <;> decide

theorem extract_liWord (x : V96) : (liWord x).extractLsb' (liElem x).1 (liElem x).2 = BitVec.ofNat (liElem x).2 x.lit.toNat := by
  apply BitVec.eq_of_toNat_eq
  rw [toNat_ext, BitVec.toNat_ofNat]
  unfold liWord liElem
  by_cases h1 : x.v.hs = 1
  · simp only [h1, if_true]
    simp [Nat.and_two_pow_sub_one_eq_mod _ 16]
  · by_cases h2 : x.v.hs = 2
    · simp only [h2, if_true]
      simp [Nat.shiftLeft_eq]
      omega
    · simp only [h1, h2, if_false, pow_zero, Nat.div_one]

/-- The pending result of a VLI. -/
def liLanding (x : V96) (sh : Shared) : Landing :=
  { rem := 1, sq := x.v.sq == 1, lanes := (sh.active x.v).map fun i => (laneKey (dstReg x.v.r) i, elemMask (liElem x), liWord x) }

theorem liLanding_writesElems (x : V96) (sh : Shared) :
    (liLanding x sh).writesElems (dstReg x.v.r) (laneActive x.v sh) [liElem x] fun _ _ _ => x.lit.toNat := by
  refine fun z => ⟨rfl, fun r i hi => ⟨?_, fun hnot => Landing.laneAt_of_not_mem (fun p hp hkey => ?_) z⟩⟩
  · rintro rfl hact
    have hnd : ((liLanding x sh).lanes.map (·.1)).Nodup := by
      rw [liLanding, List.map_map]
      exact (sh.nodup_active x.v).map_on fun i hi j hj hkey =>
        ((laneKey_inj (Shared.mem_active.1 hi).1 (Shared.mem_active.1 hj).1).1 hkey).2
    have hmem : (laneKey (dstReg x.v.r) i, elemMask (liElem x), liWord x) ∈ (liLanding x sh).lanes :=
      List.mem_map.2 ⟨i, Shared.mem_active.2 ⟨hi, hact⟩, rfl⟩
    rw [Landing.laneAt_of_mem hnd hmem]
    refine ⟨List.forall_mem_singleton.2 ((extract_mergeBits_elemMask _ _ (liElem_le x)).trans (extract_liWord x)), fun j hout => ?_⟩
    exact getLsbD_mergeBits_elemMask _ _ (hout _ List.mem_cons_self)
  · obtain ⟨j, hj, rfl⟩ := List.mem_map.1 hp
    obtain ⟨hj, hact⟩ := Shared.mem_active.1 hj
    obtain ⟨rfl, rfl⟩ := (laneKey_inj hi hj).1 hkey
    simp [hact] at hnot

theorem vli_issuing {x : V96} (h : EngineIssues s c .vector t) : Issuing s c t x.v (.vli x) 12 1 fun l => l.flags = 0 ∧
    l.writesElems (dstReg x.v.r) (laneActive x.v (s.cell c).sh) [liElem x] fun _ _ _ => x.lit.toNat := by
  refine issuing_of_body h rfl (l := liLanding x (s.cell c).sh) ?_ ⟨rfl, rfl, rfl⟩ ⟨rfl, liLanding_writesElems x _⟩
  have hword : List.replicate 128 (liWord x) = (List.range 128).map fun _ => liWord x := rfl
  have hpair : (if x.v.hs = 1 then (0xFFFF, x.lit &&& 0xFFFF) else if x.v.hs = 2 then (0xFFFF0000, x.lit <<< 16)
      else (0xFFFFFFFF, x.lit) : BitVec 32 × BitVec 32) = (elemMask (liElem x), liWord x) := by
    unfold liElem liWord
    split_ifs <;> rfl
  simp only [hpair, hword, keepActive_eq, List.map_map]
  rfl

end

end Sys2Proof.Machine
end


section
/-! Proofs about widening, narrowing and packing in the vector stream (R254 to R256), and the statement about both parts. -/
namespace Sys2Proof.Machine

/-! ### Fields side by side -/

/-- The number that fields of `n` bits make, the first lowest. -/
def packFields (n k : Nat) (g : Nat → Nat) : Nat := (List.range k).foldl (fun r e => r + g e % 2 ^ n * 2 ^ (n * e)) 0

section
variable (n : Nat) (g : Nat → Nat)

theorem packFields_succ (k : Nat) : packFields n (k + 1) g = packFields n k g + g k % 2 ^ n * 2 ^ (n * k) := by
  rw [packFields, List.range_succ, List.foldl_append]
  rfl

theorem packFields_lt : ∀ k, packFields n k g < 2 ^ (n * k)
  | 0 => by simp [packFields]
  | k + 1 => by
    have ih := packFields_lt k
    have hlt : g k % 2 ^ n + 1 ≤ 2 ^ n := Nat.mod_lt _ (by positivity)
    calc packFields n (k + 1) g < 2 ^ (n * k) + g k % 2 ^ n * 2 ^ (n * k) := by rw [packFields_succ]; omega
      _ = (g k % 2 ^ n + 1) * 2 ^ (n * k) := by ring
      _ ≤ 2 ^ n * 2 ^ (n * k) := Nat.mul_le_mul_right _ hlt
      _ = 2 ^ (n * (k + 1)) := by rw [← pow_add, Nat.mul_succ, Nat.add_comm]

/-- A field read back. -/
theorem packFields_div_mod {e : Nat} : ∀ {k}, e < k → packFields n k g / 2 ^ (n * e) % 2 ^ n = g e % 2 ^ n
  | k + 1, he => by
    rw [packFields_succ]
    rcases Nat.lt_succ_iff_lt_or_eq.1 he with hlt | rfl
    · obtain ⟨d, rfl⟩ := Nat.exists_eq_add_of_lt hlt
      have hsplit : g (e + d + 1) % 2 ^ n * 2 ^ (n * (e + d + 1)) = 2 ^ n * (g (e + d + 1) % 2 ^ n * 2 ^ (n * d)) * 2 ^ (n * e) := by ring
      rw [hsplit, Nat.add_mul_div_right _ _ (by positivity), Nat.add_mul_mod_self_left]
      exact packFields_div_mod hlt
    · rw [Nat.add_mul_div_right _ _ (by positivity), Nat.div_eq_of_lt (packFields_lt n g e), Nat.zero_add, Nat.mod_mod]

theorem extract_packFields {k e : Nat} (he : e < k) (hk : n * k ≤ 32) :
    (BitVec.ofNat 32 (packFields n k g)).extractLsb' (n * e) n = BitVec.ofNat n (g e) := by
  have hlt : packFields n k g < 2 ^ 32 := (packFields_lt n g k).trans_le (Nat.pow_le_pow_right (by decide) hk)
  apply BitVec.eq_of_toNat_eq
  rw [toNat_ext, BitVec.toNat_ofNat, BitVec.toNat_ofNat, Nat.mod_eq_of_lt hlt, packFields_div_mod n g he]

end

/-- A result that packs fields of `n` bits, as many as a lane has. -/
theorem activeLanding_packs (v : V64) (lat : Nat) (x : Shared) (fl : Flags) {n k : Nat} (hk : n * k = 32) (g : Nat → Nat → Nat) :
    (activeLanding v lat x (fun i => BitVec.ofNat 32 (packFields n k (g i))) fl).writesElems (dstReg v.r) (laneActive v x)
      ((List.range k).map fun e => (n * e, n)) fun i lo _ => g i (lo / n) := by
  have hn : 0 < n := Nat.pos_of_ne_zero fun h => by simp [h] at hk
  refine Landing.writesElems_of_writes (activeLanding_writes v lat x _ fl) (fun j hj => ?_) fun i e he => ?_
  · refine ⟨_, List.mem_map.2 ⟨j / n, List.mem_range.2 (Nat.div_lt_of_lt_mul (by omega)), rfl⟩, Nat.mul_div_le j n, ?_⟩
    exact Nat.lt_mul_div_succ j hn
  · obtain ⟨k', hk', rfl⟩ := List.mem_map.1 he
    rw [extract_packFields n (g i) (List.mem_range.1 hk') hk.le, Nat.mul_div_cancel_left _ hn]

/-- Field `q.2` of `n` bits of the lane with key `q.1`. -/
def fieldOf (n : Nat) (v : Sparse (BitVec 32)) (q : Nat × Nat) : BitVec n := (Sparse.get 0 v q.1).extractLsb' (n * q.2) n

/-- A field that lands changes its own field and no other. -/
theorem fieldOf_landLane {n j : Nat} (hfit : n * j + n ≤ 32) (v : Sparse (BitVec 32)) (k r : Nat) (q : Nat × Nat) :
    fieldOf n (landLane v (k, elemMask (n * j, n), BitVec.ofNat 32 (r * 2 ^ (n * j)))) q =
      if q = (k, j) then BitVec.ofNat n r else fieldOf n v q := by
  obtain ⟨k', j'⟩ := q
  rw [fieldOf, fieldOf, get_landLane]
  by_cases hk : k' = k
  · subst hk
    rw [if_pos rfl, landedLane]
    by_cases hj : j' = j
    · subst hj
      rw [if_pos rfl]
      exact (extract_mergeBits_elemMask _ _ hfit).trans (extract_ofNat_mul_two_pow (e := (n * j', n)) hfit r)
    · rw [if_neg fun h => hj (Prod.mk.inj h).2]
      apply BitVec.eq_of_getLsbD_eq
      intro i hi
      rw [BitVec.getLsbD_extractLsb', BitVec.getLsbD_extractLsb']
      refine congrArg _ (getLsbD_mergeBits_elemMask _ _ ?_)
      rcases Nat.lt_or_gt_of_ne hj with hlt | hlt
      · exact Or.inl (by linarith [Nat.mul_le_mul_left n (Nat.succ_le_of_lt hlt), Nat.mul_succ n j'])
      · exact Or.inr (by linarith [Nat.mul_le_mul_left n (Nat.succ_le_of_lt hlt), Nat.mul_succ n j])
  · rw [if_neg hk, if_neg fun h => hk (Prod.mk.inj h).1]

/-- A result that writes fields of `n` bits, `per` in a lane, of as many registers as they need. -/
theorem Landing.extract_of_fields {l : Landing} {d n per k : Nat} {is : List Nat} {val : Nat → Nat → Nat} (hper : n * per = 32)
    (hnd : is.Nodup) (hlt : ∀ i ∈ is, i < 128)
    (hl : l.lanes = (is ×ˢ List.range k).map fun p => (laneKey (d + p.2 / per) p.1, elemMask (n * (p.2 % per), n),
      BitVec.ofNat 32 (val p.1 p.2 * 2 ^ (n * (p.2 % per))))) {i e : Nat} (hi : i ∈ is) (he : e < k) (z : Shared) :
    ((z.land l).laneAt (d + e / per) i).extractLsb' (n * (e % per)) n = BitVec.ofNat n (val i e) := by
  have hpos : 0 < per := Nat.pos_of_ne_zero fun h => by simp [h] at hper
  have hfit : ∀ e, n * (e % per) + n ≤ 32 := fun e => by
    rw [← hper, ← Nat.mul_succ]
    exact Nat.mul_le_mul_left n (Nat.mod_lt e hpos)
  have hland : (z.land l).v = (is ×ˢ List.range k).foldl (fun v p => landLane v (laneKey (d + p.2 / per) p.1,
      elemMask (n * (p.2 % per), n), BitVec.ofNat 32 (val p.1 p.2 * 2 ^ (n * (p.2 % per))))) z.v := by
    rw [← List.foldl_map, ← hl]
    rfl
  rw [Shared.laneAt, hland]
  refine get_foldl_of_mem (get := fieldOf n) (key := fun p : Nat × Nat => (laneKey (d + p.2 / per) p.1, p.2 % per))
    (val := fun p _ => BitVec.ofNat n (val p.1 p.2)) (i := (i, e)) (fun v p q => fieldOf_landLane (hfit p.2) v _ _ q) z.v
    (List.mem_product.2 ⟨hi, List.mem_range.2 he⟩) (hnd.product List.nodup_range) fun p hp hkey => ?_
  obtain ⟨hlane, hmod⟩ := Prod.mk.inj hkey
  obtain ⟨hreg, hlane⟩ := (laneKey_inj (hlt i hi) (hlt p.1 (List.mem_product.1 hp).1)).1 hlane
  exact Prod.ext hlane (Nat.ext_div_modEq (Nat.add_left_cancel hreg) hmod)

/-! ### VWID and VNAR (R254, R255) -/

theorem tyWidth_cases (ty : BitVec 4) : tyWidth ty = 8 ∨ tyWidth ty = 16 ∨ tyWidth ty = 32 ∨ tyWidth ty = 64 := by
  unfold tyWidth
  split <;> simp

/-- A wide type of `n` bits has `per` elements in a lane (R254). -/
def WideLanes (n per : Nat) : Prop := n = 16 ∧ per = 2 ∨ n = 32 ∧ per = 1

section
variable {ty nty : BitVec 4} {per : Nat} (hw : WideLanes (tyWidth ty) per)
include hw

theorem WideLanes.widePerLane : widePerLane ty = per := by
  obtain ⟨hn, rfl⟩ | ⟨hn, rfl⟩ := hw <;> simp [Machine.widePerLane, hn]

theorem WideLanes.mul_eq : tyWidth ty * per = 32 := by
  obtain ⟨hn, rfl⟩ | ⟨hn, rfl⟩ := hw <;> rw [hn]

theorem WideLanes.ne_wide : tyWidth ty ≠ 64 := by
  obtain ⟨hn, rfl⟩ | ⟨hn, rfl⟩ := hw <;> rw [hn] <;> decide

/-- The elements of a narrower type fill whole registers of the group. -/
theorem WideLanes.div_lt {e : Nat} (hlt : tyWidth nty < tyWidth ty) (he : e < 32 / tyWidth nty) :
    e / per < 32 / tyWidth nty / per := by
  obtain ⟨hn, rfl⟩ | ⟨hn, rfl⟩ := hw
  · obtain h | h | h | h := tyWidth_cases nty <;> rw [h] at he ⊢ <;> omega
  · simpa using he

end

section
variable (x : V64) (sh : Shared)

/-- Element `e` of lane `i`, widened (R255). -/
def widVal (i e : Nat) : Nat :=
  (tyConvert (styOf x) x.ty .rne false false ((srcLane x sh i).extractLsb' (tyWidth (styOf x) * e) (tyWidth (styOf x))).toNat).1

/-- The pending result of a VWID to a type of at most 32 bits. -/
def widLanding (per : Nat) : Landing :=
  { rem := 3, sq := x.sq == 1,
    lanes := (sh.active x ×ˢ List.range (32 / tyWidth (styOf x))).map fun p => (laneKey (x.r.vd.toNat + p.2 / per) p.1,
      elemMask (tyWidth x.ty * (p.2 % per), tyWidth x.ty), BitVec.ofNat 32 (widVal x sh p.1 p.2 * 2 ^ (tyWidth x.ty * (p.2 % per)))) }

theorem widLanding_keeps {per r i : Nat} (hw : WideLanes (tyWidth x.ty) per) (hlt : tyWidth (styOf x) < tyWidth x.ty) (hi : i < 128)
    (hout : laneActive x sh i = false ∨ r < x.r.vd.toNat ∨ x.r.vd.toNat + 32 / tyWidth (styOf x) / per ≤ r) (z : Shared) :
    (z.land (widLanding x sh per)).laneAt r i = z.laneAt r i := by
  refine Landing.laneAt_of_not_mem (fun q hq hkey => ?_) z
  obtain ⟨p, hp, rfl⟩ := List.mem_map.1 hq
  obtain ⟨hlane, he⟩ := List.mem_product.1 hp
  obtain ⟨hlane, hact⟩ := Shared.mem_active.1 hlane
  obtain ⟨rfl, rfl⟩ := (laneKey_inj hi hlane).1 hkey
  have hhi := Nat.add_lt_add_left (hw.div_lt hlt (List.mem_range.1 he)) x.r.vd.toNat
  have hlo := Nat.le_add_right x.r.vd.toNat (p.2 / per)
  rcases hout with hoff | hbelow | habove
  · exact Bool.false_ne_true (hoff.symm.trans hact)
  · exact Nat.not_lt.2 hlo hbelow
  · exact Nat.not_le.2 hhi habove

/-- Lane `i`, widened to 64 bits (R255). -/
def widPair (i : Nat) : BitVec 64 := BitVec.ofNat 64 (tyConvert (styOf x) x.ty .rne false false (srcLane x sh i).toNat).1

theorem extract_low_half (v : Nat) : (BitVec.ofNat 64 v).extractLsb' 0 32 = BitVec.ofNat 32 v := by
  apply BitVec.eq_of_toNat_eq
  simp

theorem extract_high_half (v : Nat) : (BitVec.ofNat 64 v).extractLsb' 32 32 = BitVec.ofNat 32 (v / 2 ^ 32) := by
  apply BitVec.eq_of_toNat_eq
  simp [Nat.shiftRight_eq_div_pow]
  omega

/-- The pending result of a VWID to a type of 64 bits. -/
def widPairLanding : Landing :=
  { rem := 3, sq := x.sq == 1, lanes := (sh.active x).flatMap fun i =>
      (List.range 2).map fun j => (laneKey (x.r.vd.toNat + j) i, 0xFFFFFFFF, (widPair x sh i).extractLsb' (32 * j) 32) }

theorem widPairLanding_writes : (widPairLanding x sh).writes fun r i =>
    if laneActive x sh i = false then none else if r = x.r.vd.toNat then some ((widPair x sh i).extractLsb' 0 32)
    else if r = x.r.vd.toNat + 1 then some ((widPair x sh i).extractLsb' 32 32) else none := by
  refine Landing.writes_congr (Landing.writes_of_columns rfl (sh.nodup_active x) (fun i hi => (Shared.mem_active.1 hi).1) rfl)
    fun r i hi => ?_
  simp only [Shared.mem_active, hi, true_and]
  by_cases hlo : r = x.r.vd.toNat
  · cases laneActive x sh i <;> simp [hlo]
  · by_cases hhi : r = x.r.vd.toNat + 1
    · cases laneActive x sh i <;> simp [hhi]
    · rw [if_neg (by omega), if_neg hlo, if_neg hhi, ite_self]

end

section
variable {s : State} {c : Nat} {t : Team} {x : V64} (h : EngineIssues s c .vector t)
include h

theorem vwid_issuing {per : Nat} (hw : WideLanes (tyWidth x.ty) per) (hlt : tyWidth (styOf x) < tyWidth x.ty) :
    Issuing s c t x (.vwid x) 8 3 fun l => l.flags = 0 ∧ ∀ z : Shared, (z.land l).m = z.m ∧
      (∀ i e, i < 128 → e < 32 / tyWidth (styOf x) → laneActive x (s.cell c).sh i = true →
        ((z.land l).laneAt (x.r.vd.toNat + e / per) i).extractLsb' (tyWidth x.ty * (e % per)) (tyWidth x.ty) =
          BitVec.ofNat (tyWidth x.ty) (widVal x (s.cell c).sh i e)) ∧
      ∀ r i, i < 128 → laneActive x (s.cell c).sh i = false ∨ r < x.r.vd.toNat ∨
        x.r.vd.toNat + 32 / tyWidth (styOf x) / per ≤ r → (z.land l).laneAt r i = z.laneAt r i := by
  refine issuing_of_body h rfl (l := widLanding x (s.cell c).sh per) ?_ ⟨rfl, rfl, rfl⟩ ⟨rfl, fun z => ⟨rfl, ?_, ?_⟩⟩
  · simp only [hw.widePerLane, hw.ne_wide, if_false, srcA_eq, keepActive_eq, List.flatMap_map, ← List.map_eq_flatMap]
    rw [widLanding, map_product_eq_flatMap]
    simp only [widVal, toNat_ext]
    rfl
  · exact fun i e hi he hact => Landing.extract_of_fields hw.mul_eq ((s.cell c).sh.nodup_active x)
      (fun i hi => (Shared.mem_active.1 hi).1) rfl (Shared.mem_active.2 ⟨hi, hact⟩) he z
  · exact fun r i hi hout => widLanding_keeps x _ hw hlt hi hout z

theorem vwid_pair_issuing (hn : tyWidth x.ty = 64) (hm : tyWidth (styOf x) = 32) :
    Issuing s c t x (.vwid x) 8 3 fun l => l.flags = 0 ∧ l.writes fun r i =>
      if laneActive x (s.cell c).sh i = false then none
      else if r = x.r.vd.toNat then some ((widPair x (s.cell c).sh i).extractLsb' 0 32)
      else if r = x.r.vd.toNat + 1 then some ((widPair x (s.cell c).sh i).extractLsb' 32 32) else none := by
  refine issuing_of_body h rfl (l := widPairLanding x (s.cell c).sh) ?_ ⟨rfl, rfl, rfl⟩ ⟨rfl, widPairLanding_writes x _⟩
  have hone : List.range (32 / 32) = [0] := rfl
  have hw : ∀ i, (srcLane x (s.cell c).sh i).toNat / 2 ^ (32 * 0) % 2 ^ 32 = (srcLane x (s.cell c).sh i).toNat := fun i => by
    have := (srcLane x (s.cell c).sh i).isLt
    omega
  simp only [hn, hm, if_true, srcA_eq, keepActive_eq, List.flatMap_map, hone, List.flatMap_cons, List.flatMap_nil, List.append_nil, hw,
    ← extract_high_half]
  simp only [← extract_low_half]
  rfl

end

/-! ### VNAR (R254, R255), VPACK and VUNPK (R256) -/

theorem keepActive_lanes (x : Shared) (v : V64) : keepActive (activeLanes x v) (List.range 128) = (x.active v).map fun i => (i, i) := by
  simpa using keepActive_eq x v id

/-- Lane `i` of register `k` of a group. -/
theorem getD_group (sh : Shared) (r : Nat) {n k i : Nat} (hk : k < n) (hi : i < 128) :
    (((List.range n).map fun j => sh.lanesOf (r + j)).getD k []).getD i 0 = sh.laneAt (r + k) i := by
  rw [← Shared.getD_lanesOf sh (r + k) hi]
  simp [hk]

section
variable (x : V64) (sh : Shared)

/-- Element `e` of lane `i` of the group, narrowed (R255). -/
def narVal (per i e : Nat) : Nat × Flags :=
  tyConvert (styOf x) x.ty (Rnd.of x.rnd) (x.fn.getLsbD 0) (x.fn.getLsbD 1)
    ((sh.laneAt (x.r.vs1.toNat + e / per) i).extractLsb' (tyWidth (styOf x) * (e % per)) (tyWidth (styOf x))).toNat

/-- The flags of the elements of lane `i`. -/
def narFlags (per i : Nat) : Flags := (List.range (32 / tyWidth x.ty)).foldl (fun f e => f ||| (narVal x sh per i e).2) 0

/-- The pending result of a VNAR from a type of at most 32 bits. -/
def narLanding (per : Nat) : Landing := activeLanding x 3 sh
  (fun i => BitVec.ofNat 32 (packFields (tyWidth x.ty) (32 / tyWidth x.ty) fun e => (narVal x sh per i e).1))
  (allFlags ((sh.active x).map (narFlags x sh per)))

/-- The fields that VNAR gathers into lane `i`, and their flags, as it computes them. -/
def narLane (per i : Nat) : Nat × Flags := (List.range (32 / tyWidth x.ty)).foldl (fun r e =>
  let v := tyConvert (styOf x) x.ty (Rnd.of x.rnd) (x.fn.getLsbD 0) (x.fn.getLsbD 1)
    (((((List.range (groupCount x.ty (styOf x))).map fun k => sh.lanesOf (x.r.vs1.toNat + k)).getD (e / per) []).getD i 0).toNat /
      2 ^ (tyWidth (styOf x) * (e % per)) % 2 ^ tyWidth (styOf x))
  (r.1 + v.1 % 2 ^ tyWidth x.ty * 2 ^ (tyWidth x.ty * e), r.2 ||| v.2)) (0, 0)

theorem narLane_eq {per i : Nat} (hw : WideLanes (tyWidth (styOf x)) per) (hlt : tyWidth x.ty < tyWidth (styOf x)) (hi : i < 128) :
    narLane x sh per i = (packFields (tyWidth x.ty) (32 / tyWidth x.ty) fun e => (narVal x sh per i e).1, narFlags x sh per i) := by
  rw [packFields, narFlags, ← List.foldl_hom₂ (f := Prod.mk) (op₃ := fun (r : Nat × Flags) e =>
    (r.1 + (narVal x sh per i e).1 % 2 ^ tyWidth x.ty * 2 ^ (tyWidth x.ty * e), r.2 ||| (narVal x sh per i e).2)) (h := fun _ _ _ => rfl)]
  refine List.foldl_ext _ _ _ fun r e he => ?_
  have hk : e / per < groupCount x.ty (styOf x) := by
    rw [groupCount, hw.widePerLane]
    exact hw.div_lt hlt (List.mem_range.1 he)
  rw [getD_group sh x.r.vs1.toNat hk hi, narVal, toNat_ext]

theorem narLanding_flags (per : Nat) {j : Nat} : (narLanding x sh per).flags.getLsbD j = true ↔
    ∃ i e, i < 128 ∧ laneActive x sh i = true ∧ e < 32 / tyWidth x.ty ∧ (narVal x sh per i e).2.getLsbD j = true := by
  simp only [narLanding, activeLanding, wholeLanding, getLsbD_allFlags, List.mem_map, Shared.mem_active, exists_exists_and_eq_and,
    narFlags, getLsbD_foldl_or_zero, List.mem_range]
  constructor
  · rintro ⟨i, ⟨hi, hact⟩, e, he, hbit⟩
    exact ⟨i, e, hi, hact, he, hbit⟩
  · rintro ⟨i, e, hi, hact, he, hbit⟩
    exact ⟨i, ⟨hi, hact⟩, e, he, hbit⟩

end

/-- What VPACK puts into field `j` of lane `i` (R256). -/
def packVal (x : V64) (sh : Shared) (i j : Nat) : Nat :=
  let v := tyIntVal x.ty (sh.laneAt (x.r.vs1.toNat + j) i).toNat
  let low : Int := if x.ty = 2 then -(2 : Int) ^ (packWidth x.fn - 1) else 0
  let top : Int := if x.ty = 2 then (2 : Int) ^ (packWidth x.fn - 1) - 1 else (2 : Int) ^ packWidth x.fn - 1
  ((if x.fn.getLsbD 2 then max low (min top v) else v) % (2 : Int) ^ packWidth x.fn).toNat

theorem packVal_eq (x : V64) (sh : Shared) (i j : Nat) : packVal x sh i j = lowBits (packWidth x.fn)
    (let v := tyIntVal x.ty (sh.laneAt (x.r.vs1.toNat + j) i).toNat
      if x.fn.getLsbD 2 then max (intMin (packWidth x.fn) (x.ty == 2)) (min (intMax (packWidth x.fn) (x.ty == 2)) v) else v) := by
  simp [packVal, lowBits, intMin, intMax]

theorem packWidth_mul (fn : BitVec 3) : packWidth fn * (32 / packWidth fn) = 32 := by
  revert fn
  decide

/-- Field `j` of a lane, extended as VUNPK's type says (R256). -/
def unpackField (x : V64) (w : BitVec 32) (j : Nat) : BitVec 32 :=
  if x.ty = 2 then (w.extractLsb' (packWidth x.fn * j) (packWidth x.fn)).signExtend 32
  else (w.extractLsb' (packWidth x.fn * j) (packWidth x.fn)).setWidth 32

theorem unpackField_eq (x : V64) (w : BitVec 32) (j : Nat) : (if x.ty == 2 then
      BitVec.ofInt 32 (sextNat (packWidth x.fn) (w.toNat / 2 ^ (packWidth x.fn * j) % 2 ^ packWidth x.fn))
    else BitVec.ofNat 32 (w.toNat / 2 ^ (packWidth x.fn * j) % 2 ^ packWidth x.fn)) = unpackField x w j := by
  have hn : 0 < packWidth x.fn := Nat.pos_of_ne_zero fun h => by simpa [h] using packWidth_mul x.fn
  rw [unpackField, ← toNat_ext, sextNat_eq_toInt hn, BitVec.ofNat_toNat, BitVec.ofNat_toNat, BitVec.setWidth_eq]
  simp only [beq_iff_eq, BitVec.signExtend]

section
variable {s : State} {c : Nat} {t : Team} {x : V64} (h : EngineIssues s c .vector t)
include h

theorem vnar_issuing {per : Nat} (hw : WideLanes (tyWidth (styOf x)) per) (hlt : tyWidth x.ty < tyWidth (styOf x)) :
    Issuing s c t x (.vnar x) 8 3 fun l =>
      l.writesElems (dstReg x.r) (laneActive x (s.cell c).sh)
        ((List.range (32 / tyWidth x.ty)).map fun e => (tyWidth x.ty * e, tyWidth x.ty))
        (fun i lo _ => (narVal x (s.cell c).sh per i (lo / tyWidth x.ty)).1) ∧
      ∀ j, l.flags.getLsbD j = true ↔ ∃ i e, i < 128 ∧ laneActive x (s.cell c).sh i = true ∧ e < 32 / tyWidth x.ty ∧
        (narVal x (s.cell c).sh per i e).2.getLsbD j = true := by
  have hfill : tyWidth x.ty * (32 / tyWidth x.ty) = 32 := by
    obtain hn | hn | hn | hn := tyWidth_cases x.ty <;> rw [hn] at hlt ⊢
    have := hw.mul_eq
    obtain ⟨h', -⟩ | ⟨h', -⟩ := hw <;> omega
  refine issuing_of_body h rfl (l := narLanding x (s.cell c).sh per) ?_ (activeLanding_plain ..)
    ⟨activeLanding_packs x 3 (s.cell c).sh _ hfill fun i e => (narVal x (s.cell c).sh per i e).1,
      fun j => narLanding_flags x (s.cell c).sh per⟩
  have hlane : ∀ i ∈ (s.cell c).sh.active x, narLane x (s.cell c).sh per i = _ := fun i hi =>
    narLane_eq x (s.cell c).sh hw hlt (Shared.mem_active.1 hi).1
  have hvals := List.map_congr_left fun i hi => congrArg (fun r => (i, BitVec.ofNat 32 r.1)) (hlane i hi)
  have hflags := List.map_congr_left fun i hi => congrArg Prod.snd (hlane i hi)
  simp only [hw.ne_wide, if_false, hw.widePerLane, keepActive_lanes, List.map_map]
  exact (congrArg₂ (fun ls fl => wholeLanes x 3 (dstReg x.r) ls fl) hvals (congrArg allFlags hflags)).trans (wholeLanes_map ..)

theorem vpack_issuing : Issuing s c t x (.vpack x) 8 3 fun l => l.flags = 0 ∧
    l.writesElems (dstReg x.r) (laneActive x (s.cell c).sh)
      ((List.range (32 / packWidth x.fn)).map fun e => (packWidth x.fn * e, packWidth x.fn))
      fun i lo _ => packVal x (s.cell c).sh i (lo / packWidth x.fn) := by
  refine issuing_of_body h rfl (l := activeLanding x 3 (s.cell c).sh (fun i => BitVec.ofNat 32 (packFields (packWidth x.fn)
      (32 / packWidth x.fn) (packVal x (s.cell c).sh i))) 0) ?_ (activeLanding_plain ..)
    ⟨rfl, activeLanding_packs x 3 (s.cell c).sh 0 (packWidth_mul x.fn) (packVal x (s.cell c).sh)⟩
  refine Eq.trans ?_ (wholeLanes_map ..)
  simp only [zipIdx_map_range, List.foldl_map, keepActive_lanes, List.map_map]
  refine congrArg (wholeLanes x 3 (dstReg x.r) · 0) (List.map_congr_left fun i hi => ?_)
  simp only [Function.comp_def, packFields, packVal_eq, Nat.mod_eq_of_lt (lowBits_lt _ _),
    Shared.getD_lanesOf _ _ (Shared.mem_active.1 hi).1]

theorem vunpk_issuing : Issuing s c t x (.vunpk x) 8 3 fun l => l.flags = 0 ∧ l.writes fun r i =>
    if laneActive x (s.cell c).sh i = true ∧ x.r.vd.toNat ≤ r ∧ r - x.r.vd.toNat < 32 / packWidth x.fn then
      some (unpackField x (srcLane x (s.cell c).sh i) (r - x.r.vd.toNat)) else none := by
  refine issuing_of_body h rfl (l := { rem := 3, sq := x.sq == 1, lanes := ((s.cell c).sh.active x).flatMap fun i =>
    (List.range (32 / packWidth x.fn)).map fun j =>
      (laneKey (x.r.vd.toNat + j) i, 0xFFFFFFFF, unpackField x (srcLane x (s.cell c).sh i) j) })
    ?_ ⟨rfl, rfl, rfl⟩ ⟨rfl, ?_⟩
  · simp only [srcA_eq, keepActive_eq, List.flatMap_map, unpackField_eq]
  · refine Landing.writes_congr (Landing.writes_of_columns rfl ((s.cell c).sh.nodup_active x) (fun i hi => (Shared.mem_active.1 hi).1) rfl)
      fun r i hi => ?_
    simp only [Shared.mem_active, hi, true_and]

end

/-- Settles O30: each instruction adds the one result that its meaning describes, and what the result writes follows from its places. -/
theorem vectorSelectAndPack : Obligations.VectorSelectAndPack := by
  intro s c t x y h sh act a b d issue sty n m pk
  refine ⟨vcmp_issuing h, vsel_issuing h, vli_issuing h, fun per hm hlt hw => vwid_issuing h hw hlt,
    fun hn hm => vwid_pair_issuing h hn hm, fun per hn hlt hw => vnar_issuing h hw hlt, vpack_issuing h, vunpk_issuing h⟩

end Sys2Proof.Machine
end


section
/-! Proofs about reductions and scans of the vector stream (R260, R261). -/
namespace Sys2Proof.Machine

/-! ### Lanes as they start -/

/-- Lane `i` as a reduction or scan starts: the identity where it is inactive (R260). -/
def redStart (op : RedOp) (x : V64) (sh : Shared) (i : Nat) : BitVec 32 :=
  if laneActive x sh i then srcLane x sh i else redIdentity op x.ty

theorem withIdentity_eq (op : RedOp) (x : V64) (sh : Shared) :
    withIdentity (activeLanes sh x) (srcA sh x) (redIdentity op x.ty) = (List.range 128).map (redStart op x sh) := by
  rw [withIdentity, activeLanes_eq, srcA_eq, List.zip_map', List.map_map]
  rfl

/-! ### The tree of R260 -/

section
variable (f : BitVec 32 → BitVec 32 → BitVec 32 × Flags)

/-- Node `i` of level `k` of the tree over the leaves `g`, with the flags of making it. -/
def treeNode (g : Nat → BitVec 32) : Nat → Nat → BitVec 32 × Flags
  | 0, i => (g i, 0)
  | k + 1, i => f (treeNode g k (2 * i)).1 (treeNode g k (2 * i + 1)).1

/-- A level of the tree: neighbours are combined. -/
theorem pairUp_map_range : ∀ (n : Nat) (g : Nat → BitVec 32),
    (pairUp f ((List.range (2 * n)).map g)).1 = (List.range n).map (fun i => (f (g (2 * i)) (g (2 * i + 1))).1) ∧
    ∀ j, (pairUp f ((List.range (2 * n)).map g)).2.getLsbD j = true ↔ ∃ i < n, (f (g (2 * i)) (g (2 * i + 1))).2.getLsbD j = true
  | 0, _ => ⟨rfl, by simp [pairUp]⟩
  | n + 1, g => by
    obtain ⟨hvals, hflags⟩ := pairUp_map_range n fun i => g (i + 2)
    have hcons : (List.range (2 * (n + 1))).map g = g 0 :: g 1 :: (List.range (2 * n)).map fun i => g (i + 2) := by
      rw [Nat.mul_succ, List.range_succ_eq_map, List.range_succ_eq_map]
      simp [Function.comp_def]
    refine ⟨?_, fun j => ?_⟩
    · simp only [hcons, pairUp, hvals, List.range_succ_eq_map, List.map_cons, List.map_map]
      rfl
    · simp only [hcons, pairUp, BitVec.getLsbD_or, Bool.or_eq_true, hflags, Nat.exists_lt_succ_left]
      rfl

/-- The tree over a level of `2 ^ n` nodes ends in the node `n` levels on, and raises the flags of all nodes on the way. -/
theorem redTree_treeNode (g : Nat → BitVec 32) : ∀ (n m : Nat) (fl : Flags),
    (redTree f n ((List.range (2 ^ n)).map (fun i => (treeNode f g m i).1), fl)).1 = [(treeNode f g (m + n) 0).1] ∧
    ∀ j, (redTree f n ((List.range (2 ^ n)).map (fun i => (treeNode f g m i).1), fl)).2.getLsbD j = true ↔
      fl.getLsbD j = true ∨ ∃ k < n, ∃ i < 2 ^ (n - 1 - k), (treeNode f g (m + k + 1) i).2.getLsbD j = true
  | 0, m, fl => ⟨rfl, by simp [redTree]⟩
  | n + 1, m, fl => by
    obtain ⟨hvals, hflags⟩ := pairUp_map_range f (2 ^ n) fun i => (treeNode f g m i).1
    have hlevel : (pairUp f ((List.range (2 * 2 ^ n)).map fun i => (treeNode f g m i).1)).1 =
        (List.range (2 ^ n)).map fun i => (treeNode f g (m + 1) i).1 := hvals
    simp only [redTree, Nat.pow_succ', hlevel]
    obtain ⟨hroot, hbits⟩ := redTree_treeNode g n (m + 1)
      (fl ||| (pairUp f ((List.range (2 * 2 ^ n)).map fun i => (treeNode f g m i).1)).2)
    refine ⟨by rw [hroot, Nat.add_right_comm, Nat.add_assoc], fun j => ?_⟩
    rw [hbits, BitVec.getLsbD_or, Bool.or_eq_true, hflags, or_assoc]
    refine or_congr_right ?_
    rw [Nat.exists_lt_succ_left]
    refine or_congr Iff.rfl (exists_congr fun k => and_congr_right fun _ => ?_)
    rw [Nat.add_right_comm m 1 k, show n - 1 - k = n + 1 - 1 - (k + 1) by omega]
    rfl

/-! ### The scan of R261 -/

/-- Lane `i` after `k` steps of the scan over `g`, with the flags of the last one. -/
def scanNode (g : Nat → BitVec 32) : Nat → Nat → BitVec 32 × Flags
  | 0, i => (g i, 0)
  | k + 1, i => if i < 2 ^ k then ((scanNode g k i).1, 0) else f (scanNode g k (i - 2 ^ k)).1 (scanNode g k i).1

theorem scanStep_scanNode (g : Nat → BitVec 32) (k : Nat) (fl : Flags) :
    scanStep f (2 ^ k) ((List.range 128).map (fun i => (scanNode f g k i).1), fl) =
      ((List.range 128).map (fun i => (scanNode f g (k + 1) i).1),
        fl ||| allFlags ((List.range 128).map fun i => (scanNode f g (k + 1) i).2)) := by
  have houts : (((List.range 128).map fun i => (scanNode f g k i).1).zipIdx.map fun (v, i) => if i < 2 ^ k then (v, (0 : Flags))
      else f (((List.range 128).map fun i => (scanNode f g k i).1).getD (i - 2 ^ k) 0) v) =
        (List.range 128).map (scanNode f g (k + 1)) := by
    rw [zipIdx_map_range, List.map_map]
    refine List.map_congr_left fun i hi => ?_
    have hlt : i - 2 ^ k < 128 := (Nat.sub_le ..).trans_lt (List.mem_range.1 hi)
    simp [scanNode, hlt]
  simp only [scanStep, houts, List.map_map]
  rfl

/-- The first `n` steps of the scan, with the flags of all of them. -/
theorem foldl_scanStep (g : Nat → BitVec 32) : ∀ n,
    ((List.range n).foldl (fun r k => scanStep f (2 ^ k) r) ((List.range 128).map g, 0)).1 =
      (List.range 128).map (fun i => (scanNode f g n i).1) ∧
    ∀ j, ((List.range n).foldl (fun r k => scanStep f (2 ^ k) r) ((List.range 128).map g, 0)).2.getLsbD j = true ↔
      ∃ k < n, ∃ i < 128, (scanNode f g (k + 1) i).2.getLsbD j = true
  | 0 => ⟨rfl, by simp⟩
  | n + 1 => by
    obtain ⟨hvals, hflags⟩ := foldl_scanStep g n
    have hstep := scanStep_scanNode f g n ((List.range n).foldl (fun r k => scanStep f (2 ^ k) r) ((List.range 128).map g, 0)).2
    rw [← hvals] at hstep
    rw [List.range_succ (n := n), List.foldl_append, List.foldl_cons, List.foldl_nil, hstep]
    refine ⟨rfl, fun j => ?_⟩
    rw [BitVec.getLsbD_or, Bool.or_eq_true, hflags, getLsbD_allFlags, Nat.exists_lt_succ_right]
    simp

end

/-! ### The instructions -/

/-- How R260 combines two lanes. -/
def laneComb (x : V64) (op : RedOp) (p q : BitVec 32) : BitVec 32 × Flags :=
  if x.ty = 8 then redCombine op x.ty (Rnd.of x.rnd) p q else
    let less := if x.ty = 2 then p.slt q else p.ult q
    (match op with
      | .sum => p + q
      | .max => if less then q else p
      | .min => if less then p else q, 0)

theorem laneComb_eq (x : V64) (op : RedOp) : laneComb x op = redCombine op x.ty (Rnd.of x.rnd) := by
  funext p q
  by_cases hty : x.ty = 8
  · rw [laneComb, if_pos hty]
  · cases op <;> simp only [laneComb, redCombine, if_neg hty, apply_ite (Prod.mk · (0 : Flags))]

section
variable (op : RedOp) (x : V64) (sh : Shared)

/-- Node `i` of level `k` of a reduction's tree (R260). -/
def redNode : Nat → Nat → BitVec 32 × Flags := treeNode (laneComb x op) (redStart op x sh)

/-- A reduction's tree, as it computes it. -/
def redAll : List (BitVec 32) × Flags :=
  redTree (redCombine op x.ty (Rnd.of x.rnd)) 7 (withIdentity (activeLanes sh x) (srcA sh x) (redIdentity op x.ty), 0)

theorem redAll_spec : (redAll op x sh).1 = [(redNode op x sh 7 0).1] ∧
    ∀ j, (redAll op x sh).2.getLsbD j = true ↔
      ∃ k i, k < 7 ∧ i < 2 ^ (6 - k) ∧ (redNode op x sh (k + 1) i).2.getLsbD j = true := by
  obtain ⟨hroot, hflags⟩ := redTree_treeNode (laneComb x op) (redStart op x sh) 7 0 0
  rw [redAll, withIdentity_eq, ← laneComb_eq]
  exact ⟨hroot, fun j => (hflags j).trans (by simp [redNode])⟩

/-- Lane `i` after `k` steps of a scan (R261). -/
def scanLane : Nat → Nat → BitVec 32 × Flags := scanNode (laneComb x op) (redStart op x sh)

/-- A scan's steps, as it computes them. -/
def scanAll : List (BitVec 32) × Flags := (List.range 7).foldl (fun r k => scanStep (redCombine op x.ty (Rnd.of x.rnd)) (2 ^ k) r)
  (withIdentity (activeLanes sh x) (srcA sh x) (redIdentity op x.ty), 0)

theorem scanAll_spec : (scanAll op x sh).1 = (List.range 128).map (fun i => (scanLane op x sh 7 i).1) ∧
    ∀ j, (scanAll op x sh).2.getLsbD j = true ↔ ∃ k i, k < 7 ∧ i < 128 ∧ (scanLane op x sh (k + 1) i).2.getLsbD j = true := by
  obtain ⟨hvals, hflags⟩ := foldl_scanStep (laneComb x op) (redStart op x sh) 7
  rw [scanAll, withIdentity_eq, ← laneComb_eq]
  exact ⟨hvals, fun j => (hflags j).trans (by simp [scanLane])⟩

/-- The lanes moved up one lane, behind a first value. -/
theorem cons_take_map_range (n : Nat) (e : BitVec 32) (g : Nat → BitVec 32) :
    e :: ((List.range (n + 1)).map g).take n = (List.range (n + 1)).map fun i => if i = 0 then e else g (i - 1) := by
  rw [← List.map_take, List.take_range, Nat.min_eq_left (Nat.le_succ n), List.range_succ_eq_map]
  simp [Function.comp_def]

/-- What a scan gives lane `i` (R261). -/
def scanOut (i : Nat) : BitVec 32 :=
  if x.fn.getLsbD 2 then (if i = 0 then redIdentity op x.ty else (scanLane op x sh 7 (i - 1)).1) else (scanLane op x sh 7 i).1

theorem scanAll_out : (if x.fn.getLsbD 2 then redIdentity op x.ty :: (scanAll op x sh).1.take 127 else (scanAll op x sh).1) =
    (List.range 128).map (scanOut op x sh) := by
  unfold scanOut
  rw [(scanAll_spec op x sh).1]
  cases x.fn.getLsbD 2
  · rfl
  · exact cons_take_map_range 127 _ _

end

section
variable {s : State} {c : Nat} {t : Team} {x : V64} (h : EngineIssues s c .vector t)
include h

theorem vReduce_issuing {i : Instr} {op : RedOp} {lat : Nat} (hi : exec i s = vReduce op lat x s) :
    Issuing s c t x i 8 lat fun l => ∃ tree : Nat → Nat → BitVec 32 × Flags,
      (∀ i, i < 128 → tree 0 i = (redStart op x (s.cell c).sh i, 0)) ∧
      (∀ k i, k < 7 → i < 2 ^ (6 - k) → tree (k + 1) i = laneComb x op (tree k (2 * i)).1 (tree k (2 * i + 1)).1) ∧
      l.writes (fun r i => if r = dstReg x.r ∧ i < 128 then some (tree 7 0).1 else none) ∧
      ∀ j, l.flags.getLsbD j = true ↔ ∃ k i, k < 7 ∧ i < 2 ^ (6 - k) ∧ (tree (k + 1) i).2.getLsbD j = true := by
  obtain ⟨hroot, hflags⟩ := redAll_spec op x (s.cell c).sh
  refine issuing_of_body h hi (l := wholeLanding x lat (dstReg x.r) (List.range 128)
      (fun _ => (redAll op x (s.cell c).sh).1.headD 0) (redAll op x (s.cell c).sh).2) ?_ ⟨rfl, rfl, rfl⟩
    ⟨redNode op x (s.cell c).sh, fun _ _ => rfl, fun _ _ _ _ => rfl, ?_, hflags⟩
  · rw [← wholeLanes_map, redAll]
  have hwrites := wholeLanding_writes x lat (fun _ => (redAll op x (s.cell c).sh).1.headD 0) (redAll op x (s.cell c).sh).2 (dstReg x.r)
    List.nodup_range fun i => List.mem_range.1
  simpa only [List.mem_range, hroot, List.headD_cons] using hwrites

/-- The operation of a scan (R261). -/
def scanOp (x : V64) : RedOp := if x.fn.toNat % 4 = 1 then .max else if x.fn.toNat % 4 = 2 then .min else .sum

theorem vscan_issuing : Issuing s c t x (.vscan x) 8 10 fun l => ∃ u : Nat → Nat → BitVec 32 × Flags,
    (∀ i, i < 128 → u 0 i = (redStart (scanOp x) x (s.cell c).sh i, 0)) ∧
    (∀ k i, k < 7 → i < 128 →
      u (k + 1) i = if i < 2 ^ k then ((u k i).1, 0) else laneComb x (scanOp x) (u k (i - 2 ^ k)).1 (u k i).1) ∧
    l.writes (fun r i => if r = dstReg x.r ∧ i < 128 ∧ laneActive x (s.cell c).sh i = true then
      some (if x.fn.getLsbD 2 then (if i = 0 then redIdentity (scanOp x) x.ty else (u 7 (i - 1)).1) else (u 7 i).1) else none) ∧
    ∀ j, l.flags.getLsbD j = true ↔ ∃ k i, k < 7 ∧ i < 128 ∧ (u (k + 1) i).2.getLsbD j = true := by
  refine issuing_of_body h rfl (l := activeLanding x 10 (s.cell c).sh (scanOut (scanOp x) x (s.cell c).sh)
      (scanAll (scanOp x) x (s.cell c).sh).2) ?_ (activeLanding_plain ..)
    ⟨scanLane (scanOp x) x (s.cell c).sh, fun _ _ => rfl, fun _ _ _ _ => rfl, activeLanding_writes x 10 (s.cell c).sh _ _,
      (scanAll_spec (scanOp x) x (s.cell c).sh).2⟩
  rw [← wholeLanes_active, ← scanAll_out, scanAll, scanOp]

end

end Sys2Proof.Machine
end


section
/-! Proofs about the order of R262 and the instructions that select by it: VARGMAX and VTOPK. -/
namespace Sys2Proof.Machine

/-! ### Exact values in order (R262) -/

/-- A finite value as a rational number. -/
def numVal (neg : Bool) (m : Nat) (e : Int) : ℚ := (if neg then -1 else 1) * m * 2 ^ e

/-- Two finite values brought to one exponent compare as the rational numbers they are. -/
theorem signedAt_lt_iff (x y : Bool) (m n : Nat) (e f : Int) :
    signedAt x m (e - min e f).toNat < signedAt y n (f - min e f).toNat ↔ numVal x m e < numVal y n f := by
  have hval : ∀ (neg : Bool) (m : Nat) {e lo : Int}, lo ≤ e → numVal neg m e = (signedAt neg m (e - lo).toNat : ℚ) * 2 ^ lo := by
    intro neg m e lo hle
    have hpow : (2 : ℚ) ^ e = 2 ^ (e - lo).toNat * 2 ^ lo := by
      rw [← zpow_natCast, Int.toNat_of_nonneg (by omega), ← zpow_add₀ (by norm_num), Int.sub_add_cancel]
    cases neg <;> simp [numVal, signedAt, hpow, mul_assoc]
  rw [hval x m (min_le_left e f), hval y n (min_le_right e f), mul_lt_mul_iff_left₀ (by positivity), Int.cast_lt]

/-- The place of a value in the order of R262: its class, its number, and for a zero its sign. -/
def fvKey : FV → Int ×ₗ ℚ ×ₗ Bool
  | .inf true => toLex (0, toLex (0, false))
  | .num neg m e => toLex (1, toLex (numVal neg m e, !neg))
  | .inf false => toLex (2, toLex (0, false))
  | .nan => toLex (3, toLex (0, false))

theorem numVal_zero (x : Bool) (e : Int) : numVal x 0 e = 0 := by simp [numVal]

/-- Two equal numbers of different signs are zeros. -/
theorem eq_zero_of_numVal_eq {m n : Nat} {e f : Int} (h : numVal true m e = numVal false n f) : m = 0 ∧ n = 0 := by
  have hm : (0 : ℚ) ≤ m * 2 ^ e := by positivity
  have hn : (0 : ℚ) ≤ n * 2 ^ f := by positivity
  have hsum : (m * 2 ^ e : ℚ) + n * 2 ^ f = 0 := by
    simp only [numVal, if_true, Bool.false_eq_true, if_false, one_mul, neg_mul] at h
    linarith
  obtain ⟨hm, hn⟩ := (add_eq_zero_iff_of_nonneg hm hn).1 hsum
  have hpow : ∀ k : Int, (2 : ℚ) ^ k ≠ 0 := fun k => by positivity
  simpa [hpow] using And.intro hm hn

theorem num_lt_iff (x y : Bool) (m n : Nat) (e f : Int) :
    (FV.num x m e).lt true (.num y n f) = true ↔ fvKey (.num x m e) < fvKey (.num y n f) := by
  simp only [fvKey, Prod.Lex.toLex_lt_toLex, lt_irrefl, true_and, false_or]
  by_cases hz : m = 0 ∧ n = 0
  · obtain ⟨rfl, rfl⟩ := hz
    cases x <;> cases y <;> simp [FV.lt, numVal_zero]
  · have hlt : (FV.num x m e).lt true (.num y n f) = decide (numVal x m e < numVal y n f) := by
      simp only [FV.lt, if_neg (show ¬ (decide (m = 0) && decide (n = 0)) = true by simpa using hz), ← signedAt_lt_iff]
    have hsign : numVal x m e = numVal y n f → ¬ (!x) < !y := by
      intro heq hlt
      obtain ⟨hx, hy⟩ := Bool.lt_iff.1 hlt
      obtain rfl : x = true := by simpa using hx
      obtain rfl : y = false := by simpa using hy
      exact hz (eq_zero_of_numVal_eq heq)
    rw [hlt, decide_eq_true_eq]
    exact ⟨Or.inl, fun h => h.resolve_right fun ⟨heq, hsgn⟩ => hsign heq hsgn⟩

/-- A value lies above another in the order of R262 where its place is greater. -/
theorem fv_above_iff (a b : FV) :
    (if a.isNan then !b.isNan else !b.isNan && b.lt true a) = true ↔ fvKey b < fvKey a := by
  cases a with
  | nan => cases b with
    | nan => simp [FV.isNan]
    | inf y => cases y <;> simp [FV.isNan, fvKey, Prod.Lex.toLex_lt_toLex]
    | num y n f => simp [FV.isNan, fvKey, Prod.Lex.toLex_lt_toLex]
  | inf x => cases b with
    | nan => cases x <;> simp [FV.isNan, fvKey, Prod.Lex.toLex_lt_toLex]
    | inf y => cases x <;> cases y <;> simp [FV.isNan, FV.lt, fvKey, Prod.Lex.toLex_lt_toLex]
    | num y n f => cases x <;> simp [FV.isNan, FV.lt, fvKey, Prod.Lex.toLex_lt_toLex]
  | num x m e => cases b with
    | nan => simp [FV.isNan, fvKey, Prod.Lex.toLex_lt_toLex]
    | inf y => cases y <;> simp [FV.isNan, FV.lt, fvKey, Prod.Lex.toLex_lt_toLex]
    | num y n f => exact num_lt_iff y x n m f e

/-- The place of a lane's value in the order of R262. -/
def selKey (ty : BitVec 4) (w : BitVec 32) : Int ×ₗ ℚ ×ₗ Bool :=
  if ty = 8 then fvKey (fp32.value w.toNat) else toLex (if ty = 2 then w.toInt else w.toNat, toLex (0, false))

theorem selAbove_iff (ty : BitVec 4) (a b : BitVec 32) : selAbove ty a b = true ↔ selKey ty b < selKey ty a := by
  unfold selAbove selKey
  by_cases h8 : ty = 8
  · simpa only [h8, if_true] using fv_above_iff (fp32.value a.toNat) (fp32.value b.toNat)
  · simp only [h8, if_false, Prod.Lex.toLex_lt_toLex, lt_irrefl, and_false, or_false]
    split
    · exact BitVec.slt_iff_toInt_lt
    · rw [BitVec.ult_iff_toNat_lt, Int.ofNat_lt]

/-! ### Lanes in order (R262) -/

/-- A lane comes before another: its value lies above, or no lower and its number is smaller (R262). -/
def SelBefore (ty : BitVec 4) (p q : Nat × BitVec 32) : Prop :=
  selAbove ty p.2 q.2 = true ∨ selAbove ty q.2 p.2 = false ∧ p.1 < q.1

theorem selBefore_iff (ty : BitVec 4) (p q : Nat × BitVec 32) :
    SelBefore ty p q ↔ selKey ty q.2 < selKey ty p.2 ∨ selKey ty q.2 ≤ selKey ty p.2 ∧ p.1 < q.1 := by
  rw [SelBefore, ← Bool.not_eq_true, selAbove_iff, selAbove_iff, not_lt]

section
variable {ty : BitVec 4} {p : Nat × BitVec 32}

theorem selInsert_perm : ∀ l, (selInsert ty p l).Perm (p :: l)
  | [] => .refl _
  | q :: qs => by
    rw [selInsert]
    split
    · exact .refl _
    · exact ((selInsert_perm qs).cons q).trans (.swap ..)

/-- A lane above all those of a list by number takes its place by value. -/
theorem selInsert_sorted : ∀ {l}, l.Pairwise (SelBefore ty) → (∀ q ∈ l, q.1 < p.1) → (selInsert ty p l).Pairwise (SelBefore ty)
  | [], _, _ => List.pairwise_singleton _ _
  | q :: qs, hl, hlt => by
    obtain ⟨hq, hqs⟩ := List.pairwise_cons.1 hl
    rw [selInsert]
    split
    · next h =>
      have hpq := (selAbove_iff ..).1 h
      refine List.pairwise_cons.2 ⟨List.forall_mem_cons.2 ⟨Or.inl h, fun r hr => ?_⟩, hl⟩
      have hqr : selKey ty r.2 ≤ selKey ty q.2 := ((selBefore_iff ..).1 (hq r hr)).elim le_of_lt And.left
      exact Or.inl ((selAbove_iff ..).2 (hqr.trans_lt hpq))
    · next h =>
      have hqp : SelBefore ty q p := Or.inr ⟨Bool.not_eq_true _ ▸ h, hlt q List.mem_cons_self⟩
      refine List.pairwise_cons.2 ⟨fun r hr => ?_, selInsert_sorted hqs fun r hr => hlt r (List.mem_cons_of_mem q hr)⟩
      exact (List.mem_cons.1 ((selInsert_perm qs).mem_iff.1 hr)).elim (· ▸ hqp) (hq r)

/-- Inserting lanes in ascending order of their numbers sorts them. -/
theorem foldl_selInsert : ∀ (l acc : List (Nat × BitVec 32)), acc.Pairwise (SelBefore ty) → l.Pairwise (fun p q => p.1 < q.1) →
    (∀ p ∈ acc, ∀ q ∈ l, p.1 < q.1) → (l.foldl (fun acc p => selInsert ty p acc) acc).Pairwise (SelBefore ty) ∧
      (l.foldl (fun acc p => selInsert ty p acc) acc).Perm (acc ++ l)
  | [], acc, hacc, _, _ => ⟨hacc, by simp⟩
  | p :: l, acc, hacc, hl, hlt => by
    obtain ⟨hp, hl⟩ := List.pairwise_cons.1 hl
    have hmem : ∀ q ∈ selInsert ty p acc, ∀ r ∈ l, q.1 < r.1 := fun q hq r hr =>
      (List.mem_cons.1 ((selInsert_perm acc).mem_iff.1 hq)).elim (· ▸ hp r hr) fun hq => hlt q hq r (List.mem_cons_of_mem p hr)
    obtain ⟨hsorted, hperm⟩ := foldl_selInsert l (selInsert ty p acc)
      (selInsert_sorted hacc fun q hq => hlt q hq p List.mem_cons_self) hl hmem
    exact ⟨hsorted, hperm.trans (((selInsert_perm acc).append_right l).trans List.perm_middle.symm)⟩

end

/-- The active lanes in the order of R262. -/
def selLanes (x : V64) (sh : Shared) : List Nat :=
  (selOrder x.ty (keepActive (activeLanes sh x) (srcA sh x))).map (·.1)

theorem selLanes_spec (x : V64) (sh : Shared) :
    selOrder x.ty (keepActive (activeLanes sh x) (srcA sh x)) = (selLanes x sh).map (fun i => (i, srcLane x sh i)) ∧
    (selLanes x sh).Perm (sh.active x) ∧ (selLanes x sh).Pairwise fun i j => SelBefore x.ty (i, srcLane x sh i) (j, srcLane x sh j) := by
  have hasc : ((sh.active x).map fun i => (i, srcLane x sh i)).Pairwise fun p q => p.1 < q.1 := List.pairwise_map.2 (sh.sorted_active x)
  obtain ⟨hsorted, hperm⟩ := foldl_selInsert (ty := x.ty) _ [] List.Pairwise.nil hasc (by simp)
  have hsel : selOrder x.ty (keepActive (activeLanes sh x) (srcA sh x)) =
      ((sh.active x).map fun i => (i, srcLane x sh i)).foldl (fun acc p => selInsert x.ty p acc) [] := by
    rw [srcA_eq, keepActive_eq, selOrder]
  rw [← hsel] at hsorted hperm
  have hself : selOrder x.ty (keepActive (activeLanes sh x) (srcA sh x)) = (selLanes x sh).map (fun i => (i, srcLane x sh i)) := by
    rw [selLanes, List.map_map]
    refine ((List.map_congr_left fun p hp => ?_).trans (List.map_id _)).symm
    obtain ⟨i, -, rfl⟩ := List.mem_map.1 (hperm.mem_iff.1 hp)
    rfl
  refine ⟨hself, ?_, ?_⟩
  · have hmap := hperm.map (·.1)
    simpa [selLanes, Function.comp_def] using hmap
  · rw [hself] at hsorted
    exact List.pairwise_map.1 hsorted

theorem selLanes_nodup (x : V64) (sh : Shared) : (selLanes x sh).Nodup :=
  (selLanes_spec x sh).2.1.nodup_iff.2 (sh.nodup_active x)

theorem mem_selLanes (x : V64) (sh : Shared) (i : Nat) : i ∈ selLanes x sh ↔ i < 128 ∧ laneActive x sh i = true :=
  (selLanes_spec x sh).2.1.mem_iff.trans Shared.mem_active

/-! ### VARGMAX and VTOPK (R262) -/

/-- The number of a lane, or all ones where there is none. -/
def laneNumber (o : Option Nat) : BitVec 32 := o.elim 0xFFFFFFFF (BitVec.ofNat 32)

/-- The value of a lane, or the identity of the maximum where there is none. -/
def laneValue (x : V64) (sh : Shared) (o : Option Nat) : BitVec 32 := o.elim (redIdentity .max x.ty) (srcLane x sh)

/-- The pending result of a VTOPK. -/
def topLanding (x : V64) (sh : Shared) : Landing :=
  { rem := 16, sq := x.sq == 1, lanes := (List.range (x.fn.toNat + 1)).flatMap fun i => (List.range 2).map fun j =>
      (laneKey (x.r.vd.toNat + j) i, 0xFFFFFFFF,
        if j = 0 then laneValue x sh (selLanes x sh)[i]? else laneNumber (selLanes x sh)[i]?) }

theorem topLanding_writes (x : V64) (sh : Shared) : (topLanding x sh).writes fun r i =>
    if x.fn.toNat < i then none
    else if r = x.r.vd.toNat then some (laneValue x sh (selLanes x sh)[i]?)
    else if r = x.r.vd.toNat + 1 then some (laneNumber (selLanes x sh)[i]?) else none := by
  have hlt : ∀ i ∈ List.range (x.fn.toNat + 1), i < 128 := fun i hi => by
    have := List.mem_range.1 hi
    have := x.fn.isLt
    omega
  refine Landing.writes_congr (Landing.writes_of_columns rfl List.nodup_range hlt rfl) fun r i _ => ?_
  simp only [List.mem_range]
  by_cases hi : x.fn.toNat < i
  · rw [if_neg (by omega), if_pos hi]
  · by_cases hlo : r = x.r.vd.toNat
    · simp [hlo, Nat.lt_succ_of_le (Nat.not_lt.1 hi), hi]
    · by_cases hhi : r = x.r.vd.toNat + 1
      · simp [hhi, Nat.lt_succ_of_le (Nat.not_lt.1 hi), hi]
      · rw [if_neg (by omega), if_neg hi, if_neg hlo, if_neg hhi]

section
variable {s : State} {c : Nat} {t : Team} {x : V64} (h : EngineIssues s c .vector t)
include h

theorem vargmax_issuing : Issuing s c t x (.vargmax x) 8 9 fun l => l.flags = 0 ∧ l.writes fun r i =>
    if r = dstReg x.r ∧ i < 128 then some (laneNumber (selLanes x (s.cell c).sh).head?) else none := by
  refine issuing_of_body h rfl (l := wholeLanding x 9 (dstReg x.r) (List.range 128)
    (fun _ => laneNumber (selLanes x (s.cell c).sh).head?) 0) ?_ ⟨rfl, rfl, rfl⟩ ⟨rfl, ?_⟩
  · rw [← wholeLanes_map, (selLanes_spec x (s.cell c).sh).1]
    cases selLanes x (s.cell c).sh <;> rfl
  · have hwrites := wholeLanding_writes x 9 (fun _ => laneNumber (selLanes x (s.cell c).sh).head?) 0 (dstReg x.r) List.nodup_range
      fun i => List.mem_range.1
    simpa only [List.mem_range] using hwrites

theorem vtopk_issuing : Issuing s c t x (.vtopk x) 8 16 fun l => l.flags = 0 ∧ l.writes fun r i =>
    if x.fn.toNat < i then none
    else if r = x.r.vd.toNat then some (laneValue x (s.cell c).sh (selLanes x (s.cell c).sh)[i]?)
    else if r = x.r.vd.toNat + 1 then some (laneNumber (selLanes x (s.cell c).sh)[i]?) else none := by
  refine issuing_of_body h rfl (l := topLanding x (s.cell c).sh) ?_ ⟨rfl, rfl, rfl⟩ ⟨rfl, topLanding_writes x _⟩
  rw [(selLanes_spec x (s.cell c).sh).1]
  refine congrArg (fun ls => addLanding { rem := 16, sq := x.sq == 1, lanes := ls }) (List.flatMap_congr fun i _ => ?_)
  simp only [List.getElem?_map]
  cases (selLanes x (s.cell c).sh)[i]? <;> rfl

end

end Sys2Proof.Machine
end


section
/-! Proofs about permutations, masks and block quantisation of the vector stream (R263 to R266), and the statement about the
instructions that work across lanes. -/
namespace Sys2Proof.Machine

section
variable {s : State} {c : Nat} {t : Team} {x : V64}

/-- The instruction gives each active lane of its destination a value, without flags. -/
def GivesLanes (s : State) (c : Nat) (t : Team) (x : V64) (i : Instr) (lat : Nat) (g : Nat → BitVec 32) : Prop :=
  Issuing s c t x i 8 lat fun l => l.flags = 0 ∧ l.writes fun r i =>
    if r = dstReg x.r ∧ i < 128 ∧ laneActive x (s.cell c).sh i = true then some (g i) else none

/-- The instruction gives each active bit of its mask a value. -/
def GivesBits (s : State) (c : Nat) (t : Team) (x : V64) (i : Instr) (f : Nat → Bool) : Prop :=
  Issuing s c t x i 8 2 fun l => l.flags = 0 ∧ l.writesMask (x.r.vd.toNat % 16) (laneActive x (s.cell c).sh) f

variable (h : EngineIssues s c .vector t)
include h

/-! ### Permutations (R263) -/

theorem vperm_gives : GivesLanes s c t x (.vperm x) 3 fun i =>
    srcLane x (s.cell c).sh (((s.cell c).sh.laneAt x.r.vs2.toNat i).toNat % 128) := by
  refine issuing_active h rfl ?_
  rw [Shared.lanesOf_eq, List.map_map]
  exact List.map_congr_left fun i _ => getD_srcA _ x (Nat.mod_lt _ (by decide))

theorem vshuf_gives : GivesLanes s c t x (.vshuf x) 3 fun i =>
    let k := (s.cell c).sh.laneAt x.vs3.toNat i
    if k.getLsbD 7 then (s.cell c).sh.laneAt x.r.vs2.toNat (k.toNat % 128) else srcLane x (s.cell c).sh (k.toNat % 128) := by
  refine issuing_active h rfl ?_
  rw [Shared.lanesOf_eq _ x.vs3.toNat, List.map_map]
  refine List.map_congr_left fun i _ => ?_
  have hlt : ∀ k : BitVec 32, k.toNat % 128 < 128 := fun k => Nat.mod_lt _ (by decide)
  simp only [Function.comp_apply]
  split
  · exact Shared.getD_lanesOf _ _ (hlt _)
  · exact getD_srcA _ x (hlt _)

theorem vbcast_gives : GivesLanes s c t x (.vbcast x) 3 fun _ =>
    srcLane x (s.cell c).sh (((s.cell c).sh.laneAt x.r.vs2.toNat 0).toNat % 128) := by
  refine issuing_active h rfl ?_
  rw [← getD_srcA _ x (Nat.mod_lt _ (by decide)), Shared.lanesOf_eq]
  rfl

theorem viota_gives : GivesLanes s c t x (.viota x) 1 fun i => BitVec.ofNat 32 i := issuing_active h rfl rfl

/-! ### Masks (R264) -/

/-- An instruction that combines two source masks, the second inverted under .n. -/
theorem twoMasks_gives {i : Instr} {f : Bool × Bool → Bool} (hi : exec i s = vecOp 8 (do
      let (act, ps) ← maskSources x
      maskResult x 2 act (ps.map f)) s) : GivesBits s c t x i fun i => f ((s.cell c).sh.maskAt (x.r.vs1.toNat % 16) i,
        (s.cell c).sh.maskAt (x.r.vs2.toNat % 16) i ^^ x.fn.getLsbD 0) := by
  have hi : exec i s = vecOp 8 (do
      let sh ← shared
      maskResult x 2 (activeLanes sh x) (((sh.maskOf (x.r.vs1.toNat % 16)).zip
        ((sh.maskOf (x.r.vs2.toNat % 16)).map fun v => if x.fn.getLsbD 0 then !v else v)).map f)) s :=
    hi.trans (by simp only [maskSources, bind_assoc, pure_bind])
  refine issuing_mask h hi ?_
  rw [Shared.maskOf_eq, Shared.maskOf_eq, List.map_map, List.zip_map', List.map_map]
  refine List.map_congr_left fun i _ => ?_
  cases x.fn.getLsbD 0 <;> simp

theorem vmnot_gives : GivesBits s c t x (.vmnot x) fun i => !(s.cell c).sh.maskAt (x.r.vs1.toNat % 16) i :=
  issuing_mask h rfl (List.map_map ..)

theorem vmpop_gives : GivesLanes s c t x (.vmpop x) 2 fun _ =>
    BitVec.ofNat 32 ((List.range 128).filter ((s.cell c).sh.maskAt (x.r.vs1.toNat % 16))).length := by
  refine issuing_active h rfl ?_
  rw [Shared.maskOf_eq, List.filter_map, List.length_map]
  rfl

end

/-! ### Block quantisation (R265, R266) -/

theorem qntTry_length (ty : BitVec 4) (xs : List FV) (n : Nat) : (qntTry ty xs n).1.length = xs.length := List.length_map ..

/-- A block has a code for each of its values. -/
theorem qntBlock_length (ty : BitVec 4) (xs : List FV) : (qntBlock ty xs).2.1.length = xs.length := by
  unfold qntBlock
  extract_lets bad mx nanCode c cands best
  split_ifs
  · exact List.length_map ..
  · exact List.length_map ..
  · have hbest : ∀ y ∈ best, y.2.1.length = xs.length := by
      refine List.foldlRecOn (motive := fun b : Option (Nat × List Nat × Int × Bool) => ∀ y ∈ b, y.2.1.length = xs.length) _ _
        (fun y hy => absurd hy (by simp)) fun b hb n _ y hy => ?_
      have htry : ∀ y ∈ some (n, qntTry ty xs n), y.2.1.length = xs.length := by simp [qntTry_length]
      dsimp only at hy
      split at hy
      · exact htry y hy
      · split_ifs at hy
        · exact htry y hy
        · exact hb y hy
    clear_value best
    cases best with
    | none => exact List.length_map ..
    | some y => exact hbest y rfl

/-- Two blocks of 64 side by side, with their places. -/
theorem zipIdx_blocks_map {β : Type} (F : Nat → Nat → β) {cs : Nat → List Nat} (hlen : ∀ k, (cs k).length = 64) :
    (cs 0 ++ cs 1).zipIdx.map (fun p => F p.1 p.2) = (List.range 128).map fun i => F ((cs (i / 64)).getD (i % 64) 0) i := by
  have hvals : cs 0 ++ cs 1 = (List.range 128).map fun i => (cs (i / 64)).getD (i % 64) 0 := by
    refine List.ext_getElem (by simp [hlen]) fun i hi _ => ?_
    have hlt : i % 64 < (cs (i / 64)).length := (hlen _).symm ▸ Nat.mod_lt i (by decide)
    rw [List.length_append, hlen, hlen] at hi
    rw [List.getElem_map, List.getElem_range, List.getD_eq_getElem _ _ hlt, List.getElem_append]
    split
    · next h =>
      rw [hlen] at h
      simp only [Nat.div_eq_of_lt h, Nat.mod_eq_of_lt h]
    · next h =>
      rw [hlen] at h
      simp only [hlen, show i / 64 = 1 by omega, show i % 64 = i - 64 by omega]
  rw [hvals, zipIdx_map_range, List.map_map]
  rfl

section
variable (x : V64) (sh : Shared)

/-- The values of block `k` of 64 lanes. -/
def blockVals (k : Nat) : List FV := (List.range 64).map fun i => fp32.value (srcLane x sh (64 * k + i)).toNat

theorem blockVals_length (k : Nat) : (blockVals x sh k).length = 64 := by simp [blockVals]

theorem map_value_srcA : (srcA sh x).map (fun w => fp32.value w.toNat) = blockVals x sh 0 ++ blockVals x sh 1 := by
  rw [srcA_eq, show 128 = 64 + 64 from rfl, List.range_add]
  simp [blockVals, Function.comp_def]

/-- What VQNT makes of block `k` of 64 lanes (R265). -/
def laneBlock (k : Nat) : Nat × List Nat × Flags := qntBlock x.ty (blockVals x sh k)

theorem laneBlock_length (k : Nat) : (laneBlock x sh k).2.1.length = 64 := (qntBlock_length ..).trans (blockVals_length x sh k)

/-- The pending result of a VQNT. -/
def qntLanding : Landing := rowPairLanding x 12 x.r.vd.toNat (List.range 128)
  (fun i => BitVec.ofNat 32 ((laneBlock x sh (i / 64)).2.1.getD (i % 64) 0))
  (fun i => if i < 2 then BitVec.ofNat 32 (laneBlock x sh i).1 else 0) ((laneBlock x sh 0).2.2 ||| (laneBlock x sh 1).2.2)

theorem qntLanding_writes : (qntLanding x sh).writes fun r i => if 128 ≤ i then none
    else if r = x.r.vd.toNat then some (BitVec.ofNat 32 ((laneBlock x sh (i / 64)).2.1.getD (i % 64) 0))
    else if r = x.r.vd.toNat + 1 then some (if i < 2 then BitVec.ofNat 32 (laneBlock x sh i).1 else 0) else none := by
  refine Landing.writes_congr (rowPairLanding_writes x 12 _ _ x.r.vd.toNat _ List.nodup_range fun i => List.mem_range.1) fun r i hi => ?_
  rw [if_pos (List.mem_range.2 hi), if_neg (Nat.not_le.2 hi)]

end

section
variable {s : State} {c : Nat} {t : Team} {x : V64} (h : EngineIssues s c .vector t)
include h

theorem vqnt_issuing : Issuing s c t x (.vqnt x) 8 12 fun l =>
    l.flags = (laneBlock x (s.cell c).sh 0).2.2 ||| (laneBlock x (s.cell c).sh 1).2.2 ∧ l.writes fun r i => if 128 ≤ i then none
      else if r = x.r.vd.toNat then some (BitVec.ofNat 32 ((laneBlock x (s.cell c).sh (i / 64)).2.1.getD (i % 64) 0))
      else if r = x.r.vd.toNat + 1 then some (if i < 2 then BitVec.ofNat 32 (laneBlock x (s.cell c).sh i).1 else 0) else none := by
  refine issuing_of_body h rfl (l := qntLanding x (s.cell c).sh) ?_ ⟨rfl, rfl, rfl⟩ ⟨rfl, qntLanding_writes x _⟩
  have hcodes := zipIdx_blocks_map (fun q i => (laneKey x.r.vd.toNat i, (0xFFFFFFFF : BitVec 32), BitVec.ofNat 32 q))
    (laneBlock_length x (s.cell c).sh)
  simp only [map_value_srcA, List.take_left' (blockVals_length x (s.cell c).sh 0), List.drop_left' (blockVals_length x (s.cell c).sh 0)]
  refine congrArg (fun ls => addLanding { rem := 12, sq := x.sq == 1, lanes := ls, flags := _ }) (congrArg₂ _ hcodes ?_)
  refine List.map_congr_left fun i _ => ?_
  match i with
  | 0 => rfl
  | 1 => rfl
  | i + 2 => simp

theorem vdqnt_gives : GivesLanes s c t x (.vdqnt x) 3 fun i => BitVec.ofNat 32 (fp32.deliver .rne
    (mulExact (tyFV x.ty ((srcLane x (s.cell c).sh i).toNat % 256))
      (e4m3.value (((s.cell c).sh.laneAt x.r.vs2.toNat (i / 64)).toNat % 256)))).1 := by
  refine issuing_active h rfl ?_
  rw [srcA_eq, zipIdx_map_range, List.map_map]
  refine List.map_congr_left fun i hi => ?_
  have hlt : i / 64 < 128 := (Nat.div_le_self ..).trans_lt (List.mem_range.1 hi)
  simp only [Function.comp_apply, Shared.getD_lanesOf _ _ hlt]
  rfl

end

/-- Settles O31: each instruction adds one result. The tree of a reduction and the steps of a scan are the functions they compute, and
the lanes that insertion sorts are the active ones in an order that the places of their values make total. -/
theorem vectorAcrossLanes : Obligations.VectorAcrossLanes := by
  refine ⟨fun s c t x h => ?_, fun s c t x h => ?_⟩
  · intro sh act a d issue one comb start
    refine ⟨fun p hp => ?_, vscan_issuing h, ?_⟩
    · have hop : exec (p.1 x) s = vReduce p.2.1 p.2.2 x s := by
        fin_cases hp <;> rfl
      exact vReduce_issuing h hop
    · intro before
      obtain ⟨-, -, hsorted⟩ := selLanes_spec x sh
      obtain ⟨l, hexec, hplain, hflags, hwrites⟩ := vargmax_issuing h
      obtain ⟨l', hexec', hplain', hflags', hwrites'⟩ := vtopk_issuing h
      refine ⟨selLanes x sh, selLanes_nodup x sh, mem_selLanes x sh, hsorted, ⟨l, hexec, hplain, hflags, ?_⟩,
        l', hexec', hplain', hflags', ?_⟩
      · refine Landing.writes_congr hwrites fun r i _ => ?_
        cases (selLanes x sh).head? <;> rfl
      · refine Landing.writes_congr hwrites' fun r i _ => ?_
        cases (selLanes x sh)[i]? <;> rfl
  · exact ⟨vperm_gives h, vshuf_gives h, vbcast_gives h, viota_gives h, twoMasks_gives h (f := fun p => p.1 && p.2) rfl,
      twoMasks_gives h (f := fun p => p.1 || p.2) rfl, vmnot_gives h, vmpop_gives h, vqnt_issuing h, vdqnt_gives h⟩

end Sys2Proof.Machine
end


section
/-! Proofs about the other matrix instructions: tile slots and banks (R282, R290 to R293, R299), MCVT (R78, R294) and MSCAT (R295 to
R297). -/
namespace Sys2Proof.Machine

/-! ### What moving past a matrix instruction leaves -/

section
variable (t : Team) (len : Nat)

/-- Moving past its instruction changes of the matrix stream's team the engines and the nest slots alone. -/
theorem Team.past_matrix_eq : t.past .matrix len =
    { t with vec := (t.past .matrix len).vec, mat := (t.past .matrix len).mat, cpy := (t.past .matrix len).cpy,
             nt0 := (t.past .matrix len).nt0, nt1 := (t.past .matrix len).nt1 } := Team.past_engine_eq t .matrix len

@[simp] theorem Team.valloc_past_matrix : (t.past .matrix len).valloc = t.valloc := by rw [Team.past_matrix_eq]
@[simp] theorem Team.asid_past_matrix : (t.past .matrix len).asid = t.asid := by rw [Team.past_matrix_eq]
@[simp] theorem Team.epilogue_past_matrix : (t.past .matrix len).epilogue = t.epilogue := by rw [Team.past_matrix_eq]
@[simp] theorem Team.vflags_past_matrix : (t.past .matrix len).vflags = t.vflags := by rw [Team.past_matrix_eq]
@[simp] theorem Team.vault_past_matrix : (t.past .matrix len).vault = t.vault := by rw [Team.past_matrix_eq]

@[simp] theorem Team.sreg_past_matrix (r : Nat) : (t.past .matrix len).sreg r = t.sreg r := by
  rw [Team.past_matrix_eq]
  rfl

theorem State.whoIs_past_matrix (s : State) (c : Nat) : s.whoIs c (t.past .matrix len) .matrix = s.whoIs c t .matrix := by
  rw [Team.past_matrix_eq]
  rfl

end

/-! ### Tile slots -/

section
variable (t : Team)

@[simp] theorem Team.tile_setFull (n : Nat) (b : Bool) (k : Nat) :
    (t.setFull n b).tile k = if k = n then { t.tile n with full := b } else t.tile k := Sparse.get_set ..

/-- The slots of a list set EMPTY (R282). -/
def Team.freed (t : Team) (ns : List Nat) : Team := ns.foldl (fun t n => t.setFull n false) t

theorem Team.freed_eq (ns : List Nat) : t.freed ns = { t with tiles := (t.freed ns).tiles } :=
  List.foldlRecOn (motive := fun u : Team => u = { t with tiles := u.tiles }) ns _ rfl fun u hu n _ => by
    rw [hu]
    rfl

theorem Team.tile_freed (k : Nat) : ∀ (ns : List Nat) (t : Team),
    (t.freed ns).tile k = if k ∈ ns then { t.tile k with full := false } else t.tile k
  | [], _ => rfl
  | n :: ns, t => by
    have ih := Team.tile_freed k ns (t.setFull n false)
    rw [Team.freed, List.foldl_cons, ← Team.freed, ih, Team.tile_setFull]
    by_cases hk : k = n <;> by_cases hns : k ∈ ns <;> simp [hk, hns]

end

/-! ### Banks -/

/-- The bank is the matrix engine's, and no product into it is still to land (R282, R284). -/
abbrev Shared.idle (sh : Shared) (bank : Bool) : Prop := sh.full bank = false ∧ ∀ p ∈ sh.array, p.bank ≠ bank

/-- Every entry of a bank is zero, and its DIRTY bit is clear (R293). -/
def Shared.cleared (sh : Shared) (bank : Bool) : Shared :=
  ({ sh with acc := sh.acc.filter fun p => p.1 / 16384 != bank.toNat }).setDirty bank false

theorem Shared.cleared_eq (sh : Shared) (bank : Bool) :
    sh.cleared bank = { sh.setDirty bank false with acc := (sh.cleared bank).acc } := by
  cases bank <;> rfl

theorem accKey_div (k : Bool) {row col : Nat} (hrow : row < 128) (hcol : col < 128) : accKey k row col / 16384 = k.toNat := by
  unfold accKey
  omega

theorem Shared.accOf_cleared (sh : Shared) (bank k : Bool) {row col : Nat} (hrow : row < 128) (hcol : col < 128) :
    (sh.cleared bank).accOf k row col = if k = bank then {} else sh.accOf k row col := by
  have hget : (sh.cleared bank).accOf k row col =
      if accKey k row col / 16384 != bank.toNat then sh.accOf k row col else {} := by
    have h := Sparse.get_filter_keys {} (fun j => j / 16384 != bank.toNat) (accKey k row col) sh.acc
    cases bank <;> exact h
  rw [hget, accKey_div k hrow hcol]
  cases k <;> cases bank <;> rfl

/-! ### Waits and checks of the matrix stream -/

theorem run_slotValid (d : Tile) (s : State) : (slotValid d).run s =
    if d.valid = true ∧ d.base.toNat % 64 = 0 ∧ d.pitch.toNat % 64 = 0 then .ok () s else .error (.trap .tileInvalid {}) s := by
  simp [slotValid, run_need, and_assoc]

section
variable {s : State} {c : Nat} {st : Stream} (hc : s.cur = .stream c st) (t : Team)
include hc

theorem runw_bytesInside (off : Int) (n : Nat) : (bytesInside off n).run (s.withTeam c t) =
    if 0 ≤ off ∧ off + n ≤ (t.valloc * 65536 : Nat) then .ok () (s.withTeam c t)
    else .error (.trap .vaultBound { addr := offsetOf off }) (s.withTeam c t) := by
  simp [bytesInside, runw_team hc, run_need]

theorem runw_vaultLoad {off n : Nat} {bs : List Byte} (h : t.vaultRd off n = some bs) :
    (vaultLoad off n).run (s.withTeam c t) = .ok bs (s.withTeam c t) := by
  simp only [vaultLoad, EStateM.run_bind, runw_team hc, h, run_pure]

theorem runw_vaultStore (off : Nat) (bs : List Byte) :
    (vaultStore off bs).run (s.withTeam c t) = .ok () (s.withTeam c (t.vaultWr off bs)) := runw_modTeam hc t _

theorem runw_waitProducts (bank : Bool) : (waitProducts bank).run (s.withTeam c t) =
    if ∀ p ∈ (s.cell c).sh.array, p.bank ≠ bank then .ok () (s.withTeam c t) else .error (.wait none) (s.withTeam c t) := by
  simp [waitProducts, runw_shared hc, run_waitFor]

theorem runw_waitEmpty (n : Nat) : (waitSlot n false).run (s.withTeam c t) =
    if (t.tile n).full = false then .ok () (s.withTeam c t) else .error (.wait none) (s.withTeam c t) := by
  simp [waitSlot, runw_team hc, run_waitFor]

end

section
variable {s : State} {c : Nat} (hc : s.cur = .stream c .matrix) (t : Team) {α : Type} (f : M α) {bank : Bool}
include hc

theorem runw_idle (h : (s.cell c).sh.idle bank) :
    (do waitBank bank; waitProducts bank; f : M α).run (s.withTeam c t) = f.run (s.withTeam c t) := by
  obtain ⟨hempty, hland⟩ := h
  simp only [EStateM.run_bind, runw_waitBank hc, runw_waitProducts hc, if_pos hempty, if_pos hland]

theorem runw_busy (h : ¬ (s.cell c).sh.idle bank) :
    (do waitBank bank; waitProducts bank; f : M α).run (s.withTeam c t) = .error (.wait none) (s.withTeam c t) := by
  by_cases hempty : (s.cell c).sh.full bank = false
  · have hland : ¬ ∀ p ∈ (s.cell c).sh.array, p.bank ≠ bank := fun hland => h ⟨hempty, hland⟩
    simp only [EStateM.run_bind, runw_waitBank hc, runw_waitProducts hc, if_pos hempty, if_neg hland]
  · simp only [EStateM.run_bind, runw_waitBank hc, if_neg hempty]

end

/-! ### MPREC and MSCALE (R290, R291) -/

section
variable {s : State} {c : Nat} {t : Team} (h : EngineIssues s c .matrix t)
include h

/-- A matrix instruction that changes its team alone. -/
theorem matOp_modTeam (len : Nat) (f : Team → Team) :
    matOp len (modTeam f) s = .next ((s.withTeam c (f (t.past .matrix len))).cycled .matrix c t) :=
  engineOp_ok h (runw_modTeam h.1.1 _ f)

theorem execMprec_sets (y : M96) : execMprec y s = .next ((s.withTeam c ((t.past .matrix 12).setTile y.x.tc.toNat
    { t.tile y.x.tc.toNat with prec := y.lit })).cycled .matrix c t) := by
  rw [← Team.tile_past t .matrix 12]
  exact matOp_modTeam h 12 _

theorem execMscale_sets (x : M64) : execMscale x s = .next ((s.withTeam c ((t.past .matrix 8).setTile x.tc.toNat
    { t.tile x.tc.toNat with tscale := (t.sreg x.sreg.toNat).extractLsb' 0 32 })).cycled .matrix c t) := by
  rw [← Team.tile_past t .matrix 8, ← Team.sreg_past_matrix t 8]
  exact matOp_modTeam h 8 _

end

/-! ### Runs of bytes of one length -/

section
variable {α β : Type} {f : α → List β} {n : Nat} (hf : ∀ a, (f a).length = n)
include hf

theorem length_flatMap_of_length (l : List α) : (l.flatMap f).length = n * l.length := by
  simp [List.length_flatMap, hf, Nat.mul_comm]

/-- Element `i` of a list lies `n * i` places on. -/
theorem take_drop_flatMap : ∀ {l : List α} {i : Nat} (hi : i < l.length), ((l.flatMap f).drop (n * i)).take n = f l[i]
  | a :: l, 0, _ => by simp [List.take_left' (hf a)]
  | a :: l, i + 1, hi => by
    have ih := take_drop_flatMap (l := l) (i := i) (by simpa using hi)
    have hdrop : n * (i + 1) = (f a).length + n * i := by rw [hf]; ring
    rw [List.flatMap_cons, hdrop, List.drop_length_add_append, ih, List.getElem_cons_succ]

end

/-- What a memory holds at the place of one element, once the bytes of all have been written. -/
theorem Memory.rdBytes_of_flatMap {α : Type} {g : α → List Byte} {n : Nat} (hg : ∀ a, (g a).length = n) {m : Memory} {l : List α}
    {a i : Nat} (hm : m.rdBytes a (n * l.length) = l.flatMap g) (hi : i < l.length) : m.rdBytes (a + n * i) n = g l[i] := by
  have hin : n * i + n ≤ n * l.length := Nat.mul_le_mul_left n hi
  rw [← m.take_drop_rdBytes hin, hm, take_drop_flatMap hg hi]

@[simp] theorem length_wordsBytes (ws : List Word) : (wordsBytes ws).length = 8 * ws.length :=
  length_flatMap_of_length (f := fun w : Word => leBytes 8 w.toNat) (fun w => length_leBytes 8 w.toNat) ws

/-! ### MOWN (R292) -/

/-- The entry of a row that no task owns in an epilogue. -/
def ownerWord (asid : Nat) : Word := wd (at_ 1 63 + at_ (asid % 1024) 32 + 0xFFFFFFFF)

theorem toNat_ownerWord (asid : Nat) : (ownerWord asid).toNat = 2 ^ 63 + asid % 1024 * 2 ^ 32 + 0xFFFFFFFF := by
  simp only [ownerWord, wd, at_, BitVec.toNat_ofNat, Nat.shiftLeft_eq]
  omega

@[simp] theorem State.length_ownerEntries (s : State) (c : Nat) (t : Team) : (s.ownerEntries c t).length = 128 := by
  unfold State.ownerEntries
  split
  · simp
  · exact List.length_replicate

theorem State.ownerEntries_of_none (s : State) (c : Nat) {t : Team} (he : t.epilogue = none) :
    s.ownerEntries c t = List.replicate 128 (ownerWord t.asid) := by
  simp [State.ownerEntries, he, ownerWord]

/-- The checks of MOWN's slot hold (R281). -/
abbrev Team.ownable (t : Team) (d : Tile) : Prop :=
  d.valid = true ∧ d.base.toNat % 64 = 0 ∧ d.pitch.toNat % 64 = 0 ∧ d.base.toNat + 1024 ≤ t.valloc * 65536

/-- The team with owner entries in the rows of a slot and the slot FULL. -/
def Team.owned (t : Team) (n : Nat) (ws : List Word) : Team := (t.vaultWr (t.tile n).base.toNat (wordsBytes ws)).setFull n true

theorem Team.vault_owned (t : Team) (n : Nat) (ws : List Word) :
    (t.owned n ws).vault = t.vault.wrBytes (t.tile n).base.toNat (wordsBytes ws) := rfl

theorem Team.owned_eq (t : Team) (n : Nat) (ws : List Word) : t.owned n ws =
    { t with vault := (t.owned n ws).vault, vpoison := (t.owned n ws).vpoison, tiles := (t.owned n ws).tiles } := rfl

theorem Team.tile_owned (t : Team) (n : Nat) (ws : List Word) (k : Nat) :
    (t.owned n ws).tile k = if k = n then { t.tile n with full := true } else t.tile k := Team.tile_setFull ..

/-- The words of the entries, read back. -/
theorem Team.leNat_owned (t : Team) (n : Nat) (ws : List Word) {r : Nat} (hr : r < ws.length) :
    leNat ((t.owned n ws).vault.rdBytes ((t.tile n).base.toNat + 8 * r) 8) = ws[r].toNat := by
  have hall := Memory.rdBytes_wrBytes (wordsBytes ws) t.vault (t.tile n).base.toNat
  rw [length_wordsBytes] at hall
  have hlen : ∀ w : Word, (leBytes 8 w.toNat).length = 8 := fun w => length_leBytes 8 w.toNat
  rw [Team.vault_owned, Memory.rdBytes_of_flatMap hlen hall hr, leNat_leBytes]
  exact Nat.mod_eq_of_lt ws[r].isLt

section
variable {s : State} {c : Nat} {t : Team} {x : M64}

theorem runw_mownChecks (hc : s.cur = .stream c .matrix) (hok : t.ownable (t.tile x.tc.toNat)) :
    (mownChecks x).run (s.withTeam c t) = .ok () (s.withTeam c t) := by
  obtain ⟨hvalid, hbase, hpitch, hfit⟩ := hok
  have hslot := And.intro hvalid (And.intro hbase hpitch)
  have hin : (0 : Int) ≤ ((t.tile x.tc.toNat).base.toNat : Int) ∧
      ((t.tile x.tc.toNat).base.toNat : Int) + (1024 : Nat) ≤ (t.valloc * 65536 : Nat) := by omega
  simp only [mownChecks, EStateM.run_bind, runw_team hc, run_slotValid, if_pos hslot, runw_bytesInside hc, if_pos hin]

variable (h : EngineIssues s c .matrix t)
include h

/-- A slot that is not valid fails the first check. -/
theorem execMown_invalid (hvalid : (t.tile x.tc.toNat).valid = false) :
    execMown x s = .next (s.trapAt c .matrix t .tileInvalid {}) := by
  refine engineOp_trapAt_still h (run_bind_error ?_)
  simp only [mownChecks, EStateM.run_bind, runw_team h.1.1, run_slotValid, Team.tile_past, hvalid, Bool.false_eq_true, false_and,
    if_false]

theorem runw_mownChecks_past (hok : t.ownable (t.tile x.tc.toNat)) :
    (mownChecks x).run (s.withTeam c (t.past .matrix 8)) = .ok () (s.withTeam c (t.past .matrix 8)) :=
  runw_mownChecks h.1.1 (by rwa [Team.ownable, Team.valloc_past_matrix, Team.tile_past])

theorem execMown_waits (hok : t.ownable (t.tile x.tc.toNat)) (hfull : (t.tile x.tc.toNat).full = true) :
    execMown x s = .next (s.withTeam c t) := by
  refine engineOp_wait h ((run_bind_ok (runw_mownChecks_past h hok)).trans (run_bind_error ?_))
  rw [runw_waitEmpty h.1.1, Team.tile_past, hfull]
  rfl

/-- MOWN of an empty slot. -/
theorem execMown_owns (hok : t.ownable (t.tile x.tc.toNat)) (hempty : (t.tile x.tc.toNat).full = false) :
    execMown x s = .next ((s.withTeam c ((t.past .matrix 8).owned x.tc.toNat
      ((s.withTeam c (t.past .matrix 8)).ownerEntries c (t.past .matrix 8)))).cycled .matrix c t) := by
  have hwait := runw_waitEmpty h.1.1 (t.past .matrix 8) x.tc.toNat
  rw [Team.tile_past, if_pos hempty] at hwait
  refine engineOp_ok h ((run_bind_ok (runw_mownChecks_past h hok)).trans ((run_bind_ok hwait).trans ?_))
  simp only [EStateM.run_bind, runw_team h.1.1, runw_theCell h.1.1, run_get, runw_vaultStore h.1.1, runw_modTeam h.1.1]
  rfl

end

/-! ### MCLR (R293) -/

section
variable {s : State} {c : Nat} {t : Team} {x : M64} (h : EngineIssues s c .matrix t)
include h

theorem execMclr_waits (hbusy : ¬ (s.cell c).sh.idle (x.ab == 1)) : execMclr x s = .next (s.withTeam c t) :=
  engineOp_wait h (runw_busy h.1.1 _ _ hbusy)

theorem execMclr_clears (hidle : (s.cell c).sh.idle (x.ab == 1)) : execMclr x s =
    .next (((s.withTeam c (t.past .matrix 8)).withShared c ((s.cell c).sh.cleared (x.ab == 1))).cycled .matrix c t) :=
  engineOp_ok h ((runw_idle h.1.1 _ _ hidle).trans (runw_modShared h.1.1 _ _))

end

/-! ### MFREE (R282, R299) -/

/-- The slots that MFREE names. -/
def freeNames (x : M64) : List Nat := (if x.sub.getLsbD 1 then [x.ta.toNat] else []) ++ (if x.sub.getLsbD 2 then [x.tb.toNat] else [])

/-- No queued product reads a slot that MFREE names, and the bank that it hands over is idle. -/
abbrev Shared.freeable (sh : Shared) (x : M64) : Prop :=
  (∀ k ∈ freeNames x, ∀ p ∈ sh.array, p.reads k = false) ∧ (x.sub.getLsbD 0 = true → sh.idle (x.ab == 1))

/-- The wait for the slots. -/
theorem run_waitUnread (sh : Shared) (x : M64) (s : State) :
    (waitFor (!(freeNames x).any fun n => sh.array.any fun p => p.reads n)).run s =
      if ∀ k ∈ freeNames x, ∀ p ∈ sh.array, p.reads k = false then .ok () s else .error (.wait none) s := by
  rw [run_waitFor]
  congr 1
  simp

/-- MFREE by its parts: the slots, and the bank where it names one. -/
theorem execMfree_eq (x : M64) (s : State) : execMfree x s = matOp 8 (do
    let sh <- shared
    waitFor (!(freeNames x).any fun n => sh.array.any fun p => p.reads n)
    if x.sub.getLsbD 0 then do
      waitBank (x.ab == 1)
      waitProducts (x.ab == 1)
      modTeam fun t => t.freed (freeNames x)
      modShared fun sh => sh.setFull (x.ab == 1) true
    else do
      modTeam fun t => t.freed (freeNames x)
      pure ()) s := by
  unfold execMfree
  cases x.sub.getLsbD 0 <;> rfl

section
variable {s : State} {c : Nat} {t : Team} {x : M64} (h : EngineIssues s c .matrix t)
include h

theorem execMfree_waits (hnot : ¬ (s.cell c).sh.freeable x) : execMfree x s = .next (s.withTeam c t) := by
  rw [execMfree_eq]
  refine engineOp_wait h ((run_bind_ok (runw_shared h.1.1 _)).trans ?_)
  by_cases hread : ∀ k ∈ freeNames x, ∀ p ∈ (s.cell c).sh.array, p.reads k = false
  · have hbusy : ¬ (x.sub.getLsbD 0 = true → (s.cell c).sh.idle (x.ab == 1)) := fun hb => hnot ⟨hread, hb⟩
    obtain ⟨hbit, hbusy⟩ := Classical.not_imp.1 hbusy
    refine (run_bind_ok ((run_waitUnread _ x _).trans (if_pos hread))).trans ?_
    rw [if_pos hbit]
    exact runw_busy h.1.1 _ _ hbusy
  · exact run_bind_error ((run_waitUnread _ x _).trans (if_neg hread))

theorem execMfree_frees (hfree : (s.cell c).sh.freeable x) : execMfree x s =
    .next (((s.withTeam c ((t.past .matrix 8).freed (freeNames x))).withShared c
      (if x.sub.getLsbD 0 then (s.cell c).sh.setFull (x.ab == 1) true else (s.cell c).sh)).cycled .matrix c t) := by
  obtain ⟨hread, hbank⟩ := hfree
  rw [execMfree_eq]
  refine engineOp_ok h ((run_bind_ok (runw_shared h.1.1 _)).trans
    ((run_bind_ok ((run_waitUnread _ x _).trans (if_pos hread))).trans ?_))
  by_cases hbit : x.sub.getLsbD 0 = true
  · rw [if_pos hbit, if_pos hbit]
    exact (runw_idle h.1.1 _ _ (hbank hbit)).trans ((run_bind_ok (runw_modTeam h.1.1 _ _)).trans (runw_modShared h.1.1 _ _))
  · rw [if_neg hbit, if_neg hbit, State.withShared_self]
    exact run_bind_ok (runw_modTeam h.1.1 _ _)

end

end Sys2Proof.Machine
end

section
/-! Proofs about the rows of a bank that leave it: MCVT (R78, R294) and MSCAT outside a pass cell (R295 to R298); and the statement
about all matrix instructions but the products. -/
namespace Sys2Proof.Machine

/-! ### Converted rows (R294) -/

section
variable (sh : Shared) (bank : Bool) (m n : Nat) (half : Bool) (r : Nat)

/-- Bytes of a converted entry. -/
def convSize : Nat := if half then 2 else 4

/-- Entry `k` of a converted row: its value and its flags. -/
def convEntry (k : Nat) : Nat × Flags :=
  let v := (sh.accOf bank (physRow m r k) (k % 128)).toFp32 (sh.tensorA bank) (sh.tensorB bank)
  if half then ((bf16.convert .rne false (fp32.value v.1.toNat)).1, v.2 ||| (bf16.convert .rne false (fp32.value v.1.toNat)).2)
  else (v.1.toNat, v.2)

/-- Bytes and flags gathered side by side. -/
theorem foldl_bytes_flags (g : Nat → List Byte) (f : Nat → Flags) : ∀ (ks : List Nat) (a : List Byte × Flags),
    ks.foldl (fun a k => (a.1 ++ g k, a.2 ||| f k)) a = (a.1 ++ ks.flatMap g, ks.foldl (fun b k => b ||| f k) a.2)
  | [], a => by simp
  | k :: ks, a => by simp [foldl_bytes_flags g f ks]

/-- A row's bytes are those of its entries one after the other, and its flags those of all of them. -/
theorem convRow_eq : convRow sh bank m n r half =
    ((List.range n).flatMap fun k => leBytes (convSize half) (convEntry sh bank m half r k).1,
     (List.range n).foldl (fun f k => f ||| (convEntry sh bank m half r k).2) 0) := by
  have h := foldl_bytes_flags (fun k => leBytes (convSize half) (convEntry sh bank m half r k).1)
    (fun k => (convEntry sh bank m half r k).2) (List.range n) ([], 0)
  rw [List.nil_append] at h
  rw [← h, convRow]
  cases half
  · rfl
  · simp only [convEntry, convSize, if_true, ← BitVec.or_assoc]

theorem length_convRow : (convRow sh bank m n r half).1.length = convSize half * n := by
  rw [convRow_eq, length_flatMap_of_length fun k => length_leBytes _ _, List.length_range]

theorem getLsbD_convRow {j : Nat} : (convRow sh bank m n r half).2.getLsbD j = true ↔
    ∃ k, k < n ∧ (convEntry sh bank m half r k).2.getLsbD j = true := by
  rw [convRow_eq, getLsbD_foldl_or_zero]
  simp only [List.mem_range]

end

/-! ### Rows written to memory, each to a line of its own -/

theorem mem_span {a n k : Nat} : k ∈ span a n ↔ a ≤ k ∧ k < a + n := by
  simp only [span, List.mem_map, List.mem_range]
  constructor
  · rintro ⟨i, hi, rfl⟩
    omega
  · rintro ⟨hlo, hhi⟩
    exact ⟨k - a, by omega, by omega⟩

/-- Bytes that a write does not touch are read as before. -/
theorem Memory.rdBytes_wrBytes_out (bs : List Byte) (m : Memory) {a b n : Nat} (h : b + n ≤ a ∨ a + bs.length ≤ b) :
    (m.wrBytes a bs).rdBytes b n = m.rdBytes b n := by
  rw [Memory.rdBytes_eq_map, Memory.rdBytes_eq_map]
  refine List.map_congr_left fun k hk => Memory.rd_wrBytes_out bs m ?_
  obtain ⟨hlo, hhi⟩ := mem_span.1 hk
  omega

/-- Rows written in the order of a list, each at its line. -/
def Memory.wrRows (m : Memory) (line : Nat → Nat) (row : Nat → List Byte) (rs : List Nat) : Memory :=
  rs.foldl (fun m r => m.wrBytes (line r) (row r)) m

section
variable {line : Nat → Nat} {row : Nat → List Byte} {len : Nat} (hlen : ∀ r, (row r).length = len)
include hlen

theorem Memory.rd_wrRows_out {a : Nat} : ∀ {rs : List Nat} (m : Memory), (∀ r ∈ rs, a < line r ∨ line r + len ≤ a) →
    (m.wrRows line row rs).rd a = m.rd a
  | [], _, _ => rfl
  | r :: rs, m, h => (Memory.rd_wrRows_out (rs := rs) _ fun q hq => h q (List.mem_cons_of_mem r hq)).trans
      (Memory.rd_wrBytes_out _ m (by rw [hlen]; exact h r List.mem_cons_self))

theorem Memory.rdBytes_wrRows_out {b : Nat} : ∀ {rs : List Nat} (m : Memory),
    (∀ r ∈ rs, b + len ≤ line r ∨ line r + len ≤ b) → (m.wrRows line row rs).rdBytes b len = m.rdBytes b len
  | [], _, _ => rfl
  | r :: rs, m, h => (Memory.rdBytes_wrRows_out (rs := rs) _ fun q hq => h q (List.mem_cons_of_mem r hq)).trans
      (Memory.rdBytes_wrBytes_out _ m (by rw [hlen]; exact h r List.mem_cons_self))

/-- A line holds its row where the lines of the rows do not overlap. -/
theorem Memory.rdBytes_wrRows {r : Nat} : ∀ {rs : List Nat} (m : Memory), r ∈ rs →
    (∀ q ∈ rs, q ≠ r → line r + len ≤ line q ∨ line q + len ≤ line r) → (m.wrRows line row rs).rdBytes (line r) len = row r
  | q :: rs, m, hr, hapart => by
    have hrest : ∀ p ∈ rs, p ≠ r → line r + len ≤ line p ∨ line p + len ≤ line r := fun p hp =>
      hapart p (List.mem_cons_of_mem q hp)
    by_cases hlast : r ∈ rs
    · exact Memory.rdBytes_wrRows (rs := rs) (m.wrBytes (line q) (row q)) hlast hrest
    · obtain rfl : r = q := (List.mem_cons.1 hr).resolve_right hlast
      have hout := Memory.rdBytes_wrRows_out hlen (rs := rs) (m.wrBytes (line r) (row r)) fun p hp =>
        hrest p hp fun heq => hlast (heq ▸ hp)
      have hin := Memory.rdBytes_wrBytes (row r) m (line r)
      rw [hlen] at hin
      exact hout.trans hin

end

/-! ### Rows stored with their flags -/

/-- A row is stored at its line, and its flags are raised. -/
def Team.storeRow (line : Nat → Nat) (row : Nat → List Byte × Flags) (t : Team) (r : Nat) : Team :=
  (t.vaultWr (line r) (row r).1).raise (row r).2

/-- Rows stored one after the other change the vault, its poison and the flags alone. -/
theorem Team.foldl_storeRow (line : Nat → Nat) (row : Nat → List Byte × Flags) : ∀ (rs : List Nat) (t : Team),
    rs.foldl (Team.storeRow line row) t =
      { t with vault := t.vault.wrRows line (fun r => (row r).1) rs, vpoison := (rs.foldl (Team.storeRow line row) t).vpoison,
               vflags := rs.foldl (fun f r => f ||| (row r).2) t.vflags }
  | [], _ => rfl
  | r :: rs, t => (Team.foldl_storeRow line row rs (t.storeRow line row r)).trans rfl

section
variable {s : State} {c : Nat} {st : Stream} (hc : s.cur = .stream c st)
include hc

/-- Outside an epilogue the flags of a row are raised in the team (R59, R78). -/
theorem runw_rowFlags {t : Team} (he : t.epilogue = none) (r : Nat) (f : Flags) :
    (rowFlags r f).run (s.withTeam c t) = .ok () (s.withTeam c (t.raise f)) := by
  have hraise := State.raiseFlags_of_act (State.act_withTeam s c t) he (some r) f
  rw [State.withTeam_withTeam] at hraise
  refine (run_bind_ok (runw_theCell hc t)).trans ?_
  by_cases hf : f = 0
  · rw [hf, Team.raise_zero]
    rfl
  · rw [if_pos (bne_iff_ne.2 hf), run_modify, hraise]

theorem runw_storeRows (line place : Nat → Nat) (row : Nat → List Byte × Flags) : ∀ (rs : List Nat) {t : Team}, t.epilogue = none →
    (rs.forM fun r => do vaultStore (line r) (row r).1; rowFlags (place r) (row r).2 : M Unit).run (s.withTeam c t) =
      .ok () (s.withTeam c (rs.foldl (Team.storeRow line row) t))
  | [], _, _ => rfl
  | r :: rs, t, he => (run_bind_ok ((run_bind_ok (runw_vaultStore hc t _ _)).trans (runw_rowFlags hc (t := t.vaultWr _ _) he _ _))).trans
      (runw_storeRows line place row rs (t := t.storeRow line row r) he)

end

/-! ### Lines of a slot (R281) -/

/-- A slot whose first line passes the checks does not begin below 0. -/
theorem lineStart_nonneg_of_slotCheck {s s' : State} {c : Nat} {st : Stream} (hc : s.cur = .stream c st) {t : Team} {n rows len : Nat}
    {off : Int} (hrows : 0 < rows)
    (hchk : (slotCheck n rows off (List.range rows) len).run (s.withTeam c t) = .ok () s') :
    0 ≤ ((t.tile n).base.toNat : Int) + off := by
  by_contra hneg
  obtain ⟨k, rfl⟩ := Nat.exists_eq_succ_of_ne_zero hrows.ne'
  have hout : ¬ (0 ≤ (t.tile n).line off 0 ∧ (t.tile n).line off 0 + len ≤ (t.valloc * 65536 : Nat)) := fun hin =>
    hneg (by simpa [Tile.line] using hin.1)
  have hfirst : ((List.range k.succ).forM fun i => bytesInside ((t.tile n).line off i) len).run (s.withTeam c t) =
      .error (.trap .vaultBound { addr := offsetOf ((t.tile n).line off 0) }) (s.withTeam c t) := by
    rw [List.range_succ_eq_map]
    exact run_bind_error ((runw_bytesInside hc t _ _).trans (if_neg hout))
  simp only [slotCheck, EStateM.run_bind, runw_team hc, run_slotValid, run_need] at hchk
  split_ifs at hchk
  simp only [hfirst, reduceCtorEq] at hchk

/-- A line that is no shorter than a row ends before the lines after it begin. -/
theorem line_end_le {b p n q r : Nat} (hn : n ≤ p) (h : q < r) : b + q * p + n ≤ b + r * p := by
  have hnext : (q + 1) * p ≤ r * p := Nat.mul_le_mul_right p h
  rw [Nat.succ_mul] at hnext
  omega

/-! ### MCVT (R78, R294) -/

/-- Where row `r` of an MCVT goes. -/
def Team.mcvtLine (t : Team) (x : M64) (r : Nat) : Nat :=
  (((t.tile x.tc.toNat).base.toNat : Int) + t.matrixOffset x.nra x.aga + (r * (t.tile x.tc.toNat).pitch.toNat : Nat)).toNat

theorem Team.toNat_line (t : Team) (x : M64) (r : Nat) :
    ((t.tile x.tc.toNat).line (t.matrixOffset x.nra x.aga) r).toNat = t.mcvtLine x r := by
  rw [Team.mcvtLine, Nat.cast_mul]
  rfl

/-- Rows no longer than the pitch do not overlap where the slot does not begin below 0. -/
theorem Team.mcvtLine_apart {t : Team} {x : M64} {len q r : Nat}
    (hstart : 0 ≤ ((t.tile x.tc.toNat).base.toNat : Int) + t.matrixOffset x.nra x.aga)
    (hlen : len ≤ (t.tile x.tc.toNat).pitch.toNat) (h : q ≠ r) :
    t.mcvtLine x r + len ≤ t.mcvtLine x q ∨ t.mcvtLine x q + len ≤ t.mcvtLine x r := by
  have hline : ∀ k, t.mcvtLine x k = (((t.tile x.tc.toNat).base.toNat : Int) + t.matrixOffset x.nra x.aga).toNat +
      k * (t.tile x.tc.toNat).pitch.toNat := fun k => Int.toNat_add hstart (Int.natCast_nonneg _)
  rw [hline, hline]
  exact (Nat.lt_or_gt_of_ne h).symm.imp (line_end_le hlen) (line_end_le hlen)

/-- Row `r` as MCVT converts it. -/
def mcvtRow (x : M64) (sh : Shared) (r : Nat) : List Byte × Flags := convRow sh (x.ab == 1) x.rows x.cols r (x.sub == 1)

/-- The team after an MCVT whose lines are `line`. -/
def Team.converted (t : Team) (x : M64) (sh : Shared) (line : Nat → Nat) : Team :=
  ((List.range x.rows).foldl (Team.storeRow line (mcvtRow x sh)) t).setFull x.tc.toNat true

section
variable (t : Team) (x : M64) (sh : Shared) (line : Nat → Nat)

theorem Team.converted_eq : t.converted x sh line =
    { t with vault := t.vault.wrRows line (fun r => (mcvtRow x sh r).1) (List.range x.rows),
             vpoison := (t.converted x sh line).vpoison,
             vflags := (List.range x.rows).foldl (fun f r => f ||| (mcvtRow x sh r).2) t.vflags,
             tiles := (t.converted x sh line).tiles } := by
  rw [Team.converted, Team.foldl_storeRow]
  rfl

theorem Team.tile_converted (k : Nat) : (t.converted x sh line).tile k =
    if k = x.tc.toNat then { t.tile x.tc.toNat with full := true } else t.tile k := by
  rw [Team.converted, Team.foldl_storeRow]
  exact Team.tile_setFull ..

theorem Team.vault_converted : (t.converted x sh line).vault =
    t.vault.wrRows line (fun r => (mcvtRow x sh r).1) (List.range x.rows) := by
  rw [Team.converted_eq]

theorem Team.vflags_converted {j : Nat} : (t.converted x sh line).vflags.getLsbD j = true ↔ t.vflags.getLsbD j = true ∨
    ∃ r k, r < x.rows ∧ k < x.cols ∧ (convEntry sh (x.ab == 1) x.rows (x.sub == 1) r k).2.getLsbD j = true := by
  rw [Team.converted_eq, getLsbD_foldl_or]
  simp only [List.mem_range, mcvtRow, getLsbD_convRow, ← exists_and_left]

theorem length_mcvtRow (r : Nat) : (mcvtRow x sh r).1.length = convSize (x.sub == 1) * x.cols := length_convRow ..

/-- An entry lies at its place in its row's line. -/
theorem Team.rdBytes_converted {r k : Nat} (hr : r < x.rows) (hk : k < x.cols)
    (hapart : ∀ q, q ≠ r → line r + convSize (x.sub == 1) * x.cols ≤ line q ∨ line q + convSize (x.sub == 1) * x.cols ≤ line r) :
    (t.converted x sh line).vault.rdBytes (line r + convSize (x.sub == 1) * k) (convSize (x.sub == 1)) =
      leBytes (convSize (x.sub == 1)) (convEntry sh (x.ab == 1) x.rows (x.sub == 1) r k).1 := by
  have hrow := Memory.rdBytes_wrRows (length_mcvtRow x sh) t.vault (List.mem_range.2 hr) fun q _ hq => hapart q hq
  have hentries : (mcvtRow x sh r).1 = (List.range x.cols).flatMap fun k =>
      leBytes (convSize (x.sub == 1)) (convEntry sh (x.ab == 1) x.rows (x.sub == 1) r k).1 := by
    rw [mcvtRow, convRow_eq]
  have hlen : ∀ k, (leBytes (convSize (x.sub == 1)) (convEntry sh (x.ab == 1) x.rows (x.sub == 1) r k).1).length =
      convSize (x.sub == 1) := fun k => length_leBytes _ _
  rw [hentries, ← Team.vault_converted] at hrow
  have hall := Memory.rdBytes_of_flatMap hlen (l := List.range x.cols) (i := k) (by rwa [List.length_range]) (by rwa [List.length_range])
  rwa [List.getElem_range] at hall

theorem Team.rd_converted_out {a : Nat}
    (h : ∀ r, r < x.rows → a < line r ∨ line r + convSize (x.sub == 1) * x.cols ≤ a) :
    (t.converted x sh line).vault.rd a = t.vault.rd a := by
  rw [Team.vault_converted]
  exact Memory.rd_wrRows_out (length_mcvtRow x sh) _ fun r hr => h r (List.mem_range.1 hr)

end

section
variable {s : State} {c : Nat} {t : Team} {x : M64} (h : EngineIssues s c .matrix t)
  (hchk : (mcvtChecks x (t.matrixOffset x.nra x.aga)).run (s.withTeam c (t.past .matrix 8)) = .ok () (s.withTeam c (t.past .matrix 8)))
include h hchk

/-- MCVT up to its wait for the bank. -/
theorem runw_mcvtStart {α : Type} (f : Int → M α) : (do
      let off <- agOffset (x.nra == 1) x.aga.toNat
      mcvtChecks x off
      f off : M α).run (s.withTeam c (t.past .matrix 8)) =
    (f (t.matrixOffset x.nra x.aga)).run (s.withTeam c (t.past .matrix 8)) := by
  have hoff := runw_matrixOffset h.1.1 (t.past .matrix 8) x.nra x.aga
  rw [Team.matrixOffset_past] at hoff
  exact (run_bind_ok hoff).trans (run_bind_ok hchk)

theorem execMcvt_waits (hnot : ¬ (s.cell c).sh.idle (x.ab == 1) ∨ (t.tile x.tc.toNat).full = true) :
    execMcvt x s = .next (s.withTeam c t) := by
  refine engineOp_wait h ((runw_mcvtStart h hchk _).trans ?_)
  by_cases hidle : (s.cell c).sh.idle (x.ab == 1)
  · refine (runw_idle h.1.1 _ _ hidle).trans (run_bind_error ?_)
    rw [runw_waitEmpty h.1.1, Team.tile_past, hnot.resolve_left (not_not_intro hidle)]
    rfl
  · exact runw_busy h.1.1 _ _ hidle

theorem execMcvt_converts (he : t.epilogue = none) (hidle : (s.cell c).sh.idle (x.ab == 1))
    (hempty : (t.tile x.tc.toNat).full = false) : execMcvt x s = .next ((s.withTeam c ((t.past .matrix 8).converted x (s.cell c).sh
      (t.mcvtLine x))).cycled .matrix c t) := by
  have hwait := runw_waitEmpty h.1.1 (t.past .matrix 8) x.tc.toNat
  rw [Team.tile_past, if_pos hempty] at hwait
  refine engineOp_ok h ((runw_mcvtStart h hchk _).trans ((runw_idle h.1.1 _ _ hidle).trans ((run_bind_ok hwait).trans
    ((run_bind_ok (runw_shared h.1.1 _)).trans ((run_bind_ok (runw_team h.1.1 _)).trans ?_)))))
  simp only [Team.tile_past, Team.toNat_line]
  exact (run_bind_ok (runw_storeRows h.1.1 _ _ (mcvtRow x (s.cell c).sh) _ (by rwa [Team.epilogue_past_matrix]))).trans
    (runw_modTeam h.1.1 _ _)

end

/-! ### MSCAT outside a pass cell (R295 to R298) -/

theorem length_bytesWords : ∀ (n : Nat) (bs : List Byte), (bytesWords n bs).length = n
  | 0, _ => rfl
  | n + 1, bs => congrArg (· + 1) (length_bytesWords n (bs.drop 8))

/-- The rows of a table, each scattered unless its entry is skipped. -/
def scatRows (w : Who) (ag : Int) (row : Nat → List Byte × Flags) (es : List (Word × Nat)) : M Unit :=
  es.forM fun p => if p.1.getLsbD 51 then pure () else do
    scatRow w p.1 ag p.2 (row p.2).1
    rowFlags p.2 (row p.2).2

/-- A table whose rows are all skipped changes nothing. -/
theorem run_scatRows_skipped (w : Who) (ag : Int) (row : Nat → List Byte × Flags) (s : State) : ∀ {es : List (Word × Nat)},
    (∀ p ∈ es, p.1.getLsbD 51 = true) → (scatRows w ag row es).run s = .ok () s
  | [], _ => rfl
  | p :: es, h => by
    have hskip : (if p.1.getLsbD 51 then pure () else do
        scatRow w p.1 ag p.2 (row p.2).1
        rowFlags p.2 (row p.2).2 : M Unit) = pure () := if_pos (h p List.mem_cons_self)
    refine (run_bind_ok (a := ()) (s' := s) ?_).trans (run_scatRows_skipped w ag row s (es := es) fun q hq =>
      h q (List.mem_cons_of_mem p hq))
    exact congrArg (fun m : M Unit => m.run s) hskip

section
variable {s : State} {c : Nat} {t : Team} {x : M64} (h : EngineIssues s c .matrix t)
  (hchk : (mscatChecks x).run (s.withTeam c (t.past .matrix 8)) = .ok () (s.withTeam c (t.past .matrix 8)))
include h hchk

theorem execMscat_waits (hbusy : ¬ (s.cell c).sh.idle (x.ab == 1)) : execMscat x s = .next (s.withTeam c t) :=
  engineOp_wait h ((run_bind_ok hchk).trans (runw_busy h.1.1 _ _ hbusy))

theorem execMscat_scatters (he : t.epilogue = none) (hidle : (s.cell c).sh.idle (x.ab == 1)) {table : List Byte} {s2 : State}
    (htable : t.vaultRd (t.tile x.tc.toNat).base.toNat (8 * x.rows) = some table)
    (hrows : (scatRows (s.whoIs c t .matrix) (t.matrixOffset x.nra x.aga) (mcvtRow x (s.cell c).sh)
      (bytesWords x.rows table).zipIdx).run (s.withTeam c (t.past .matrix 8)) = .ok () s2) :
    execMscat x s = .next (s2.cycled .matrix c t) := by
  have hoff := runw_matrixOffset h.1.1 (t.past .matrix 8) x.nra x.aga
  have hwho := runw_theWho (st := .matrix) h.1.1 (t.past .matrix 8)
  rw [Team.matrixOffset_past] at hoff
  rw [State.whoIs_past_matrix] at hwho
  have hload := runw_vaultLoad h.1.1 (t.past .matrix 8) ((Team.vaultRd_past ..).trans htable)
  refine engineOp_ok h ((run_bind_ok hchk).trans ((runw_idle h.1.1 _ _ hidle).trans ((run_bind_ok (runw_shared h.1.1 _)).trans
    ((run_bind_ok (runw_team h.1.1 _)).trans ((run_bind_ok hoff).trans ?_)))))
  simp only [Team.epilogue_past_matrix, Team.tile_past, he]
  refine (run_bind_ok hwho).trans ((run_bind_ok hload).trans (whole_run_ok ?_))
  simp only [bitAt_eq_getLsbD]
  exact hrows

/-- All rows skipped. -/
theorem execMscat_skips (he : t.epilogue = none) (hidle : (s.cell c).sh.idle (x.ab == 1)) {table : List Byte}
    (htable : t.vaultRd (t.tile x.tc.toNat).base.toNat (8 * x.rows) = some table)
    (hskip : ∀ i, i < x.rows → (nth (bytesWords x.rows table) i).getLsbD 51 = true) :
    execMscat x s = .next ((s.withTeam c (t.past .matrix 8)).cycled .matrix c t) := by
  refine execMscat_scatters h hchk he hidle htable (run_scatRows_skipped _ _ _ _ fun p hp => ?_)
  rw [List.mem_zipIdx_iff_getElem?] at hp
  have hlt : p.2 < x.rows := by
    rw [← length_bytesWords x.rows table]
    exact (List.getElem?_eq_some_iff.1 hp).1
  have hentry := hskip p.2 hlt
  rwa [nth, List.getD_eq_getElem?_getD, hp] at hentry

end

/-! ### One row of MSCAT (R295, R296) -/

section
variable {s s1 s2 : State} (w : Who) (e : Word) (ag : Int) (r : Nat) (bs : List Byte)

/-- Handle and offset of a row's entry. -/
def scatHandle : Nat := (e.extractLsb' 52 12).toNat
def scatOffset : Nat := ((((e.extractLsb' 0 48).toNat : Int) + ag) % (2 : Int) ^ 64).toNat

/-- What a row tries: its entry's reserved bits, its handle and its store. -/
def scatTry : M Unit := do
  need (fld e 48 3 == 0) .handleInvalid
  let p <- handleAt w.asid (fld e 52 12) (offsetOf ((fld e 0 48 : Nat) + ag)) bs.length true
  storeWhole w p.1 p.2 bs

theorem run_scatTry : (scatTry w e ag bs).run s = if e.extractLsb' 48 3 = 0 then
    (handleAt w.asid (scatHandle e) (scatOffset e ag) bs.length true >>= fun p => storeWhole w p.1 p.2 bs).run s
    else .error (.trap .handleInvalid {}) s := by
  have hres : (fld e 48 3 == 0) = decide (e.extractLsb' 48 3 = 0) := by
    rw [fld_eq_toNat, Bool.eq_iff_iff, beq_iff_eq, decide_eq_true_iff, BitVec.toNat_eq]
    rfl
  have hoff : offsetOf ((fld e 0 48 : Nat) + ag) = scatOffset e ag := by
    rw [fld_eq_toNat]
    rfl
  rw [scatTry, EStateM.run_bind, run_need, hres, hoff, fld_eq_toNat e 52 12, ← scatHandle]
  by_cases h : e.extractLsb' 48 3 = 0 <;> simp only [h, decide_true, decide_false, if_true, Bool.false_eq_true, if_false]

theorem run_scatRow_ok {fa o : Nat} (hres : e.extractLsb' 48 3 = 0)
    (hat : (handleAt w.asid (scatHandle e) (scatOffset e ag) bs.length true).run s = .ok (fa, o) s1)
    (hst : (storeWhole w fa o bs).run s1 = .ok () s2) : (scatRow w e ag r bs).run s = .ok () s2 := by
  have htry : (scatTry w e ag bs).run s = .ok () s2 := by
    rw [run_scatTry, if_pos hres]
    exact (run_bind_ok hat).trans hst
  exact run_bind_ok (run_attempt_ok htry)

/-- A row that fails traps at its own number. -/
theorem run_scatRow_trap {k : Cause} {i : Info} (h : (scatTry w e ag bs).run s = .error (.trap k i) s1) :
    (scatRow w e ag r bs).run s = .error (.trap k { i with detail := r }) s1 := run_bind_ok (run_attempt_trap h)

theorem run_scatRow_reserved (hres : e.extractLsb' 48 3 ≠ 0) :
    (scatRow w e ag r bs).run s = .error (.trap .handleInvalid { detail := r }) s :=
  run_scatRow_trap (i := {}) w e ag r bs ((run_scatTry ..).trans (if_neg hres))

theorem run_scatRow_invalid (hres : e.extractLsb' 48 3 = 0) (hentry : s.handle? w.asid (scatHandle e) = none)
    (hfree : ∀ f, s.handleFrame w.asid (scatHandle e) = some f → s.swapBlocks f = false) :
    (scatRow w e ag r bs).run s = .error (.trap .handleInvalid { detail := r }) (s.handleRead w.asid (scatHandle e)) := by
  refine run_scatRow_trap (i := {}) w e ag r bs ?_
  rw [run_scatTry, if_pos hres]
  exact run_bind_error (run_handleAt_invalid hfree hentry)

end

/-! ### The statement -/

/-- Settles O35: each instruction waits or runs by its lemmas above. What MOWN and MCVT write is read back from the lines of their slot,
which lie apart since a row is no longer than the pitch. -/
theorem matrixSlotsAndConvert : Obligations.MatrixSlotsAndConvert := by
  refine ⟨fun s c t x y h => ?_, fun s c t x h he => ?_, fun s s2 c t x table h he => ?_, fun s w e ag r bs => ?_⟩
  · intro sh t' waits bank idle n
    refine ⟨execMprec_sets h y, execMscale_sets h x, ⟨execMown_waits h, execMown_invalid h, fun hok hempty => ?_⟩, execMclr_waits h,
      fun hidle => ⟨_, execMclr_clears h hidle, sh.cleared_eq bank, fun k row col => sh.accOf_cleared bank k⟩, execMfree_waits h,
      fun hfree => ⟨_, execMfree_frees h hfree, t'.freed_eq _, fun k => ?_⟩⟩
    · refine ⟨_, execMown_owns h hok hempty, Team.owned_eq .., ?_, fun k hk => ?_, fun k hk => ?_, fun hnone r hr => ?_⟩
      · rw [Team.tile_owned, if_pos rfl, Team.tile_past]
      · rw [Team.tile_owned, if_neg hk, Team.tile_past]
      · rw [Team.vault_owned, Team.tile_past, Memory.rd_wrBytes_out, Team.vault_past_matrix]
        simpa using hk
      · have hread := Team.leNat_owned (t.past .matrix 8) x.tc.toNat ((s.withTeam c (t.past .matrix 8)).ownerEntries c
          (t.past .matrix 8)) (r := r) (by rwa [State.length_ownerEntries])
        rw [Team.tile_past] at hread
        refine hread.trans ?_
        simp only [State.ownerEntries_of_none _ c ((t.epilogue_past_matrix 8).trans hnone), List.getElem_replicate,
          Team.asid_past_matrix, toNat_ownerWord]
    · rw [Team.tile_freed, Team.tile_past]
      rfl
  · intro sh bank idle rows cols half es d off line conv hchk
    refine ⟨execMcvt_waits h hchk, fun hidle hempty hpitch => ?_⟩
    have hstart := lineStart_nonneg_of_slotCheck h.1.1 (show 0 < x.rows by unfold M64.rows; positivity) hchk
    rw [Team.tile_past] at hstart
    refine ⟨_, execMcvt_converts h hchk he hidle hempty, ?_, ?_, fun k hk => ?_, fun r k hr hk => ?_, fun a ha => ?_, fun j => ?_⟩
    · rw [Team.converted_eq]
    · rw [Team.tile_converted, if_pos rfl, Team.tile_past]
    · rw [Team.tile_converted, if_neg hk, Team.tile_past]
    · exact Team.rdBytes_converted _ x sh _ hr hk fun q hq => Team.mcvtLine_apart hstart hpitch hq
    · exact (Team.rd_converted_out _ x sh _ ha).trans (congrArg (Memory.rd · a) (t.vault_past_matrix 8))
    · exact (Team.vflags_converted _ x sh _).trans (by rw [Team.vflags_past_matrix]; rfl)
  · intro sh bank idle rows cols s1 ag hchk
    exact ⟨execMscat_waits h hchk, fun hidle htable hrows => execMscat_scatters h hchk he hidle htable hrows,
      fun hidle htable hskip => execMscat_skips h hchk he hidle htable hskip⟩
  · intro hd off
    exact ⟨fun fa o s1 s2 hres hat hst => run_scatRow_ok w e ag r bs hres hat hst, run_scatRow_reserved w e ag r bs,
      run_scatRow_invalid w e ag r bs⟩

end Sys2Proof.Machine
end
